-- ==== Sys2Proof/Word.lean ====
section
/-! DEFINITION. The word types of the drive: bytes, sparse byte strings and their cells. -/

namespace Sys2Proof

/-- A byte of any structure the drive defines (R6). -/
abbrev Byte := BitVec 8

/-- Sparse contents of an addressed array of bytes: an address that is not listed holds zero.
Canonical form: addresses strictly rising, no listed byte equal to zero. -/
abbrev Cells := List Host.Cell

/-- A byte string of `len` bytes: a data buffer, a parameter block, a frame, a log page.
Offsets that `cells` does not list hold zero (R7 gives offsets from the first byte). -/
structure Blob where
  /-- Length in bytes. -/
  len : Nat
  /-- The bytes that are not zero, by offset. -/
  cells : Cells
  deriving DecidableEq, Repr, Inhabited

/-- An FP32 value as stored (R226). -/
abbrev F32 := BitVec 32

end Sys2Proof
end

