-- ==== Sys2Proof/Machine/Bytes.lean ====
section
/-! DEFINITION. Sparse byte arrays and byte strings: reading, writing, little-endian fields (R6, R7), CRC-32C (R27, R286,
R350) and the small list helpers that the families share. -/

namespace Sys2Proof

/-! ### Cells -/

/-- The byte at an address; zero where nothing is listed. -/
def Cells.get (c : Cells) (a : Nat) : Byte :=
  match c with
  | [] => 0
  | (k, v) :: r => if k = a then v else Cells.get r a

/-- Canonical form: strictly rising addresses above `lo`, no listed zero. -/
def Cells.okFrom (lo : Nat) : Cells → Bool
  | [] => true
  | (k, v) :: r => decide (lo ≤ k) && decide (v ≠ 0) && Cells.okFrom (k + 1) r

/-- Canonical form of a sparse array. -/
def Cells.wf (c : Cells) : Bool := Cells.okFrom 0 c

/-- One byte put into a sparse array in canonical form; a zero leaves no entry. -/
def Cells.put (a : Nat) (v : Byte) : Cells → Cells
  | [] => if v = 0 then [] else [(a, v)]
  | (k, w) :: r =>
    if a < k then (if v = 0 then (k, w) :: r else (a, v) :: (k, w) :: r)
    else if a = k then (if v = 0 then r else (a, v) :: r)
    else (k, w) :: Cells.put a v r

/-- The canonical form of a sparse array, byte for byte the same: data that a command brings need not be in it. -/
def Cells.norm (c : Cells) : Cells := if Cells.wf c then c else c.foldr (fun x r => Cells.put x.1 x.2 r) []

/-- The part of a sparse array below an address. -/
def Cells.below (c : Cells) (a : Nat) : Cells := c.filter fun x => decide (x.1 < a)

/-- The part of a sparse array from an address on. -/
def Cells.above (c : Cells) (a : Nat) : Cells := c.filter fun x => decide (a ≤ x.1)

/-- Every address moved up by `d`. -/
def Cells.shiftUp (c : Cells) (d : Nat) : Cells := c.map fun x => (x.1 + d, x.2)

/-- Every address moved down by `d`. -/
def Cells.shiftDown (c : Cells) (d : Nat) : Cells := c.map fun x => (x.1 - d, x.2)

/-- Replaces the `n` bytes from `a` by the given cells, whose offsets lie below `n`. -/
def Cells.blit (c : Cells) (a n : Nat) (d : Cells) : Cells :=
  c.below a ++ (d.below n).shiftUp a ++ c.above (a + n)

/-- The `n` bytes from `a`, by offset. -/
def Cells.slice (c : Cells) (a n : Nat) : Cells := ((c.above a).below (a + n)).shiftDown a

/-- One byte written. Writing zero removes the entry. -/
def Cells.set (c : Cells) (a : Nat) (v : Byte) : Cells := c.blit a 1 (if v = 0 then [] else [(0, v)])

/-! ### Byte strings -/

/-- Canonical form of a byte string: canonical cells, all within the length. -/
def Blob.wf (b : Blob) : Bool := Cells.wf b.cells && b.cells.all fun x => decide (x.1 < b.len)

/-- `n` zero bytes. -/
def Blob.zero (n : Nat) : Blob := ⟨n, []⟩

/-- The byte at an offset; zero past the end. -/
def Blob.byte (b : Blob) (i : Nat) : Byte := if i < b.len then b.cells.get i else 0

/-- The bytes of a byte string in order. -/
def Blob.bytes (b : Blob) : List Byte := (List.range b.len).map b.byte

/-- The sparse form of a list of bytes, from offset `i`. -/
def cellsOf (i : Nat) : List Byte → Cells
  | [] => []
  | x :: r => if x = 0 then cellsOf (i + 1) r else (i, x) :: cellsOf (i + 1) r

/-- A byte string from its bytes. -/
def Blob.ofBytes (l : List Byte) : Blob := ⟨l.length, cellsOf 0 l⟩

/-- `n` bytes from offset `a`, zero past the end. -/
def Blob.slice (b : Blob) (a n : Nat) : Blob := ⟨n, b.cells.slice a n⟩

/-- One byte string after another. -/
def Blob.append (x y : Blob) : Blob := ⟨x.len + y.len, x.cells ++ y.cells.shiftUp x.len⟩

/-- All of a list of byte strings, one after another. -/
def Blob.concat : List Blob → Blob
  | [] => Blob.zero 0
  | b :: r => b.append (Blob.concat r)

/-- Bytes of `d` placed over those of `b` at offset `a`; the length stands. -/
def Blob.overlaid (b : Blob) (a : Nat) (d : Blob) : Blob := ⟨b.len, (b.cells.blit a d.len d.cells).below b.len⟩

/-- The byte string cut or padded with zeros to `n` bytes. -/
def Blob.fit (b : Blob) (n : Nat) : Blob := ⟨n, b.cells.below n⟩

/-- No byte from offset `a` to `a + n - 1` is non-zero: the check of reserved bytes (R9). -/
def Blob.zeroAt (b : Blob) (a n : Nat) : Bool := (b.cells.slice a n).isEmpty

/-! ### Little-endian fields (R6) -/

/-- The number that a list of bytes spells, lowest byte first. -/
def leNat : List Byte → Nat
  | [] => 0
  | x :: r => x.toNat + 256 * leNat r

/-- The number that a list of bytes spells, highest byte first: signature integers and key coordinates (R6, R48). -/
def beNat (l : List Byte) : Nat := leNat l.reverse

/-- `n` bytes of a number, lowest first. -/
def leBytes : Nat → Nat → List Byte
  | 0, _ => []
  | n + 1, v => BitVec.ofNat 8 v :: leBytes n (v / 256)

/-- `n` bytes of a number, highest first. -/
def beBytes (n v : Nat) : List Byte := (leBytes n v).reverse

/-- `n` bytes from an offset. -/
def Blob.take (b : Blob) (a n : Nat) : List Byte := (List.range n).map fun i => b.byte (a + i)

/-- An `n`-byte little-endian field at an offset. -/
def Blob.le (b : Blob) (a n : Nat) : Nat := leNat (b.take a n)

/-- A big-endian field at an offset. -/
def Blob.be (b : Blob) (a n : Nat) : Nat := beNat (b.take a n)

/-- An `n`-byte field of a structure the drive writes. -/
def fld (n v : Nat) : Blob := Blob.ofBytes (leBytes n v)

/-- `n` reserved bytes, written as zero (R9). -/
def rsv (n : Nat) : Blob := Blob.zero n

/-- The bit of a Bool. -/
def bit (b : Bool) : Nat := if b then 1 else 0

/-- Bits packed from bit 0 up: flag bytes of structures. -/
def packBits : List Bool → Nat
  | [] => 0
  | b :: r => bit b + 2 * packBits r

/-- Bits `hi` to `lo` of a number. -/
def bitsOf (v hi lo : Nat) : Nat := v / 2 ^ lo % 2 ^ (hi + 1 - lo)

/-- A two's complement reading of the low `w` bits of a number. -/
def toSigned (w v : Nat) : Int := (BitVec.ofNat w v).toInt

/-! ### CRC-32C -/

/-- One bit of CRC-32C, reflected polynomial 82F6_3B78h. -/
def crcBit (c : BitVec 32) : BitVec 32 := if c.getLsbD 0 then (c >>> 1) ^^^ 0x82F63B78#32 else c >>> 1

/-- One byte of CRC-32C. -/
def crcByte (c : BitVec 32) (x : Byte) : BitVec 32 :=
  (List.range 8).foldl (fun a _ => crcBit a) (c ^^^ x.setWidth 32)

/-- CRC-32C of a list of bytes. -/
def crc32c (l : List Byte) : BitVec 32 := ~~~ (l.foldl crcByte 0xFFFFFFFF#32)

/-! ### Small helpers -/

/-- Rounded-up quotient. -/
def ceilDiv (a b : Nat) : Nat := (a + b - 1) / b

/-- A number added to a sorted set, kept once. -/
def insertSet (x : Nat) : List Nat → List Nat
  | [] => [x]
  | y :: r => if x < y then x :: y :: r else if x = y then y :: r else y :: insertSet x r

/-- All of a list added to a sorted set. -/
def insertAll (l s : List Nat) : List Nat := l.foldl (fun acc x => insertSet x acc) s

/-- Numbers from `a` to `a + n - 1`. -/
def spanList (a n : Nat) : List Nat := (List.range n).map (a + ·)

/-- A list with the entry at a position changed. -/
def modifyAt {α : Type} (l : List α) (i : Nat) (f : α → α) : List α :=
  match l, i with
  | [], _ => []
  | x :: r, 0 => f x :: r
  | x :: r, j + 1 => x :: modifyAt r j f

/-- The value of a key in an association list. -/
def lookupNat {α : Type} (l : List (Nat × α)) (k : Nat) : Option α :=
  (l.find? fun x => x.1 == k).map Prod.snd

/-- An association list, sorted by key, with one key set. -/
def setKey {α : Type} (k : Nat) (v : α) : List (Nat × α) → List (Nat × α)
  | [] => [(k, v)]
  | (j, w) :: r => if k < j then (k, v) :: (j, w) :: r else if k = j then (k, v) :: r else (j, w) :: setKey k v r

/-- An association list with one key removed. -/
def dropKey {α : Type} (k : Nat) (l : List (Nat × α)) : List (Nat × α) := l.filter fun x => x.1 != k

/-- Insertion into a list sorted by `lt`, after the entries that are not greater. -/
def insertBy {α : Type} (lt : α → α → Bool) (x : α) : List α → List α
  | [] => [x]
  | y :: r => if lt x y then x :: y :: r else y :: insertBy lt x r

/-- A list sorted by `lt`; equal entries keep their order. -/
def sortBy {α : Type} (lt : α → α → Bool) (l : List α) : List α := l.foldl (fun acc x => insertBy lt x acc) []

/-- A list cut into pieces of `n`, with fuel. -/
def chunks {α : Type} (fuel n : Nat) (l : List α) : List (List α) :=
  match fuel with
  | 0 => []
  | f + 1 => if l.isEmpty then [] else l.take n :: chunks f n (l.drop n)

/-- A counter of `w` bits that stops at its maximum (R83, R127, R153, R186, R258, R337, R375, R397). -/
def satAdd (w c d : Nat) : Nat := min (c + d) (2 ^ w - 1)

/-- No pair of spans overlaps. -/
def disjointSpans (l : List (Nat × Nat)) : Bool :=
  match l with
  | [] => true
  | (a, n) :: r => (r.all fun y => decide (a + n ≤ y.1) || decide (y.1 + y.2 ≤ a) || decide (n = 0) || decide (y.2 = 0)) && disjointSpans r

/-- Every element differs from every later one. -/
def allDistinct (l : List Nat) : Bool :=
  match l with
  | [] => true
  | x :: r => !(r.contains x) && allDistinct r

end Sys2Proof
end

