-- ==== Sys2Proof/Syntax.lean ====
section
/-! DEFINITION. The commands of the drive: one constructor of `Instr` for each row of spec/opcode_table.json, with the
operands that the row's rule gives the command or the event. A quantity that the outside world decides (a decode result, a
measured time, a sensor reading, a flit from another member) is an operand of the event that reports it (log 6). -/

namespace Sys2Proof

/-- What every host command carries (R95, R97, R307): its submission queue (0 is the admin queue), its command identifier,
the drive's own flags of CDW13, and whether any reserved byte or field of the entry is non-zero (R9). -/
structure Hdr where
  sq : Nat
  cid : Nat
  /-- CDW13 bit 15 (R97). -/
  ord : Bool
  /-- CDW13 bit 14 (R307). -/
  proxy : Bool
  /-- A reserved field of the submission entry is not zero (R9). -/
  rsvd : Bool
  deriving DecidableEq, Repr

/-- The parameter block of Execute Program: a span of memory namespace 73 or 74 (R93). -/
structure ParamRef where
  nsid : Nat
  ofst : Nat
  len : Nat
  deriving DecidableEq, Repr

/-- A byte range of NSID 73 or 74 in a memory range set (R120). -/
structure MemRange where
  nsid : Nat
  ofst : Nat
  len : Nat
  deriving DecidableEq, Repr

/-- One range of Dataset Management (R108, R325). -/
structure LbaRange where
  slba : Nat
  len : Nat
  deriving DecidableEq, Repr

/-- The source of a Memory Copy (R94): whole LBAs of an NVM namespace, or bytes of a memory namespace. -/
inductive CopySource where
  | nvm (nsid slba lbas : Nat)
  | mem (nsid ofst : Nat)
  deriving DecidableEq, Repr

/-- Namespace Management (R90, R91). -/
inductive NsOp where
  | create (nsze ncap flbas dps : Nat)
  | delete (nsid : Nat)
  deriving DecidableEq, Repr

/-- A management command of NVMe-MI (R109), in band or over SMBus or MCTP. -/
inductive MiCmd where
  /-- A poll of bell state, critical warnings and plain membership. -/
  | status
  | setEnvelope (watts : Nat)
  | setPower (ps : Nat)
  /-- NVM Subsystem Reset (R388). -/
  | subsystemReset
  /-- Any other admin command, by opcode. -/
  | admin (opcode : Nat)
  deriving DecidableEq, Repr

/-- An engine of the drive (R12): matrix arrays and vector units 0 to 7, tile movers 0 and 1 on die 3 and 2 and 3 on die 4,
media engines 0 to 7, valleys 0 to 31. -/
inductive Engine where
  | mxa (n : Nat)
  | vu (n : Nat)
  | mover (n : Nat)
  | me (n : Nat)
  | valley (n : Nat)
  deriving DecidableEq, Repr

/-- How a vector unit reads its lanes (R219). -/
inductive LaneType where
  | fp32
  | int32
  deriving DecidableEq, Repr

/-- First row of R219. -/
inductive VuArith where
  | add | sub | mul | min | max | cmpEq | cmpLt | cmpLe | select | abs
  deriving DecidableEq, Repr

/-- Third row of R219. -/
inductive VuLogic where
  | shl | shr | sar | and | or | xor
  deriving DecidableEq, Repr

/-- Fifth row of R219. -/
inductive VuDiv where
  | div | sqrt | recip | rsqrt
  deriving DecidableEq, Repr

/-- Sixth row of R219. -/
inductive VuTrans where
  | exp2 | log2 | tanh | erf
  deriving DecidableEq, Repr

/-- Reductions of R219 and R220. -/
inductive VuReduce where
  | sum | max | min | argMin | argMax
  deriving DecidableEq, Repr

/-- The write streams of R317. -/
inductive Stream where
  | host | index | relocation
  deriving DecidableEq, Repr

/-- What the drive measures at a bell boundary (R65, R72): the time since the previous boundary in ns, PTM master time when a
valid PTM context is held, and the signed offset from the reference member in ns (R71). -/
structure Boundary where
  elapsedNs : Nat
  ptm : Option Nat
  phaseNs : Int
  deriving DecidableEq, Repr

/-- What a flush on hold-up energy took (R382, R397): time in µs, bank energy in mJ, and whether every step ended. -/
structure FlushCost where
  us : Nat
  mj : Nat
  complete : Bool
  deriving DecidableEq, Repr

/-- Temperature sensors of R420. -/
inductive Sensor where
  | die (n : Nat)
  | nand (n : Nat)
  | dram (n : Nat)
  | bank
  deriving DecidableEq, Repr

/-- Causes of a Controller Level Reset (R388). -/
inductive ClrCause where
  | ccEn | perst | hotReset | linkDown | flr
  deriving DecidableEq, Repr

/-- Algorithms an SPDM requester may offer (R402). -/
inductive SpdmAlg where
  | ecdsaP256 | sha256 | other (code : Nat)
  deriving DecidableEq, Repr

/-- What the far end of a port sends at Identify (R284): PLAIN_ID, member number, port number, SHA-256 of sections 03h and
07h. -/
structure PortIdentity where
  plainId : BitVec 64
  member : Nat
  port : Nat
  hash : BitVec 256
  deriving DecidableEq, Repr

/-- A flit header (R286), with the field that the receiver's FEC reports (R287). -/
structure FlitHdr where
  kind : BitVec 8
  ctrl : BitVec 8
  src : BitVec 8
  dst : BitVec 8
  seq : BitVec 16
  ack : BitVec 16
  creditRet : BitVec 16
  flow : BitVec 16
  crc : BitVec 32
  /-- No RS codeword that the flit overlaps is uncorrectable (R287). -/
  fecOk : Bool
  deriving DecidableEq, Repr

/-- Bell states of R69. -/
inductive BellMode where
  | locked | freeRunning | following
  deriving DecidableEq, Repr

/-- A bell flit (R71, R298). `phaseNs` is the sender's boundary against the receiver's own, corrected for the route. -/
structure BellFlit where
  count : BitVec 48
  mode : BellMode
  phaseNs : Int
  /-- Present bitmap, meaningful from the reference member (R298). -/
  present : BitVec 24
  deriving DecidableEq, Repr

/-- A join request (R300 step 4). `certOk` is the outcome of the check of the identity certificate (R405). -/
structure JoinReq where
  plainId : BitVec 64
  member : Nat
  mode : Nat
  blocks : Nat
  certOk : Bool
  /-- Something is to be rebuilt for the joiner (R300 step 5). -/
  stale : Bool
  deriving DecidableEq, Repr

/-- The reference member's answer to a join request (R300). -/
inductive JoinAnswer where
  | admitted (count : BitVec 48) (present : BitVec 24) (certOk : Bool) (timetable : Nat)
  | refused (reason : Nat)
  deriving DecidableEq, Repr

/-- Adder modes of R293. -/
inductive AdderMode where
  | fx64Add | int32Max | gfMulAdd | gfFold | copy
  deriving DecidableEq, Repr

/-- A flow entry (R286, R288 TYPE 05h). -/
structure FlowEntry where
  flow : Nat
  mode : AdderMode
  coef : BitVec 8
  /-- Bucket or stripe. -/
  target : Nat
  elems : Nat
  deriving DecidableEq, Repr

/-- A parity acknowledgement (R305). -/
structure ParityAck where
  lsn : Nat
  wcount : BitVec 16
  deriving DecidableEq, Repr

/-- A Train Step message on the control channel (R260, R276 to R280). -/
inductive TrainMsg where
  /-- The parameter block from the head, with its classroom (R260 phase 1). -/
  | start (room : Nat) (block : Blob)
  /-- A member's LAST_STEP and LESSON_ID (R264). -/
  | report (room : Nat) (lastStep : BitVec 32) (lessonId : BitVec 64)
  | progress (room attempt : Nat)
  | commit (room attempt bucket : Nat)
  | abort (room attempt : Nat)
  | ready (room attempt : Nat)
  /-- The head starts an attempt on the participants named (R280). -/
  | attempt (room attempt : Nat) (participants : List Nat)
  | applyBell (room attempt bell : Nat)
  deriving DecidableEq, Repr

/-- A namespace of another member, as its namespace table gives it (R303). -/
structure NsTableEntry where
  nsid : Nat
  base : Nat
  slots : Nat
  /-- The wrapped key pair sent with it (R405). -/
  key : Nat
  deriving DecidableEq, Repr

/-- A namespace-table message (R303, R405). -/
structure NsTable where
  member : Nat
  entries : List NsTableEntry
  deriving DecidableEq, Repr

/-- A plain-wide query as it is sent to each member (R184). -/
structure PlainQuery where
  qid : Nat
  index : Nat
  dim : Nat
  subspaces : Nat
  metric : Nat
  exhaustive : Nat
  k : Nat
  nprobe : Nat
  rerank : Nat
  deadline : Nat
  admitBell : BitVec 48
  admitTick : Nat
  /-- Member whose shard is asked for: the receiver, or the owner whose mirror it holds (R185). -/
  owner : Nat
  vectors : List (List F32)
  preds : List Blob
  deriving DecidableEq, Repr

/-- A result record on its way through the merge (R174). -/
structure Cand where
  id : BitVec 64
  dist : F32
  flags : BitVec 16
  member : Nat
  /-- List and ordinal, for the order of the valley heaps (R142). -/
  list : Nat
  ordinal : Nat
  deriving DecidableEq, Repr

/-- The counters of a result header (R173). -/
structure QCounters where
  coarseUsed : Bool
  rerankCut : Bool
  listsCoarse : Nat
  listsProbed : Nat
  listsSkipped : Nat
  piecesSkipped : Nat
  scored : Nat
  filtered : Nat
  poisoned : Nat
  reranked : Nat
  /-- Entries the probed lists held, pending included and tombstoned excluded (R176). -/
  held : Nat
  deriving DecidableEq, Repr

/-- A member's answer to a plain-wide query (R184): one candidate list and one set of counters for each query of the batch;
no answer when its index is missing or differs. -/
structure MemberAnswer where
  qid : Nat
  owner : Nat
  mirrored : Bool
  answered : Bool
  cands : List (List Cand)
  counters : List QCounters
  deriving DecidableEq, Repr

/-- A parity delta (R305): the parity slot it is for, the data position and parity index, the write count, old XOR new. -/
structure ParityDelta where
  slot : Nat
  pos : Nat
  par : Nat
  wcount : BitVec 16
  lsn : Nat
  data : Blob
  deriving DecidableEq, Repr

/-- A rebuild stream (R308): the running sum of a lost slot, and this survivor's slot and coefficient. The lost slot is named by its
stripe, numbered block × N + t, times k + m, plus its position in the stripe. Granules fed by a poisoned one are marked (R293). -/
structure RebuildFlit where
  requester : Nat
  lost : Nat
  slot : Nat
  coef : BitVec 8
  last : Bool
  data : Blob
  poison : List Nat
  deriving DecidableEq, Repr

/-- A proxy read request (R307). -/
structure ProxyRead where
  tag : Nat
  nsid : Nat
  slba : Nat
  nlb : Nat
  deriving DecidableEq, Repr

/-- Proxy read data (R307), with the poisoned granules marked (R286). -/
structure ProxyData where
  tag : Nat
  data : Blob
  poison : List Nat
  deriving DecidableEq, Repr

/-- Mirror upkeep (R309). -/
inductive MirrorMsg where
  /-- A piece or centroid data of a list version of the sender's index. -/
  | piece (index list version : Nat) (data : Blob)
  /-- Pending entries at commit (R163). -/
  | pendingEntries (index count : Nat) (data : Blob)
  /-- Tombstones at commit (R166). -/
  | tombstones (index : Nat) (marks : List (Nat × Nat))
  /-- The buddy confirms a list version, so that the owner may publish it. -/
  | confirm (index list version : Nat)
  /-- The buddy confirms that pending entries are in its pending area. -/
  | confirmPending (wid : Nat)
  deriving DecidableEq, Repr

/-- A flit of a scale round (R310): lap 1 in INT32 max mode, lap 2 in Copy mode. -/
structure ScaleFlit where
  room : Nat
  stepId : BitVec 32
  attempt : Nat
  bucket : Nat
  e : BitVec 32
  lap : Nat
  deriving DecidableEq, Repr

/-- A chunk of a sum round (R310): still being summed, or whole and copied on. -/
structure SumFlit where
  room : Nat
  stepId : BitVec 32
  attempt : Nat
  bucket : Nat
  chunk : Nat
  values : List (BitVec 64)
  whole : Bool
  poison : Bool
  deriving DecidableEq, Repr

/-- A gather flit (R288 TYPE 62h). -/
structure GatherFlit where
  flow : Nat
  data : Blob
  deriving DecidableEq, Repr

/-- The commands and events of the drive, one constructor for each row of the table. -/
inductive Instr where
  /-- STRUCTURE_LOAD (R50). Admin command that checks frames in order and stages image frames into the 16 MiB staging buffer. -/
  | structureLoad (h : Hdr) (len ofst : Nat) (data : Blob)
  /-- STRUCTURE_VERIFY (R53). Structure Activate ACTION 0 verifies the staged image through checks 1 to 8 and changes nothing. -/
  | structureVerify (h : Hdr)
  /-- STRUCTURE_VERIFY_ACTIVATE (R56). Structure Activate ACTION 1 verifies the staged image, holds commands to changed classrooms and waits for a quiet bell boundary to activate it. -/
  | structureVerifyActivate (h : Hdr)
  /-- STRUCTURE_ACTIVATE_RESIDENT_COMMIT (R58). Structure Activate ACTION 2 verifies and activates the staged image, then makes it resident. -/
  | structureActivateResidentCommit (h : Hdr)
  /-- MAKE_ACTIVE_RESIDENT (R52). Structure Activate ACTION 3 makes the active image resident, does nothing if it is already resident, and refuses the ROM default. -/
  | makeActiveResident (h : Hdr)
  /-- ACTIVATE_RESIDENT_IMAGE (R52). Structure Activate ACTION 4 checks the replicas and activates the resident image. -/
  | activateResidentImage (h : Hdr)
  /-- ACTIVATE_ROM_DEFAULT (R60). Structure Activate ACTION 5 activates the ROM default structure until the next power cycle or NVM Subsystem Reset. -/
  | activateRomDefault (h : Hdr)
  /-- STRUCTURE_ACTIVATE_RESERVED (R52). Structure Activate ACTION 6 or 7 completes with Invalid Field in Command. -/
  | structureActivateReserved (h : Hdr) (action : Nat)
  /-- ACTIVATE_STRUCTURE_BUSY (R56). At the 100th boundary after verification, a still-busy changed classroom makes Activate complete with Structure Busy and releases the held commands. -/
  | activateStructureBusy
  /-- RESIDENT_COMMIT_DONE (R58). Replicas 0 and 1, the commit record and replicas 2 and 3 have been programmed, and the pending Activate completes. -/
  | residentCommitDone
  /-- PLAIN_JOIN (R300). Plain Join checks state and mode, trains the ports, sends a join request and waits for admission. -/
  | plainJoin (h : Hdr) (data : Blob)
  /-- JOIN_WAIT_EXPIRED (R300). The join is not admitted within WAIT_BELLS and is refused with reason 4. -/
  | joinWaitExpired
  /-- AUTO_JOIN (R301). After a reset, once the ports train, the drive starts a MODE 1 join from its membership record. -/
  | autoJoin
  /-- PLAIN_LEAVE (R302). Plain Leave finishes shards, waits for parity acknowledgements, floods a leave message, erases the membership record and becomes Standalone. -/
  | plainLeave (h : Hdr)
  /-- RETIRE_RESOURCE (R366). Retire Resource checks all descriptors and then retires the named DRAM rows and banks, SRAM rows and NAND columns. -/
  | retireResource (h : Hdr) (data : Blob)
  /-- MAINTENANCE_UNLOCK (R401). Maintenance Unlock checks the token, draws a new nonce and enters Maintenance state on success. -/
  | maintenanceUnlock (h : Hdr) (data : Blob)
  /-- CREATE_IO_SUBMISSION_QUEUE (R95). Creates an I/O submission queue. -/
  | createIoSubmissionQueue (h : Hdr) (qid qsize cqid : Nat) (pc : Bool)
  /-- CREATE_IO_COMPLETION_QUEUE (R86). Creates an I/O completion queue on an MSI-X vector and rejects an IV above 512. -/
  | createIoCompletionQueue (h : Hdr) (qid qsize iv : Nat) (pc : Bool)
  /-- DELETE_IO_SUBMISSION_QUEUE (R100). Stops fetching, aborts the queue's commands stage by stage and completes after all of them have posted. -/
  | deleteIoSubmissionQueue (h : Hdr) (qid : Nat)
  /-- DELETE_IO_COMPLETION_QUEUE (R100). Deletes a completion queue, or refuses if submission queues are still attached. -/
  | deleteIoCompletionQueue (h : Hdr) (qid : Nat)
  /-- GET_LOG_PAGE (R430). Returns a standard page or a vendor page C0h to C6h as of one moment and re-arms events when RAE is clear. -/
  | getLogPage (h : Hdr) (lid numd lpo : Nat) (rae : Bool)
  /-- IDENTIFY (R88). Returns the Identify data structures with the values the drive reports. -/
  | identify (h : Hdr) (cns nsid : Nat)
  /-- ABORT (R99). Completes with 'command not aborted' and leaves the named command running. -/
  | abort (h : Hdr) (asq acid : Nat)
  /-- SET_POWER_ENVELOPE (R43). Set Features C0h sets ENVELOPE_W within the limits of LOCK, taking effect within one bell. -/
  | setPowerEnvelope (h : Hdr) (sv : Bool) (watts : Nat)
  /-- TIMETABLE_SELECT (R79). Set Features C1h makes a timetable selection pending until its switch bell, or refuses it with Structure Busy. -/
  | timetableSelect (h : Hdr) (sv : Bool) (tt : Nat)
  /-- SET_MEDIA_POLICY (R41). Set Features C2h changes media-policy fields from the next bell boundary. -/
  | setMediaPolicy (h : Hdr) (sv : Bool) (data : Blob)
  /-- SET_PLAIN_MEMBERSHIP (R105). Set Features C3h completes with Feature Not Changeable. -/
  | setPlainMembership (h : Hdr) (sv : Bool)
  /-- SET_QUERY_DEFAULTS (R105). Set Features C4h changes the query defaults for queries admitted from the next bell boundary. -/
  | setQueryDefaults (h : Hdr) (sv : Bool) (data : Blob)
  /-- SET_POWER_MANAGEMENT (R386). Power Management selects power state PS0 to PS2, which lowers the cap in force. -/
  | setPowerManagement (h : Hdr) (sv : Bool) (ps : Nat)
  /-- SET_ARBITRATION (R95). Sets the arbitration burst and the weights. -/
  | setArbitration (h : Hdr) (sv : Bool) (burst lpw mpw hpw : Nat)
  /-- SET_NUMBER_OF_QUEUES (R95). Number of Queues reports 511 submission and 511 completion queues, 0-based. -/
  | setNumberOfQueues (h : Hdr) (sv : Bool) (nsq ncq : Nat)
  /-- GET_FEATURES (R105). Returns the current, default or saved value of a feature, or its capabilities. -/
  | getFeatures (h : Hdr) (fid sel : Nat)
  /-- ASYNCHRONOUS_EVENT_REQUEST (R102). Queues an event request, which posts any event that is waiting. -/
  | asynchronousEventRequest (h : Hdr)
  /-- NAMESPACE_MANAGEMENT (R91). Creates or deletes an NVM namespace from the slot pool, or refuses NSIDs 65 to 74. -/
  | namespaceManagement (h : Hdr) (op : NsOp)
  /-- NAMESPACE_ATTACHMENT (R90). Attaches or detaches an NVM namespace 1 to 64. -/
  | namespaceAttachment (h : Hdr) (nsid : Nat) (attach : Bool)
  /-- FIRMWARE_IMAGE_DOWNLOAD (R394). Stages a piece of a firmware image in DRAM. -/
  | firmwareImageDownload (h : Hdr) (ofst : Nat) (data : Blob)
  /-- FIRMWARE_COMMIT_REPLACE (R394). Firmware Commit CA 000b or 001b verifies the image, programs the four replicas and writes a commit record. -/
  | firmwareCommitReplace (h : Hdr) (ca fs : Nat)
  /-- FIRMWARE_COMMIT_NO_ACTION (R394). Firmware Commit CA 010b changes nothing; the image in slot 1 runs at the next reset. -/
  | firmwareCommitNoAction (h : Hdr) (fs : Nat)
  /-- FIRMWARE_COMMIT_REFUSED (R394). Firmware Commit CA 011b to 111b is refused with Invalid Field in Command. -/
  | firmwareCommitRefused (h : Hdr) (ca fs : Nat)
  /-- DEVICE_SELF_TEST (R89). Admin Device Self-test command. -/
  | deviceSelfTest (h : Hdr) (stc : Nat)
  /-- NVME_MI_SEND_RECEIVE (R109). NVMe-MI Send or NVMe-MI Receive carries a management command in band. -/
  | nvmeMiSendReceive (h : Hdr) (m : MiCmd)
  /-- FORMAT_NVM (R407). Format NVM with SES 1h or 2h performs a crypto erase of the named namespaces. -/
  | formatNvm (h : Hdr) (nsid ses : Nat)
  /-- SANITIZE_CRYPTO_ERASE (R406). Sanitize SANACT 100b destroys and regenerates keys, unmaps every entry and drops indexes. -/
  | sanitizeCryptoErase (h : Hdr)
  /-- SANITIZE_BLOCK_ERASE (R406). Sanitize SANACT 010b performs a crypto erase, then erases every non-retired column and clears the exhausted state. -/
  | sanitizeBlockErase (h : Hdr)
  /-- SANITIZE_DONE (R406). The sanitize action ends, DONE is set in the KIND 88h block and commands are served again. -/
  | sanitizeDone
  /-- NVM_READ (R362). Reads LBAs and completes with Unrecovered Read Error on poison or on lost or deferred-error ranges. -/
  | nvmRead (h : Hdr) (nsid slba nlb : Nat)
  /-- READ_WITH_PROXY (R307). A Read with PROXY set is forwarded to the target member, rebuilt from parity, or run locally. -/
  | readWithProxy (h : Hdr) (nsid slba nlb target : Nat)
  /-- NVM_WRITE (R318). Allocates slots, places data in the write buffer, sets map entries and completes, or reports a deferred error or Capacity Exceeded. -/
  | nvmWrite (h : Hdr) (nsid slba nlb : Nat) (data : Blob)
  /-- WRITE_ZEROES (R325). Writes the zeroed units as compressed data. -/
  | writeZeroes (h : Hdr) (nsid slba nlb : Nat)
  /-- DATASET_MANAGEMENT_DEALLOCATE (R325). Unmaps the 64 KiB units a range covers whole and queues their parity deltas. -/
  | datasetManagementDeallocate (h : Hdr) (nsid : Nat) (ad : Bool) (ranges : List LbaRange)
  /-- FLUSH (R318). Completes at once, apart from the deferred-error report of R102. -/
  | flush (h : Hdr) (nsid : Nat)
  /-- MEMORY_READ (R94). Reads bytes of memory namespace 73 or 74 to the host. -/
  | memoryRead (h : Hdr) (nsid ofst len : Nat)
  /-- MEMORY_WRITE (R120). Writes host data into one range of a range set in NSID 73 or 74. -/
  | memoryWrite (h : Hdr) (nsid ofst : Nat) (data : Blob)
  /-- MEMORY_COPY (R94). Copies data between an NVM namespace and a memory namespace, or between the two memory namespaces. -/
  | memoryCopy (h : Hdr) (nsid ofst len : Nat) (src : CopySource)
  /-- MEMORY_RANGE_SET_CREATE (R120). Creates a range set of NSID 73 or 74 ranges for the classroom. -/
  | memoryRangeSetCreate (h : Hdr) (room : Nat) (ranges : List MemRange)
  /-- MEMORY_RANGE_SET_DELETE (R120). Deletes an existing range set of the classroom. -/
  | memoryRangeSetDelete (h : Hdr) (room rsid : Nat)
  /-- LOAD_PROGRAM (R244). Checks a lesson image in order and loads it into a slot, placing its pinned segments. -/
  | loadProgram (h : Hdr) (room pind : Nat) (image : Blob)
  /-- PROGRAM_ACTIVATION_MANAGEMENT (R243). Activates or deactivates a lesson in a slot. -/
  | programActivationManagement (h : Hdr) (room pind : Nat) (activate : Bool)
  /-- EXECUTE_LESSON (R245). Execute Program admits a run of a lesson, maps its logical engines and places its working segments. -/
  | executeLesson (h : Hdr) (room pind : Nat) (p : ParamRef)
  /-- FILTERED_SCAN (R144). Program 01h scans an LBA range as fixed records, filters them and writes counts or results. -/
  | filteredScan (h : Hdr) (room : Nat) (p : ParamRef)
  /-- VECTOR_QUERY (R171). Program 02h scores centroids, dispatches lists, scans, merges, re-ranks and writes results. -/
  | vectorQuery (h : Hdr) (room : Nat) (p : ParamRef)
  /-- INDEX_INSERT (R163). Program 03h checks, assigns and encodes vectors and places them in the pending area. -/
  | indexInsert (h : Hdr) (room : Nat) (p : ParamRef)
  /-- EMBED_AND_INSERT (R196). Program 04h decodes objects, shapes tensors, runs the encoder lesson and inserts the vectors in groups. -/
  | embedAndInsert (h : Hdr) (room : Nat) (p : ParamRef)
  /-- INDEX_DELETE (R166). Program 05h finds entries by ID and marks tombstones. -/
  | indexDelete (h : Hdr) (room : Nat) (p : ParamRef)
  /-- INDEX_TRAIN (R160). Program 06h trains or retrains centroids and codebooks. -/
  | indexTrain (h : Hdr) (room : Nat) (p : ParamRef)
  /-- TRAIN_STEP (R260). Program 07h admits a training step, checks the bucket table and starts attempt 1. -/
  | trainStep (h : Hdr) (room : Nat) (p : ParamRef)
  /-- INDEX_CREATE (R158). Program 08h ACTION 0 creates an untrained index. -/
  | indexCreate (h : Hdr) (room : Nat) (p : ParamRef)
  /-- INDEX_DROP (R159). Program 08h ACTION 1 commits a drop, which is published at the next publish point. -/
  | indexDrop (h : Hdr) (room : Nat) (p : ParamRef)
  /-- INSERT_COMMIT (R163). A waiting insert commits once its entries fit the pending area and any mirror. -/
  | insertCommit (wid : Nat)
  /-- INDEX_SPACE_FREED (R159). The last query on a dropped index finishes, and its space, coarse reserve and metadata are freed. -/
  | indexSpaceFreed (serial : Nat)
  /-- LIST_FOLD (R164). A list reaches 1,024 published pending entries or a 64-bell-old entry and is folded into a new version. -/
  | listFold (index list : Nat)
  /-- QUERY_FLASH_CUTOFF (R179). At cf the valleys stop issuing piece reads for the query, and unread pieces go to coarse scan or are skipped. -/
  | queryFlashCutoff (run : Nat)
  /-- QUERY_COARSE_CUTOFF (R179). At cc coarse scans for the query stop and uncovered pieces are counted as skipped. -/
  | queryCoarseCutoff (run covered : Nat)
  /-- QUERY_RERANK_CUTOFF (R181). At rc the remaining candidates keep approximate distances and RERANK_CUT is set. -/
  | queryRerankCutoff (run ranked : Nat)
  /-- SCAN_DEADLINE_END (R149). A Filtered Scan deadline ends and the valleys issue no further unit reads. -/
  | scanDeadlineEnd (run : Nat)
  /-- VALLEY_SHARE_END (R142). A valley's share of a query ends; it reads vector IDs and sends its best n entries to the merge. -/
  | valleyShareEnd (run valley : Nat)
  /-- FILL (R204). A fill descriptor streams operands through the array and accumulates, with optional drain. -/
  | fill (run mxa : Nat) (d : Blob)
  /-- FILL_DRAIN_DONE (R204). A fill's drain write, or its last add without DRAIN, ends and POST_SEM is posted. -/
  | fillDrainDone (mxa : Nat)
  /-- MOVE (R218). A move descriptor copies and converts rows between tiers. -/
  | move (run mover : Nat) (d : Blob)
  /-- MOVE_DONE (R218). The last write of a move lands and POST_SEM is posted. -/
  | moveDone (mover : Nat)
  /-- VU_ARITHMETIC (R219). Vector add, subtract, multiply, minimum, maximum, compare, select or absolute value. -/
  | vuArithmetic (run vu : Nat) (op : VuArith) (ty : LaneType) (dst a b c : Nat)
  /-- VU_FUSED_MULTIPLY_ADD (R219). Vector fused multiply-add with one rounding. -/
  | vuFusedMultiplyAdd (run vu dst a b c : Nat)
  /-- VU_INTEGER_LOGIC (R219). Vector integer shift, and, or or exclusive or. -/
  | vuIntegerLogic (run vu : Nat) (op : VuLogic) (dst a b : Nat)
  /-- VU_FORMAT_CONVERSION (R234). Format conversion on a vector-unit load or store. -/
  | vuFormatConversion (run vu : Nat) (store : Bool) (ty : LaneType) (fmt reg : Nat) (addr : BitVec 64) (scale : Option Nat) (lanes : Nat)
  /-- VU_DIVIDE_SQRT (R219). Correctly rounded divide, square root, reciprocal or reciprocal square root. -/
  | vuDivideSqrt (run vu : Nat) (op : VuDiv) (dst a b : Nat)
  /-- VU_TRANSCENDENTAL (R219). exp2, log2, tanh or erf. -/
  | vuTranscendental (run vu : Nat) (op : VuTrans) (dst a : Nat)
  /-- VU_REDUCTION (R220). Sum, maximum, minimum, arg-minimum or arg-maximum reduction in the fixed order. -/
  | vuReduction (run vu : Nat) (op : VuReduce) (ty : LaneType) (dst first count : Nat)
  /-- VU_TABLE_LOOKUP (R219). Per-lane table lookup in the gather buffer. -/
  | vuTableLookup (run vu dst idx : Nat) (wide : Bool) (width base : Nat)
  /-- VU_SCATTER_ADD (R219). Scatter-add into tier 0, applied in lane order. -/
  | vuScatterAdd (run vu : Nat) (ty : LaneType) (val idx : Nat) (base : BitVec 64) (lanes : Nat)
  /-- SEMAPHORE_WAIT (R250). A wait takes a unit of a semaphore or blocks, with priority hand-back to lower-keyed holders. -/
  | semaphoreWait (run : Nat) (e : Engine) (sem : Nat)
  /-- SEMAPHORE_POST (R250). A post raises the count, grants blocked waits in key order and ends any hand-back. -/
  | semaphorePost (run sem : Nat)
  /-- LONG_SEM_WAIT (R253). A wait blocked for 1,024 bells is counted in LONG_SEM_WAITS. -/
  | longSemWait (run : Nat) (e : Engine)
  /-- BUCKET_READY (R265). The training lesson posts a bucket ready, which sends its scale contribution. -/
  | bucketReady (room bucket : Nat)
  /-- SAFE_POINT (R247). An engine reaches a safe point and gives itself to the ready run with the highest key, pre-empting if needed. -/
  | safePoint (e : Engine)
  /-- SLICE_END (R247). A run's SLICE ticks end and it gives up the engine at its next safe point to an equal ready run. -/
  | sliceEnd (e : Engine)
  /-- STARVE_GRANT (R249). A run ready for 16 bells without the engine takes it for one slice. -/
  | starveGrant (e : Engine) (run : Nat)
  /-- WATCHDOG_FIRE (R223). An engine watchdog runs out, its lessons become suspects and the die resets. -/
  | watchdogFire (e : Engine)
  /-- HEARTBEAT_MISSED (R374). A control core misses its 2-tick heartbeat and the hub die resets. -/
  | heartbeatMissed (core : Nat)
  /-- DIE_RETURN (R368). A reset die completes self-test and reports back, or is marked failed; its pinned segments are reloaded. -/
  | dieReturn (die : Nat) (selfTestOk : Bool)
  /-- SUSPECT_REPLAY (R371). The die replays each suspect alone, and quarantines one that hangs again. -/
  | suspectReplay (die : Nat) (hang : Bool)
  /-- REPLAY_WINDOW_EXPIRED (R372). An array die has not returned within REPLAY_WINDOW bells, and its runs move to the sibling die. -/
  | replayWindowExpired (die : Nat)
  /-- GENERATION_DROPPED (R370). A die-to-die request outstanding across a reset completes with Generation Dropped after REPLY_TIMEOUT. -/
  | generationDropped (req : Nat)
  /-- LATE_REPLY_DROP (R370). A reply carrying an old generation tag arrives, is dropped and is counted. -/
  | lateReplyDrop (holder source tag : Nat)
  /-- TIER3_READ_FAILED (R125). A tier 3 read meets a completion timeout or an error completion and the run ends with Data Transfer Error. -/
  | tier3ReadFailed (run : Nat)
  /-- FLASH_READ_DONE (R131). A page read returns, is hard-decoded and goes down the pipeline, or moves on to the full code. -/
  | flashReadDone (rid : Nat) (hardOk fullOk tagOk : Bool)
  /-- SOFT_SENSE_READ_DONE (R131). A soft-sense read returns and adds a level of soft information to the decode. -/
  | softSenseReadDone (rid : Nat) (ok : Bool)
  /-- READ_RECOVERY (R363). Uncorrectable codewords are recovered through row parity, the mirror or plain parity, or delivered poisoned. -/
  | readRecovery (rid : Nat) (bad : List Nat) (rowLost : Nat)
  /-- GROUP_PROGRAM_START (R318). A full group, or one padded at flush, shutdown or write-through, is programmed and its parity deltas are sent. -/
  | groupProgramStart (stream : Stream)
  /-- GROUP_PROGRAM_DONE (R316). A group program ends: the group commits and map entries are set, or the column is closed or retired. -/
  | groupProgramDone (pid : Nat) (failed : List Nat)
  /-- ERASE_DONE (R326). An erase ends and DONE is set in its record, or the column is retired on failure. -/
  | eraseDone (sb ch : Nat) (ok : Bool)
  /-- READ_REFRESH_DUE (R331). A privileged-set column's read counter reaches READ_REFRESH or twice that, and a refresh is scheduled. -/
  | readRefreshDue (sb ch : Nat)
  /-- JOURNAL_GROUP_PROGRAM (R440). Ready journal records fill one ring group and are programmed to the map journal ring. -/
  | journalGroupProgram
  /-- MAP_CHECKPOINT (R336). After 1,000 bells or a half-full journal ring, a new map checkpoint generation is written in recess. -/
  | mapCheckpoint
  /-- BELL_EDGE (R65). An accepted BELL rising edge ends the current bell, truncating or stretching it, and runs the boundary steps of R80. -/
  | bellEdge (highNs : Nat) (b : Boundary)
  /-- MISSED_EDGE (R66). The edge window closes with no edge and the drive makes the bell boundary itself. -/
  | missedEdge (b : Boundary)
  /-- FREE_RUNNING_BOUNDARY (R69). A free-running drive makes a bell boundary from its own clock at BELL_PERIOD_US. -/
  | freeRunningBoundary (b : Boundary)
  /-- BELL_LOST (R70). No accepted edge for 3 nominal periods sets BELL_LOST, and the drive goes Free-running or Following plain. -/
  | bellLost
  /-- PHASE_CLAMP (R71). No accepted edge 2 ticks after the reference boundary, and the member makes its boundary itself. -/
  | phaseClamp (b : Boundary)
  /-- PHASE_FAULT (R71). Clamps in 3 consecutive bells set PHASE_FAULT and the member follows the reference. -/
  | phaseFault
  /-- RELOCK_FROM_FOLLOWING (R70). Own edges within 1 tick of the reference's boundary for 8 consecutive bells return the drive to Locked. -/
  | relockFromFollowing
  /-- OFF_NOMINAL (R73). The estimate is off nominal by more than 5 % for 8 bells, setting OFF_NOMINAL, or within 5 % for 8 bells, clearing it. -/
  | offNominal
  /-- RECESS_STARVED (R78). 1,024 consecutive bells without recess set RECESS_STARVED and post an event. -/
  | recessStarved
  /-- APPLY_COPY_DONE (R276). The copy of staged weights ends, LAST_STEP is set and the result header is written. -/
  | applyCopyDone (room : Nat)
  /-- RECESS_START (R76). A recess period begins, and background work such as garbage collection, patrol, refresh, rebuild and compaction may start. -/
  | recessStart
  /-- CLASS_START (R76). A class period begins, and background work issues no new operations after its first tick. -/
  | classStart
  /-- BUCKET_TIMEOUT (R279). An open bucket lacks a participant's contribution for BUCKET_TIMEOUT ticks, and the head aborts the attempt. -/
  | bucketTimeout (room bucket participant : Nat)
  /-- ATTEMPT_RESTART (R280). Once all participants are ready, or after BUCKET_TIMEOUT, the next attempt starts, or the step fails after MAX_ATTEMPTS. -/
  | attemptRestart (room : Nat)
  /-- HEAD_SILENCE_TIMEOUT (R282). Participants drop the attempt after BUCKET_TIMEOUT ticks with no flit from the head. -/
  | headSilenceTimeout (room : Nat)
  /-- TRAIN_PROGRESS_SEND (R278). Each tick, a participant sends a progress flit to the head unless a serving die is resetting. -/
  | trainProgressSend (room : Nat)
  /-- PORT_LINK_LOSS (R285). FEC lock is lost, codewords fail or flits stop, and the port goes Down. -/
  | portLinkLoss (port : Nat)
  /-- PORT_DETECT (R284). 100 ms after link loss or enable, the port moves from Down to Detect. -/
  | portDetect (port : Nat)
  /-- PORT_TRAIN_DONE (R284). Coefficient exchange ends and the port aligns, or it returns to Down after 200 ms. -/
  | portTrainDone (port lanes : Nat)
  /-- PORT_IDENTIFY (R296). Identity flits are exchanged and checked, the round trip is measured, and the port goes Up or Miswired. -/
  | portIdentify (port : Nat) (far : PortIdentity) (echoes : List Nat)
  /-- PORT_RETRY (R284). After three training failures, the port retries once every second. -/
  | portRetry (port : Nat)
  /-- BELL_FLIT_RECEIVED (R71). A bell flit is received, forwarded once and used for phase, count and the present bitmap. -/
  | bellFlitReceived (port : Nat) (hd : FlitHdr) (f : BellFlit)
  /-- JOIN_REQUEST (R300). The reference member verifies the joiner's certificate, checks its member number and capacity, and admits it at the next boundary. -/
  | joinRequest (port : Nat) (hd : FlitHdr) (j : JoinReq)
  /-- JOIN_ADMIT (R300). The joiner takes the plain's bell count, becomes Member and writes its membership record. -/
  | joinAdmit (port : Nat) (hd : FlitHdr) (a : JoinAnswer)
  /-- LEAVE_MESSAGE (R302). Peers mark the leaving member Left and destroy its keys. -/
  | leaveMessage (port : Nat) (hd : FlitHdr)
  /-- FLOW_SETUP (R288). A flow-setup flit sets up a flow entry for adder mode, coefficient and bucket or stripe. -/
  | flowSetup (port : Nat) (hd : FlitHdr) (e : FlowEntry)
  /-- NAK (R287). The sender replays in order from the named SEQ and takes the port Down after 8 replays. -/
  | nak (port seq : Nat)
  /-- CREDIT_RESYNC (R289). The received-flit counts are compared and the sender's credits are corrected. -/
  | creditResync (port : Nat) (hd : FlitHdr) (counts : List Nat)
  /-- PARITY_ACKNOWLEDGEMENT (R305). A parity member acknowledges a delta, and the buffer copy may be released. -/
  | parityAcknowledgement (port : Nat) (hd : FlitHdr) (a : ParityAck)
  /-- TRAIN_STEP_MESSAGE (R260). A Train Step progress, commit, abort, ready or apply-bell message is received on the control VC. -/
  | trainStepMessage (port : Nat) (hd : FlitHdr) (m : TrainMsg)
  /-- TIMETABLE_SELECTION_MESSAGE (R79). A timetable selection from another member becomes pending for bell b + 4. -/
  | timetableSelectionMessage (port : Nat) (hd : FlitHdr) (tt bell : Nat)
  /-- NAMESPACE_TABLE_MESSAGE (R303). A member's namespace table and its wrapped keys are received and kept. -/
  | namespaceTableMessage (port : Nat) (hd : FlitHdr) (t : NsTable)
  /-- PLAIN_WIDE_QUERY (R184). A member receives a plain-wide query and runs it on its own index, or on a mirror for an absent owner. -/
  | plainWideQuery (port : Nat) (hd : FlitHdr) (q : PlainQuery)
  /-- MEMBER_ANSWER (R184). The head receives a member's best k and merges the answers. -/
  | memberAnswer (port : Nat) (hd : FlitHdr) (a : MemberAnswer)
  /-- PARITY_DELTA (R305). A parity delta is folded with its coefficient in write-count order, the parity slot is written and an acknowledgement is sent. -/
  | parityDelta (port : Nat) (hd : FlitHdr) (d : ParityDelta)
  /-- REBUILD_STREAM (R308). A rebuild stream passes through survivors' adders and delivers a lost slot to the requester. -/
  | rebuildStream (port : Nat) (hd : FlitHdr) (r : RebuildFlit)
  /-- PROXY_READ_REQUEST (R307). A forwarded proxy read is served from local content. -/
  | proxyReadRequest (port : Nat) (hd : FlitHdr) (q : ProxyRead)
  /-- PROXY_READ_DATA (R307). Proxy read data returns and the Read completes. -/
  | proxyReadData (port : Nat) (hd : FlitHdr) (d : ProxyData)
  /-- MIRROR_UPKEEP (R309). A buddy stores mirror pieces, pending entries and tombstones and confirms list versions. -/
  | mirrorUpkeep (port : Nat) (hd : FlitHdr) (m : MirrorMsg)
  /-- REDUCTION_SCALE (R310). A scale flit takes the participant's e in max mode, and on its second lap delivers e_max. -/
  | reductionScale (port : Nat) (hd : FlitHdr) (r : ScaleFlit)
  /-- REDUCTION_SUM (R271). A sum flit takes the participant's FX64 chunk, then copies the sum on, and the participant converts back and commits. -/
  | reductionSum (port : Nat) (hd : FlitHdr) (r : SumFlit)
  /-- REDUCTION_GATHER (R293). A gather flit is forwarded and a copy is stored locally. -/
  | reductionGather (port : Nat) (hd : FlitHdr) (g : GatherFlit)
  /-- SAG_WARNING (R380). 12 V below 10.8 V for 2 µs sets SUPPLY_SAG and throttles the arrays to ARRAY_FLOOR. -/
  | sagWarning (mv : Nat)
  /-- SAG_CLEAR (R379). 12 V at or above 11.2 V for 10 ms clears SUPPLY_SAG. -/
  | sagClear (mv : Nat)
  /-- POWER_LOSS (R382). 12 V below 9.6 V isolates the input and runs the hold-up flush, then resets the drive. -/
  | powerLoss (mv : Nat) (f : FlushCost)
  /-- REMOVAL (R413). MATE_DET open for 1 µs is a removal and runs the hold-up flush. -/
  | removal (openNs : Nat) (f : FlushCost)
  /-- PWRDIS_RAISED (R392). Raising PWRDIS on a running drive is a power loss. -/
  | pwrdisRaised (f : FlushCost)
  /-- POWER_ON (R389). 12 V qualifies and start-up brings up the rails, reads the option area, replays the journal and activates the image. -/
  | powerOn (mv holdupMj : Nat) (failedDies : List Nat)
  /-- MATE_DETECT_CLOSE (R392). After 10 ms of mate debounce with PWRDIS low, the hot-swap controller ramps 12 V in. -/
  | mateDetectClose
  /-- AUX_WARNING (R379). 3.3 V aux below 3.05 V sets AUX_SAG and posts an event. -/
  | auxWarning (mv : Nat)
  /-- AUX_RESET (R379). 3.3 V aux below 2.90 V resets the management endpoint and releases SMBus. -/
  | auxReset (mv : Nat)
  /-- AUX_RETURN (R379). 3.3 V aux back for 100 ms restarts the management endpoint, clears AUX_SAG and reads ADDR_SEL. -/
  | auxReturn (mv : Nat) (strapGnd : Bool)
  /-- POWER_SAMPLE (R387). A 10 µs input power sample updates the 10 ms mean, and a sample above 165 W applies the peak limit. -/
  | powerSample (dw : Nat)
  /-- THROTTLE_STEP (R387). Every 100 µs the throttle steps down or up one stage, or sets ENVELOPE_EXCEEDED. -/
  | throttleStep
  /-- TEMPERATURE_SAMPLE (R420). A sensor reaches its throttle, heavy or critical point, or the bank passes 70 °C, and the drive acts. -/
  | temperatureSample (sn : Sensor) (deg : Nat) (f : FlushCost)
  /-- HOLDUP_MEASUREMENT (R385). The bank's usable energy is measured, and write-through starts below 1.5 J or ends at or above it. -/
  | holdupMeasurement (mj : Nat)
  /-- ARRAY_IDLE_GATE (R43). IDLE_GATE bells without array work power-gate an array die. -/
  | arrayIdleGate (die : Nat)
  /-- NVM_SUBSYSTEM_RESET (R388). A write of 4E56_4D65h to NSSR, or NVMe-MI, runs flush steps on main power and resets every die. -/
  | nvmSubsystemReset (viaMi : Bool) (value : BitVec 32) (f : FlushCost)
  /-- CONTROLLER_ENABLE (R389). CC.EN set to 1 makes the controller ready once start-up has ended. -/
  | controllerEnable
  /-- CONTROLLER_LEVEL_RESET (R101). CC.EN 1 to 0, PERST#, a hot reset or an FLR ends every outstanding command with no completion entry. -/
  | controllerLevelReset (cause : ClrCause)
  /-- SURPRISE_LINK_DOWN (R87). A PCIe link-down ends every command in flight, as for a Controller Level Reset. -/
  | surpriseLinkDown
  /-- SHUTDOWN_NORMAL (R390). CC.SHN 01b completes outstanding commands, programs exposed content and sets CSTS.SHST 10b. -/
  | shutdownNormal
  /-- SHUTDOWN_ABRUPT (R390). CC.SHN 10b runs flush steps 3 to 7 on main power and sets CSTS.SHST 10b. -/
  | shutdownAbrupt (f : FlushCost)
  /-- REGISTER_WRITE (R8). A write to a register with no row of its own acts under its access type or is ignored. -/
  | registerWrite (bar ofst width : Nat) (value : BitVec 64)
  /-- OPT_KEY_1 (R346). The first key write of 4D5Ah to offset 0A8h of the option aperture. -/
  | optKey1 (value : BitVec 16)
  /-- OPT_KEY_2 (R346). The second key write of 5A4Dh to offset 150h. -/
  | optKey2 (value : BitVec 16)
  /-- WORD_PROGRAM (R340). Command A0A0h with its data cycle programs a data word of a host-writable sector. -/
  | wordProgram (ofst width : Nat) (value : BitVec 64)
  /-- FLAG_PROGRAM (R340). Command A1A1h with its data cycle programs a flag word. -/
  | flagProgram (ofst width : Nat) (value : BitVec 64)
  /-- SECTOR_ERASE (R354). Command 8080h with its 3030h data cycle erases a host-writable sector. -/
  | sectorErase (ofst width : Nat) (value : BitVec 64)
  /-- OPT_RESET (R346). Command F0F0h ends the sequence and returns SEQ to 0. -/
  | optReset
  /-- OPT_OPERATION_DONE (R346). A host option-flash program or erase ends, clearing HOST_BUSY and setting DONE or a Verify error. -/
  | optOperationDone (verified : Bool)
  /-- NVME_MI_COMMAND (R109). A management command over SMBus or MCTP reaches the controller state; Structure Load, Structure Activate and Maintenance Unlock are refused. -/
  | nvmeMiCommand (m : MiCmd)
  /-- GET_VERSION (R402). SPDM GET_VERSION request. -/
  | getVersion
  /-- GET_CAPABILITIES (R402). SPDM GET_CAPABILITIES request. -/
  | getCapabilities
  /-- NEGOTIATE_ALGORITHMS (R402). SPDM NEGOTIATE_ALGORITHMS, which offers only ECDSA P-256 and SHA-256. -/
  | negotiateAlgorithms (asym hash : List SpdmAlg)
  /-- GET_DIGESTS (R402). SPDM GET_DIGESTS of the certificate slots. -/
  | getDigests
  /-- GET_CERTIFICATE (R398). SPDM GET_CERTIFICATE returns the slot 0 chain, or an error when sector 0 is unreadable. -/
  | getCertificate (slot ofst len : Nat)
  /-- CHALLENGE (R402). SPDM CHALLENGE answered with a signature by the identity key. -/
  | challenge (slot : Nat) (nonce : BitVec 256)
  /-- GET_MEASUREMENTS (R403). SPDM GET_MEASUREMENTS returns the signed measurement blocks. -/
  | getMeasurements (block : Nat) (signed : Bool) (nonce : BitVec 256)
  /-- SPDM_UNSUPPORTED_REQUEST (R402). KEY_EXCHANGE, session or SET_CERTIFICATE requests are answered with ERROR UnsupportedRequest. -/
  | spdmUnsupportedRequest (code : Nat)
  /-- FRU_READ (R417). An SMBus read of the 256-byte FRU data. -/
  | fruRead (ofst len : Nat)
  /-- FOLLOWING_PLAIN_BOUNDARY (R69). A drive in the Following plain state makes its bell boundary at the reference member's predicted boundary, within 1 tick of it. -/
  | followingPlainBoundary (b : Boundary)
  /-- ELECTRICAL_PRESENCE (R284). Electrical presence appears on a lane of a port in Detect, and the port moves to Train. -/
  | electricalPresence (port : Nat)
  /-- PERST_DEASSERTED (R392). PERST# is deasserted and the PCIe link trains to the best common rate and width. -/
  | perstDeasserted (gts width : Nat)
  /-- PWRDIS_LOWERED (R392). PWRDIS falls on a mated drive, and the hot-swap controller ramps 12 V in and start-up begins. -/
  | pwrdisLowered
  /-- INPUT_OVERVOLTAGE (R377). 12 V main above 14.5 V makes the hot-swap controller open the input and run the hold-up flush. -/
  | inputOvervoltage (mv : Nat) (f : FlushCost)
  /-- IDLE_FLIT (R289). An idle flit arrives, carrying ACK and returned credits and keeping the link alive. -/
  | idleFlit (port : Nat) (hd : FlitHdr)
  /-- NOR_ERASE_DONE (R354). The drive's own option-flash sector erase ends: it programs ERASE_DONE and ERASES, sets DONE in the erase record, and clears FW_BUSY, which releases a waiting host data cycle. -/
  | norEraseDone (verified : Bool)
  /-- FIRMWARE_COMMIT_DONE (R394). The four firmware replicas and the KIND 04h commit record have been programmed, and Firmware Commit completes. -/
  | firmwareCommitDone
  /-- SUPPLY_BELOW_RESET_THRESHOLD (R367). A die's supply falls below the reset threshold and that die resets with LAST_CAUSE 3. -/
  | supplyBelowResetThreshold (die : Nat)
  /-- INVALID_COMMAND_OPCODE (R89). An admin command with an unsupported or unassigned opcode completes with Invalid Command Opcode. -/
  | invalidCommandOpcode (h : Hdr) (opcode : Nat)
  /-- SEND_BLOCK (R255). A lesson's send-block descriptor sends up to 192 flits on one port virtual channel, reserving and returning credits. -/
  | sendBlock (run port vc flits : Nat)
  deriving DecidableEq, Repr

end Sys2Proof
end

