-- ==== Sys2Proof/WellFormed.lean ====
section
/-! DEFINITION. What a command can spell: each operand within the width that the spec gives its field, host commands on the
queue that carries their kind (R89, R95). -/

namespace Sys2Proof

/-- A number fits a field of `w` bits. -/
def fits (w n : Nat) : Bool := decide (n < 2 ^ w)

/-- The header of an admin command: the admin queue, a 16-bit identifier. -/
def Hdr.admin (h : Hdr) : Bool := h.sq == 0 && fits 16 h.cid

/-- The header of an I/O command: queue 1 to 512 (R95), a 16-bit identifier. -/
def Hdr.io (h : Hdr) : Bool := decide (1 ≤ h.sq ∧ h.sq ≤ 512) && fits 16 h.cid

def ParamRef.wf (p : ParamRef) : Bool := fits 32 p.nsid && fits 64 p.ofst && fits 32 p.len

def CopySource.wf : CopySource → Bool
  | .nvm nsid slba lbas => fits 32 nsid && fits 64 slba && fits 64 lbas
  | .mem nsid ofst => fits 32 nsid && fits 64 ofst

def NsOp.wf : NsOp → Bool
  | .create nsze ncap flbas dps => fits 64 nsze && fits 64 ncap && fits 8 flbas && fits 8 dps
  | .delete nsid => fits 32 nsid

def MiCmd.wf : MiCmd → Bool
  | .status | .subsystemReset => true
  | .setEnvelope w => fits 8 w
  | .setPower ps => fits 5 ps
  | .admin op => fits 8 op

/-- The engines that exist (R12). -/
def Engine.wf : Engine → Bool
  | .mxa n | .vu n | .me n => decide (n < 8)
  | .mover n => decide (n < 4)
  | .valley n => decide (n < 32)

/-- The sensors that exist: five dies, 32 NAND packages, four LPDDR5X packages, the bank (R420). -/
def Sensor.wf : Sensor → Bool
  | .die n => decide (n < 5)
  | .nand n => decide (n < 32)
  | .dram n => decide (n < 4)
  | .bank => true

/-- The header of a host command; an event has none. -/
def Instr.hdr? : Instr → Option Hdr
  | .structureLoad h _ _ _ => some h
  | .structureVerify h => some h
  | .structureVerifyActivate h => some h
  | .structureActivateResidentCommit h => some h
  | .makeActiveResident h => some h
  | .activateResidentImage h => some h
  | .activateRomDefault h => some h
  | .structureActivateReserved h _ => some h
  | .activateStructureBusy => none
  | .residentCommitDone => none
  | .plainJoin h _ => some h
  | .joinWaitExpired => none
  | .autoJoin => none
  | .plainLeave h => some h
  | .retireResource h _ => some h
  | .maintenanceUnlock h _ => some h
  | .createIoSubmissionQueue h _ _ _ _ => some h
  | .createIoCompletionQueue h _ _ _ _ => some h
  | .deleteIoSubmissionQueue h _ => some h
  | .deleteIoCompletionQueue h _ => some h
  | .getLogPage h _ _ _ _ => some h
  | .identify h _ _ => some h
  | .abort h _ _ => some h
  | .setPowerEnvelope h _ _ => some h
  | .timetableSelect h _ _ => some h
  | .setMediaPolicy h _ _ => some h
  | .setPlainMembership h _ => some h
  | .setQueryDefaults h _ _ => some h
  | .setPowerManagement h _ _ => some h
  | .setArbitration h _ _ _ _ _ => some h
  | .setNumberOfQueues h _ _ _ => some h
  | .getFeatures h _ _ => some h
  | .asynchronousEventRequest h => some h
  | .namespaceManagement h _ => some h
  | .namespaceAttachment h _ _ => some h
  | .firmwareImageDownload h _ _ => some h
  | .firmwareCommitReplace h _ _ => some h
  | .firmwareCommitNoAction h _ => some h
  | .firmwareCommitRefused h _ _ => some h
  | .deviceSelfTest h _ => some h
  | .nvmeMiSendReceive h _ => some h
  | .formatNvm h _ _ => some h
  | .sanitizeCryptoErase h => some h
  | .sanitizeBlockErase h => some h
  | .sanitizeDone => none
  | .nvmRead h _ _ _ => some h
  | .readWithProxy h _ _ _ _ => some h
  | .nvmWrite h _ _ _ _ => some h
  | .writeZeroes h _ _ _ => some h
  | .datasetManagementDeallocate h _ _ _ => some h
  | .flush h _ => some h
  | .memoryRead h _ _ _ => some h
  | .memoryWrite h _ _ _ => some h
  | .memoryCopy h _ _ _ _ => some h
  | .memoryRangeSetCreate h _ _ => some h
  | .memoryRangeSetDelete h _ _ => some h
  | .loadProgram h _ _ _ => some h
  | .programActivationManagement h _ _ _ => some h
  | .executeLesson h _ _ _ => some h
  | .filteredScan h _ _ => some h
  | .vectorQuery h _ _ => some h
  | .indexInsert h _ _ => some h
  | .embedAndInsert h _ _ => some h
  | .indexDelete h _ _ => some h
  | .indexTrain h _ _ => some h
  | .trainStep h _ _ => some h
  | .indexCreate h _ _ => some h
  | .indexDrop h _ _ => some h
  | .insertCommit _ => none
  | .indexSpaceFreed _ => none
  | .listFold _ _ => none
  | .queryFlashCutoff _ => none
  | .queryCoarseCutoff _ _ => none
  | .queryRerankCutoff _ _ => none
  | .scanDeadlineEnd _ => none
  | .valleyShareEnd _ _ => none
  | .fill _ _ _ => none
  | .fillDrainDone _ => none
  | .move _ _ _ => none
  | .moveDone _ => none
  | .vuArithmetic _ _ _ _ _ _ _ _ => none
  | .vuFusedMultiplyAdd _ _ _ _ _ _ => none
  | .vuIntegerLogic _ _ _ _ _ _ => none
  | .vuFormatConversion _ _ _ _ _ _ _ _ _ => none
  | .vuDivideSqrt _ _ _ _ _ _ => none
  | .vuTranscendental _ _ _ _ _ => none
  | .vuReduction _ _ _ _ _ _ _ => none
  | .vuTableLookup _ _ _ _ _ _ _ => none
  | .vuScatterAdd _ _ _ _ _ _ _ => none
  | .semaphoreWait _ _ _ => none
  | .semaphorePost _ _ => none
  | .longSemWait _ _ => none
  | .bucketReady _ _ => none
  | .safePoint _ => none
  | .sliceEnd _ => none
  | .starveGrant _ _ => none
  | .watchdogFire _ => none
  | .heartbeatMissed _ => none
  | .dieReturn _ _ => none
  | .suspectReplay _ _ => none
  | .replayWindowExpired _ => none
  | .generationDropped _ => none
  | .lateReplyDrop _ _ _ => none
  | .tier3ReadFailed _ => none
  | .flashReadDone _ _ _ _ => none
  | .softSenseReadDone _ _ => none
  | .readRecovery _ _ _ => none
  | .groupProgramStart _ => none
  | .groupProgramDone _ _ => none
  | .eraseDone _ _ _ => none
  | .readRefreshDue _ _ => none
  | .journalGroupProgram => none
  | .mapCheckpoint => none
  | .bellEdge _ _ => none
  | .missedEdge _ => none
  | .freeRunningBoundary _ => none
  | .bellLost => none
  | .phaseClamp _ => none
  | .phaseFault => none
  | .relockFromFollowing => none
  | .offNominal => none
  | .recessStarved => none
  | .applyCopyDone _ => none
  | .recessStart => none
  | .classStart => none
  | .bucketTimeout _ _ _ => none
  | .attemptRestart _ => none
  | .headSilenceTimeout _ => none
  | .trainProgressSend _ => none
  | .portLinkLoss _ => none
  | .portDetect _ => none
  | .portTrainDone _ _ => none
  | .portIdentify _ _ _ => none
  | .portRetry _ => none
  | .bellFlitReceived _ _ _ => none
  | .joinRequest _ _ _ => none
  | .joinAdmit _ _ _ => none
  | .leaveMessage _ _ => none
  | .flowSetup _ _ _ => none
  | .nak _ _ => none
  | .creditResync _ _ _ => none
  | .parityAcknowledgement _ _ _ => none
  | .trainStepMessage _ _ _ => none
  | .timetableSelectionMessage _ _ _ _ => none
  | .namespaceTableMessage _ _ _ => none
  | .plainWideQuery _ _ _ => none
  | .memberAnswer _ _ _ => none
  | .parityDelta _ _ _ => none
  | .rebuildStream _ _ _ => none
  | .proxyReadRequest _ _ _ => none
  | .proxyReadData _ _ _ => none
  | .mirrorUpkeep _ _ _ => none
  | .reductionScale _ _ _ => none
  | .reductionSum _ _ _ => none
  | .reductionGather _ _ _ => none
  | .sagWarning _ => none
  | .sagClear _ => none
  | .powerLoss _ _ => none
  | .removal _ _ => none
  | .pwrdisRaised _ => none
  | .powerOn _ _ _ => none
  | .mateDetectClose => none
  | .auxWarning _ => none
  | .auxReset _ => none
  | .auxReturn _ _ => none
  | .powerSample _ => none
  | .throttleStep => none
  | .temperatureSample _ _ _ => none
  | .holdupMeasurement _ => none
  | .arrayIdleGate _ => none
  | .nvmSubsystemReset _ _ _ => none
  | .controllerEnable => none
  | .controllerLevelReset _ => none
  | .surpriseLinkDown => none
  | .shutdownNormal => none
  | .shutdownAbrupt _ => none
  | .registerWrite _ _ _ _ => none
  | .optKey1 _ => none
  | .optKey2 _ => none
  | .wordProgram _ _ _ => none
  | .flagProgram _ _ _ => none
  | .sectorErase _ _ _ => none
  | .optReset => none
  | .optOperationDone _ => none
  | .nvmeMiCommand _ => none
  | .getVersion => none
  | .getCapabilities => none
  | .negotiateAlgorithms _ _ => none
  | .getDigests => none
  | .getCertificate _ _ _ => none
  | .challenge _ _ => none
  | .getMeasurements _ _ _ => none
  | .spdmUnsupportedRequest _ => none
  | .fruRead _ _ => none
  | .followingPlainBoundary _ => none
  | .electricalPresence _ => none
  | .perstDeasserted _ _ => none
  | .pwrdisLowered => none
  | .inputOvervoltage _ _ => none
  | .idleFlit _ _ => none
  | .norEraseDone _ => none
  | .firmwareCommitDone => none
  | .supplyBelowResetThreshold _ => none
  | .invalidCommandOpcode h _ => some h
  | .sendBlock _ _ _ _ => none

/-- Every operand is one that the command's fields can spell. -/
def Instr.wellFormed : Instr → Bool
  | .structureLoad h len ofst data => h.admin && fits 32 len && fits 64 ofst && data.wf
  | .structureVerify h => h.admin
  | .structureVerifyActivate h => h.admin
  | .structureActivateResidentCommit h => h.admin
  | .makeActiveResident h => h.admin
  | .activateResidentImage h => h.admin
  | .activateRomDefault h => h.admin
  | .structureActivateReserved h action => h.admin && fits 3 action
  | .activateStructureBusy => true
  | .residentCommitDone => true
  | .plainJoin h data => h.admin && data.wf
  | .joinWaitExpired => true
  | .autoJoin => true
  | .plainLeave h => h.admin
  | .retireResource h data => h.admin && data.wf
  | .maintenanceUnlock h data => h.admin && data.wf
  | .createIoSubmissionQueue h qid qsize cqid _ => h.admin && fits 16 qid && fits 16 qsize && fits 16 cqid
  | .createIoCompletionQueue h qid qsize iv _ => h.admin && fits 16 qid && fits 16 qsize && fits 16 iv
  | .deleteIoSubmissionQueue h qid => h.admin && fits 16 qid
  | .deleteIoCompletionQueue h qid => h.admin && fits 16 qid
  | .getLogPage h lid numd lpo _ => h.admin && fits 8 lid && fits 32 numd && fits 64 lpo
  | .identify h cns nsid => h.admin && fits 8 cns && fits 32 nsid
  | .abort h asq acid => h.admin && fits 16 asq && fits 16 acid
  | .setPowerEnvelope h _ watts => h.admin && fits 8 watts
  | .timetableSelect h _ tt => h.admin && fits 2 tt
  | .setMediaPolicy h _ data => h.admin && data.wf
  | .setPlainMembership h _ => h.admin
  | .setQueryDefaults h _ data => h.admin && data.wf
  | .setPowerManagement h _ ps => h.admin && fits 5 ps
  | .setArbitration h _ burst lpw mpw hpw => h.admin && fits 3 burst && fits 8 lpw && fits 8 mpw && fits 8 hpw
  | .setNumberOfQueues h _ nsq ncq => h.admin && fits 16 nsq && fits 16 ncq
  | .getFeatures h fid sel => h.admin && fits 8 fid && fits 3 sel
  | .asynchronousEventRequest h => h.admin
  | .namespaceManagement h op => h.admin && op.wf
  | .namespaceAttachment h nsid _ => h.admin && fits 32 nsid
  | .firmwareImageDownload h ofst data => h.admin && fits 64 ofst && data.wf
  | .firmwareCommitReplace h ca fs => h.admin && fits 3 ca && fits 3 fs
  | .firmwareCommitNoAction h fs => h.admin && fits 3 fs
  | .firmwareCommitRefused h ca fs => h.admin && fits 3 ca && fits 3 fs
  | .deviceSelfTest h stc => h.admin && fits 4 stc
  | .nvmeMiSendReceive h m => h.admin && m.wf
  | .formatNvm h nsid ses => h.admin && fits 32 nsid && fits 3 ses
  | .sanitizeCryptoErase h => h.admin
  | .sanitizeBlockErase h => h.admin
  | .sanitizeDone => true
  | .nvmRead h nsid slba nlb => h.io && fits 32 nsid && fits 64 slba && fits 16 nlb
  | .readWithProxy h nsid slba nlb target => h.io && fits 32 nsid && fits 64 slba && fits 16 nlb && fits 5 target
  | .nvmWrite h nsid slba nlb data => h.io && fits 32 nsid && fits 64 slba && fits 16 nlb && data.wf
  | .writeZeroes h nsid slba nlb => h.io && fits 32 nsid && fits 64 slba && fits 16 nlb
  | .datasetManagementDeallocate h nsid _ ranges => h.io && fits 32 nsid && decide (1 ≤ ranges.length ∧ ranges.length ≤ 256) && (ranges.all fun r => fits 64 r.slba && fits 32 r.len)
  | .flush h nsid => h.io && fits 32 nsid
  | .memoryRead h nsid ofst len => h.io && fits 32 nsid && fits 64 ofst && fits 32 len
  | .memoryWrite h nsid ofst data => h.io && fits 32 nsid && fits 64 ofst && data.wf
  | .memoryCopy h nsid ofst len src => h.io && fits 32 nsid && fits 64 ofst && fits 32 len && src.wf
  | .memoryRangeSetCreate h room ranges => h.io && fits 3 room && (ranges.all fun r => fits 32 r.nsid && fits 64 r.ofst && fits 64 r.len)
  | .memoryRangeSetDelete h room rsid => h.io && fits 3 room && fits 16 rsid
  | .loadProgram h room pind image => h.io && fits 3 room && fits 16 pind && image.wf
  | .programActivationManagement h room pind _ => h.io && fits 3 room && fits 16 pind
  | .executeLesson h room pind p => h.io && fits 3 room && fits 16 pind && p.wf
  | .filteredScan h room p => h.io && fits 3 room && p.wf
  | .vectorQuery h room p => h.io && fits 3 room && p.wf
  | .indexInsert h room p => h.io && fits 3 room && p.wf
  | .embedAndInsert h room p => h.io && fits 3 room && p.wf
  | .indexDelete h room p => h.io && fits 3 room && p.wf
  | .indexTrain h room p => h.io && fits 3 room && p.wf
  | .trainStep h room p => h.io && fits 3 room && p.wf
  | .indexCreate h room p => h.io && fits 3 room && p.wf
  | .indexDrop h room p => h.io && fits 3 room && p.wf
  | .insertCommit _ => true
  | .indexSpaceFreed _ => true
  | .listFold index list => fits 4 index && fits 20 list
  | .queryFlashCutoff _ => true
  | .queryCoarseCutoff _ _ => true
  | .queryRerankCutoff _ _ => true
  | .scanDeadlineEnd _ => true
  | .valleyShareEnd _ valley => fits 5 valley
  | .fill _ mxa d => fits 3 mxa && d.wf
  | .fillDrainDone mxa => fits 3 mxa
  | .move _ mover d => fits 2 mover && d.wf
  | .moveDone mover => fits 2 mover
  | .vuArithmetic _ vu _ _ dst a b c => fits 3 vu && fits 5 dst && fits 5 a && fits 5 b && fits 5 c
  | .vuFusedMultiplyAdd _ vu dst a b c => fits 3 vu && fits 5 dst && fits 5 a && fits 5 b && fits 5 c
  | .vuIntegerLogic _ vu _ dst a b => fits 3 vu && fits 5 dst && fits 5 a && fits 5 b
  | .vuFormatConversion _ vu _ _ fmt reg _ scale lanes => fits 3 vu && fits 4 fmt && fits 5 reg && scale.all (fits 5) && fits 7 lanes
  | .vuDivideSqrt _ vu _ dst a b => fits 3 vu && fits 5 dst && fits 5 a && fits 5 b
  | .vuTranscendental _ vu _ dst a => fits 3 vu && fits 5 dst && fits 5 a
  | .vuReduction _ vu _ _ dst first count => fits 3 vu && fits 5 dst && fits 5 first && fits 6 count
  | .vuTableLookup _ vu dst idx _ width base => fits 3 vu && fits 5 dst && fits 5 idx && fits 5 width && fits 16 base
  | .vuScatterAdd _ vu _ val idx _ lanes => fits 3 vu && fits 5 val && fits 5 idx && fits 7 lanes
  | .semaphoreWait _ e sem => e.wf && fits 6 sem
  | .semaphorePost _ sem => fits 6 sem
  | .longSemWait _ e => e.wf
  | .bucketReady room bucket => fits 3 room && fits 12 bucket
  | .safePoint e => e.wf
  | .sliceEnd e => e.wf
  | .starveGrant e _ => e.wf
  | .watchdogFire e => e.wf
  | .heartbeatMissed core => fits 3 core
  | .dieReturn die _ => fits 3 die
  | .suspectReplay die _ => fits 3 die
  | .replayWindowExpired die => fits 3 die
  | .generationDropped _ => true
  | .lateReplyDrop holder source tag => fits 3 holder && fits 3 source && fits 8 tag
  | .tier3ReadFailed _ => true
  | .flashReadDone _ _ _ _ => true
  | .softSenseReadDone _ _ => true
  | .readRecovery _ _ _ => true
  | .groupProgramStart _ => true
  | .groupProgramDone _ _ => true
  | .eraseDone sb ch _ => fits 16 sb && fits 5 ch
  | .readRefreshDue sb ch => fits 16 sb && fits 5 ch
  | .journalGroupProgram => true
  | .mapCheckpoint => true
  | .bellEdge _ _ => true
  | .missedEdge _ => true
  | .freeRunningBoundary _ => true
  | .bellLost => true
  | .phaseClamp _ => true
  | .phaseFault => true
  | .relockFromFollowing => true
  | .offNominal => true
  | .recessStarved => true
  | .applyCopyDone room => fits 3 room
  | .recessStart => true
  | .classStart => true
  | .bucketTimeout room bucket participant => fits 3 room && fits 12 bucket && fits 5 participant
  | .attemptRestart room => fits 3 room
  | .headSilenceTimeout room => fits 3 room
  | .trainProgressSend room => fits 3 room
  | .portLinkLoss port => fits 2 port
  | .portDetect port => fits 2 port
  | .portTrainDone port lanes => fits 2 port && fits 7 lanes
  | .portIdentify port _ _ => fits 2 port
  | .portRetry port => fits 2 port
  | .bellFlitReceived port _ _ => fits 2 port
  | .joinRequest port _ _ => fits 2 port
  | .joinAdmit port _ _ => fits 2 port
  | .leaveMessage port _ => fits 2 port
  | .flowSetup port _ _ => fits 2 port
  | .nak port _ => fits 2 port
  | .creditResync port _ _ => fits 2 port
  | .parityAcknowledgement port _ _ => fits 2 port
  | .trainStepMessage port _ _ => fits 2 port
  | .timetableSelectionMessage port _ tt bell => fits 2 port && fits 2 tt && fits 48 bell
  | .namespaceTableMessage port _ _ => fits 2 port
  | .plainWideQuery port _ _ => fits 2 port
  | .memberAnswer port _ _ => fits 2 port
  | .parityDelta port _ _ => fits 2 port
  | .rebuildStream port _ _ => fits 2 port
  | .proxyReadRequest port _ _ => fits 2 port
  | .proxyReadData port _ _ => fits 2 port
  | .mirrorUpkeep port _ _ => fits 2 port
  | .reductionScale port _ _ => fits 2 port
  | .reductionSum port _ _ => fits 2 port
  | .reductionGather port _ _ => fits 2 port
  | .sagWarning _ => true
  | .sagClear _ => true
  | .powerLoss _ _ => true
  | .removal _ _ => true
  | .pwrdisRaised _ => true
  | .powerOn _ _ _ => true
  | .mateDetectClose => true
  | .auxWarning _ => true
  | .auxReset _ => true
  | .auxReturn _ _ => true
  | .powerSample _ => true
  | .throttleStep => true
  | .temperatureSample sn _ _ => sn.wf
  | .holdupMeasurement _ => true
  | .arrayIdleGate die => fits 3 die
  | .nvmSubsystemReset _ _ _ => true
  | .controllerEnable => true
  | .controllerLevelReset _ => true
  | .surpriseLinkDown => true
  | .shutdownNormal => true
  | .shutdownAbrupt _ => true
  | .registerWrite bar ofst width _ => fits 3 bar && fits 64 ofst && fits 5 width
  | .optKey1 _ => true
  | .optKey2 _ => true
  | .wordProgram ofst width _ => fits 64 ofst && fits 5 width
  | .flagProgram ofst width _ => fits 64 ofst && fits 5 width
  | .sectorErase ofst width _ => fits 64 ofst && fits 5 width
  | .optReset => true
  | .optOperationDone _ => true
  | .nvmeMiCommand m => m.wf
  | .getVersion => true
  | .getCapabilities => true
  | .negotiateAlgorithms _ _ => true
  | .getDigests => true
  | .getCertificate slot ofst len => fits 3 slot && fits 64 ofst && fits 32 len
  | .challenge slot _ => fits 3 slot
  | .getMeasurements block _ _ => fits 8 block
  | .spdmUnsupportedRequest _ => true
  | .fruRead ofst len => fits 9 ofst && fits 9 len
  | .followingPlainBoundary _ => true
  | .electricalPresence port => fits 2 port
  | .perstDeasserted _ width => fits 5 width
  | .pwrdisLowered => true
  | .inputOvervoltage _ _ => true
  | .idleFlit port _ => fits 2 port
  | .norEraseDone _ => true
  | .firmwareCommitDone => true
  | .supplyBelowResetThreshold die => fits 3 die
  | .invalidCommandOpcode h opcode => h.admin && fits 8 opcode
  | .sendBlock _ port vc flits => fits 2 port && fits 2 vc && fits 8 flits

end Sys2Proof
end

