-- ==== Sys2Proof/Decode.lean ====
section
/-! DEFINITION. Words of the opcode table. The drive is a block that takes commands, and no row of spec/opcode_table.json
gives bits to its command, so that no word spells one. -/

namespace Sys2Proof

/-- The command that a word spells by the table's bits. The table gives no row any bits: none. -/
def decodeTableWord (nbits w : Nat) : Option Instr :=
  match nbits, w with
  | _, _ => none

end Sys2Proof
end

