-- ==== Sys2Proof/Machine/Crypto.lean ====
section
/-! DEFINITION. SHA-256 and ECDSA on P-256, with which the drive checks images, lessons, firmware and unlock tokens (R48,
R49, R399, R435). The constants are those of FIPS 180-4 and FIPS 186-4 (log 9). -/

namespace Sys2Proof

/-! ### SHA-256 -/

/-- Round constants. -/
def shaK : List (BitVec 32) :=
  [0x428a2f98, 0x71374491, 0xb5c0fbcf, 0xe9b5dba5, 0x3956c25b, 0x59f111f1, 0x923f82a4, 0xab1c5ed5,
   0xd807aa98, 0x12835b01, 0x243185be, 0x550c7dc3, 0x72be5d74, 0x80deb1fe, 0x9bdc06a7, 0xc19bf174] ++
  [0xe49b69c1, 0xefbe4786, 0x0fc19dc6, 0x240ca1cc, 0x2de92c6f, 0x4a7484aa, 0x5cb0a9dc, 0x76f988da,
   0x983e5152, 0xa831c66d, 0xb00327c8, 0xbf597fc7, 0xc6e00bf3, 0xd5a79147, 0x06ca6351, 0x14292967] ++
  [0x27b70a85, 0x2e1b2138, 0x4d2c6dfc, 0x53380d13, 0x650a7354, 0x766a0abb, 0x81c2c92e, 0x92722c85,
   0xa2bfe8a1, 0xa81a664b, 0xc24b8b70, 0xc76c51a3, 0xd192e819, 0xd6990624, 0xf40e3585, 0x106aa070] ++
  [0x19a4c116, 0x1e376c08, 0x2748774c, 0x34b0bcb5, 0x391c0cb3, 0x4ed8aa4a, 0x5b9cca4f, 0x682e6ff3,
   0x748f82ee, 0x78a5636f, 0x84c87814, 0x8cc70208, 0x90befffa, 0xa4506ceb, 0xbef9a3f7, 0xc67178f2]

/-- The initial hash value. -/
def shaInit : List (BitVec 32) :=
  [0x6a09e667, 0xbb67ae85, 0x3c6ef372, 0xa54ff53a, 0x510e527f, 0x9b05688c, 0x1f83d9ab, 0x5be0cd19]

/-- The message with its padding. -/
def shaPad (l : List Byte) : List Byte :=
  l ++ 0x80#8 :: List.replicate ((119 - l.length % 64) % 64) 0#8 ++ beBytes 8 (8 * l.length)

/-- The message schedule, newest word first, extended by `n` words. -/
def shaExtend : Nat → List (BitVec 32) → List (BitVec 32)
  | 0, w => w
  | n + 1, w =>
    let a := w.getD 1 0
    let b := w.getD 14 0
    let s1 := a.rotateRight 17 ^^^ a.rotateRight 19 ^^^ (a >>> 10)
    let s0 := b.rotateRight 7 ^^^ b.rotateRight 18 ^^^ (b >>> 3)
    shaExtend n ((s1 + w.getD 6 0 + s0 + w.getD 15 0) :: w)

/-- One round on the eight working variables. -/
def shaRound (v : List (BitVec 32)) (kw : BitVec 32 × BitVec 32) : List (BitVec 32) :=
  match v with
  | [a, b, c, d, e, f, g, h] =>
    let t1 := h + (e.rotateRight 6 ^^^ e.rotateRight 11 ^^^ e.rotateRight 25) + ((e &&& f) ^^^ (~~~e &&& g)) + kw.1 + kw.2
    let t2 := (a.rotateRight 2 ^^^ a.rotateRight 13 ^^^ a.rotateRight 22) + ((a &&& b) ^^^ (a &&& c) ^^^ (b &&& c))
    [t1 + t2, a, b, c, d + t1, e, f, g]
  | _ => v

/-- One 64-byte block. -/
def shaBlock (h : List (BitVec 32)) (blk : List Byte) : List (BitVec 32) :=
  let w0 := (chunks 16 4 blk).map fun x => BitVec.ofNat 32 (beNat x)
  let w := (shaExtend 48 w0.reverse).reverse
  (List.zipWith (· + ·) h ((List.zip shaK w).foldl shaRound h))

/-- The SHA-256 digest, as a 256-bit number read big-endian: the form that enters ECDSA (R435). -/
def sha256 (l : List Byte) : BitVec 256 :=
  let p := shaPad l
  let h := (chunks (p.length / 64) 64 p).foldl shaBlock shaInit
  BitVec.ofNat 256 (h.foldl (fun acc x => acc * 2 ^ 32 + x.toNat) 0)

/-- The digest as the byte string it is stored as (R6). -/
def digestBytes (d : BitVec 256) : Blob := Blob.ofBytes (beBytes 32 d.toNat)

/-! ### P-256 -/

/-- The field prime. -/
def p256P : Nat := 0xffffffff00000001000000000000000000000000ffffffffffffffffffffffff
/-- The order of the base point. -/
def p256N : Nat := 0xffffffff00000000ffffffffffffffffbce6faada7179e84f3b9cac2fc632551
/-- The coefficient b. -/
def p256B : Nat := 0x5ac635d8aa3a93e7b3ebbd55769886bc651d06b0cc53b0f63bce3c3e27d2604b
/-- The base point. -/
def p256G : Nat × Nat :=
  (0x6b17d1f2e12c4247f8bce6e563a440f277037d812deb33a0f4a13945d898c296,
   0x4fe342e2fe1a7f9b8ee7eb4a7c0f9e162bce33576b315ececbb6406837bf51f5)

/-- Modular power by repeated squaring, with `f` bits of the exponent. -/
def powMod : Nat → Nat → Nat → Nat → Nat
  | 0, _, _, m => 1 % m
  | f + 1, b, e, m =>
    let r := powMod f (b * b % m) (e / 2) m
    if e % 2 = 1 then b * r % m else r

/-- Inverse modulo a prime. -/
def invMod (a m : Nat) : Nat := powMod 256 (a % m) (m - 2) m

/-- Sum of two points of the curve; none is the point at infinity. -/
def p256Add : Option (Nat × Nat) → Option (Nat × Nat) → Option (Nat × Nat)
  | none, q => q
  | p, none => p
  | some (x1, y1), some (x2, y2) =>
    if x1 = x2 ∧ (y1 + y2) % p256P = 0 then none
    else
      let l := if x1 = x2 then (3 * x1 * x1 + (p256P - 3)) * invMod (2 * y1) p256P % p256P
        else (y2 + p256P - y1) * invMod (x2 + p256P - x1) p256P % p256P
      let x3 := (l * l + 2 * p256P - x1 - x2) % p256P
      some (x3, (l * (x1 + p256P - x3) + p256P - y1) % p256P)

/-- Scalar multiple, with `f` bits of the scalar. -/
def p256Mul : Nat → Nat → Option (Nat × Nat) → Option (Nat × Nat)
  | 0, _, _ => none
  | f + 1, k, p =>
    let r := p256Mul f (k / 2) (p256Add p p)
    if k % 2 = 1 then p256Add p r else r

/-- The coordinates name a point of the curve. -/
def p256On (x y : Nat) : Bool :=
  decide (x < p256P) && decide (y < p256P) && (y * y % p256P == (x * x * x + (p256P - 3) * x + p256B) % p256P)

/-- ECDSA verification on P-256 of a digest that is not hashed again (R399, R435). -/
def ecdsaOk (x y r s : Nat) (e : BitVec 256) : Bool :=
  if p256On x y && decide (0 < r) && decide (r < p256N) && decide (0 < s) && decide (s < p256N) then
    let w := invMod s p256N
    match p256Add (p256Mul 256 (e.toNat * w % p256N) (some p256G)) (p256Mul 256 (r * w % p256N) (some (x, y))) with
    | none => false
    | some (vx, _) => vx % p256N == r
  else false

/-- SHA-256 of 04h followed by the public key: the owner key hash (R49, R401). -/
def keyHash (x y : Nat) : BitVec 256 := sha256 (0x04#8 :: beBytes 32 x ++ beBytes 32 y)

end Sys2Proof
end

