-- ==== Sys2Proof/Config.lean ====
section
/-! DEFINITION. What an implementation fixes, and the free values: constants with no body wherever the spec leaves a value
open (log 7). A theorem about the drive is about every choice of these. -/

namespace Sys2Proof.Config

/-! ### Choices of the part modelled (log 3) -/

/-- The part: VQA-240-L when true, VQA-120-L when false (R2). -/
opaque isL240 : Bool

/-- The minor version mm of the firmware that the drive is shipped with (R14). -/
opaque fwMinor : Nat

/-- The patch version pp of that firmware (R14). -/
opaque fwPatch : Nat

/-- The serial number, 20 ASCII bytes of Identify Controller SN (R400). -/
opaque serial : List Byte

/-- Records that the map journal ring holds: system superblocks 11 to 13 hold it beside other things (R335), in shares that the
spec does not give. -/
opaque ringRecords : Nat

/-! ### Free values (log 7) -/

/-- The byte drawn for the n-th open byte: deallocated, never written or poisoned data (R325, R362). -/
opaque freeByte : Nat → Byte

/-- The n-th open value of a lane, an accumulator or a register. -/
opaque freeWord : Nat → BitVec 64

/-- Length in bytes of the compressed form of a 64 KiB unit (R134); the compressor is not given. -/
opaque compressedLen : Blob → Nat

/-- Whether the n-th result of a transcendental operation lies on the upper of the two neighbours of the exact value, by
operation and operand (R219: within one unit in the last place, the same on every drive). -/
opaque ulpUp : VuTrans → BitVec 32 → Bool

/-- exp2, log2, tanh and erf where the spec states no result: an infinite operand, the logarithm of zero or of a negative
number. -/
opaque transOpen : VuTrans → BitVec 32 → BitVec 32

/-- A lane result that the spec does not state, by operation (in the order of R219) and operands: an INT32 result outside the format,
a shift by the width or more, an extreme of a NaN, a quotient by zero, a root of a negative number. -/
opaque laneOpen : Nat → BitVec 32 → BitVec 32 → BitVec 32

/-- What a compare writes to a lane where it holds and where it does not, and how a select reads its condition. -/
opaque compareTrue : BitVec 32
opaque compareFalse : BitVec 32
opaque selects : BitVec 32 → Bool

/-- Tables that a lesson's vector-unit code has placed in the gather buffer: run, unit, offset (Ittor writes that code). -/
opaque gatherByte : Nat → Nat → Nat → Byte

/-- Operations of a lesson image in all: fills, moves, vector operations and send blocks (R243: only the drive reads them). -/
opaque lessonOps : Blob → Nat

/-- The pseudo-random generator of Index Train: draw i under a seed (R437); fixed within a firmware version. -/
opaque trainDraw : BitVec 64 → Nat → Nat

/-- The result of running an encoder lesson, by its image digest, on an input tensor: the components of its single output
vector (R243 gives no lesson code). -/
opaque encode : BitVec 256 → Blob → List F32

/-- What the parser finds at each picture of a track: the media time in ms, the end of its presentation interval, whether it is a
random-access picture, and the fault that keeps it from being decoded (R198: 0 none, 6 corrupt, 8 poisoned). -/
structure MediaPic where
  ms : Nat
  stop : Nat
  key : Bool
  fault : Nat
  deriving DecidableEq, Repr, Inhabited

/-- What the parser finds of an object's track (R188, R192, R201): the outcome of R198 where no sample of it is taken, else 0;
whether it is a single image; the end of the track in ms; where its data end before the track does; its pictures, or for an audio
track its pieces. -/
structure MediaTrack where
  fault : Nat
  image : Bool
  ends : Nat
  cutAt : Option Nat
  pics : List MediaPic
  deriving DecidableEq, Repr, Inhabited

/-- The parser's findings for an object's bytes in a format, on its video or audio track, given its poisoned granules: the formats
are those of other standards (R188). -/
opaque mediaTrack : Nat → Bool → Blob → List Nat → MediaTrack

/-- A picture decoded, converted to RGB and resized (R193, R194): by format, BANDS, RESIZE, ORIENT, height and width, the object and the
picture's number. Its bit depth, and the values of the three channels, one after another; none in the border of RESIZE 2. -/
opaque pictureDepth : Nat → Blob → Nat
opaque pictureValues : List Nat → Blob → Nat → List (Option F32)

/-- Audio mixed to mono and resampled (R195): by format, sample rate, length and object, from a media time on. -/
opaque audioSamples : Nat → Nat → Nat → Blob → Nat → List F32

/-- The descriptor lists of a lesson image (R243: Ittor lays them out and only the drive reads them): the fill and move
descriptors in order, each with the array or mover it is for. -/
opaque lessonDescs : Blob → List (Nat × Blob)

/-- The bytes of a lesson image that a pinned segment is loaded with, by its segment entry (R126: from the lesson image, which only the
drive reads). -/
opaque lessonPinned : Blob → Nat → Blob

/-- The tier 2 source that a cached segment of a lesson image copies, by its segment entry (R118): NSID, first LBA and LBAs. -/
opaque lessonSource : Blob → Nat → Nat × Nat × Nat

/-- The longest span that Ittor declared in a lesson image, in cycles (R244 check 4). -/
opaque lessonSpan : Blob → Nat

/-- A secret drawn by the security engine: the n-th draw (R398, R404, R408). -/
opaque draw128 : Nat → BitVec 128

/-- A signature by the drive's identity key over a transcript (R398, R402). -/
opaque identitySign : Blob → Blob

/-- The certificate chain of SPDM slot 0 (R398). -/
opaque certChain : Blob

/-- The digest of the mask ROM (R403 index 1). -/
opaque romDigest : BitVec 256

/-- The fuse security state (R403 index 2). -/
opaque fuseState : BitVec 32

/-- The public key of Harnos firmware signing, whose hash is in mask ROM (R399): X and Y. -/
opaque harnosKey : Nat × Nat

/-- The check byte of a data word of the option flash (R338 does not give the code). -/
opaque checkByte : BitVec 64 → Byte

/-- What the bytes of a firmware image hold (R394, R395): major, minor and patch version, r and s of the signature, and the digest;
their layout is not given. -/
opaque fwParse : Blob → Nat × Nat × Nat × Nat × Nat × BitVec 256

/-- The bytes of the firmware image that the drive is shipped with. -/
opaque fwShipped : Blob

/-- CT exponent, data transfer size and message size that the SPDM responder reports (R402 gives none). -/
opaque spdmLimits : Nat × Nat × Nat

/-- The subject of PCIe Identify fields that option sector 0 holds (R341): vendor and subsystem vendor identifier, IEEE OUI. -/
opaque pcieIds : Nat × Nat × Nat

/-- The sequence number that the drive status block shows between updates, halved, by the count of free values drawn (R426). -/
opaque dsbUpdates : Nat → Nat

/-- Whether another member's stale map holds the stripe of this member's n-th parity slot (R306, R311): no message tells it. -/
opaque staleElsewhere : Nat → Bool

end Sys2Proof.Config
end

