-- ==== Sys2Proof/Machine/State.lean ====
section
/-! DEFINITION. The state of the drive: every register, buffer, queue, counter and mode that the spec gives it, as plain data,
and the state right after reset. INVENTORY.md lists each piece with its rule. -/

namespace Sys2Proof.Machine

/-- The drive never stops: every failure that the spec describes is a completion status, an event, a poison mark or a die
reset, so that no command of the model answers a fault. Safe: the type is empty. -/
inductive Fault where
  deriving DecidableEq, Repr

/-- Reasons to refuse a command. -/
inductive Refusal where
  /-- The command has no meaning in the model yet. Raised by Dispatch only; safe, since nothing happens. -/
  | notModelled (mnemonic : String)
  deriving DecidableEq, Repr

/-! ### The structure image (R29 to R47) -/

/-- An entry of the classroom map (R33). -/
structure Room where
  room : Nat
  priority : Nat
  mxa : Nat
  vu : Nat
  me : Nat
  slots : Nat
  slice : Nat
  flags : Nat
  deriving DecidableEq, Repr

/-- Bit 0 of FLAGS (R33). -/
def Room.valley (r : Room) : Bool := r.flags.testBit 0
/-- Bit 1 of FLAGS (R33). -/
def Room.plain (r : Room) : Bool := r.flags.testBit 1
/-- Bit 2 of FLAGS (R33). -/
def Room.train (r : Room) : Bool := r.flags.testBit 2

/-- A period of a timetable (R35). -/
structure Period where
  recess : Bool
  start : Nat
  deriving DecidableEq, Repr

/-- A QUOTA entry (R37). -/
structure Quota where
  sram : Nat
  windows : Nat
  dram : Nat
  deriving DecidableEq, Repr

/-- An entry of section 05h (R39). -/
structure Shape where
  modes : Nat
  formats : Nat
  groups : Nat
  outlier : Nat
  deriving DecidableEq, Repr

/-- Section 06h, Media policy (R41). -/
structure Policy where
  patrolDays : Nat
  softRewrite : Nat
  softThreshold : Nat
  progfailRetire : Nat
  readRefresh : Nat
  suspendMax : Nat
  suspendGapUs : Nat
  autoRetire : Nat
  gcLow : Nat
  gcCrit : Nat
  compress : Nat
  deriving DecidableEq, Repr

/-- Section 07h, Plain (R42). -/
structure PlainCfg where
  plainId : BitVec 64
  members : Nat
  topology : Nat
  rows : Nat
  cols : Nat
  chordSpan : Nat
  parityK : Nat
  parityM : Nat
  buddyOffset : Nat
  flags : Nat
  portEnable : Nat
  cableDm : Nat
  deriving DecidableEq, Repr

/-- Section 09h, Index defaults (R44). -/
structure IdxDefaults where
  centroids : Nat
  subspaces : Nat
  coarse : Nat
  nprobe : Nat
  k : Nat
  rerank : Nat
  deadline : Nat
  metric : Nat
  deriving DecidableEq, Repr

/-- A regulator entry (R45). -/
structure Regs where
  dram : Nat
  flash : Nat
  fabric : Nat
  pass : Nat
  cap : Nat
  deriving DecidableEq, Repr

/-- Section 0Bh, Watchdog and replay (R47). -/
structure Watch where
  mxa : Nat
  vu : Nat
  valley : Nat
  me : Nat
  replyTimeout : Nat
  bucketTimeout : Nat
  replayWindow : Nat
  replay : Nat
  deriving DecidableEq, Repr

/-- The values in force of an image, section by section, after the defaults of R31. -/
structure Image where
  version : Nat
  imageId : BitVec 64
  sequence : BitVec 32
  toolVersion : BitVec 32
  minFw : Nat
  digest : BitVec 256
  valleyHome : List Nat
  linkResult : Nat
  linkMedia : Nat
  linkBackground : Nat
  xlinkMode : Nat
  rooms : List Room
  periodUs : Nat
  layout : Nat
  staggerStep : Nat
  timetables : List (List Period)
  poolMode : Nat
  evictAge : Nat
  pinLimit : Nat
  quotas : List Quota
  shapes : List Shape
  policy : Policy
  plain : PlainCfg
  envelopeW : Nat
  lock : Nat
  arrayFloor : Nat
  idleGate : Nat
  idx : IdxDefaults
  bgShare : Nat
  /-- By classroom 0 to 7; where section 0Ah is absent, the shares of R46. -/
  regs : List Regs
  watch : Watch
  deriving DecidableEq, Repr

/-- Defaults of section 06h (R41). -/
def Policy.default : Policy := ⟨14, 1, 3, 1, 20000, 8, 200, 1, 8, 3, 1⟩
/-- Defaults of section 07h (R42). -/
def PlainCfg.default : PlainCfg := ⟨0, 1, 0, 0, 0, 0, 1, 0, 1, 3, 0xF, 20⟩
/-- Defaults of section 09h (R44). -/
def IdxDefaults.default : IdxDefaults := ⟨65536, 64, 1, 64, 10, 0, 0, 0⟩
/-- Defaults of section 0Bh (R47). -/
def Watch.default : Watch := ⟨16, 16, 32, 64, 4, 8, 2, 1⟩
/-- Defaults of an entry of section 05h (R39). -/
def Shape.default : Shape := ⟨7, 0x7FF, 7, 1⟩
/-- Defaults of VALLEY_HOME (R32). -/
def homeDefault : List Nat := List.replicate 16 3 ++ List.replicate 16 4

/-- The ROM default structure (R60). IMAGE_ID, SEQUENCE and TOOL_VERSION have no stated value and read zero (log 2). -/
def Image.rom : Image where
  version := 2
  imageId := 0
  sequence := 0
  toolVersion := 0
  minFw := 0
  digest := 0
  valleyHome := homeDefault
  linkResult := 50
  linkMedia := 30
  linkBackground := 20
  xlinkMode := 1
  rooms := [⟨0, 4, 0xFF, 0xFF, 0xFF, 64, 4, 7⟩]
  periodUs := 10000
  layout := 0
  staggerStep := 0
  timetables := [[⟨false, 0⟩, ⟨true, 819⟩]]
  poolMode := 0
  evictAge := 100
  pinLimit := 8192
  quotas := List.replicate 8 ⟨0, 0, 0⟩
  shapes := List.replicate 8 Shape.default
  policy := Policy.default
  plain := PlainCfg.default
  envelopeW := 150
  lock := 0
  arrayFloor := 25
  idleGate := 10
  idx := IdxDefaults.default
  bgShare := 50
  regs := List.replicate 8 ⟨100, 100, 100, 100, 0⟩
  watch := Watch.default

/-- The commit under way of a resident image (R58, R443), or the rewriting of replicas (R59). -/
structure ResCommit where
  image : Image
  stream : Blob
  /-- The command that waits, or none once a reset has ended it (R443). -/
  cmd : Option Hdr
  deriving DecidableEq, Repr

/-- An Activate outstanding (R56). -/
structure Activation where
  hdr : Hdr
  action : Nat
  image : Image
  stream : Blob
  /-- 0 ROM default, 1 resident, 2 activated but not resident (R61). -/
  source : Nat
  changed : List Nat
  /-- Boundaries seen since verification passed. -/
  boundaries : Nat
  inEffect : Bool
  deriving DecidableEq, Repr

/-- The structure image and its loading (R26 to R61). -/
structure ImgSt where
  active : Image
  source : Nat
  /-- The logical stream of the active image, from which it can be made resident. -/
  stream : Blob
  /-- Frames of the staging buffer, by position. -/
  staged : List (Nat × Blob)
  activation : Option Activation
  commit : Option ResCommit
  /-- Resident replicas 0 to 3, each its logical stream. -/
  replicas : List (Option Blob)
  /-- DIGEST of the last KIND 03h commit record (R59). -/
  record : Option (BitVec 256)
  residentFail : Nat
  /-- Replicas to rewrite in the next recess (R59). -/
  rewrite : List Nat
  deriving DecidableEq, Repr

/-! ### Bell and timetable -/

/-- An entry of the bell history (R83). -/
structure HistEntry where
  count : BitVec 48
  stamp : Nat
  periodNs : Nat
  phaseNs : Int
  ticksRun : Nat
  source : Nat
  timetable : Nat
  deriving DecidableEq, Repr

/-- A timetable selection that is pending (R79): the timetable, its switch bell, the bell in which it was received and by which member,
and the command that waits for the switch bell to be fixed. -/
structure Selection where
  tt : Nat
  at' : BitVec 48
  bell : BitVec 48
  member : Nat
  hdr : Option Hdr
  deriving DecidableEq, Repr

/-- The bell (R63 to R83). -/
structure BellSt where
  count : BitVec 48
  tick : Nat
  /-- Tick lengths held after the end of tick 1,023, the one that runs included. -/
  held : Nat
  mode : BellMode
  /-- The eight sample slots of R434, newest first, in ns. -/
  slots : List Nat
  /-- The current bell began at an accepted edge, so that the next one gives a sample (R434). -/
  fromEdge : Bool
  /-- An edge has been accepted that came too early to end the bell (R71). -/
  earlyEdge : Bool
  /-- Local time of the last accepted edge, or of the start (R70). -/
  lastEdgeNs : Nat
  lost : Bool
  offNominal : Bool
  phaseFault : Bool
  starved : Bool
  ptmValid : Bool
  glitches : Nat
  missed : Nat
  lossEvents : Nat
  phaseFaults : Nat
  classGcBells : Nat
  classRefreshes : Nat
  phaseClamps : Nat
  /-- Bells whose count was corrected to the reference's (R71). -/
  countFixes : Nat
  history : List HistEntry
  stamp : Nat
  /-- Local time since power-on in ns (R72), and that of the last boundary. -/
  localNs : Nat
  boundNs : Nat
  offRun : Nat
  inRun : Nat
  noRecess : Nat
  clampRun : Nat
  nearRun : Nat
  /-- A recess tick has run in this bell (R78). -/
  hadRecess : Bool
  /-- Garbage collection has run in class in this bell (R77). -/
  classGc : Bool
  /-- Timetable in force, and the pending selection. -/
  timetable : Nat
  selected : Option Selection
  /-- Background work may issue operations: a recess period is under way (R76). -/
  inRecess : Bool
  /-- RECESS_STARVED was set before the recess period that runs began (R78). -/
  recessAfterStarve : Bool
  deriving DecidableEq, Repr

/-! ### Host interface -/

/-- An I/O submission queue. -/
structure Sq where
  id : Nat
  cq : Nat
  size : Nat
  deriving DecidableEq, Repr

/-- An I/O completion queue. -/
structure Cq where
  id : Nat
  iv : Nat
  size : Nat
  deriving DecidableEq, Repr

/-- A completion entry, with the data moved to the host by the command. -/
structure Completion where
  sq : Nat
  cid : Nat
  sct : Nat
  sc : Nat
  dw0 : Nat
  data : Blob
  deriving DecidableEq, Repr

/-- An asynchronous event: type, information and log page. -/
structure Event where
  kind : Nat
  info : Nat
  lid : Nat
  deriving DecidableEq, Repr

/-- How queue deletion ends a command that has started (R100). -/
inductive OutKind where
  /-- Reads, Memory Reads and Memory Copies: step 3. -/
  | reading
  /-- Built-in programs and lessons: step 4. -/
  | program
  /-- Writes, Write Zeroes and Dataset Management: step 5. -/
  | writing
  /-- Admin commands. -/
  | admin
  deriving DecidableEq, Repr

/-- A command in execution. -/
structure Out where
  sq : Nat
  cid : Nat
  ord : Bool
  kind : OutKind
  deriving DecidableEq, Repr

/-- Why a command waits inside the drive. -/
inductive Why where
  /-- Behind or as an ORD command (R97). -/
  | order
  /-- To a changed classroom while an Activate is outstanding (R56). -/
  | activate (room : Nat)
  /-- For room in the write buffer or under the limits of R381, in units. -/
  | room (units : Nat)
  /-- For a segment of a tier (R122). -/
  | segment
  /-- For a free engine, slot of a table or other shared thing of the drive. -/
  | resource
  deriving DecidableEq, Repr

/-- A command that waits inside the drive. -/
structure Held where
  hdr : Hdr
  cmd : Instr
  why : Why
  deriving DecidableEq, Repr

/-- A delete of a submission queue that waits for the queue's commands (R100 step 6). -/
structure SqDelete where
  hdr : Hdr
  qid : Nat
  deriving DecidableEq, Repr

/-- An entry of the Error Information log (R362): its number, the command, its status, and the first LBA concerned. -/
structure ErrInfo where
  count : Nat
  sq : Nat
  cid : Nat
  status : Nat
  nsid : Nat
  lba : Nat
  deriving DecidableEq, Repr

/-- The controller (R84 to R109). -/
structure HostSt where
  en : Bool
  rdy : Bool
  shst : Nat
  link : Bool
  gts : Nat
  width : Nat
  perst : Bool
  sqs : List Sq
  cqs : List Cq
  outs : List Out
  held : List Held
  deletes : List SqDelete
  posted : List Completion
  msix : List Nat
  aers : List Nat
  waiting : List Event
  masked : List Nat
  aborts : List Nat
  /-- Arbitration (R95): burst, low, medium and high weights. -/
  arb : Nat × Nat × Nat × Nat
  powerState : Nat
  /-- Vendor features in force and pending (R105). -/
  envelopeW : Nat
  envelopeNext : Option Nat
  policy : Policy
  policyNext : Option Policy
  queryDef : IdxDefaults
  queryDefNext : Option IdxDefaults
  critWarn : Nat
  unrecovered : Nat
  /-- The Error Information log, newest first, and the errors counted. -/
  errors : List ErrInfo
  errorCount : Nat
  /-- Namespaces to be named in the Changed Namespace List (R56). -/
  changedNs : List Nat
  /-- Results of Device Self-test, newest first: code and result (R89). -/
  selfTests : List (Nat × Nat)
  /-- Registers of BAR0/1 that no row of the table names, by offset (R424). -/
  regs : Cells
  /-- Responses sent over NVMe-MI, SMBus and SPDM, oldest first. -/
  responses : List Blob
  deriving DecidableEq, Repr

/-! ### Option flash (R338 to R357) -/

/-- Reported state of a sector (R345). -/
inductive SectorState where
  | confirmed | opened | unconfirmed | failed
  deriving DecidableEq, Repr

/-- A sector of the option flash that differs from one erased once and confirmed at manufacture. -/
structure Sector where
  erases : Nat
  state : SectorState
  deriving DecidableEq, Repr

/-- A host operation on the option flash (R346). -/
inductive HostNorOp where
  | word (addr : Nat) (value : BitVec 64)
  | flag (addr : Nat) (value : BitVec 64)
  /-- With the SEQ of its KIND 02h record, once it has begun. -/
  | erase (sector : Nat) (record : Option Nat)
  deriving DecidableEq, Repr

/-- A write of the drive's own to the option flash (R347). -/
inductive NorWrite where
  /-- A block appended to a sector of the option area. -/
  | block (sector kind seq : Nat) (payload : Blob)
  /-- A record appended to the journal, with the flags its first program sets. -/
  | journal (kind seq : Nat) (payload : Blob) (flags : List Nat)
  /-- A flag set in the block of a SEQ. -/
  | flag (seq flag : Nat)
  deriving DecidableEq, Repr

/-- What a drive-run sector erase is part of (R353 to R355). -/
inductive FwNorUse where
  /-- A journal sector that left the window. -/
  | journal
  /-- Step 2 of the swap: the target, to be rewritten from sector 7. -/
  | swapTarget
  /-- Step 3 of the swap: sector 7. -/
  | swapSource
  /-- A re-erase found necessary at start. -/
  | again
  deriving DecidableEq, Repr

/-- The drive's own erase under way. -/
structure FwNorOp where
  sector : Nat
  erases : Nat
  /-- SEQ of its KIND 02h record. -/
  record : Nat
  use : FwNorUse
  deriving DecidableEq, Repr

/-- Command code accepted at SEQ 3 (R346). -/
inductive NorCode where
  | word | flag | erase
  deriving DecidableEq, Repr

/-- The option flash and its aperture. -/
structure NorSt where
  /-- Words by number 0 to 1,048,575; unlisted words are all ones (R338). -/
  words : List (Nat × BitVec 64)
  /-- Programs of a word since its erase (R340); unlisted 0. -/
  progs : List (Nat × Nat)
  sectors : List (Nat × Sector)
  errSector : Nat
  err : Nat
  errValid : Bool
  done : Bool
  /-- SEQ of OPT_STATUS, and the code while it is 3. -/
  seq : Nat
  code : Option NorCode
  maint : Bool
  fwBusy : Bool
  hostBusy : Bool
  uncorr : Bool
  target : Nat
  sectorSel : Nat
  corrected : Nat
  /-- The host operation accepted: under way, or waiting while FW_BUSY is set (R347). -/
  hostOp : Option HostNorOp
  fwOp : Option FwNorOp
  /-- Writes of the drive's own that wait for the program engine (R347), oldest first. -/
  later : List NorWrite
  /-- Journal head, next free block in it, and next SEQ of a block anywhere (R350, R355). -/
  head : Nat
  nextBlock : Nat
  nextSeq : Nat
  /-- Journal sectors in the window, oldest first, the head last. -/
  window : List Nat
  deriving DecidableEq, Repr

/-! ### Firmware and security -/

/-- A firmware image as the loader reads it (R394, R395). -/
structure FwImage where
  bytes : Blob
  major : Nat
  minor : Nat
  patch : Nat
  deriving DecidableEq, Repr

/-- A Firmware Commit under way (R394). -/
structure FwCommit where
  hdr : Option Hdr
  ca : Nat
  image : FwImage
  deriving DecidableEq, Repr

/-- Firmware (R394 to R396). -/
structure FwSt where
  minor : Nat
  patch : Nat
  /-- The staged image, and the 4 KiB pieces of it that have arrived. -/
  staged : Blob
  pieces : List Nat
  /-- Replicas on valleys 4, 12, 20 and 28. -/
  replicas : List (Option FwImage)
  commit : Option FwCommit
  /-- The recovery controller runs (R396). -/
  recovery : Bool
  rewrite : List Nat
  deriving DecidableEq, Repr

/-- A Sanitize under way (R406). -/
structure Sanitize where
  block : Bool
  bell : BitVec 48
  /-- SEQ of its KIND 88h block. -/
  record : Nat
  deriving DecidableEq, Repr

/-- Where an SPDM connection stands (R402). -/
inductive SpdmPhase where
  | start | versioned | capable | negotiated
  deriving DecidableEq, Repr

/-- The security engine (R398 to R408). -/
structure SecSt where
  /-- OWNER_HASH as read at the last reset; all ones: none enrolled. -/
  ownerHash : BitVec 256
  bootFlags : BitVec 64
  nonce : BitVec 128
  rejects : Nat
  lastReject : Nat
  lastRejectBell : BitVec 48
  nsKeys : List (Nat × Nat)
  idxKeys : List (Nat × Nat)
  sanitize : Option Sanitize
  spdm : SpdmPhase
  /-- The messages of the connection so far, from which the signatures are made. -/
  transcript : Blob
  deriving DecidableEq, Repr

/-! ### Namespaces and flash translation -/

/-- An NVM namespace (R90, R91, R303). -/
structure Ns where
  nsid : Nat
  base : Nat
  slots : Nat
  attached : Bool
  deriving DecidableEq, Repr

/-- A map entry other than unmapped (R313). -/
inductive MapEnt where
  | phys (p : Nat)
  | lost
  deriving DecidableEq, Repr

/-- A programmed slot (R313, R315): its tag and what it holds. -/
structure FSlot where
  lsn : Nat
  kind : Nat
  pages : Nat
  wcount : Nat
  openSeq : Nat
  data : Blob
  deriving DecidableEq, Repr

/-- A unit in the write buffer (R318). -/
structure BufUnit where
  pslot : Nat
  lsn : Nat
  kind : Nat
  wcount : Nat
  data : Blob
  /-- Poisoned granules of the buffer copy. -/
  poison : List Nat
  /-- The slot it was copied from (R322). -/
  source : Option Nat
  committed : Bool
  /-- Parity indices whose acknowledgement is awaited (R305). -/
  acks : List Nat
  deriving DecidableEq, Repr

/-- An open superblock (R317): the next row of each channel, and the groups started. -/
structure OpenSb where
  sb : Nat
  stream : Stream
  openSeq : Nat
  fill : List Nat
  started : Nat
  deriving DecidableEq, Repr

/-- A superblock that is not free. -/
structure Sb where
  openSeq : Nat
  stream : Stream
  /-- Its data channels in ascending order and its parity channels, as they were at its opening (R316, R333). -/
  data : List Nat
  par : List Nat
  closed : Bool
  /-- Retired whole (R333). -/
  retired : Bool
  deriving DecidableEq, Repr

/-- An erase under way (R326, R328). -/
structure Erasing where
  record : Nat
  suspends : Nat
  deriving DecidableEq, Repr

/-- A column: the blocks of a superblock on one channel. -/
structure Column where
  erases : Nat
  retired : Bool
  closed : Bool
  reads : Nat
  erasing : Option Erasing
  /-- Erased since its superblock's last use. -/
  erased : Bool
  deriving DecidableEq, Repr

/-- A group program under way (R316). -/
structure Prog where
  pid : Nat
  sb : Nat
  group : Nat
  stream : Stream
  deriving DecidableEq, Repr

/-- A journal record of 16 bytes (R440). -/
structure JRec where
  /-- A map journal record; otherwise a change record. -/
  isMap : Bool
  lsn : Nat
  ent : Option MapEnt
  wcount : Nat
  ready : Bool
  /-- Change units of a change record: insert or delete numbers. -/
  units : List Nat
  deriving DecidableEq, Repr

/-- A deferred error range (R102, R103). -/
structure Defer where
  sequence : Nat
  nsid : Nat
  slba : Nat
  count : Nat
  bell : BitVec 48
  cause : Nat
  reported : Bool
  /-- LBAs of the range written again or deallocated since. -/
  mended : List Nat
  /-- SEQ of its KIND 05h record. -/
  record : Nat
  deriving DecidableEq, Repr

/-- What a read of flash is for. -/
inductive JobKind where
  | nvmRead (h : Hdr) (nsid slba nlb : Nat)
  /-- The rest of the units that a Write covers in part (R318); `rest` LBAs of a Write Zeroes follow it (R381). -/
  | write (h : Hdr) (nsid slba : Nat) (data : Blob) (rest : Nat)
  | memCopy (h : Hdr) (nsid ofst : Nat) (srcNsid slba lbas : Nat)
  | proxy (port member tag nsid slba nlb : Nat)
  | move (mover : Nat)
  | scan (run valley unit : Nat)
  | piece (run valley list piece : Nat)
  /-- The objects of an Embed and Insert: its parameter block and source records. -/
  | embed (h : Hdr) (room : Nat) (block recs : Blob)
  /-- The example objects of a Vector Query: the lesson's slot and the references. -/
  | examples (run slot : Nat) (refs : Blob)
  | copy (source : Nat) (stream : Stream)
  | patrol (source : Nat)
  deriving DecidableEq, Repr

/-- A unit as it comes down a valley's pipeline, with the granules that carry poison. -/
structure UnitData where
  lsn : Nat
  data : Blob
  poison : List Nat
  /-- Lost, so that a read of it completes with Unrecovered Read Error. -/
  lost : Bool
  deriving DecidableEq, Repr

/-- A reader and the units it has so far. -/
structure Job where
  jid : Nat
  kind : JobKind
  wait : List Nat
  got : List UnitData
  deriving DecidableEq, Repr

/-- Steps of the decode of a page read (R131, R363). -/
inductive ReadStage where
  | hard | soft | recover
  deriving DecidableEq, Repr

/-- A page read in flight (R130, R131). -/
structure FRead where
  rid : Nat
  job : Nat
  lsn : Nat
  pslot : Nat
  stage : ReadStage
  softReads : Nat
  deriving DecidableEq, Repr

/-- Statistics of R337 that count. -/
structure FtlStats where
  hostUnits : Nat
  unitsProgrammed : Nat
  gcCopies : Nat
  gcDiscarded : Nat
  programFails : Nat
  eraseFails : Nat
  halfErased : Nat
  softRewrites : Nat
  refreshes : Nat
  lostUnits : Nat
  suspends : Nat
  suspendWaits : Nat
  tagCrcFails : Nat
  retiredColumns : Nat
  retiredSbs : Nat
  patrolProgress : Nat
  patrolOverrun : Nat
  deriving DecidableEq, Repr

/-- A Write under write-through that waits for its groups (R385), by the slots placed. -/
structure WriteWait where
  hdr : Hdr
  slots : List Nat
  deriving DecidableEq, Repr

/-- Flash translation (R313 to R337, R440). -/
structure FtlSt where
  map : List (Nat × MapEnt)
  wcounts : List (Nat × Nat)
  flash : List (Nat × FSlot)
  buf : List BufUnit
  sbs : List (Nat × Sb)
  cols : List (Nat × Column)
  opens : List OpenSb
  openSeq : Nat
  progs : List Prog
  jobs : List Job
  reads : List FRead
  /-- The next number of a job or a read. -/
  nextId : Nat
  staging : List JRec
  /-- Records programmed to the ring since the newest checkpoint. -/
  ring : List JRec
  ckptGen : Nat
  /-- Bells since the newest checkpoint. -/
  ckptAge : Nat
  /-- Erases of every column that `cols` does not list. -/
  baseErases : Nat
  flushMark : Bool
  defers : List Defer
  deferTotal : Nat
  deferOverflow : Bool
  exhausted : Bool
  /-- Columns to copy in the next recess, ahead of other background work, with the copies that wait in order. -/
  copyCols : List Nat
  /-- Writes under write-through. -/
  writes : List WriteWait
  /-- Columns to refresh (R331). -/
  refreshCols : List Nat
  /-- Units to rewrite in the next recess (R363). -/
  rewriteLsns : List Nat
  /-- The slot patrol read last, by age order (R330). -/
  patrolAt : Nat
  patrolBells : Nat
  stats : FtlStats
  deriving DecidableEq, Repr

/-- Namespaces. -/
structure NsSt where
  list : List Ns
  deriving DecidableEq, Repr

/-! ### Memory namespaces, segments and lessons (R110 to R127, R243 to R258) -/

/-- A byte-addressed RAM with its poison marks by granule of 64 bytes (R360, R442). -/
structure Ram where
  cells : Cells
  poison : List Nat
  deriving DecidableEq, Repr

/-- A memory range set (R120). -/
structure RangeSet where
  room : Nat
  id : Nat
  ranges : List MemRange
  deriving DecidableEq, Repr

/-- Kinds of segment (R118). -/
inductive SegKind where
  | pinned | working | cached
  deriving DecidableEq, Repr

/-- What a segment belongs to. -/
inductive SegOwner where
  /-- A loaded lesson: classroom and slot. -/
  | lesson (room slot : Nat)
  | run (id : Nat)
  /-- A cached copy: of a span of an NVM namespace, or of an index's centroids. -/
  | cache (room : Nat) (nsid slba lbas : Nat)
  | centroids (room index : Nat)
  deriving DecidableEq, Repr

/-- A placed segment. -/
structure Segment where
  owner : SegOwner
  kind : SegKind
  room : Nat
  tier : Nat
  die : Nat
  base : Nat
  size : Nat
  lastRead : Nat
  stale : Bool
  /-- Running lessons that use a cached segment. -/
  users : List Nat
  deriving DecidableEq, Repr

/-- A segment entry of a lesson image (R243). -/
structure SegDecl where
  kind : SegKind
  tier : Nat
  die : Nat
  size : Nat
  deriving DecidableEq, Repr

/-- A lesson in a slot (R243, R244). -/
structure Lesson where
  room : Nat
  slot : Nat
  image : Blob
  digest : BitVec 256
  active : Bool
  quarantined : Bool
  pri : Nat
  arrays : Nat
  vus : Nat
  movers : Nat
  flags : Nat
  localInit : List Nat
  inKind : Nat
  inFmt : Nat
  inLayout : Nat
  inA : Nat
  inB : Nat
  mean : List F32
  invStd : List F32
  outDim : Nat
  outFmt : Nat
  segs : List SegDecl
  sems : List (Nat × Nat)
  deriving DecidableEq, Repr

/-- A tier 3 window (R116). -/
structure Window where
  base : Nat
  pages : Nat
  access : Nat
  deriving DecidableEq, Repr

/-- A wait of a run on a semaphore that has not been granted (R250), with the operation that it holds back. -/
structure Wait where
  engine : Engine
  sem : Nat
  since : Nat
  counted : Bool
  op : Option Instr
  deriving DecidableEq, Repr

/-- A run of a lesson, from its admission or its wait for segments to its completion (R245 to R254). -/
structure Run where
  id : Nat
  hdr : Hdr
  room : Nat
  slot : Nat
  pri : Nat
  /-- Bell and tick of admission. -/
  admitted : Nat
  die : Nat
  engines : List Engine
  sems : List Nat
  /-- Units of shared semaphores held (R251). -/
  holds : List Nat
  /-- Priorities handed back (R254): classroom priority and lesson priority, with the waiter. -/
  raised : Option (Nat × Nat × Nat)
  waits : List Wait
  windows : List Window
  /-- Descriptors and vector operations ended so far. -/
  done : Nat
  /-- Bell since which the run has been ready on an engine without holding it (R249). -/
  ready : List (Engine × Nat)
  wrotePoison : Bool
  /-- Operations whose wait has been granted while another run held the engine (R250). -/
  resume : List (Engine × Instr)
  /-- The run is a Train Step's lesson: its end completes no command (R261). -/
  train : Bool
  /-- To be run again from its start, alone if a suspect (R371). -/
  rerun : Bool
  deriving DecidableEq, Repr

/-- An engine of the array dies, or a media engine or a valley: who holds it, and until when. -/
structure EngineSt where
  engine : Engine
  run : Option Nat
  /-- Position at which the slice ends. -/
  sliceEnd : Nat
  /-- Held for one slice ahead of every key (R249). -/
  grace : Bool
  deriving DecidableEq, Repr

/-- Statistics of R127 that count. -/
structure PoolStats where
  evictions : Nat
  staleFrees : Nat
  waitBells : Nat
  failT1 : Nat
  failT2 : Nat
  failT3 : Nat
  denied : Nat
  classWait : List Nat
  windowsMax : List Nat
  deriving DecidableEq, Repr

/-- Memory namespaces 73 and 74 and the tier pool. -/
structure MemSt where
  sram : Ram
  dram : Ram
  /-- Lost spans: namespace, first byte, length (R126, R365). -/
  lostSpans : List (Nat × Nat × Nat)
  sets : List RangeSet
  segs : List Segment
  stats : PoolStats
  deriving DecidableEq, Repr

/-- A classroom's entry in R258. -/
structure RoomStats where
  runs : Nat
  preempted : Nat
  handbacks : Nat
  starve : Nat
  deriving DecidableEq, Repr

/-- Lessons, runs and scheduling. -/
structure SchedSt where
  lessons : List Lesson
  runs : List Run
  nextRun : Nat
  engines : List EngineSt
  /-- Shared semaphores 32 to 63 of a classroom that are not zero: classroom, semaphore, count. -/
  shared : List ((Nat × Nat) × Nat)
  runsStarted : Nat
  preemptions : Nat
  handbacks : Nat
  starveGrants : Nat
  longWaits : Nat
  rooms : List RoomStats
  /-- Send blocks sent: port, virtual channel, flits. -/
  sends : List (Nat × Nat × Nat)
  deriving DecidableEq, Repr

/-! ### Engines of the array dies (R203 to R224) -/

/-- The shape of an accumulator chain (R210). -/
structure Chain where
  mode : Nat
  m : Nat
  n : Nat
  float : Bool
  group : Nat
  deriving DecidableEq, Repr

/-- A fill in its drain (R204), or one that ends with its last add. -/
structure Drain where
  run : Nat
  desc : Blob
  /-- Accumulators drained, by cell; empty without DRAIN. -/
  vals : List (Nat × BitVec 48)
  marks : List Nat
  float : Bool
  deriving DecidableEq, Repr

/-- A matrix array: accumulators by logical cell i × columns + j, and marks (R207, R222). -/
structure Mxa where
  acc : List (Nat × BitVec 48)
  marks : List Nat
  chain : Option Chain
  drains : List Drain
  deriving DecidableEq, Repr

/-- A vector unit: registers by 64 × register + lane, poison by the same number, and its gather buffer. -/
structure Vu where
  regs : List (Nat × BitVec 32)
  poison : List Nat
  gather : Ram
  deriving DecidableEq, Repr

/-- A move under way (R218): what is to be written, row by row. -/
structure Moving where
  run : Nat
  desc : Blob
  /-- The job that reads a tier 2 source, while it reads. -/
  job : Option Nat
  rows : List Blob
  /-- Poisoned bytes of each row, by offset in the row. -/
  poison : List (List Nat)
  req : Option Nat
  deriving DecidableEq, Repr

/-- Arrays, vector units and movers. -/
structure EngSt where
  mxa : List Mxa
  vu : List Vu
  movers : List (Option Moving)
  /-- Tier 3 writes made to host memory: bus address and bytes, oldest first (R117). -/
  hostWrites : List (Nat × Blob)
  /-- Array dies 3 and 4 that are power-gated, and bells each has been without array work (R43). -/
  gated : List Nat
  idleBells : List Nat
  deriving DecidableEq, Repr

/-! ### Dies, errors and retirement (R364 to R376) -/

/-- States of R375. -/
inductive DieState where
  | running | resetting | replaying | degraded | failed
  deriving DecidableEq, Repr

/-- A die (R375), with its replay under R371. -/
structure Die where
  state : DieState
  gen : BitVec 8
  resets : Nat
  wdFires : Nat
  lateDrops : Nat
  genDropped : Nat
  corrected : Nat
  poisonCreated : Nat
  convertInvalid : Nat
  outlierOverflow : Nat
  semOverflows : Nat
  sramRows : Nat
  lastBell : BitVec 48
  lastCause : Nat
  /-- Position at which the last reset began. -/
  resetAt : Nat
  /-- Suspects to replay, the one in replay first; whether that one has hung again; whether one has been quarantined since the
  watchdog fired. -/
  suspects : List Nat
  replayed : Bool
  quarantined : Bool
  degradedSpares : Bool
  deriving DecidableEq, Repr

/-- A die-to-die request outstanding (R370). -/
structure DieReq where
  id : Nat
  holder : Nat
  target : Nat
  tag : BitVec 8
  /-- Position of issue. -/
  issued : Nat
  run : Nat
  deriving DecidableEq, Repr

/-- A resource in the layout of R366. -/
structure Resource where
  type : Nat
  unit : Nat
  sub : Nat
  index : Nat
  deriving DecidableEq, Repr

/-- An entry of log page C2h (R376). -/
structure ErrEntry where
  sequence : Nat
  bell : BitVec 48
  event : Nat
  state : Nat
  resource : Resource
  deriving DecidableEq, Repr

/-- Dies, and the error, poison and retirement log. -/
structure DieSt where
  dies : List Die
  reqs : List DieReq
  nextReq : Nat
  replays : Nat
  transients : Nat
  quarantines : Nat
  moves : Nat
  log : List ErrEntry
  logSeq : Nat
  logOverflow : Bool
  correctedDram : Nat
  poisonDelivered : Nat
  recoveredRow : Nat
  recoveredMirror : Nat
  recoveredPlain : Nat
  lostEntries : Nat
  candidates : Nat
  /-- Retired DRAM rows, DRAM banks and SRAM rows. -/
  retired : List Resource
  deriving DecidableEq, Repr

/-! ### Power and environment (R377 to R397, R411 to R422) -/

/-- What holds the drive down, if anything. -/
inductive Down where
  /-- Running. -/
  | up
  /-- In a whole-drive reset after a power loss, until power returns. -/
  | noPower
  /-- In reset for temperature, until the sensors have cooled (R420). -/
  | hot
  /-- The hub die is failed (R373). -/
  | hubFailed
  deriving DecidableEq, Repr

/-- Supplies, throttling and sensors. -/
structure PowerSt where
  down : Down
  vinMv : Nat
  vauxMv : Nat
  mated : Bool
  pwrdis : Bool
  /-- The management endpoint serves SMBus, at the addresses of the strap read (R417). -/
  mgmt : Bool
  strapGnd : Bool
  supplySag : Bool
  auxSag : Bool
  envelopeExceeded : Bool
  /-- Write-through is in force (R385, R421). -/
  through : Bool
  bankHot : Bool
  lastFlushIncomplete : Bool
  /-- Depth in steps of stages 1 to 3: for power and for temperature. -/
  powerSteps : List Nat
  thermalSteps : List Nat
  /-- Input power samples of the last 10 ms, newest first, in 0.1 W. -/
  samples : List Nat
  /-- Samples in a row whose mean lay below the cap less 5 W. -/
  belowRun : Nat
  holdupMj : Nat
  sagEvents : Nat
  powerLosses : Nat
  incompleteFlushes : Nat
  lastFlushUs : Nat
  lastFlushMj : Nat
  peakLimits : Nat
  /-- Input energy since power-on in µJ, of which R397 reports whole joules. -/
  energyUj : Nat
  temps : List (Sensor × Nat)
  /-- Thermal Management Temperature 1 and 2: transitions, and time in ns (R422). -/
  tmtCounts : List Nat
  tmtNs : List Nat
  safeTrims : Bool
  /-- Local time up to which a host command, a program run or a rebuild was last active (R418). -/
  activeNs : Option Nat
  deriving DecidableEq, Repr

/-! ### Indexes (R154 to R168) -/

/-- An entry of an index (R154): its ID, attribute record, fine code, coarse code and stored vector. -/
structure Entry where
  id : BitVec 64
  attr : Blob
  fine : List Nat
  coarse : List Nat
  /-- The vector as kept in vector pieces, empty with FULL_FORMAT 0. -/
  vec : List F32
  deriving DecidableEq, Repr

/-- A version of a list (R136, R154). -/
structure ListVer where
  version : Nat
  entries : List Entry
  /-- Tombstoned ordinals. -/
  dead : List Nat
  /-- Logical slots of its code, ID and vector pieces, in order. -/
  code : List Nat
  ids : List Nat
  vecs : List Nat
  /-- The list carries coarse codes (R165). -/
  coarse : Bool
  deriving DecidableEq, Repr

/-- A pending entry (R155, R163, R164). -/
structure Pend where
  /-- The model's own number, by which tombstones name it. -/
  num : Nat
  list : Nat
  entry : Entry
  /-- Bell of its commit. -/
  bell : Nat
  room : Nat
  hasCoarse : Bool
  dead : Bool
  deriving DecidableEq, Repr

/-- Centroid data (R154). -/
structure CentData where
  cents : List (List F32)
  norms : List F32
  fine : List (List (List F32))
  coarse : List (List (List F32))
  /-- Term tables, by list: m × 256 BF16 values read back as FP32. -/
  terms : List (List F32)
  lsns : List Nat
  deriving DecidableEq, Repr

/-- States of R186. -/
inductive IdxState where
  | untrained | trained | retraining | dropping
  deriving DecidableEq, Repr

/-- An index. -/
structure Index where
  num : Nat
  /-- The model's own number: an index number may be taken again (R159). -/
  serial : Nat
  dim : Nat
  centroids : Nat
  m : Nat
  coarse : Bool
  metric : Nat
  attrLen : Nat
  full : Nat
  mirror : Bool
  reserve : Nat
  state : IdxState
  cent : Option CentData
  /-- Lists that are not empty, by number. -/
  lists : List (Nat × ListVer)
  pending : List Pend
  /-- Lists that have lost their coarse codes and may get them back from compaction only (R165). -/
  noCoarse : List Nat
  deriving DecidableEq, Repr

/-- Where a new list version has what the old one held: marks set meanwhile follow their entries. -/
structure Moves where
  /-- List and ordinal before and after. -/
  ords : List ((Nat × Nat) × (Nat × Nat))
  /-- Pending entries by number, with the list and ordinal each has got. -/
  pend : List (Nat × (Nat × Nat))
  /-- Pending entries left out. -/
  gone : List Nat
  deriving DecidableEq, Repr

/-- A committed change that awaits its publish point (R81, R163 to R167). -/
inductive Change where
  | create (ix : Index)
  | drop (serial : Nat)
  | insert (serial : Nat) (ents : List Pend)
  /-- Marks on ordinals of list versions, and on pending entries by number. -/
  | delete (serial : Nat) (marks : List (Nat × Nat)) (pend : List Nat)
  | train (serial : Nat) (c : CentData)
  /-- A fold or a compaction: a new version of a list. -/
  | fold (serial : Nat) (list : Nat) (v : ListVer) (mv : Moves)
  /-- A retrain: new centroid data and every list. -/
  | retrain (serial : Nat) (c : CentData) (lists : List (Nat × ListVer)) (mv : Moves)
  deriving DecidableEq, Repr

/-- A committed change with the boundary that publishes it. -/
structure Publish where
  at' : BitVec 48
  change : Change
  deriving DecidableEq, Repr

/-- An outcome record under way (R198). -/
structure Outcome where
  outcome : Nat
  vectors : Nat
  rejected : Nat
  firstReject : Nat
  deriving DecidableEq, Repr

/-- Where an Embed and Insert puts what it finds (R198, R199). -/
structure EmbedOut where
  nsid : Nat
  ofst : Nat
  outcomes : List Outcome
  padded : Nat
  /-- Entries of each reference, in order, that have not committed. -/
  left : List Nat
  deriving DecidableEq, Repr

/-- An insert that waits to commit (R163), or one group of an Embed and Insert (R199). -/
structure Waiting where
  wid : Nat
  hdr : Hdr
  serial : Nat
  room : Nat
  /-- Entries of the group that waits, and of the groups behind it. -/
  ents : List Pend
  rest : List Pend
  committed : Nat
  mirrored : Bool
  confirmed : Bool
  embed : Option EmbedOut
  deriving DecidableEq, Repr

/-- A fold whose list version the buddy has not confirmed yet (R309). -/
structure Building where
  serial : Nat
  list : Nat
  version : Nat
  change : Change
  deriving DecidableEq, Repr

/-- Indexes of the drive. -/
structure IdxSt where
  live : List Index
  nextSerial : Nat
  nextPend : Nat
  queue : List Publish
  waiting : List Waiting
  nextWait : Nat
  /-- Versions of dropped indexes that a query still uses (R159). -/
  dropped : List Index
  building : List Building
  /-- Pending entries left out of a fold (R360). -/
  lostEntries : Nat
  /-- The buddy's mirror of this drive's indexes is behind (R309). -/
  behind : Bool
  deriving DecidableEq, Repr

/-! ### Scans and queries (R143 to R186) -/

/-- A predicate (R138). -/
structure Pred where
  ofst : Nat
  type : Nat
  op : Nat
  group : Nat
  a : Nat
  b : Nat
  deriving DecidableEq, Repr

/-- A result record of a Filtered Scan (R148). -/
structure ScanRec where
  unitLba : Nat
  record : Nat
  key : Nat
  bytes : Blob
  deriving DecidableEq, Repr

/-- A Filtered Scan in progress. -/
structure ScanRun where
  id : Nat
  hdr : Hdr
  room : Nat
  nsid : Nat
  shift : Nat
  mode : Nat
  project : Bool
  preds : List Pred
  keyOfst : Nat
  keyType : Nat
  keyDesc : Bool
  outNsid : Nat
  outFirst : Nat
  cap : Nat
  hostTag : BitVec 64
  admitBell : BitVec 48
  admitTick : Nat
  /-- Position of the end of the deadline; none without one. -/
  stop : Option Nat
  /-- Units not yet issued, in ascending order, and units being read. -/
  todo : List Nat
  busy : List Nat
  /-- Valleys on which the run holds a scan stream (R143). -/
  streams : List Nat
  recs : List ScanRec
  matched : Nat
  scanned : Nat
  units : Nat
  skipped : Nat
  poisoned : Nat
  /-- Records of the range that are not unmapped (R436). -/
  range : Nat
  deriving DecidableEq, Repr

/-- One query of a batch. -/
structure QOne where
  vec : List F32
  /-- Lists probed, nearest first, and how many of them were dispatched to flash. -/
  lists : List Nat
  flash : Nat
  /-- Pieces whose ordinals are scanned from coarse codes, in order: list and piece (R178, R179). -/
  coarse : List (Nat × Nat)
  /-- Position of the flash cut-off, where the query has a deadline, and whether it has come. -/
  cf : Nat
  cut : Bool
  /-- Candidates that have reached the merge. -/
  cands : List Cand
  counters : QCounters
  deriving DecidableEq, Repr

/-- A piece of a query on a valley. -/
structure QPiece where
  list : Nat
  piece : Nat
  lsn : Nat
  /-- Queries of the batch that probe it in this read (R143). -/
  users : List Nat
  /-- 0 not issued, 1 being read, 2 read, 3 given up. -/
  stage : Nat
  /-- Poisoned granules of the piece as delivered, or the whole piece. -/
  poison : List Nat
  deriving DecidableEq, Repr

/-- A valley's share of a query (R142, R143). -/
structure QShare where
  valley : Nat
  pieces : List QPiece
  /-- Heap entries that the stream reserves, and whether it has its stream. -/
  reserve : Nat
  started : Bool
  ended : Bool
  deriving DecidableEq, Repr

/-- Where the answer of a query goes. -/
inductive QReply where
  /-- A host command on this drive. -/
  | host (h : Hdr) (outNsid outFirst : Nat) (tag : BitVec 64)
  /-- A head elsewhere in the plain, by port and member. -/
  | head (port member qid : Nat) (mirrored : Bool)
  deriving DecidableEq, Repr

/-- A Vector Query in progress: of a host, or of a head in the plain (R169 to R185). -/
structure QRun where
  id : Nat
  room : Nat
  reply : QReply
  /-- Plain-wide, headed by this drive (R184). -/
  wide : Bool
  /-- The member that owns the index: another's, where the view is its mirror (R185). -/
  owner : Nat
  view : Index
  exhaustive : Nat
  k : Nat
  nprobe : Nat
  rerank : Nat
  preds : List Pred
  admitBell : BitVec 48
  admitTick : Nat
  /-- Tick length at admission in ns times 1,024. -/
  tau : Nat
  /-- Positions of cc, rc and E; none without a deadline. -/
  cuts : Option (Nat × Nat × Nat)
  one : List QOne
  shares : List QShare
  /-- The re-rank has been cut, with the candidates that were ranked before it; none: not cut (R181). -/
  rerankCut : Option Nat
  coarseCut : Option Nat
  /-- Shards asked for and not answered, by owner; shards answered, shards served from mirrors, and the answers. -/
  asked : List Nat
  answered : List Nat
  mirrored : List Nat
  answers : List MemberAnswer
  own : Bool
  deriving DecidableEq, Repr

/-- A valley's counters (R153). -/
structure ValleyStats where
  bytes : Nat
  pages : Nat
  softPages : Nat
  softSenses : Nat
  poison : Nat
  refused : Nat
  deriving DecidableEq, Repr

/-- Query statistics that count (R186). -/
structure QStats where
  queries : Nat
  queriesHead : Nat
  sharesServed : Nat
  shortFilter : Nat
  shortIndex : Nat
  shortDeadline : Nat
  shortPoison : Nat
  shortMember : Nat
  listsFlash : Nat
  listsCoarse : Nat
  listsSkipped : Nat
  piecesSkipped : Nat
  mirrorShares : Nat
  late : Nat
  deadlineRejects : Nat
  reranked : Nat
  deriving DecidableEq, Repr

/-- Scans and queries. -/
structure QuerySt where
  scans : List ScanRun
  runs : List QRun
  nextRun : Nat
  stats : QStats
  valleys : List ValleyStats
  decompErrors : Nat
  tieTruncations : Nat
  deriving DecidableEq, Repr

/-! ### Training (R260 to R282) -/

/-- An entry of the bucket table (R263), with where its reduction stands on this participant. -/
structure Bucket where
  id : Nat
  kind : Nat
  index : Nat
  elems : Nat
  grad : Nat
  weight : Nat
  next : Nat
  state : Nat
  wFmt : Nat
  /-- Posted ready by the lesson in this attempt (R265). -/
  ready : Bool
  /-- Bucket exponents received, by member (R268), on the head; and e_max once known (R269). -/
  exps : List (Nat × BitVec 32)
  eMax : Option (BitVec 32)
  /-- Contributions summed so far by member, and the sums, chunk by chunk, once whole (R271). -/
  summed : List Nat
  sum : List (Nat × List (BitVec 64))
  /-- The reduced gradient (R272). -/
  reduced : Option (List F32)
  /-- Staged weights and state of a KIND 1 to 3 bucket; KIND 0 is staged at NEXT_ADDR. -/
  staged : List F32
  /-- Members whose commit the head holds. -/
  commits : List Nat
  /-- Position at which the head saw its first contribution, and the last contribution of each member (R279). -/
  opened : Option Nat
  poisoned : Bool
  deriving DecidableEq, Repr

/-- Where a step stands. -/
inductive StepPhase where
  /-- Waiting for the members' reports (R264). -/
  | checking
  | running
  /-- The attempt has been aborted; the next one waits for ready flits (R280). -/
  | aborted
  /-- The apply bell is fixed. -/
  | applyAt (bell : BitVec 48)
  /-- The copy of R276 is under way. -/
  | copying (bell : BitVec 48)
  deriving DecidableEq, Repr

/-- A Train Step on this participant. -/
structure TStep where
  room : Nat
  /-- The host command, on the head. -/
  hdr : Option Hdr
  head : Nat
  block : Blob
  lesson : Nat
  scope : Nat
  opt : Nat
  reduce : Nat
  maxAttempts : Nat
  exKind : Nat
  examples : Nat
  stepId : BitVec 32
  index : Nat
  outNsid : Nat
  outFirst : Nat
  lr : F32
  beta1 : F32
  beta2 : F32
  eps : F32
  decay : F32
  hostTag : BitVec 64
  buckets : List Bucket
  attempt : Nat
  participants : List Nat
  phase : StepPhase
  /-- Members asked for a report, and LAST_STEP and LESSON_ID as reported. -/
  asked : List Nat
  reports : List (Nat × BitVec 32 × BitVec 64)
  /-- Members that have answered ready, and the position of the abort. -/
  readyFrom : List Nat
  abortAt : Nat
  timeouts : Nat
  dropped : Bool
  moved : Bool
  published : Bool
  nonfinite : Option Nat
  /-- Last contribution or progress flit of each member, and last flit of the head. -/
  heard : List (Nat × Nat)
  headHeard : Nat
  admitBell : BitVec 48
  admitTick : Nat
  /-- The lesson run of the attempt, and runs that its lessons made suspects. -/
  run : Option Nat
  suspect : Bool
  /-- A die reset has stopped the attempt's lesson, which runs again in the next attempt (R280). -/
  halted : Bool
  deriving DecidableEq, Repr

/-- Training. -/
structure TrainSt where
  lastStep : List (BitVec 32)
  steps : List TStep
  /-- Flits and records of another attempt that were dropped (R260). -/
  stale : Nat
  deriving DecidableEq, Repr

/-! ### Ports and plain (R283 to R312) -/

/-- States of a port (R284). -/
inductive PortState where
  | down | detect | train | align | identify | up | miswired
  deriving DecidableEq, Repr

/-- What a flit carries, as its TYPE gives it (R288). -/
inductive Payload where
  | idle
  | bell (f : BellFlit)
  | joinRequest (j : JoinReq)
  | joinAdmit (a : JoinAnswer)
  | leave
  | flowSetup (e : FlowEntry)
  | nak (seq : Nat)
  | resync (counts : List Nat)
  | parityAck (a : ParityAck)
  | train (m : TrainMsg)
  | timetable (tt bell : Nat)
  | nsTable (t : NsTable)
  | query (q : PlainQuery)
  | answer (a : MemberAnswer)
  | delta (d : ParityDelta)
  | rebuild (r : RebuildFlit)
  | proxyRead (q : ProxyRead)
  | proxyData (d : ProxyData)
  | mirror (m : MirrorMsg)
  | scale (r : ScaleFlit)
  | sum (r : SumFlit)
  | gather (g : GatherFlit)
  /-- A flit of a lesson's send block (R255). -/
  | lesson (vc : Nat)
  deriving DecidableEq, Repr

/-- A flit sent: port, header and payload. -/
structure Sent where
  port : Nat
  src : Nat
  dst : Nat
  seq : Nat
  vc : Nat
  cls : Nat
  flow : Nat
  body : Payload
  /-- ACK and CREDIT_RET as the header carries them. -/
  ack : Nat
  ret : Nat
  deriving DecidableEq, Repr

/-- A pass port (R284 to R291, R312). -/
structure Port where
  state : PortState
  oneLane : Bool
  cableLong : Bool
  neighbour : Nat
  far : Option PortIdentity
  rtt : Nat
  rate : Nat
  fecCorrected : Nat
  replays : Nat
  linkLosses : Nat
  trainFails : Nat
  creditFixes : Nat
  /-- Failures in a row (R284). -/
  failRun : Nat
  /-- Next SEQ to send; next SEQ expected. -/
  txSeq : Nat
  rxSeq : Nat
  /-- Flits not acknowledged, oldest first, each with the times it has been replayed (R287). -/
  replay : List (Sent × Nat)
  /-- Flits that hold a credit, by VC and class (R289): two of each are in the reserve, the others in shared slots. -/
  inFlight : List Nat
  /-- Flits that wait for a credit or for room in the replay buffer, each with whether it is being forwarded. -/
  queue : List (Sent × Bool)
  /-- Flits sent and received on each VC and class since link-up. -/
  sent : List Nat
  received : List Nat
  deriving DecidableEq, Repr

/-- Own plain state (R297). -/
inductive OwnState where
  | standalone | joining | member | leaving | isolated
  deriving DecidableEq, Repr

/-- A member's view of another (R297). -/
inductive PeerState where
  | none | present | silent | absent | rejoining | left
  deriving DecidableEq, Repr

/-- What the drive holds about a member. -/
structure Peer where
  state : PeerState
  hops : Nat
  absentBell : BitVec 48
  absentCount : Nat
  silent : Nat
  heard : Bool
  count : BitVec 48
  mode : BellMode
  phaseNs : Int
  /-- Predicted moment of its next boundary, in local time, once a bell flit has been received. -/
  nextNs : Option Nat
  table : List NsTableEntry
  lastStep : BitVec 32
  /-- Mirror of the member's indexes that this drive holds, and whether it is current. -/
  mirror : List Index
  mirrorBehind : Bool
  deriving DecidableEq, Repr

/-- A join under way (R300, R301). -/
structure Join where
  /-- The host command; none for an automatic join. -/
  hdr : Option Hdr
  member : Nat
  mode : Nat
  /-- Bell at which it began, and the bell by which it must be admitted. -/
  start : BitVec 48
  until' : BitVec 48
  requested : Bool
  admitted : Option (BitVec 48 × BitVec 24 × Nat)
  deriving DecidableEq, Repr

/-- An admission that the reference member will make at the next boundary (R300). -/
structure Admission where
  member : Nat
  stale : Bool
  deriving DecidableEq, Repr

/-- A delta that has been sent, or waits to be (R305, R306). -/
structure DeltaOut where
  delta : ParityDelta
  member : Nat
  sent : Bool
  /-- Queued by a deallocate: sent in recess (R306). -/
  recess : Bool
  deriving DecidableEq, Repr

/-- A parity slot that this drive holds for others (R305): its content, and the write counts folded by data position. -/
structure ParitySlot where
  slot : Nat
  data : Blob
  counts : List (Nat × Nat)
  deriving DecidableEq, Repr

/-- A read that is served by another member or rebuilt (R307, R308). Slots are named as `RebuildFlit` names them. -/
structure Proxy where
  tag : Nat
  hdr : Hdr
  member : Nat
  nsid : Nat
  slba : Nat
  nlb : Nat
  /-- Slots asked for through rebuild streams, and slots that have arrived. -/
  want : List Nat
  got : List UnitData
  deriving DecidableEq, Repr

/-- The rebuild that a join asks of this drive (R311): its MODE and the next of its slots. -/
structure Rebuild where
  mode : Nat
  next : Nat
  deriving DecidableEq, Repr

/-- The plain as this drive sees it. -/
structure PlainSt where
  own : OwnState
  member : Nat
  peers : List Peer
  present : BitVec 24
  /-- Bitmap received from the reference member, adopted at the next boundary (R298). -/
  presentNext : Option (BitVec 24)
  reference : Nat
  ports : List Port
  flows : List FlowEntry
  tx : List Sent
  forwarded : List Sent
  /-- SRC and bell count of bell flits already forwarded. -/
  seen : List (Nat × BitVec 48)
  /-- Stripes in the stale map: block, stripe and the parity member. -/
  stale : List (Nat × Nat × Nat)
  rebuild : Option Rebuild
  rebuildLeft : Nat
  /-- Page reads that wait for their slot from plain parity (R363): the slot as `RebuildFlit` names it, and the read. -/
  recover : List (Nat × Nat)
  rebuiltReads : Nat
  unrecoverable : Nat
  deltas : List DeltaOut
  parity : List ParitySlot
  /-- Deltas received ahead of their turn (R305). -/
  early : List ParityDelta
  proxies : List Proxy
  nextTag : Nat
  join : Option Join
  admissions : List Admission
  leaveHdr : Option Hdr
  joinRefusal : Nat
  /-- The drive holds the plain key, handed to it at its admission (R405). -/
  plainKey : Bool
  /-- Copies made by gather flits (R293). -/
  gathered : List (Nat × Blob)
  /-- Flits discarded under R287, and flits with no route (R296). -/
  discarded : Nat
  unrouted : Nat
  /-- Smallest block count of the members (R304). -/
  blocks : Nat
  deriving DecidableEq, Repr

/-! ### The drive -/

/-- The drive. `pending` is the queue of commands; `free` counts the free values drawn (log 7). -/
structure State where
  pending : List Instr
  host : HostSt
  bell : BellSt
  img : ImgSt
  nor : NorSt
  fw : FwSt
  sec : SecSt
  ns : NsSt
  ftl : FtlSt
  mem : MemSt
  sched : SchedSt
  eng : EngSt
  dies : DieSt
  power : PowerSt
  idx : IdxSt
  query : QuerySt
  train : TrainSt
  plain : PlainSt
  free : Nat
  deriving DecidableEq, Repr

/-! ### Reset -/

def Port.reset : Port :=
  ⟨.down, false, false, 0xFF, none, 0, 0, 0, 0, 0, 0, 0, 0, 0, 0, [], List.replicate 8 0, [],
    List.replicate 8 0, List.replicate 8 0⟩

def Peer.reset : Peer := ⟨.none, 0, 0, 0, 0, false, 0, .freeRunning, 0, none, [], 0, [], false⟩

def Die.reset : Die := ⟨.running, 0, 0, 0, 0, 0, 0, 0, 0, 0, 0, 0, 0, 0, 0, [], false, false, false⟩

def HostSt.reset : HostSt where
  en := false
  rdy := false
  shst := 0
  link := true
  gts := 32
  width := 8
  perst := false
  sqs := []
  cqs := []
  outs := []
  held := []
  deletes := []
  posted := []
  msix := []
  aers := []
  waiting := []
  masked := []
  aborts := []
  arb := (0, 0, 0, 0)
  powerState := 0
  envelopeW := 150
  envelopeNext := none
  policy := Policy.default
  policyNext := none
  queryDef := IdxDefaults.default
  queryDefNext := none
  critWarn := 0
  unrecovered := 0
  errors := []
  errorCount := 0
  changedNs := []
  selfTests := []
  regs := []
  responses := []

/-- The bell at a start: Free-running at count 0 (R68, R70), the estimate at nominal (R434). -/
def BellSt.reset (periodUs : Nat) : BellSt where
  count := 0
  tick := 0
  held := 0
  mode := .freeRunning
  slots := List.replicate 8 (periodUs * 1000)
  fromEdge := false
  earlyEdge := false
  lastEdgeNs := 0
  lost := false
  offNominal := false
  phaseFault := false
  starved := false
  ptmValid := false
  glitches := 0
  missed := 0
  lossEvents := 0
  phaseFaults := 0
  classGcBells := 0
  classRefreshes := 0
  phaseClamps := 0
  countFixes := 0
  history := []
  stamp := 0
  localNs := 0
  boundNs := 0
  offRun := 0
  inRun := 0
  noRecess := 0
  clampRun := 0
  nearRun := 0
  hadRecess := false
  classGc := false
  timetable := 0
  selected := none
  inRecess := false
  recessAfterStarve := false

def ImgSt.reset : ImgSt := ⟨Image.rom, 0, Blob.zero 0, [], none, none, [none, none, none, none], none, 0, []⟩

/-- The option flash as shipped: nothing programmed, sector 16 open as the journal head (log 1). -/
def NorSt.reset : NorSt where
  words := []
  progs := []
  sectors := [(16, ⟨0, .opened⟩)]
  errSector := 0
  err := 0
  errValid := false
  done := false
  seq := 0
  code := none
  maint := false
  fwBusy := false
  hostBusy := false
  uncorr := false
  target := 0
  sectorSel := 0
  corrected := 0
  hostOp := none
  fwOp := none
  later := []
  head := 16
  nextBlock := 1
  nextSeq := 1
  window := [16]

/-- The firmware image that the drive is shipped with, whole in its four replicas (log 1). -/
def FwImage.shipped : FwImage := ⟨Config.fwShipped, 2, Config.fwMinor, Config.fwPatch⟩

def FwSt.reset : FwSt :=
  ⟨Config.fwMinor, Config.fwPatch, Blob.zero 0, [], List.replicate 4 (some FwImage.shipped), none, false, []⟩

def SecSt.reset : SecSt :=
  ⟨BitVec.allOnes 256, BitVec.allOnes 64, Config.draw128 0, 0, 0, 0, [], [], none, .start, Blob.zero 0⟩

def FtlStats.reset : FtlStats := ⟨0, 0, 0, 0, 0, 0, 0, 0, 0, 0, 0, 0, 0, 0, 0, 0, 0⟩

def FtlSt.reset : FtlSt :=
  ⟨[], [], [], [], [], [], [], 0, [], [], [], 0, [], [], 0, 0, 0, true, [], 0, false, false, [], [], [], [], 0, 0, FtlStats.reset⟩

def MemSt.reset : MemSt :=
  ⟨⟨[], []⟩, ⟨[], []⟩, [], [], [], ⟨0, 0, 0, 0, 0, 0, 0, List.replicate 8 0, List.replicate 8 0⟩⟩

def SchedSt.reset : SchedSt := ⟨[], [], 0, [], [], 0, 0, 0, 0, 0, List.replicate 8 ⟨0, 0, 0, 0⟩, []⟩

def EngSt.reset : EngSt :=
  ⟨List.replicate 8 ⟨[], [], none, []⟩, List.replicate 8 ⟨[], [], ⟨[], []⟩⟩, [none, none, none, none], [], [], [0, 0]⟩

def DieSt.reset : DieSt :=
  ⟨List.replicate 5 Die.reset, [], 0, 0, 0, 0, 0, [], 0, false, 0, 0, 0, 0, 0, 0, 0, []⟩

def PowerSt.reset : PowerSt where
  down := .up
  vinMv := 12000
  vauxMv := 3300
  mated := true
  pwrdis := false
  mgmt := true
  strapGnd := false
  supplySag := false
  auxSag := false
  envelopeExceeded := false
  through := false
  bankHot := false
  lastFlushIncomplete := false
  powerSteps := [0, 0, 0]
  thermalSteps := [0, 0, 0]
  samples := []
  belowRun := 0
  holdupMj := 3000
  sagEvents := 0
  powerLosses := 0
  incompleteFlushes := 0
  lastFlushUs := 0
  lastFlushMj := 0
  peakLimits := 0
  energyUj := 0
  temps := []
  tmtCounts := [0, 0]
  tmtNs := [0, 0]
  safeTrims := false
  activeNs := none

def IdxSt.reset : IdxSt := ⟨[], 0, 0, [], [], 0, [], [], 0, false⟩

def QuerySt.reset : QuerySt :=
  ⟨[], [], 0, ⟨0, 0, 0, 0, 0, 0, 0, 0, 0, 0, 0, 0, 0, 0, 0, 0⟩, List.replicate 32 ⟨0, 0, 0, 0, 0, 0⟩, 0, 0⟩

def TrainSt.reset : TrainSt := ⟨List.replicate 8 0, [], 0⟩

def PlainSt.reset : PlainSt where
  own := .standalone
  member := 0xFF
  peers := List.replicate 24 Peer.reset
  present := 0
  presentNext := none
  reference := 0xFF
  ports := List.replicate 4 Port.reset
  flows := []
  tx := []
  forwarded := []
  seen := []
  stale := []
  rebuild := none
  rebuildLeft := 0
  recover := []
  rebuiltReads := 0
  unrecoverable := 0
  deltas := []
  parity := []
  early := []
  proxies := []
  nextTag := 0
  join := none
  admissions := []
  leaveHdr := none
  joinRefusal := 0
  plainKey := false
  gathered := []
  discarded := 0
  unrouted := 0
  blocks := 0

/-- The drive right after a power-on start-up as manufactured: steps 1 to 8 of R389 have ended, CC.EN is 0 (log 1). -/
def State.reset : State where
  pending := []
  host := HostSt.reset
  bell := BellSt.reset 10000
  img := ImgSt.reset
  nor := NorSt.reset
  fw := FwSt.reset
  sec := SecSt.reset
  ns := ⟨[]⟩
  ftl := FtlSt.reset
  mem := MemSt.reset
  sched := SchedSt.reset
  eng := EngSt.reset
  dies := DieSt.reset
  power := PowerSt.reset
  idx := IdxSt.reset
  query := QuerySt.reset
  train := TrainSt.reset
  plain := PlainSt.reset
  free := 1

end Sys2Proof.Machine
end

