-- ==== Sys2Proof/Machine/Image.lean ====
section
/-! DEFINITION. The structure image as a bit-stream: its frames (R27, R51), header, sections and trailer (R29 to R48), and the
checks of R53 with the place of the first failure. -/

namespace Sys2Proof.Machine

/-! ### Frames (R27, R51) -/

/-- A frame meets R51 at a position of the image, beside frames already staged. -/
def frameOk (staged : List (Nat × Blob)) (pos : Nat) (f : Blob) : Bool :=
  let idx := f.le 0 2
  let plen := f.le 2 2
  let cnt := f.le 4 2
  decide ((crc32c (f.take 0 0xFFC)).toNat = f.le 0xFFC 4) &&
  decide (idx = pos ∧ idx < cnt ∧ 1 ≤ cnt ∧ cnt ≤ 4096) &&
  (staged.all fun g => g.2.le 8 8 == f.le 8 8 && g.2.le 4 2 == cnt) &&
  f.zeroAt 6 2 &&
  (if idx + 1 < cnt then decide (plen = 4076) else decide (1 ≤ plen ∧ plen ≤ 4076)) &&
  f.zeroAt (0x10 + plen) (4076 - plen)

/-- The frames of a Load from position `pos` on: what is staged, and the position of the first frame that fails. -/
def stageFrames (staged : List (Nat × Blob)) (pos : Nat) : List Blob → List (Nat × Blob) × Option Nat
  | [] => (staged, none)
  | f :: r => if frameOk staged pos f then stageFrames (setKey pos f staged) (pos + 1) r else (staged, some pos)

/-- The 4 KiB pieces of a buffer. -/
def framesOf (b : Blob) : List Blob := (List.range (b.len / 4096)).map fun i => b.slice (i * 4096) 4096

/-- The logical stream of staged frames in order. -/
def streamOf (staged : List (Nat × Blob)) : Blob := Blob.concat (staged.map fun f => f.2.slice 0x10 (f.2.le 2 2))

/-- FRAME_COUNT as the staged frames give it. -/
def stagedCount (staged : List (Nat × Blob)) : Nat :=
  match staged with
  | [] => 0
  | f :: _ => f.2.le 4 2

/-- The lowest position below FRAME_COUNT that is not staged (check 1). -/
def missingFrame (staged : List (Nat × Blob)) : Option Nat :=
  match staged with
  | [] => some 0
  | _ => (List.range (stagedCount staged)).find? fun i => !(staged.any fun f => f.1 == i)

/-! ### Fields -/

/-- The offset of the first check that fails. -/
def firstBad (l : List (Nat × Bool)) : Option Nat := (l.find? fun x => !x.2).map Prod.fst

/-- A field lies in a range. -/
def inRg (b : Blob) (o n lo hi : Nat) : Nat × Bool := (o, decide (lo ≤ b.le o n ∧ b.le o n ≤ hi))

/-- Reserved bytes are zero (R9). -/
def rsvAt (b : Blob) (o n : Nat) : Nat × Bool := (o, b.zeroAt o n)

/-- Checks of a running total over fields in ascending offset: each holds while the total is within the limit. -/
def runningSum (limit : Nat) : Nat → List (Nat × Nat) → List (Nat × Bool)
  | _, [] => []
  | t, (o, v) :: r => (o, decide (t + v ≤ limit)) :: runningSum limit (t + v) r

/-- Checks in ascending offset; where two stand at one offset, their order is kept. -/
def byOffset (l : List (Nat × Bool)) : List (Nat × Bool) := sortBy (fun x y => decide (x.1 < y.1)) l

/-- A section found in the stream: code and body. -/
abbrev Sections := List (Nat × Blob)

def Sections.body (ss : Sections) (code : Nat) : Option Blob := lookupNat ss code

/-! ### Check 2: header and trailer -/

/-- Header checks (R28, R29). -/
def headerChecks (b : Blob) (frames : Nat) (frameId : Nat) : List (Nat × Bool) :=
  let len := b.le 8 4
  [(0x00, decide (b.take 0 4 = [0x56#8, 0x51#8, 0x53#8, 0x49#8])),
   inRg b 0x04 2 1 2,
   inRg b 0x06 2 0x40 0x40,
   (0x08, decide (0xF8 ≤ len ∧ len ≤ 16695296 ∧ len % 8 = 0 ∧ len = b.len)),
   (0x0C, decide (b.le 0xC 2 = ceilDiv len 4076 ∧ b.le 0xC 2 = frames)),
   inRg b 0x0E 1 2 11,
   inRg b 0x0F 1 0 99,
   (0x10, decide (b.le 0x10 8 = frameId)),
   rsvAt b 0x20 32]

/-- Trailer layout (R48). -/
def trailerChecks (t : Blob) (magic : List Byte) : List (Nat × Bool) :=
  let sig := t.le 4 1
  [(0x00, decide (t.take 0 4 = magic)),
   (0x04, decide (sig ≤ 1)),
   rsvAt t 0x05 3] ++
  (if sig = 0 then [rsvAt t 0x28 32, rsvAt t 0x48 32, rsvAt t 0x68 32, rsvAt t 0x88 32] else []) ++
  [rsvAt t 0xA8 8]

/-! ### Checks 4 and 5: key and signature (R49, R435), shared with lesson images -/

/-- An owner key is enrolled: OWNER_HASH is not all ones. -/
def enrolled (ownerHash : BitVec 256) : Bool := ownerHash != BitVec.allOnes 256

/-- The hash of a public key equals the owner key hash. -/
def keyMatches (ownerHash : BitVec 256) (x y : Nat) : Bool := keyHash x y == ownerHash

/-- The trailer's key is one that R49 allows. -/
def trailerKeyOk (ownerHash : BitVec 256) (t : Blob) : Bool :=
  !(enrolled ownerHash) || (t.le 4 1 == 1 && keyMatches ownerHash (t.be 0x28 32) (t.be 0x48 32))

/-- DIGEST, then the signature (R435). -/
def trailerSigned (covered : Blob) (t : Blob) : Bool :=
  let d := sha256 covered.bytes
  decide (t.be 8 32 = d.toNat) &&
  (t.le 4 1 == 0 || ecdsaOk (t.be 0x28 32) (t.be 0x48 32) (t.be 0x68 32) (t.be 0x88 32) d)

/-! ### Check 6: sections (R30, R31, R62) -/

/-- BODY_LEN that a section must have. -/
def bodyLen (ver code : Nat) (body : Blob) : Nat :=
  match code with
  | 1 => 0x28
  | 2 => 8 + 16 * body.le 0 1
  | 3 => 8 + 0x28 * body.le 4 1
  | 4 => if ver = 1 then 0x40 else 0x90
  | 5 => if ver = 1 then 0x20 else 0x40
  | 6 => if ver = 1 then 8 else 0x10
  | 7 => 0x20
  | 8 => 8
  | 9 => 0x18
  | 10 => 0x48
  | _ => 0x10

/-- Sections from an offset: those found, or the code and offset of the fault. -/
def walkSections (b : Blob) (ver stop : Nat) : Nat → Nat → Nat → Sections → Except (Nat × Nat) Sections
  | 0, pos, _, acc => if pos = stop then .ok acc.reverse else .error (0, 0x0E)
  | n + 1, pos, last, acc =>
    if pos + 8 > stop then .error (0, 0x0E) else
    let code := b.le pos 1
    let len := b.le (pos + 4) 4
    let body := b.slice (pos + 8) len
    let top := if ver = 1 then 6 else 11
    let next := pos + 8 + (len + 7) / 8 * 8
    if last < code ∧ code ≤ top ∧ b.le (pos + 1) 1 = 1 ∧ b.zeroAt (pos + 2) 2 ∧ next ≤ stop ∧ len = bodyLen ver code body then
      walkSections b ver stop n next code ((code, body) :: acc)
    else .error (code, 0)

/-- Check 6 as a whole. -/
def checkSections (b : Blob) : Except (Nat × Nat) Sections :=
  match walkSections b (b.le 4 2) (b.le 8 4 - 0xB0) (b.le 0xE 1) 0x40 0 [] with
  | .error e => .error e
  | .ok ss =>
    if (ss.body 2).isNone then .error (2, 0)
    else if (ss.body 3).isNone then .error (3, 0)
    else .ok ss

/-! ### Check 7: field ranges and cross-field rules (R32 to R47) -/

/-- Offsets and classrooms of the entries of section 02h. -/
def roomEntries (b : Blob) : List (Nat × Nat) := (List.range (b.le 0 1)).map fun i => (8 + 16 * i, b.le (8 + 16 * i) 1)

/-- Classrooms that the map lists. -/
def mapped (b : Blob) : List Nat := (roomEntries b).map Prod.snd

def checks01 (b : Blob) : List (Nat × Bool) :=
  let r := b.le 0x20 1
  let m := b.le 0x21 1
  let g := b.le 0x22 1
  (List.range 32).map (fun i => inRg b i 1 3 4) ++
  [inRg b 0x20 1 10 80, inRg b 0x21 1 10 80, (0x21, decide (r + m ≤ 100)), inRg b 0x22 1 10 80,
   (0x22, decide (r + m + g = 100)), inRg b 0x23 1 0 1, rsvAt b 0x24 4]

def checks02 (ver : Nat) (b : Blob) : List (Nat × Bool) :=
  [inRg b 0 1 1 (if ver = 1 then 4 else 8), rsvAt b 1 7] ++
  (List.range (b.le 0 1)).flatMap fun i =>
    let o := 8 + 16 * i
    let narrow := if ver = 1 then 0x0F else 0xFF
    [inRg b o 1 0 7,
     (o, !((List.range i).any fun j => b.le (8 + 16 * j) 1 == b.le o 1)),
     inRg b (o + 1) 1 0 7, inRg b (o + 2) 1 0 narrow, inRg b (o + 3) 1 0 narrow, inRg b (o + 5) 1 1 64,
     inRg b (o + 6) 1 1 64, inRg b (o + 7) 1 0 7,
     (o + 7, decide (b.le (o + 2) 3 ≠ 0) || (b.le (o + 7) 1).testBit 0), rsvAt b (o + 8) 8]

/-- One timetable of section 03h (R35, R36). -/
def checksTt (b : Blob) (o : Nat) : List (Nat × Bool) :=
  let n := b.le o 1
  let start (j : Nat) := bitsOf (b.le (o + 8 + 2 * j) 2) 9 0
  [inRg b o 1 1 16, rsvAt b (o + 1) 7] ++
  (List.range 16).flatMap fun j =>
    let p := o + 8 + 2 * j
    if j < n then
      [(p, decide (bitsOf (b.le p 2) 14 10 = 0)),
       (p, if j = 0 then decide (start 0 = 0) else decide (start (j - 1) + 8 ≤ start j)),
       (p, decide (j + 1 < n ∨ start j ≤ 1016))]
    else [rsvAt b p 2]

def checks03 (ver : Nat) (b : Blob) : List (Nat × Bool) :=
  [inRg b 0 4 500 100000, inRg b 4 1 1 (if ver = 1 then 1 else 4), inRg b 5 1 0 1, inRg b 6 2 0 1023] ++
  (List.range (b.le 4 1)).flatMap fun i => checksTt b (8 + 0x28 * i)

/-- QUOTA entries from an offset, those of the classrooms listed being counted (R37, R38). -/
def checksQuota (b : Blob) (o n : Nat) (listed : List Nat) : List (Nat × Bool) :=
  let use := (List.range n).filter listed.contains
  byOffset (
    ((List.range n).flatMap fun i =>
      (if listed.contains i then [inRg b (o + 16 * i + 2) 2 0 4096] else []) ++ [rsvAt b (o + 16 * i + 8) 8]) ++
    runningSum 124 0 (use.map fun i => (o + 16 * i, b.le (o + 16 * i) 2)) ++
    runningSum 30208 0 (use.map fun i => (o + 16 * i + 4, b.le (o + 16 * i + 4) 4)))

def checks04 (ver : Nat) (b : Blob) (listed : List Nat) : List (Nat × Bool) :=
  if ver = 1 then checksQuota b 0 4 listed
  else
    [inRg b 0 1 0 1, rsvAt b 1 1, inRg b 2 2 1 65535, inRg b 4 4 0 30208, rsvAt b 8 8] ++
    checksQuota b 0x10 8 (if b.le 0 1 = 1 then listed else [])

def checks05 (ver : Nat) (b : Blob) (listed : List Nat) : List (Nat × Bool) :=
  (List.range (if ver = 1 then 4 else 8)).flatMap fun i =>
    let o := 8 * i
    let on := listed.contains i
    (if on then [inRg b o 1 1 7] else []) ++ [rsvAt b (o + 1) 1] ++
    (if on then [inRg b (o + 2) 2 1 0x7FF, inRg b (o + 4) 1 1 7, inRg b (o + 5) 1 0 1] else []) ++ [rsvAt b (o + 6) 2]

/-- Section 06h, and the buffer of Media Policy (R41, R105). -/
def checks06 (ver : Nat) (b : Blob) : List (Nat × Bool) :=
  [inRg b 0 1 1 60, inRg b 1 1 0 1, inRg b 2 1 1 7, inRg b 3 1 0 1, inRg b 4 4 1000 100000] ++
  (if ver = 1 then [] else
    [inRg b 8 1 0 8, rsvAt b 9 1, inRg b 0xA 2 200 2000, inRg b 0xC 1 0 1, inRg b 0xD 1 4 64,
     (0xE, decide (2 ≤ b.le 0xE 1 ∧ b.le 0xE 1 + 1 ≤ b.le 0xD 1)), inRg b 0xF 1 0 1])

/-- Section 07h (R42). -/
def checks07 (b : Blob) : List (Nat × Bool) :=
  let n := b.le 8 1
  let topo := b.le 9 1
  let m := b.le 0xE 1
  [inRg b 8 1 1 24] ++
  (if n = 1 then [] else
    [inRg b 9 1 0 2] ++
    (if topo = 2 then [inRg b 0xA 1 2 4, inRg b 0xB 1 2 6, (0xB, decide (b.le 0xA 1 * b.le 0xB 1 = n))] else []) ++
    (if topo = 1 then [inRg b 0xC 1 2 12, (0xC, decide (b.le 0xC 1 < n))] else []) ++
    (if m = 0 then [] else [inRg b 0xD 1 1 23]) ++
    [inRg b 0xE 1 0 3, (0xE, decide (m = 0 ∨ b.le 0xD 1 + m ≤ n)), inRg b 0xF 1 1 (n - 1), inRg b 0x10 1 0 3,
     inRg b 0x11 1 0 0xF, inRg b 0x12 1 5 50]) ++
  [rsvAt b 0x13 13]

def checks08 (b : Blob) : List (Nat × Bool) :=
  [inRg b 0 1 80 165, inRg b 1 1 0 2, inRg b 2 1 10 100, rsvAt b 4 4]

/-- SUBSPACES of R44 and R156. -/
def subspacesOk (m : Nat) : Bool := [8, 16, 32, 64, 96, 128].contains m

def checks09 (b : Blob) : List (Nat × Bool) :=
  [inRg b 0 4 1 1048576, (4, subspacesOk (b.le 4 1)), inRg b 5 1 0 1, inRg b 6 2 1 4096, inRg b 8 2 0 4096, rsvAt b 0xA 2,
   inRg b 0xC 4 0 65536, inRg b 0x10 4 0 1048575, inRg b 0x14 1 0 2, rsvAt b 0x15 3]

/-- Section 0Ah: shares and their sums (R45, R46). -/
def checks0A (b : Blob) (rooms : List Room) : List (Nat × Bool) :=
  let on (i : Nat) := rooms.any fun r => r.room == i
  let pass (i : Nat) := rooms.any fun r => r.room == i && r.plain
  let use := (List.range 8).filter on
  let sum (k : Nat) (l : List Nat) := runningSum 100 0 (l.map fun i => (8 + 8 * i + k, b.le (8 + 8 * i + k) 1))
  [inRg b 0 1 0 100, rsvAt b 1 7] ++
  byOffset (
    ((List.range 8).flatMap fun i =>
      let o := 8 + 8 * i
      (if on i then [inRg b o 1 0 100, inRg b (o + 1) 1 0 100, inRg b (o + 2) 1 0 100] else []) ++
      (if pass i then [inRg b (o + 3) 1 0 100] else []) ++
      (if on i then [inRg b (o + 4) 1 0 1] else []) ++ [rsvAt b (o + 5) 3]) ++
    sum 0 use ++ sum 1 use ++ sum 2 use ++ sum 3 (use.filter pass))

def checks0B (b : Blob) : List (Nat × Bool) :=
  [inRg b 0 2 1 1024, inRg b 2 2 1 1024, inRg b 4 2 1 1024, inRg b 6 2 1 1024, inRg b 8 1 1 64, inRg b 9 1 2 255,
   (9, decide (2 * b.le 8 1 ≤ b.le 9 1)), inRg b 0xA 1 1 100, inRg b 0xB 1 0 1, rsvAt b 0xC 4]

/-! ### Values in force -/

def parseRoom (ver : Nat) (b : Blob) (o : Nat) : Room :=
  let wide (m : Nat) := if ver = 1 then m + 16 * m else m
  ⟨b.le o 1, b.le (o + 1) 1, wide (b.le (o + 2) 1), wide (b.le (o + 3) 1), b.le (o + 4) 1, b.le (o + 5) 1, b.le (o + 6) 1,
    b.le (o + 7) 1⟩

def parseTt (b : Blob) (o : Nat) : List Period :=
  (List.range (b.le o 1)).map fun j =>
    let v := b.le (o + 8 + 2 * j) 2
    ⟨v.testBit 15, bitsOf v 9 0⟩

def parsePolicy (b : Blob) : Policy :=
  ⟨b.le 0 1, b.le 1 1, b.le 2 1, b.le 3 1, b.le 4 4, b.le 8 1, b.le 0xA 2, b.le 0xC 1, b.le 0xD 1, b.le 0xE 1, b.le 0xF 1⟩

/-- The 16 bytes of section 06h that spell a policy. -/
def policyBytes (p : Policy) : Blob :=
  Blob.concat [fld 1 p.patrolDays, fld 1 p.softRewrite, fld 1 p.softThreshold, fld 1 p.progfailRetire, fld 4 p.readRefresh,
    fld 1 p.suspendMax, rsv 1, fld 2 p.suspendGapUs, fld 1 p.autoRetire, fld 1 p.gcLow, fld 1 p.gcCrit, fld 1 p.compress]

def parsePlain (b : Blob) : PlainCfg :=
  if b.le 8 1 = 1 then { PlainCfg.default with plainId := BitVec.ofNat 64 (b.le 0 8) }
  else
    ⟨BitVec.ofNat 64 (b.le 0 8), b.le 8 1, b.le 9 1, b.le 0xA 1, b.le 0xB 1, b.le 0xC 1, b.le 0xD 1, b.le 0xE 1, b.le 0xF 1,
      b.le 0x10 1, b.le 0x11 1, b.le 0x12 1⟩

def parseIdx (b : Blob) : IdxDefaults :=
  ⟨b.le 0 4, b.le 4 1, b.le 5 1, b.le 6 2, b.le 8 2, b.le 0xC 4, b.le 0x10 4, b.le 0x14 1⟩

def parseQuota (b : Blob) (o : Nat) : Quota := ⟨b.le o 2, b.le (o + 2) 2, b.le (o + 4) 4⟩

/-- The quotas in force, where a VQ-1 image without section 04h shares the pools out (R62). -/
def parseQuotas (ver : Nat) (ss : Sections) (rooms : List Room) : List Quota :=
  (List.range 8).map fun i =>
    match ss.body 4 with
    | some b => if ver = 1 then (if i < 4 then parseQuota b (16 * i) else ⟨0, 0, 0⟩) else parseQuota b (0x10 + 16 * i)
    | none =>
      if ver = 1 ∧ (rooms.any fun r => r.room == i) then ⟨124 / rooms.length, 4096, 30208 / rooms.length⟩ else ⟨0, 0, 0⟩

def parseShapes (ver : Nat) (ss : Sections) : List Shape :=
  (List.range 8).map fun i =>
    match ss.body 5 with
    | some b =>
      if ver = 1 then
        (if i < 4 then ⟨1, b.le (8 * i + 2) 2 &&& 0x503, b.le (8 * i + 4) 1, b.le (8 * i + 5) 1⟩ else Shape.default)
      else ⟨b.le (8 * i) 1, b.le (8 * i + 2) 2, b.le (8 * i + 4) 1, b.le (8 * i + 5) 1⟩
    | none => Shape.default

/-- The shares in force; equal shares where the section is absent (R46). -/
def parseRegs (ss : Sections) (rooms : List Room) : List Regs :=
  (List.range 8).map fun i =>
    match ss.body 10 with
    | some b =>
      let o := 8 + 8 * i
      ⟨b.le o 1, b.le (o + 1) 1, b.le (o + 2) 1, b.le (o + 3) 1, b.le (o + 4) 1⟩
    | none => let n := 100 / rooms.length; ⟨n, n, n, n, 0⟩

/-- The image that a stream and its sections give, with the media policy that stands in for an absent section 06h (R342). -/
def parseImage (b : Blob) (ss : Sections) (optPolicy : Policy) : Image :=
  let ver := b.le 4 2
  let s2 := (ss.body 2).getD (Blob.zero 8)
  let s3 := (ss.body 3).getD (Blob.zero 8)
  let rooms := (List.range (s2.le 0 1)).map fun i => parseRoom ver s2 (8 + 16 * i)
  let s1 := if ver = 1 then none else ss.body 1
  let s4 := if ver = 1 then none else ss.body 4
  let s8 := ss.body 8
  let tr := b.slice (b.le 8 4 - 0xB0) 0xB0
  { version := ver
    imageId := BitVec.ofNat 64 (b.le 0x10 8)
    sequence := BitVec.ofNat 32 (b.le 0x18 4)
    toolVersion := BitVec.ofNat 32 (b.le 0x1C 4)
    minFw := b.le 0xF 1
    digest := BitVec.ofNat 256 (tr.be 8 32)
    valleyHome := match s1 with
      | some x => (List.range 32).map fun i => x.le i 1
      | none => homeDefault
    linkResult := match s1 with
      | some x => x.le 0x20 1
      | none => 50
    linkMedia := match s1 with
      | some x => x.le 0x21 1
      | none => 30
    linkBackground := match s1 with
      | some x => x.le 0x22 1
      | none => 20
    xlinkMode := match s1 with
      | some x => x.le 0x23 1
      | none => 1
    rooms := rooms
    periodUs := s3.le 0 4
    layout := s3.le 5 1
    staggerStep := s3.le 6 2
    timetables := (List.range (s3.le 4 1)).map fun i => parseTt s3 (8 + 0x28 * i)
    poolMode := if ver = 1 then 1 else match s4 with
      | some x => x.le 0 1
      | none => 0
    evictAge := match s4 with
      | some x => x.le 2 2
      | none => 100
    pinLimit := match s4 with
      | some x => x.le 4 4
      | none => 8192
    quotas := parseQuotas ver ss rooms
    shapes := parseShapes ver ss
    policy := match ss.body 6 with
      | some x =>
        if ver = 1 then
          { Policy.default with patrolDays := x.le 0 1, softRewrite := x.le 1 1, softThreshold := x.le 2 1, progfailRetire := x.le 3 1, readRefresh := x.le 4 4 }
        else parsePolicy x
      | none => optPolicy
    plain := match ss.body 7 with
      | some x => parsePlain x
      | none => PlainCfg.default
    envelopeW := match s8 with
      | some x => x.le 0 1
      | none => 150
    lock := match s8 with
      | some x => x.le 1 1
      | none => 0
    arrayFloor := match s8 with
      | some x => x.le 2 1
      | none => 25
    idleGate := match s8 with
      | some x => x.le 3 1
      | none => 10
    idx := match ss.body 9 with
      | some x => parseIdx x
      | none => IdxDefaults.default
    bgShare := match ss.body 10 with
      | some x => x.le 0 1
      | none => 50
    regs := parseRegs ss rooms
    watch := match ss.body 11 with
      | some x => ⟨x.le 0 2, x.le 2 2, x.le 4 2, x.le 6 2, x.le 8 1, x.le 9 1, x.le 0xA 1, x.le 0xB 1⟩
      | none => Watch.default }

/-- Check 7: the section code and body offset of the first fault, in ascending section and offset. -/
def fieldFault (b : Blob) (ss : Sections) : Option (Nat × Nat) :=
  let ver := b.le 4 2
  let s2 := (ss.body 2).getD (Blob.zero 8)
  let listed := mapped s2
  let rooms := (List.range (s2.le 0 1)).map fun i => parseRoom ver s2 (8 + 16 * i)
  ss.findSome? fun x =>
    let l := match x.1 with
      | 1 => if ver = 1 then [] else checks01 x.2
      | 2 => checks02 ver x.2
      | 3 => checks03 ver x.2
      | 4 => checks04 ver x.2 listed
      | 5 => checks05 ver x.2 listed
      | 6 => checks06 ver x.2
      | 7 => checks07 x.2
      | 8 => checks08 x.2
      | 9 => checks09 x.2
      | 10 => checks0A x.2 rooms
      | _ => checks0B x.2
    (firstBad l).map fun o => (x.1, o)

/-! ### Verification (R53, checks 2 to 7) -/

/-- What verification needs from the drive. -/
structure VerifyEnv where
  fwMinor : Nat
  ownerHash : BitVec 256
  optPolicy : Policy

/-- Completion dword 0 of a located failure. -/
def faultDw (code ofst : Nat) : Nat := code * 65536 + ofst

/-- Checks 2 to 7 on a logical stream of `frames` frames with the frames' IMAGE_ID: the status and completion dword 0 of the
first failure, or the image. Statuses are given by SC; SCT is 1h. -/
def verifyStream (e : VerifyEnv) (b : Blob) (frames frameId : Nat) : Except (Nat × Nat) Image :=
  match firstBad (headerChecks b frames frameId) with
  | some o => .error (0xC2, faultDw 0 o)
  | none =>
    let stop := b.le 8 4 - 0xB0
    let tr := b.slice stop 0xB0
    match firstBad (trailerChecks tr [0x56#8, 0x51#8, 0x53#8, 0x54#8]) with
    | some o => .error (0xC2, faultDw 0xFF o)
    | none =>
      if b.le 0xF 1 > e.fwMinor then .error (0xC8, 0)
      else if !(trailerKeyOk e.ownerHash tr) then .error (0xC5, 0)
      else if !(trailerSigned (b.slice 0 stop) tr) then .error (0xC4, 0)
      else match checkSections b with
        | .error x => .error (0xC2, faultDw x.1 x.2)
        | .ok ss =>
          match fieldFault b ss with
          | some x => .error (0xC3, faultDw x.1 x.2)
          | none => .ok (parseImage b ss e.optPolicy)

/-- Verification of the staged frames: check 1, then checks 2 to 7. -/
def verifyStaged (e : VerifyEnv) (staged : List (Nat × Blob)) : Except (Nat × Nat) (Image × Blob) :=
  match missingFrame staged with
  | some i => .error (0xC1, i)
  | none =>
    let b := streamOf staged
    match verifyStream e b (stagedCount staged) ((staged.headD (0, Blob.zero 0)).2.le 8 8) with
    | .error x => .error x
    | .ok img => .ok (img, b)

/-- Verification of a replica, whose frames are whole (R59). -/
def verifyReplica (e : VerifyEnv) (b : Blob) : Option Image :=
  (verifyStream e b (ceilDiv b.len 4076) (b.le 0x10 8)).toOption

/-! ### Comparison of images (R31, R54, R55) -/

/-- Section 02h, 05h and 0Ah entries of a classroom, with ignored fields taken out (R54). -/
def roomView (i : Image) (room : Nat) : Option (Room × Shape × Regs) :=
  (i.rooms.find? fun r => r.room == room).map fun r =>
    let g := i.regs.getD room ⟨0, 0, 0, 0, 0⟩
    (r, i.shapes.getD room Shape.default, if r.plain then g else { g with pass := 0 })

/-- Classrooms that an activation changes (R54). -/
def changedRooms (old new : Image) : List Nat :=
  let all := old.valleyHome != new.valleyHome || old.linkResult != new.linkResult || old.linkMedia != new.linkMedia ||
    old.linkBackground != new.linkBackground || old.xlinkMode != new.xlinkMode || old.poolMode != new.poolMode ||
    old.evictAge != new.evictAge || old.pinLimit != new.pinLimit
  (List.range 8).filter fun n =>
    let o := roomView old n
    let w := roomView new n
    (o.isSome || w.isSome) &&
    (all || o != w || (new.poolMode == 1 && old.quotas.getD n ⟨0, 0, 0⟩ != new.quotas.getD n ⟨0, 0, 0⟩))

/-- Section 07h with ignored fields taken out (R31, R42). -/
def PlainCfg.view (p : PlainCfg) : PlainCfg :=
  if p.members = 1 then { PlainCfg.default with plainId := p.plainId }
  else
    let p := if p.topology = 2 then p else { p with rows := 0, cols := 0 }
    let p := if p.topology = 1 then p else { p with chordSpan := 0 }
    if p.parityM = 0 then { p with parityK := 1 } else p

/-- Sections 03h and 07h are the same under R54, as the plain lock asks (R55). -/
def plainSame (old new : Image) : Bool :=
  old.periodUs == new.periodUs && old.layout == new.layout && old.staggerStep == new.staggerStep &&
  old.timetables == new.timetables && old.plain.view == new.plain.view

/-- SHA-256 of sections 03h and 07h as they travel at Identify (R284): of their values in force. -/
def sectionHash (i : Image) : BitVec 256 :=
  let tt := Blob.concat (i.timetables.map fun t =>
    (Blob.concat (fld 1 t.length :: rsv 7 :: t.map fun p => fld 2 (p.start + if p.recess then 32768 else 0))).fit 0x28)
  let p := i.plain
  sha256 (Blob.concat [fld 4 i.periodUs, fld 1 i.timetables.length, fld 1 i.layout, fld 2 i.staggerStep, tt,
    fld 8 p.plainId.toNat, fld 1 p.members, fld 1 p.topology, fld 1 p.rows, fld 1 p.cols, fld 1 p.chordSpan, fld 1 p.parityK,
    fld 1 p.parityM, fld 1 p.buddyOffset, fld 1 p.flags, fld 1 p.portEnable, fld 1 p.cableDm, rsv 13]).bytes

end Sys2Proof.Machine
end

