-- ==== Sys2Proof/Machine/Ops.lean ====
section
/-! DEFINITION. Operations that the families share: positions in bells and ticks, completion entries, events, the admission of
host commands, the memory namespaces and device addresses, and the error log. -/

namespace Sys2Proof.Machine

/-- The outcome type of the drive. -/
abbrev Res := Host.Outcome State Fault Refusal

/-! ### Positions (R10, R67, R68) -/

/-- The position bell:tick as one number. -/
def State.pos (s : State) : Nat := s.bell.count.toNat * 1024 + s.bell.tick

/-- Ticks from one position to another, bells compared modulo 2^48 (R68). -/
def ticksFrom (a b : Nat) : Nat := (b + 2 ^ 58 - a % 2 ^ 58) % 2 ^ 58

/-- A position has come: it does not lie ahead (R67: a skipped tick counts as elapsed). -/
def reached (p now : Nat) : Bool := decide (ticksFrom p now < 2 ^ 57)

/-- Bells from one count to another (R68). -/
def bellsFrom (a b : BitVec 48) : Nat := (b - a).toNat

/-- The period estimate in ns: the mean of the eight sample slots (R434). -/
def State.estimateNs (s : State) : Nat := s.bell.slots.foldl (· + ·) 0 / 8

/-- Raises an element to the front of 64-bit saturating counters (R83 and others). -/
def bump64 (c : Nat) : Nat := satAdd 64 c 1
def bump32 (c : Nat) : Nat := satAdd 32 c 1

/-! ### Status codes (R106, R433, NVM Express) -/

abbrev Status := Nat × Nat

def stOk : Status := (0, 0)
def stInvalidOpcode : Status := (0, 0x01)
def stInvalidField : Status := (0, 0x02)
def stDataTransfer : Status := (0, 0x04)
def stInternal : Status := (0, 0x06)
def stSqDeleted : Status := (0, 0x08)
def stInvalidNs : Status := (0, 0x0B)
def stSequence : Status := (0, 0x0C)
def stSanitizing : Status := (0, 0x1D)
def stLbaRange : Status := (0, 0x80)
def stCapacity : Status := (0, 0x81)
def stInvalidCq : Status := (1, 0x00)
def stInvalidQid : Status := (1, 0x01)
def stInvalidQsize : Status := (1, 0x02)
def stAbortLimit : Status := (1, 0x03)
def stAerLimit : Status := (1, 0x05)
def stFwSlot : Status := (1, 0x06)
def stFwImage : Status := (1, 0x07)
def stVector : Status := (1, 0x08)
def stLogPage : Status := (1, 0x09)
def stFormat : Status := (1, 0x0A)
def stFwSubsystemReset : Status := (1, 0x10)
def stQueueDeletion : Status := (1, 0x0C)
def stNotSaveable : Status := (1, 0x0D)
def stNotChangeable : Status := (1, 0x0E)
def stNsCapacity : Status := (1, 0x15)
def stNsIdUnavailable : Status := (1, 0x16)
def stNsAttached : Status := (1, 0x18)
def stNsNotAttached : Status := (1, 0x1A)
def stFrame : Status := (1, 0xC0)
def stIncomplete : Status := (1, 0xC1)
def stImageFormat : Status := (1, 0xC2)
def stImageField : Status := (1, 0xC3)
def stImageSignature : Status := (1, 0xC4)
def stImageKey : Status := (1, 0xC5)
def stBusy : Status := (1, 0xC6)
def stPlainLocked : Status := (1, 0xC7)
def stFwTooOld : Status := (1, 0xC8)
def stUnrecovered : Status := (2, 0x81)
def stAccess : Status := (2, 0x86)
def stGenDropped : Status := (7, 0xC0)
def stProgramFaulted : Status := (7, 0xC1)
def stIndexReadOnly : Status := (7, 0xC2)
def stIndexLimit : Status := (7, 0xC3)
def stDeferred : Status := (7, 0xC4)
def stIndexNotFound : Status := (7, 0xC5)
def stNotGranted : Status := (7, 0xC6)
def stJoinRefused : Status := (7, 0xC7)
def stNotPresent : Status := (7, 0xC8)
def stNotRetirable : Status := (7, 0xC9)
def stTokenRejected : Status := (7, 0xCA)

/-! ### Completion entries and events (R86, R100, R102, R430) -/

/-- The MSI-X vector of a submission queue's completions (R86). -/
def State.vectorOf (s : State) (sq : Nat) : Nat :=
  match s.host.sqs.find? fun q => q.id == sq with
  | some q => match s.host.cqs.find? fun c => c.id == q.cq with
    | some c => c.iv
    | none => 0
  | none => 0

/-- Posts one completion entry and signals its vector. -/
def post1 (sq cid : Nat) (st : Status) (dw0 : Nat) (data : Blob) (s : State) : State :=
  { s with
      host := { s.host with
        outs := s.host.outs.filter fun o => !(o.sq == sq && o.cid == cid)
        posted := s.host.posted ++ [⟨sq, cid, st.1, st.2, dw0, data⟩]
        msix := s.host.msix ++ [s.vectorOf sq] }
      power := { s.power with activeNs := some s.bell.localNs } }

/-- Some command of a queue is in execution or waits inside the drive. -/
def State.queueBusy (s : State) (q : Nat) : Bool :=
  s.host.outs.any (fun o => o.sq == q) || s.host.held.any (fun c => c.hdr.sq == q)

/-- Ends a queue deletion whose queue has no command left (R100 step 6). -/
def finishDelete (s : State) (d : SqDelete) : State :=
  if s.queueBusy d.qid then s
  else
    post1 d.hdr.sq d.hdr.cid stOk 0 (Blob.zero 0)
      { s with host := { s.host with
          deletes := s.host.deletes.filter fun e => e.qid != d.qid
          sqs := s.host.sqs.filter fun q => q.id != d.qid } }

/-- Posts a completion entry, and with it the deletions that waited for it. -/
def post (sq cid : Nat) (st : Status) (dw0 : Nat) (data : Blob) (s : State) : State :=
  let t := post1 sq cid st dw0 data s
  t.host.deletes.foldl finishDelete t

/-- A command completes with a status and no data. -/
def finish (h : Hdr) (st : Status) (s : State) : State := post h.sq h.cid st 0 (Blob.zero 0) s

/-- A command completes with a status and completion dword 0. -/
def finishDw (h : Hdr) (st : Status) (dw0 : Nat) (s : State) : State := post h.sq h.cid st dw0 (Blob.zero 0) s

/-- A command completes with success and moves data to the host. -/
def finishData (h : Hdr) (d : Blob) (s : State) : State := post h.sq h.cid stOk 0 d s

/-- A command completes with Unrecovered Read Error: it is counted (R425, R427), and an Error Information entry names the first
LBA, or byte of a memory namespace, concerned (R362). -/
def finishUnrecovered (h : Hdr) (d : Blob) (nsid lba : Nat) (s : State) : State :=
  let n := s.host.errorCount + 1
  post h.sq h.cid stUnrecovered 0 d { s with host := { s.host with
    unrecovered := bump64 s.host.unrecovered
    errorCount := n
    errors := (⟨n, h.sq, h.cid, stUnrecovered.1 * 256 + stUnrecovered.2, nsid, lba⟩ :: s.host.errors).take 256 } }

/-- A command goes into execution. -/
def begin' (h : Hdr) (k : OutKind) (s : State) : State :=
  if s.host.outs.any (fun o => o.sq == h.sq && o.cid == h.cid) then s
  else { s with host := { s.host with outs := s.host.outs ++ [⟨h.sq, h.cid, h.ord, k⟩] } }

/-- A command waits inside the drive. -/
def hold (h : Hdr) (c : Instr) (w : Why) (s : State) : State :=
  { s with host := { s.host with held := s.host.held ++ [⟨h, c, w⟩] } }

/-- An asynchronous event: posted on an outstanding request, kept while there is none, and not posted again until its log page
has been read with RAE clear (R102, R430). -/
def raiseEvent (e : Event) (s : State) : State :=
  if s.host.masked.contains e.lid then s
  else match s.host.aers with
    | cid :: r =>
      post 0 cid stOk (e.kind + 256 * e.info + 65536 * e.lid) (Blob.zero 0)
        { s with host := { s.host with aers := r, masked := e.lid :: s.host.masked } }
    | [] =>
      if s.host.waiting.contains e then s
      else { s with host := { s.host with waiting := s.host.waiting ++ [e] } }

/-- An event of type Vendor Specific that names a log page. -/
def vendorEvent (lid : Nat) (s : State) : State := raiseEvent ⟨7, 0, lid⟩ s

/-- A SMART / Health event (log 11). -/
def healthEvent (info : Nat) (s : State) : State := raiseEvent ⟨1, info, 2⟩ s

/-- A bit of Critical Warning becomes set, and its event is posted. -/
def setCritical (bitNo info : Nat) (s : State) : State :=
  if s.host.critWarn.testBit bitNo then s
  else healthEvent info { s with host := { s.host with critWarn := s.host.critWarn ||| 2 ^ bitNo } }

/-- A bit of Critical Warning clears. -/
def clearCritical (bitNo : Nat) (s : State) : State :=
  if s.host.critWarn.testBit bitNo then { s with host := { s.host with critWarn := s.host.critWarn ^^^ 2 ^ bitNo } }
  else s

/-- Reliability degraded: bit 2 of Critical Warning (R373). -/
def degradeReliability (s : State) : State := setCritical 2 0 s

/-- The endurance group is read-only (R107). -/
def State.readOnly (s : State) : Bool := s.host.critWarn.testBit 3

/-! ### Admission of host commands -/

/-- The drive runs: its rails are up and no whole-drive reset holds it. -/
def State.up (s : State) : Bool := s.power.down == .up

/-- The controller fetches commands: the link is up, CC.EN and CSTS.RDY are set and no shutdown has ended (R390). -/
def State.serving (s : State) : Bool :=
  s.up && s.host.link && s.host.en && s.host.rdy && s.host.shst != 2 && !s.host.perst

/-- A command of this header is fetched: its queue exists and is not being deleted (R95, R100). -/
def State.fetches (s : State) (h : Hdr) : Bool :=
  s.serving && (h.sq == 0 || s.host.sqs.any fun q => q.id == h.sq) && !(s.host.deletes.any fun d => d.qid == h.sq)

/-- Admin commands that NVM Express Base permits during a sanitize (R406, log 12): queues, Abort, Identify, Get Log Page,
features, events. -/
def sanitizePermits (op : Nat) : Bool := [0x00, 0x01, 0x02, 0x04, 0x05, 0x06, 0x08, 0x09, 0x0A, 0x0C].contains op

/-- Opcodes that the recovery controller answers (R396). -/
def recoveryAnswers (op : Nat) : Bool := [0x06, 0x10, 0x11].contains op

/-- Admission of an admin command by opcode (R9, R89, R97, R396, R406). -/
def admitAdmin (h : Hdr) (op : Nat) (k : State → State) (s : State) : State :=
  if !(s.fetches h && h.sq == 0) then s
  else if s.fw.recovery && !recoveryAnswers op then finish h stInvalidOpcode s
  else if h.rsvd || h.ord || h.proxy then finish h stInvalidField s
  else if s.sec.sanitize.isSome && !sanitizePermits op then finish h stSanitizing s
  else k s

/-- A command of this header must wait for its queue (R97). -/
def State.mustOrder (s : State) (h : Hdr) : Bool :=
  s.host.outs.any (fun o => o.sq == h.sq && o.cid != h.cid && (h.ord || o.ord)) ||
  s.host.held.any (fun c => c.hdr.sq == h.sq && c.hdr.cid != h.cid && (h.ord || c.hdr.ord))

/-- Admission of an I/O command (R9, R95, R97, R307, R406). `proxyOk` holds for a Read only. -/
def admitIo (h : Hdr) (c : Instr) (proxyOk : Bool) (k : State → State) (s : State) : State :=
  if !(s.fetches h && h.sq != 0) then s
  else if s.mustOrder h then hold h c .order s
  else if s.host.outs.length ≥ 65536 then hold h c .resource s
  else if h.rsvd || (h.proxy && !proxyOk) then finish h stInvalidField s
  else if s.sec.sanitize.isSome then finish h stSanitizing s
  else k s

/-! ### Classrooms -/

/-- The entry of a mapped classroom (R33, R34). -/
def State.room? (s : State) (room : Nat) : Option Room := s.img.active.rooms.find? fun r => r.room == room

/-- New work of a changed classroom waits while an Activate is outstanding (R56 step 2). -/
def State.activateHolds (s : State) (room : Nat) : Bool :=
  match s.img.activation with
  | some a => !a.inEffect && a.changed.contains room
  | none => false

/-- The staging of a Train Step of the classroom is being copied (R276). -/
def State.copyHolds (s : State) (room : Nat) : Bool :=
  s.train.steps.any fun t => t.room == room && (match t.phase with
    | .copying _ => true
    | _ => false)

/-- A command that admits a run of its classroom. -/
def startsRun : Instr → Bool
  | .executeLesson _ _ _ _ | .filteredScan _ _ _ | .vectorQuery _ _ _ | .indexInsert _ _ _ | .embedAndInsert _ _ _ | .indexDelete _ _ _
  | .indexTrain _ _ _ | .indexCreate _ _ _ | .indexDrop _ _ _ => true
  | _ => false

/-- A command to compute namespace 65 + room: Invalid Namespace or Format where the classroom is not mapped (R34), a wait
while an Activate changes it (R56), and for a run a wait while a Train Step's copy goes on (R276). -/
def admitRoom (h : Hdr) (c : Instr) (room : Nat) (k : Room → State → State) (s : State) : State :=
  admitIo h c false (fun s =>
    match s.room? room with
    | none => finish h stInvalidNs s
    | some r =>
      if s.activateHolds room then hold h c (.activate room) s
      else if startsRun c && s.copyHolds room then hold h c .resource s
      else k r s) s

/-! ### The error log (R376) -/

/-- An entry of log page C2h, newest first; the oldest of 256 is dropped. -/
def logEvent (event state : Nat) (r : Resource) (s : State) : State :=
  let l := ⟨s.dies.logSeq, s.bell.count, event, state, r⟩ :: s.dies.log
  { s with dies := { s.dies with
      log := l.take 255
      logSeq := s.dies.logSeq + 1
      logOverflow := s.dies.logOverflow || decide (l.length > 255) } }

/-- One die changed. -/
def onDie (n : Nat) (f : Die → Die) (s : State) : State :=
  { s with dies := { s.dies with dies := modifyAt s.dies.dies n f } }

def State.die (s : State) (n : Nat) : Die := s.dies.dies.getD n Die.reset

/-- A die serves: it is neither resetting nor failed. -/
def State.dieServes (s : State) (n : Nat) : Bool :=
  (s.die n).state == .running || (s.die n).state == .degraded || (s.die n).state == .replaying

/-! ### Memory namespaces 73 and 74 (R94, R112 to R114, R360, R361, R442) -/

def len73 : Nat := 0x7C00000
def len74 : Nat := 0x760000000

/-- Length of a memory namespace. -/
def memLen (nsid : Nat) : Nat := if nsid = 73 then len73 else if nsid = 74 then len74 else 0

def State.ram (s : State) (nsid : Nat) : Ram := if nsid = 73 then s.mem.sram else s.mem.dram

def setRam (nsid : Nat) (r : Ram) (s : State) : State :=
  if nsid = 73 then { s with mem := { s.mem with sram := r } }
  else { s with mem := { s.mem with dram := r } }

/-- Granules that a span touches. -/
def granules (ofst len : Nat) : List Nat :=
  if len = 0 then [] else spanList (ofst / 64) ((ofst + len - 1) / 64 + 1 - ofst / 64)

/-- Granules that a span covers whole. -/
def Ram.covers (ofst len g : Nat) : Bool := decide (ofst ≤ g * 64 ∧ g * 64 + 64 ≤ ofst + len)

/-- Bytes written: a granule covered whole loses its mark, a granule covered in part keeps it (R361). -/
def Ram.write (r : Ram) (ofst : Nat) (d : Blob) : Ram :=
  ⟨r.cells.blit ofst d.len d.cells.norm, r.poison.filter fun g => !(Ram.covers ofst d.len g)⟩

/-- Granules marked poisoned (R360). -/
def Ram.mark (r : Ram) (gs : List Nat) : Ram := ⟨r.cells, insertAll gs r.poison⟩

def Ram.read (r : Ram) (ofst len : Nat) : Blob := ⟨len, r.cells.slice ofst len⟩

/-- Some granule of a span is poisoned. -/
def Ram.poisoned (r : Ram) (ofst len : Nat) : Bool :=
  r.poison.any fun g => decide (g * 64 < ofst + len ∧ ofst < g * 64 + 64)

/-- Poisoned bytes of a span by offset in it. -/
def Ram.badBytes (r : Ram) (ofst len : Nat) : List Nat :=
  (List.range len).filter fun i => r.poison.contains ((ofst + i) / 64)

/-- Canonical form of a RAM. -/
def Ram.wf (r : Ram) : Bool := r.cells.wf

def memRead (nsid ofst len : Nat) (s : State) : Blob := (s.ram nsid).read ofst len

def memWrite (nsid ofst : Nat) (d : Blob) (s : State) : State := setRam nsid ((s.ram nsid).write ofst d) s


/-- Some byte of a span lies in a lost span (R126, R365). -/
def State.spanLost (s : State) (nsid ofst len : Nat) : Bool :=
  s.mem.lostSpans.any fun x => x.1 == nsid && decide (x.2.1 < ofst + len ∧ ofst < x.2.1 + x.2.2)

/-- A span lies wholly in one range of a range set; of one classroom's where one is named (R120). -/
def State.inRange (s : State) (room : Option Nat) (nsid ofst len : Nat) : Bool :=
  s.mem.sets.any fun rs =>
    (match room with
      | some r => rs.room == r
      | none => true) &&
    rs.ranges.any fun r => r.nsid == nsid && decide (r.ofst ≤ ofst ∧ ofst + len ≤ r.ofst + r.len)

/-- A byte span of an NVM namespace's data is not checked here; of a memory namespace, it must end within it (R94). -/
def memFits (nsid ofst len : Nat) : Bool := decide (ofst + len ≤ memLen nsid)

/-- Offset in NSID 73 of a die's share (R113), and the share's length (R112). -/
def dieBase (die : Nat) : Nat := if die = 3 then 0 else if die = 4 then 0x3C00000 else 0x7800000
def dieShare (die : Nat) : Nat := if die = 3 ∨ die = 4 then 0x3C00000 else if die = 0 then 0x400000 else 0

/-- The die that holds an offset of NSID 73. -/
def dieOf73 (ofst : Nat) : Nat := if ofst < 0x3C00000 then 3 else if ofst < 0x7800000 then 4 else 0

/-- The die whose memory holds a granule: DRAM is the hub's (R12, R113). -/
def granuleDie (nsid g : Nat) : Nat := if nsid = 73 then dieOf73 (g * 64) else 0

/-- Granules that have become poisoned on a die (R375). -/
def countPoison (die n : Nat) (s : State) : State := onDie die (fun d => { d with poisonCreated := satAdd 32 d.poisonCreated n }) s

/-- Granules of a memory namespace become poisoned (R360). -/
def memMark (nsid : Nat) (gs : List Nat) (s : State) : State :=
  let new := gs.filter fun g => !((s.ram nsid).poison.contains g)
  (List.range 5).foldl (fun s d =>
      let n := (new.filter fun g => granuleDie nsid g == d).length
      if n = 0 then s else countPoison d n s) (setRam nsid ((s.ram nsid).mark gs) s)

/-! ### Device addresses (R110, R111) -/

/-- What a device address names. -/
inductive Place where
  | sram (die ofst : Nat)
  | dram (ofst : Nat)
  | flash (nsid ofst : Nat)
  | host (window ofst : Nat)
  deriving DecidableEq, Repr

/-- A device address; none where the tier code is 4h to Fh, a reserved bit is set or the die has no share. -/
def placeOf (a : Nat) : Option Place :=
  match bitsOf a 63 60 with
  | 0 =>
    let die := bitsOf a 59 56
    if bitsOf a 55 36 = 0 ∧ (die = 0 ∨ die = 3 ∨ die = 4) then some (.sram die (bitsOf a 35 0)) else none
  | 1 => if bitsOf a 59 48 = 0 then some (.dram (bitsOf a 47 0)) else none
  | 2 => some (.flash (bitsOf a 59 52) (bitsOf a 51 0))
  | 3 => some (.host (bitsOf a 59 48) (bitsOf a 47 0))
  | _ => none

/-- The memory namespace and byte offset of a tier 0 or tier 1 place. -/
def Place.mem? : Place → Option (Nat × Nat)
  | .sram die o => if o < dieShare die then some (73, dieBase die + o) else none
  | .dram o => if o < len74 then some (74, o) else none
  | _ => none

/-- A span of a device address in tier 0 or 1 that ends within its share or the pool. -/
def memSpan (a len : Nat) : Option (Nat × Nat) :=
  match placeOf a with
  | some (.sram die o) => if o + len ≤ dieShare die then some (73, dieBase die + o) else none
  | some (.dram o) => if o + len ≤ len74 then some (74, o) else none
  | _ => none

/-! ### Free values (log 7) -/

/-- `n` bytes that the spec leaves open, each a fresh free value. -/
def freeBytes (n : Nat) (s : State) : Blob × State :=
  (Blob.ofBytes ((List.range n).map fun i => Config.freeByte (s.free + i)), { s with free := s.free + n })

/-- A fresh number of the drive's own (log 8). -/
def draw (s : State) : Nat × State := (s.free, { s with free := s.free + 1 })

end Sys2Proof.Machine
end

