-- ==== Sys2Proof/Machine/Nor.lean ====
section
/-! DEFINITION. The option flash (R338 to R357): words and flags, blocks and records, the aperture's command sequences, the
journal, sector erases and the swap sector, and the reading of the option area. -/

namespace Sys2Proof.Machine

/-! ### Words and flags (R338 to R340) -/

/-- A word of the array; an erased word reads as all ones. -/
def NorSt.word (n : NorSt) (w : Nat) : BitVec 64 := (lookupNat n.words w).getD (BitVec.allOnes 64)

/-- A word set, in canonical form. -/
def NorSt.setWord (n : NorSt) (w : Nat) (v : BitVec 64) : NorSt :=
  { n with words := if v = BitVec.allOnes 64 then dropKey w n.words else setKey w v n.words }

/-- Programs of a word since its erase. -/
def NorSt.programs (n : NorSt) (w : Nat) : Nat := (lookupNat n.progs w).getD 0

/-- Word 0 of every block is a flag word. -/
def isFlagWord (w : Nat) : Bool := w % 8 == 0

/-- A program that R340 refuses: a third of a flag word, a second of a data word. -/
def NorSt.refuses (n : NorSt) (w : Nat) : Bool := decide ((if isFlagWord w then 2 else 1) ≤ n.programs w)

/-- A program leaves (old AND v). -/
def NorSt.program (n : NorSt) (w : Nat) (v : BitVec 64) : NorSt :=
  if n.refuses w then n
  else { n.setWord w (n.word w &&& v) with progs := setKey w (n.programs w + 1) n.progs }

/-- The value that sets a list of flags (R339). -/
def flagValue (fs : List Nat) : BitVec 64 := ~~~ (fs.foldl (fun a f => a ||| (7#64 <<< (3 * f))) 0#64)

/-- A flag is set when at least two of its three bits read 0 (R339). -/
def flagSet (v : BitVec 64) (f : Nat) : Bool :=
  decide (2 ≤ ([0, 1, 2].filter fun i => !(v.getLsbD (3 * f + i))).length)

/-! ### Blocks (R350, R351) -/

/-- Bytes of a block. -/
def NorSt.blockBytes (n : NorSt) (blk : Nat) : Blob :=
  Blob.ofBytes ((List.range 8).flatMap fun i => leBytes 8 (n.word (blk * 8 + i)).toNat)

/-- A block that stands in the array: its number, KIND, SEQ, payload and flag word. -/
structure NorRec where
  blk : Nat
  kind : Nat
  seq : Nat
  payload : Blob
  flags : BitVec 64
  deriving DecidableEq, Repr

def NorRec.has (r : NorRec) (f : Nat) : Bool := flagSet r.flags f

/-- A block as it is read: ignored when VALID is not set or the CRC fails. -/
def NorSt.rec? (n : NorSt) (blk : Nat) : Option NorRec :=
  let f := n.word (blk * 8)
  if !(flagSet f 0) then none
  else
    let b := n.blockBytes blk
    if (crc32c (b.take 8 52)).toNat = b.le 0x3C 4 then some ⟨blk, b.le 8 1, b.le 0xA 6, b.slice 0x10 44, f⟩ else none

/-- The valid blocks of a sector, in ascending order. -/
def NorSt.recs (n : NorSt) (sector : Nat) : List NorRec :=
  n.words.filterMap fun x =>
    if isFlagWord x.1 && x.1 / 8192 == sector && x.1 / 8 % 1024 != 0 then n.rec? (x.1 / 8) else none

/-- The newest of a list of blocks. -/
def newestRec (l : List NorRec) : Option NorRec :=
  l.foldl (fun a r => match a with
    | none => some r
    | some b => if b.seq < r.seq then some r else some b) none

/-- The next free block of a sector: the one after the last that holds a programmed word. -/
def NorSt.freeBlock (n : NorSt) (sector : Nat) : Nat :=
  n.words.foldl (fun a x => if x.1 / 8192 = sector then max a (x.1 / 8 % 1024 + 1) else a) 1

/-- A block written: words 1 to 7, then the flag word (R350). -/
def NorSt.writeBlock (n : NorSt) (blk kind seq : Nat) (payload : Blob) (flags : List Nat) : NorSt :=
  let body := Blob.concat [fld 1 kind, rsv 1, fld 6 seq, payload.fit 44]
  let bytes := body.append (fld 4 (crc32c body.bytes).toNat)
  let m := (List.range 7).foldl (fun n i => n.program (blk * 8 + 1 + i) (BitVec.ofNat 64 (bytes.le (8 * i) 8))) n
  m.program (blk * 8) (flagValue (0 :: flags))

/-- Flags 1 and 2 that a block holds. -/
def NorRec.kept (r : NorRec) : List Nat := [1, 2].filter r.has

/-- The block of a SEQ, by number. -/
def NorSt.findSeq (n : NorSt) (seq : Nat) : Option Nat :=
  (n.words.find? fun x => x.1 % 8 == 1 && x.1 / 8 % 1024 != 0 && x.2.toNat / 65536 == seq).map fun x => x.1 / 8

/-! ### Sectors (R345, R354) -/

def NorSt.sector (n : NorSt) (k : Nat) : Sector := (lookupNat n.sectors k).getD ⟨0, .confirmed⟩

def NorSt.setSector (n : NorSt) (k : Nat) (x : Sector) : NorSt :=
  { n with sectors := if x = ⟨0, .confirmed⟩ then dropKey k n.sectors else setKey k x n.sectors }

/-- Every word of a sector erased. -/
def NorSt.erase (n : NorSt) (k : Nat) : NorSt :=
  { n with words := n.words.filter (fun x => x.1 / 8192 != k), progs := n.progs.filter (fun x => x.1 / 8192 != k) }

/-- ERASE_DONE, ERASES and SECTOR programmed in the header. -/
def NorSt.confirm (n : NorSt) (k erases : Nat) : NorSt :=
  let h := Blob.concat [fld 3 erases, fld 1 k]
  let m := (n.program (k * 8192 + 1) (BitVec.ofNat 64 ((h.append (fld 4 (crc32c h.bytes).toNat)).le 0 8))).program (k * 8192)
    (flagValue [1])
  m.setSector k ⟨erases, .confirmed⟩

/-- A sector taken into use: OPENED, OPEN_SEQ and TARGET. -/
def NorSt.openSector (n : NorSt) (k target : Nat) : NorSt :=
  let x := n.sector k
  let n := if flagSet (n.word (k * 8192)) 1 then n else n.confirm k x.erases
  let h := Blob.concat [fld 6 n.nextSeq, fld 1 target, rsv 1]
  let n := (n.program (k * 8192 + 2) (BitVec.ofNat 64 (h.le 0 8))).program (k * 8192 + 3)
    (BitVec.ofNat 64 (crc32c h.bytes).toNat)
  (n.program (k * 8192) (flagValue [2])).setSector k ⟨x.erases, .opened⟩

/-! ### The journal (R355, R356) -/

/-- A record of the window stands (R356). -/
def recStanding (all : List NorRec) (r : NorRec) : Bool :=
  match r.kind with
  | 1 => !(r.has 2)
  | 2 => !(r.has 2)
  | 3 => all.all fun q => q.kind != 3 || q.seq ≤ r.seq
  | 4 => all.all fun q => q.kind != 4 || q.seq ≤ r.seq
  | 5 => all.all fun q => !(q.kind == 6 && q.payload.le 0 6 == r.seq)
  | 6 => all.any fun q => q.kind == 5 && q.seq == r.payload.le 0 6
  | 7 => all.all fun q => q.kind != 7 || q.payload.le 0 1 != r.payload.le 0 1 || q.seq ≤ r.seq
  | _ => false

/-- Every record of the window. -/
def NorSt.journal (n : NorSt) : List NorRec := n.window.flatMap n.recs

/-- The next confirmed sector after the head, ascending and wrapping from 127 to 16. -/
def NorSt.nextHead (n : NorSt) : Option Nat :=
  ((List.range 112).map fun i => 16 + (n.head - 16 + 1 + i) % 112).find? fun k =>
    (n.sector k).state == .confirmed && !(n.window.contains k)

/-- The head has filled, but for the records kept for the hold-up flush: the next sector opens, and before a 33rd would enter the
window the standing records of the oldest are copied and it leaves (R355). -/
def NorSt.rotate (n : NorSt) : NorSt :=
  match n.nextHead with
  | none => n
  | some k =>
    let old := if n.window.length ≥ 32 then n.window.take 1 else []
    let all := n.journal
    let keep := (old.flatMap n.recs).filter (recStanding all)
    let n := n.openSector k 0xFF
    let n := { n with head := k, nextBlock := 1, window := n.window.filter (fun w => !(old.contains w)) ++ [k] }
    keep.foldl (fun n r =>
      { n.writeBlock (n.head * 1024 + n.nextBlock) r.kind r.seq r.payload r.kept with nextBlock := n.nextBlock + 1 }) n

/-- A record appended. An ordinary write keeps 64 free records in the head. -/
def NorSt.append (n : NorSt) (kind seq : Nat) (payload : Blob) (flags : List Nat) : NorSt :=
  let n := if n.nextBlock + 64 ≥ 1024 then n.rotate else n
  if n.nextBlock ≥ 1024 then n
  else { n.writeBlock (n.head * 1024 + n.nextBlock) kind seq payload flags with nextBlock := n.nextBlock + 1 }

/-! ### The drive's own operations (R347, R353, R354) -/

/-- The program engine is taken. -/
def NorSt.engineBusy (n : NorSt) : Bool := n.fwBusy || n.hostBusy

def onNor (f : NorSt → NorSt) (s : State) : State := { s with nor := f s.nor }

/-- A SEQ taken. -/
def norSeq (s : State) : Nat × State := (s.nor.nextSeq, onNor (fun n => { n with nextSeq := n.nextSeq + 1 }) s)

/-- An erase of the drive's own begins: its record with BEGUN set, then the erase (R354). -/
def NorSt.beginErase (n : NorSt) (k : Nat) (use : FwNorUse) : NorSt :=
  let seq := n.nextSeq
  let count := (n.sector k).erases + 1
  let n := { n with nextSeq := seq + 1 }.append 2 seq (Blob.concat [fld 1 k, fld 3 count]) [1]
  { n with fwBusy := true, fwOp := some ⟨k, count, seq, use⟩ }

/-- The standing blocks of an option-area sector: of each KIND, the one with the highest SEQ (R351). -/
def NorSt.standing (n : NorSt) (k : Nat) : List NorRec :=
  let l := n.recs k
  l.filter fun r => l.all fun q => q.kind != r.kind || q.seq ≤ r.seq

/-- Blocks copied to a sector from block 1 on. -/
def NorSt.copyBlocks (n : NorSt) (k : Nat) (l : List NorRec) : NorSt :=
  (l.zipIdx).foldl (fun n x => n.writeBlock (k * 1024 + 1 + x.2) x.1.kind x.1.seq x.1.payload x.1.kept) n

/-- Steps 1 and 2 of R353 as far as the erase of the target. -/
def NorSt.beginSwap (n : NorSt) (k : Nat) : NorSt :=
  ((n.openSector 7 k).copyBlocks 7 (n.standing k)).beginErase k .swapTarget

/-- One write of the drive's own, the engine being free. A full sector of the option area is rewritten first. -/
def NorSt.doWrite (n : NorSt) (w : NorWrite) : NorSt :=
  match w with
  | .block k kind seq p =>
    if n.freeBlock k ≥ 1024 then { n.beginSwap k with later := w :: n.later }
    else
      let n := if (n.sector k).state == .confirmed then n.openSector k 0xFF else n
      n.writeBlock (k * 1024 + n.freeBlock k) kind seq p []
  | .journal kind seq p fs => n.append kind seq p fs
  | .flag seq f =>
    match n.findSeq seq with
    | some blk => n.program (blk * 8) (flagValue [f])
    | none => n

/-- The writes that wait, and then an erase that is due: a journal sector that has left the window, or one to be erased again. -/
def NorSt.catchUp (n : NorSt) : NorSt :=
  if n.engineBusy then n
  else
    let n := n.later.foldl (fun n w => if n.engineBusy then { n with later := n.later ++ [w] } else n.doWrite w)
      { n with later := [] }
    if n.engineBusy then n
    else match n.sectors.find? fun x => (x.2.state == .opened && decide (16 ≤ x.1) && !(n.window.contains x.1)) with
      | some x => n.beginErase x.1 .journal
      | none => n

/-- A write of the drive's own, which waits while the engine is taken. -/
def norWrite (w : NorWrite) (s : State) : State :=
  onNor (fun n => ({ n with later := n.later ++ [w] }).catchUp) s

/-- A block appended to a sector of the option area; answers its SEQ. -/
def norBlock (sector kind : Nat) (p : Blob) (s : State) : Nat × State :=
  let (q, s) := norSeq s
  (q, norWrite (.block sector kind q p) s)

/-- A record appended to the journal; answers its SEQ. -/
def norRecord (kind : Nat) (p : Blob) (flags : List Nat) (s : State) : Nat × State :=
  let (q, s) := norSeq s
  (q, norWrite (.journal kind q p flags) s)

/-- A flag set in a block written before. -/
def norFlag (seq f : Nat) (s : State) : State := norWrite (.flag seq f) s

/-- Event 10 of R376; RESOURCE has no type for a sector, so that INDEX holds its number (log 13). -/
def norFailure (sector : Nat) (s : State) : State := logEvent 10 0 ⟨0, 0, 0, sector⟩ s

/-! ### Host sequences (R346 to R349) -/

/-- The host may write a sector in Maintenance state (R341). -/
def hostWritable (k : Nat) : Bool := k == 3 || k == 4 || k == 6

/-- A failed cycle (R348). -/
def NorSt.fail (n : NorSt) (err sector : Nat) : NorSt :=
  { n with seq := 0, code := none, err := err, errValid := true, errSector := sector }

/-- The sector that an aperture offset below 90_0000h lies in. -/
def sectorAt (ofst : Nat) : Nat := if ofst < 0x800000 then ofst / 65536 else (ofst - 0x800000) / 8192

/-- An operation under way or accepted: an erase begins with its record (R354), once the drive's own operation has ended. -/
def NorSt.startHost (n : NorSt) : NorSt :=
  if n.fwBusy then n
  else match n.hostOp with
    | some (.erase k none) =>
      let seq := n.nextSeq
      let m := { n with nextSeq := seq + 1 }.append 2 seq (Blob.concat [fld 1 k, fld 3 ((n.sector k).erases + 1)]) [1]
      { m with hostOp := some (.erase k (some seq)) }
    | _ => n

/-- The data cycle of a command accepted (R346, R348). -/
def NorSt.dataCycle (n : NorSt) (c : NorCode) (ofst width value : Nat) : NorSt :=
  let k := sectorAt ofst
  let w := ofst / 8
  match c with
  | .erase =>
    if !(width == 2 && value == 0x3030 && decide (ofst < 0x800000)) then n.fail 1 k
    else if !(hostWritable k) then n.fail 2 k
    else { n with seq := 0, code := none, target := ofst, hostBusy := true, hostOp := some (.erase k none) }.startHost
  | _ =>
    if !(width == 8 && ofst % 8 == 0 && decide (ofst < 0x800000)) then n.fail 1 k
    else if !(hostWritable k) then n.fail 2 k
    else if (c == .flag) != isFlagWord w then n.fail 3 k
    else if n.refuses w then n.fail 4 k
    else { n with seq := 0, code := none, target := ofst, hostBusy := true, hostOp := some (if isFlagWord w then HostNorOp.flag w (BitVec.ofNat 64 value) else HostNorOp.word w (BitVec.ofNat 64 value)) }.startHost

/-- A write to offsets 00_0000h to 8F_FFFFh of the aperture. -/
def NorSt.cycle (n : NorSt) (ofst width value : Nat) : NorSt :=
  let k := sectorAt ofst
  if !n.maint then n.fail 2 k
  else if n.hostBusy then n.fail 1 k
  else if n.seq = 0 then
    if ofst = 0xA8 ∧ width = 2 ∧ value = 0x4D5A then { n with seq := 1 } else n.fail 1 k
  else if n.seq = 1 then
    if ofst = 0x150 ∧ width = 2 ∧ value = 0x5A4D then { n with seq := 2 } else n.fail 1 k
  else if n.seq = 2 then
    if ofst = 0xA8 ∧ width = 2 then
      if value = 0xA0A0 then { n with seq := 3, code := some .word }
      else if value = 0xA1A1 then { n with seq := 3, code := some .flag }
      else if value = 0x8080 then { n with seq := 3, code := some .erase }
      else if value = 0xF0F0 then { n with seq := 0 }
      else n.fail 1 k
    else n.fail 1 k
  else match n.code with
    | some c => n.dataCycle c ofst width value
    | none => n.fail 1 k

/-- Bits of a 32-bit register that a write of some of its bytes covers, and the value they take. -/
def laneWrite (reg ofst width value : Nat) : BitVec 32 × BitVec 32 :=
  let lanes := (List.range 4).filter fun i => decide (ofst ≤ reg + i ∧ reg + i < ofst + width)
  (lanes.foldl (fun m i => m ||| (0xFF#32 <<< (8 * i))) 0,
   lanes.foldl (fun v i => v ||| (BitVec.ofNat 32 (value / 256 ^ (reg + i - ofst) % 256) <<< (8 * i))) 0)

/-- A write to the registers of R345, which acts under each field's access type. -/
def NorSt.regWrite (n : NorSt) (ofst width value : Nat) : NorSt :=
  let st := (laneWrite 0x900000 ofst width value).2
  let sel := laneWrite 0x900008 ofst width value
  { n with
    errValid := n.errValid && !(st.getLsbD 7)
    done := n.done && !(st.getLsbD 6)
    uncorr := n.uncorr && !(st.getLsbD 0)
    sectorSel := if sel.1.getLsbD 0 then sel.2.toNat % 128 else n.sectorSel }

/-- A write to BAR2/3 (R343). The aperture is served while the drive runs and its link is up. -/
def aperWrite (ofst width value : Nat) (s : State) : State :=
  if !(s.up && s.host.link && !s.host.perst) then s
  else if ofst < 0x900000 then onNor (fun n => n.cycle ofst width value) s
  else if ofst < 0x900014 then onNor (fun n => n.regWrite ofst width value) s
  else s

/-- Cycle 1 (R346). -/
def execOptKey1 (value : BitVec 16) (s : State) : Res := .next (aperWrite 0xA8 2 value.toNat s)

/-- Cycle 2. -/
def execOptKey2 (value : BitVec 16) (s : State) : Res := .next (aperWrite 0x150 2 value.toNat s)

/-- Command A0A0h and its data cycle. -/
def execWordProgram (ofst width : Nat) (value : BitVec 64) (s : State) : Res :=
  .next (aperWrite ofst width value.toNat (aperWrite 0xA8 2 0xA0A0 s))

/-- Command A1A1h and its data cycle. -/
def execFlagProgram (ofst width : Nat) (value : BitVec 64) (s : State) : Res :=
  .next (aperWrite ofst width value.toNat (aperWrite 0xA8 2 0xA1A1 s))

/-- Command 8080h and its data cycle. -/
def execSectorErase (ofst width : Nat) (value : BitVec 64) (s : State) : Res :=
  .next (aperWrite ofst width value.toNat (aperWrite 0xA8 2 0x8080 s))

/-- Command F0F0h. -/
def execOptReset (s : State) : Res := .next (aperWrite 0xA8 2 0xF0F0 s)

/-! ### Ends of operations -/

/-- A word whose program did not verify: some of the bits asked for have been cleared, which ones is a free value (log 7). -/
def failedProgram (w : Nat) (v : BitVec 64) (s : State) : State :=
  { onNor (fun n => n.program w (v ||| Config.freeWord s.free)) s with free := s.free + 1 }

/-- A sector whose erase did not verify: some of its bits have been set, which ones is a free value (log 7). -/
def failedErase (k : Nat) (s : State) : State :=
  { onNor (fun n => { n with
      words := (n.words.zipIdx.map fun x =>
        if x.1.1 / 8192 = k then (x.1.1, x.1.2 ||| Config.freeWord (s.free + x.2)) else x.1).filter
          fun x => x.2 != BitVec.allOnes 64 }) s with free := s.free + s.nor.words.length }

/-- A host program or erase ends (R346, R348); while the drive's own operation holds it back, it cannot end (R347). -/
def optDone (verified : Bool) (s : State) : State :=
  match s.nor.hostOp with
  | none => s
  | some op =>
    if s.nor.fwBusy then s
    else
      let k := match op with
        | .word w _ => w / 8192
        | .flag w _ => w / 8192
        | .erase k _ => k
      let done := match op with
        | .word w v => if verified then onNor (fun n => n.program w v) s else failedProgram w v s
        | .flag w v => if verified then onNor (fun n => n.program w v) s else failedProgram w v s
        | .erase k r =>
          let s := if verified then onNor (fun n => (n.erase k).confirm k ((n.sector k).erases + 1)) s
            else onNor (fun n => n.setSector k ⟨(n.sector k).erases, .unconfirmed⟩) (failedErase k s)
          match r with
          | some q => if verified then onNor (fun n => n.doWrite (.flag q 2)) s else s
          | none => s
      let ended := onNor (fun n => { n with hostBusy := false, hostOp := none }) done
      let full := match op with
        | .flag w _ => decide (w / 8 % 1024 = 1023) && flagSet (ended.nor.word w) 0
        | _ => false
      let said := if verified then onNor (fun n => { n with done := true }) ended
        else norFailure k (onNor (fun n => { n with err := 5, errValid := true, errSector := k }) ended)
      onNor (fun n => if full then (if n.engineBusy then n else n.beginSwap k) else n.catchUp) said

def execOptOperationDone (verified : Bool) (s : State) : Res := .next (optDone verified s)

/-- The drive's own sector erase ends (R353, R354). A journal sector that fails is not used again (R340). -/
def norEraseEnd (verified : Bool) (s : State) : State :=
  match s.nor.fwOp with
  | none => s
  | some f =>
    let free := fun (n : NorSt) => { n with fwBusy := false, fwOp := none }
    let t :=
      if verified then
        onNor (fun n =>
          let n := (free ((n.erase f.sector).confirm f.sector f.erases)).doWrite (.flag f.record 2)
          match f.use with
          | .swapTarget => ((n.openSector f.sector 0xFF).copyBlocks f.sector (n.recs 7)).beginErase 7 .swapSource
          | _ => n) s
      else
        norFailure f.sector (onNor (fun n => (free n).setSector f.sector
          ⟨f.erases, if 16 ≤ f.sector then .failed else .unconfirmed⟩) (failedErase f.sector s))
    onNor (fun n => if n.hostOp.isSome then n.startHost else n.catchUp) t

def execNorEraseDone (verified : Bool) (s : State) : Res := .next (norEraseEnd verified s)

/-! ### Reading the option area (R352, R353) -/

/-- The sector to be read for a sector of the option area: the swap sector while it stands for it. -/
def NorSt.readFrom (n : NorSt) (k : Nat) : Nat :=
  if (n.sector 7).state == .opened && (n.word (7 * 8192 + 2)).toNat / 2 ^ 48 % 256 == k && (n.sector k).state == .unconfirmed
  then 7 else k

/-- The standing block of a KIND in a sector of the option area. -/
def NorSt.option (n : NorSt) (k kind : Nat) : Option NorRec :=
  newestRec ((n.recs (n.readFrom k)).filter fun r => r.kind == kind)

/-- OWNER_HASH in force: all ones with no valid block (R351, R352). -/
def NorSt.ownerHash (n : NorSt) : BitVec 256 :=
  match n.option 3 0x83 with
  | some r => BitVec.ofNat 256 (r.payload.be 0 32)
  | none => BitVec.allOnes 256

/-- BOOT_FLAGS in force: USE_RESIDENT is 1 with no valid block. -/
def NorSt.bootFlags (n : NorSt) : BitVec 64 :=
  match n.option 4 0x84 with
  | some r => BitVec.ofNat 64 (r.payload.le 0 8)
  | none => BitVec.allOnes 64

/-- The membership record: PLAIN_ID, MEMBER and MEMBERS; none where absent or withdrawn. -/
def NorSt.membership (n : NorSt) : Option (BitVec 64 × Nat × Nat) :=
  match n.option 5 0x85 with
  | some r => if r.has 1 then none else some (BitVec.ofNat 64 (r.payload.le 0 8), r.payload.le 8 1, r.payload.le 9 1)
  | none => none

/-- The Sanitize to be run again: SANACT, SANITIZE_BELL and SEQ of the newest KIND 88h block without DONE. -/
def NorSt.sanitizing (n : NorSt) : Option (Nat × Nat × Nat) :=
  match n.option 5 0x88 with
  | some r => if r.has 1 then none else some (r.payload.le 0 1, r.payload.le 2 6, r.seq)
  | none => none

/-- An interrupted erase of an option or journal sector is to be done again (R354): the sector is unconfirmed. -/
def NorSt.interrupted (n : NorSt) : NorSt :=
  let n := match n.fwOp with
    | some f => n.setSector f.sector ⟨f.erases, .unconfirmed⟩
    | none => n
  let n := match n.hostOp with
    | some (.erase k (some _)) => n.setSector k ⟨(n.sector k).erases + 1, .unconfirmed⟩
    | _ => n
  { n with fwBusy := false, fwOp := none, hostBusy := false, hostOp := none, seq := 0, code := none, maint := false }

end Sys2Proof.Machine
end

