-- ==== Sys2Proof/Machine/Number.lean ====
section
/-! DEFINITION. The eleven number formats (R225 to R228), the one rounding rule (R230), the conversions (R231 to R233) and
exact FP32 arithmetic with one rounding for each operation. -/

namespace Sys2Proof

/-! ### Exact values -/

/-- What an engine reads from a stored value (R228): `fin m e` is the number m × 2^e, and a zero has no sign. -/
inductive Num where
  | fin (m e : Int)
  | inf (neg : Bool)
  | nan
  deriving DecidableEq, Repr

/-- A floating-point format (R226). -/
structure FloatFmt where
  /-- Fraction bits. -/
  frac : Nat
  /-- Exponent bits. -/
  expo : Nat
  bias : Nat
  /-- The code of the largest finite value. -/
  maxFin : Nat
  /-- The code of positive infinity, where the format has one. -/
  infCode : Option Nat
  /-- The canonical NaN. -/
  nanCode : Nat
  deriving DecidableEq, Repr

def fE4M3 : FloatFmt := ⟨3, 4, 7, 0x7E, none, 0x7F⟩
def fE5M2 : FloatFmt := ⟨2, 5, 15, 0x7B, some 0x7C, 0x7E⟩
def fBF16 : FloatFmt := ⟨7, 8, 127, 0x7F7F, some 0x7F80, 0x7FC0⟩
def fFP16 : FloatFmt := ⟨10, 5, 15, 0x7BFF, some 0x7C00, 0x7E00⟩
def fFP32 : FloatFmt := ⟨23, 8, 127, 0x7F7FFFFF, some 0x7F800000, 0x7FC00000⟩
/-- IEEE binary64, a field type of predicates only (R138). -/
def fFP64 : FloatFmt := ⟨52, 11, 1023, 0x7FEFFFFFFFFFFFFF, some 0x7FF0000000000000, 0x7FF8000000000000⟩

/-- The value of a stored code (R226, R228). -/
def FloatFmt.decode (f : FloatFmt) (code : Nat) : Num :=
  let sgn : Int := if code / 2 ^ (f.frac + f.expo) % 2 = 1 then -1 else 1
  let mag := code % 2 ^ (f.frac + f.expo)
  let ex := mag / 2 ^ f.frac
  let fr := mag % 2 ^ f.frac
  if mag > f.maxFin then
    (if f.infCode = some mag then .inf (sgn == -1) else .nan)
  else if ex = 0 then .fin (sgn * fr) (1 - f.bias - f.frac)
  else .fin (sgn * (2 ^ f.frac + fr : Nat)) ((ex : Int) - f.bias - f.frac)

/-- A magnitude divided by 2^k, rounded to nearest, ties to even (R230). -/
def rneShift (a k : Nat) : Nat :=
  let q := a / 2 ^ k
  let r := a % 2 ^ k
  if 2 * r > 2 ^ k ∨ (2 * r = 2 ^ k ∧ q % 2 = 1) then q + 1 else q

/-- The code of the magnitude a × 2^e rounded once to a format, with an unbounded exponent at the top (R230, R231). -/
def FloatFmt.roundMag (f : FloatFmt) (a : Nat) (e : Int) : Nat :=
  if a = 0 then 0 else
  let top : Int := (a.log2 : Int) + e
  let q : Int := max top (1 - f.bias) - f.frac
  let n := if e ≥ q then a * 2 ^ (e - q).toNat else rneShift a (q - e).toNat
  ((q + f.frac + f.bias - 1).toNat) * 2 ^ f.frac + n

/-- Conversion of an exact value to a floating-point format (R231). -/
def FloatFmt.encode (f : FloatFmt) (x : Num) : Nat :=
  let sb (neg : Bool) (c : Nat) := if neg then c + 2 ^ (f.frac + f.expo) else c
  match x with
  | .nan => f.nanCode
  | .inf neg => match f.infCode with
    | some c => sb neg c
    | none => f.nanCode
  | .fin m e =>
    let c := f.roundMag m.natAbs e
    if c = 0 then 0
    else if c > f.maxFin then (match f.infCode with
      | some i => if f.frac = 2 then sb (decide (m < 0)) f.maxFin else sb (decide (m < 0)) i
      | none => sb (decide (m < 0)) f.maxFin)
    else sb (decide (m < 0)) c

/-- An exact value rounded once to an integer, ties to even; none for a NaN or an infinity. -/
def roundInt (m e : Int) : Int :=
  if e ≥ 0 then m * 2 ^ e.toNat
  else if m < 0 then - (rneShift m.natAbs (-e).toNat : Int) else (rneShift m.natAbs (-e).toNat : Int)

/-- An integer held to a range (R232). -/
def clampInt (lo hi x : Int) : Int := if x < lo then lo else if x > hi then hi else x

/-- Conversion to an integer range (R232): infinities saturate, a NaN gives zero. -/
def Num.toRange (x : Num) (lo hi : Int) : Int :=
  match x with
  | .nan => 0
  | .inf neg => if neg then lo else hi
  | .fin m e => clampInt lo hi (roundInt m e)

/-! ### Arithmetic on exact values -/

def Num.neg : Num → Num
  | .fin m e => .fin (-m) e
  | .inf s => .inf (!s)
  | .nan => .nan

/-- Exact sum. -/
def Num.add : Num → Num → Num
  | .nan, _ => .nan
  | _, .nan => .nan
  | .inf a, .inf b => if a = b then .inf a else .nan
  | .inf a, _ => .inf a
  | _, .inf b => .inf b
  | .fin m e, .fin n g =>
    if m = 0 then .fin n g else if n = 0 then .fin m e
    else if e ≤ g then .fin (m + n * 2 ^ (g - e).toNat) e else .fin (m * 2 ^ (e - g).toNat + n) g

/-- Exact product. -/
def Num.mul : Num → Num → Num
  | .nan, _ => .nan
  | _, .nan => .nan
  | .inf a, .inf b => .inf (a != b)
  | .inf a, .fin n _ => if n = 0 then .nan else .inf (a != decide (n < 0))
  | .fin m _, .inf b => if m = 0 then .nan else .inf (b != decide (m < 0))
  | .fin m e, .fin n g => .fin (m * n) (e + g)

/-- Quotient with 70 significant bits and a sticky bit below them, so that one later rounding is exact. -/
def Num.div : Num → Num → Num
  | .nan, _ => .nan
  | _, .nan => .nan
  | .inf _, .inf _ => .nan
  | .inf a, .fin n _ => .inf (a != decide (n < 0))
  | .fin _ _, .inf _ => .fin 0 0
  | .fin m e, .fin n g =>
    if n = 0 then (if m = 0 then .nan else .inf (decide (m < 0)))
    else
      let k := 70 + n.natAbs.log2
      let a := m.natAbs * 2 ^ k
      let q := a / n.natAbs
      let r := a % n.natAbs
      let v : Int := (2 * q + (if r = 0 then 0 else 1) : Nat)
      .fin (if decide (m < 0) != decide (n < 0) then -v else v) (e - g - k - 1)

/-- Integer square root by digits, with `f` digits. -/
def isqrt : Nat → Nat → Nat
  | 0, _ => 0
  | f + 1, n =>
    let r := 2 * isqrt f (n / 4)
    if (r + 1) * (r + 1) ≤ n then r + 1 else r

/-- Square root with a sticky bit below at least 64 significant bits. -/
def Num.sqrt : Num → Num
  | .nan => .nan
  | .inf s => if s then .nan else .inf false
  | .fin m e =>
    if m < 0 then .nan
    else if m = 0 then .fin 0 0
    else
      let o : Nat := if e % 2 = 0 then 0 else 1
      let a := m.natAbs * 2 ^ (2 * 80 + o)
      let r := isqrt (a.log2 / 2 + 1) a
      .fin (2 * r + (if r * r = a then 0 else 1) : Nat) ((e - (o : Int)) / 2 - 80 - 1)

/-- Strict order; false when either is a NaN. -/
def Num.lt : Num → Num → Bool
  | .nan, _ => false
  | _, .nan => false
  | .inf a, .inf b => a && !b
  | .inf a, _ => a
  | _, .inf b => !b
  | .fin m e, .fin n g =>
    if e ≤ g then decide (m < n * 2 ^ (g - e).toNat) else decide (m * 2 ^ (e - g).toNat < n)

/-- Equality as numbers; false when either is a NaN. -/
def Num.eq (x y : Num) : Bool :=
  match x, y with
  | .nan, _ => false
  | _, .nan => false
  | _, _ => !x.lt y && !y.lt x

def Num.isNan : Num → Bool
  | .nan => true
  | _ => false

def Num.isFinite : Num → Bool
  | .fin _ _ => true
  | _ => false

def Num.isZero : Num → Bool
  | .fin m _ => m == 0
  | _ => false

/-! ### FP32 -/

def f32 (x : F32) : Num := fFP32.decode x.toNat
/-- One rounding to FP32 (R230, R231). -/
def toF32 (x : Num) : F32 := BitVec.ofNat 32 (fFP32.encode x)

def fadd (x y : F32) : F32 := toF32 ((f32 x).add (f32 y))
def fsub (x y : F32) : F32 := toF32 ((f32 x).add (f32 y).neg)
def fmul (x y : F32) : F32 := toF32 ((f32 x).mul (f32 y))
/-- Fused multiply-add: x × y + z with one rounding (R219). -/
def ffma (x y z : F32) : F32 := toF32 (((f32 x).mul (f32 y)).add (f32 z))
def fdiv (x y : F32) : F32 := toF32 ((f32 x).div (f32 y))
def fsqrt (x : F32) : F32 := toF32 (f32 x).sqrt
/-- Reciprocal square root, correctly rounded: the root of the exact reciprocal to 70 bits, then one rounding. -/
def frsqrt (x : F32) : F32 :=
  match f32 x with
  | .fin m e => if m = 0 then toF32 (.inf false) else toF32 ((Num.div (.fin 1 0) (.fin m e)).sqrt)
  | .inf false => 0
  | _ => toF32 .nan
def fneg (x : F32) : F32 := toF32 (f32 x).neg
def flt (x y : F32) : Bool := (f32 x).lt (f32 y)
def feq (x y : F32) : Bool := (f32 x).eq (f32 y)
def fle (x y : F32) : Bool := flt x y || feq x y
def fOne : F32 := 0x3F800000#32
/-- An integer as FP32, rounded once. -/
def fOfInt (n : Int) : F32 := toF32 (.fin n 0)

/-- The FP32 order that ranks distances: NaN last, so that the order is total on what a query can hold. -/
def fKey (x y : F32) : Bool := flt x y

/-! ### Formats by code (R39, R225) -/

/-- The eleven format codes of R39; a code above 10 names none. -/
inductive Fmt where
  | int4 | int8 | uint8 | int16 | int32 | fx64 | e4m3 | e5m2 | bf16 | fp16 | fp32
  deriving DecidableEq, Repr

def Fmt.ofCode : Nat → Option Fmt
  | 0 => some .int4
  | 1 => some .int8
  | 2 => some .uint8
  | 3 => some .int16
  | 4 => some .int32
  | 5 => some .fx64
  | 6 => some .e4m3
  | 7 => some .e5m2
  | 8 => some .bf16
  | 9 => some .fp16
  | 10 => some .fp32
  | _ => none

/-- Bits of an element. -/
def Fmt.bits : Fmt → Nat
  | .int4 => 4
  | .int8 | .uint8 | .e4m3 | .e5m2 => 8
  | .int16 | .bf16 | .fp16 => 16
  | .int32 | .fp32 => 32
  | .fx64 => 64

/-- The floating-point format, where the code names one. -/
def Fmt.float : Fmt → Option FloatFmt
  | .e4m3 => some fE4M3
  | .e5m2 => some fE5M2
  | .bf16 => some fBF16
  | .fp16 => some fFP16
  | .fp32 => some fFP32
  | _ => none

/-- The range that a conversion saturates to (R232). -/
def Fmt.range : Fmt → Int × Int
  | .int4 => (-7, 7)
  | .int8 => (-127, 127)
  | .uint8 => (0, 255)
  | .int16 => (-32768, 32767)
  | .int32 => (-2147483648, 2147483647)
  | _ => (-9223372036854775808, 9223372036854775807)

/-- The value of a stored element (R225). FX64 is read as the integer it holds (R233). -/
def Fmt.value (f : Fmt) (code : Nat) : Num :=
  match f.float with
  | some ff => ff.decode code
  | none => if f = .uint8 then .fin (code % 256 : Nat) 0 else .fin (toSigned f.bits code) 0

/-- The code of a value converted to a format (R230 to R232). -/
def Fmt.store (f : Fmt) (x : Num) : Nat :=
  match f.float with
  | some ff => ff.encode x
  | none => (x.toRange f.range.1 f.range.2 % (2 ^ f.bits : Nat)).toNat

/-- The pair has FX64 on one side and a floating format on the other (R234). -/
def Fmt.moverExcluded (a b : Fmt) : Bool :=
  (a == .fx64 && b.float.isSome) || (b == .fx64 && a.float.isSome)

/-- Bytes of `n` elements in memory (R227: two INT4 elements share a byte). -/
def Fmt.bytes (f : Fmt) (n : Nat) : Nat := ceilDiv (n * f.bits) 8

/-! ### Sums in the orders the spec fixes -/

/-- Fused multiply-adds from zero over components in ascending order (R439). -/
def dotFma (x y : List F32) : F32 := (List.zip x y).foldl (fun acc p => ffma p.1 p.2 acc) 0

/-- Squared distance: differences rounded once, squares accumulated by fused multiply-adds (R439). -/
def sqDist (x y : List F32) : F32 :=
  (List.zip x y).foldl (fun acc p => let d := fsub p.1 p.2; ffma d d acc) 0

/-- Exact products summed with one rounding for each addition, in ascending order (R207, R438). -/
def dotRound (x y : List F32) : F32 := (List.zip x y).foldl (fun acc p => ffma p.1 p.2 acc) 0

/-- Lanes 2i and 2i + 1 combined, then pairs of those results, and so on (R141, R220). -/
def pairTree {α : Type} (f : α → α → α) (z : α) : Nat → List α → α
  | 0, l => l.headD z
  | n + 1, l =>
    let rec pairs : List α → List α
      | a :: b :: r => f a b :: pairs r
      | l => l
    match l with
    | [] => z
    | [a] => a
    | _ => pairTree f z n (pairs l)

/-- Lane l of `w` combines elements l, l + w, l + 2w and so on in ascending order (R141, R220). -/
def laneFold {α : Type} (f : α → α → α) (z : α) (w : Nat) (l : List α) : List α :=
  (List.range w).map fun i =>
    ((List.range (ceilDiv l.length w)).filterMap fun j => l[i + j * w]?).foldl f z

/-- The BF16 rounding of an FP32 value, read back as FP32 (R438). -/
def toBF16 (x : F32) : F32 := toF32 (fBF16.decode (fBF16.encode (f32 x)))

/-! ### Transcendental operations (R219) -/

/-- Fraction bits of the working precision. -/
def trP : Nat := 256

/-- 2^(2^-i) as fixed point, for i from 1, starting from the root of 2. -/
def expRoots : Nat → Nat → List Nat
  | 0, _ => []
  | n + 1, x => let r := isqrt (trP + 2) (x * 2 ^ trP); r :: expRoots n r

/-- 2^f for a fraction f given in `trP` bits, as fixed point at least 1 and below 2. -/
def exp2Frac (f : Nat) : Nat :=
  ((List.zip (List.range 200) (expRoots 200 (2 ^ (trP + 1)))).foldl
    (fun acc p => if f / 2 ^ (trP - 1 - p.1) % 2 = 1 then acc * p.2 / 2 ^ trP else acc) (2 ^ trP))

/-- 2^x for x = v / 2^trP, as a mantissa and an exponent. -/
def exp2Fix (v : Int) : Int × Int :=
  let n := v / (2 ^ trP : Nat)
  ((exp2Frac (v % (2 ^ trP : Nat)).toNat : Nat), n - trP)

/-- Binary digits of log2 of y / 2^trP, which lies from 1 to below 2. -/
def logDigits : Nat → Nat → Nat → Nat
  | 0, _, acc => acc
  | n + 1, y, acc =>
    let z := y * y / 2 ^ trP
    if z ≥ 2 ^ (trP + 1) then logDigits n (z / 2) (2 * acc + 1) else logDigits n z (2 * acc)

/-- An exact value as fixed point with `trP` fraction bits, rounded down. -/
def toFix (m e : Int) : Int :=
  let s := e + trP
  if s ≥ 0 then m * 2 ^ s.toNat else m / (2 ^ (-s).toNat : Nat)

/-- log2(e) in `trP` bits. -/
def kLog2e : Nat := 0x171547652b82fe1777d0ffda0d23a7d11d6aef551bad2b4b1164a2cd9a342648f
/-- 2 / sqrt(pi) in `trP` bits. -/
def kErf : Nat := 0x120dd750429b6d11ae3a914fed7fd8688281341d7587cea2e7342b06199cc4161

/-- Terms of the series of erf: x^(2n+1) / (n! (2n+1)) with alternating signs, in fixed point. -/
def erfSum : Nat → Nat → Int → Int → Int → Int
  | 0, _, _, _, acc => acc
  | f + 1, n, t, x2, acc =>
    erfSum f (n + 1) (-(t * x2 / (2 ^ trP : Nat)) / (n + 1 : Nat)) x2 (acc + t / (2 * n + 1 : Nat))

/-- The neighbour of an approximated value that the implementation takes: rounded toward minus infinity, or the next FP32
value up (R219: within one unit in the last place). -/
def pickF32 (m e : Int) (up : Bool) : F32 :=
  if m = 0 then 0 else
  let a := m.natAbs
  let top : Int := (a.log2 : Int) + e
  let q : Int := max top (-126) - 23
  let n : Int := if e ≥ q then m * 2 ^ (e - q).toNat else m / (2 ^ (q - e).toNat : Nat)
  toF32 (.fin (if up then n + 1 else n) q)

/-- exp2, log2, tanh and erf, within one unit in the last place; the choice of neighbour is free (R219, log 10). -/
def transF32 (op : VuTrans) (x : F32) : F32 :=
  let up := Config.ulpUp op x
  match op, f32 x with
  | _, .nan => toF32 .nan
  | _, .inf _ => Config.transOpen op x
  | .exp2, .fin m e =>
    if (Num.fin 128 0).lt (.fin m e) then toF32 (.inf false)
    else if (Num.fin m e).lt (.fin (-151) 0) then pickF32 1 (-160) up
    else let p := exp2Fix (toFix m e); pickF32 p.1 p.2 up
  | .log2, .fin m e =>
    if m ≤ 0 then Config.transOpen op x
    else
      let a := m.natAbs
      let d := logDigits 100 (a * 2 ^ trP / 2 ^ a.log2) 0
      pickF32 (((a.log2 : Int) + e) * 2 ^ 100 + d) (-100) up
  | .tanh, .fin m e =>
    if m = 0 then 0
    else if (Num.fin 20 0).lt (.fin m.natAbs e) then pickF32 (if m < 0 then -(2 ^ 60 - 1) else 2 ^ 60 - 1) (-60) up
    else
      let p := exp2Fix (2 * toFix m e * kLog2e / (2 ^ trP : Nat))
      let ex := toFix p.1 p.2
      pickF32 ((ex - (2 ^ trP : Nat)) * (2 ^ trP : Nat) / (ex + (2 ^ trP : Nat))) (-trP) up
  | .erf, .fin m e =>
    if m = 0 then 0
    else if (Num.fin 6 0).lt (.fin m.natAbs e) then pickF32 (if m < 0 then -(2 ^ 60 - 1) else 2 ^ 60 - 1) (-60) up
    else
      let v := toFix m e
      pickF32 (erfSum 250 0 v (v * v / (2 ^ trP : Nat)) 0 * kErf / (2 ^ trP : Nat)) (-trP) up

end Sys2Proof
end

