-- ==== Sys2Proof/Machine/Pass.lean ====
section
/-! DEFINITION. The pass ports as carriers: GF(2^8) arithmetic, topology, routes, credits, the sending and the receiving of
flits (R283 to R296). A message crosses as one unit, whatever the number of flits it takes (log 14). -/

namespace Sys2Proof.Machine

/-! ### GF(2^8) (R294) -/

/-- Multiplication by 02h over the polynomial 11Dh. -/
def gfDouble (x : Byte) : Byte := if x.getLsbD 7 then (x <<< 1) ^^^ 0x1D#8 else x <<< 1

/-- Multiplication. -/
def gfMul (x y : Byte) : Byte :=
  ((List.range 8).foldl (fun (a : Byte × Byte) i => (if y.getLsbD i then a.1 ^^^ a.2 else a.1, gfDouble a.2)) (0#8, x)).1

/-- The inverse: the 254th power. -/
def gfInv (x : Byte) : Byte :=
  ((List.range 7).foldl (fun (a : Byte × Byte) _ => let sq := gfMul a.2 a.2; (gfMul a.1 sq, sq)) (1#8, x)).1

/-- The coefficient of data position i in parity p. -/
def parityCoef (p i : Nat) : Byte := gfInv (BitVec.ofNat 8 p ^^^ BitVec.ofNat 8 (i + 3))

/-- Every byte multiplied. -/
def gfScale (c : Byte) (b : Blob) : Blob :=
  ⟨b.len, (b.cells.map fun x => (x.1, gfMul c x.2)).filter fun x => x.2 != 0⟩

/-- The exclusive-or of two sparse arrays. -/
def xorCells : Nat → Cells → Cells → Cells
  | 0, _, _ => []
  | _ + 1, [], y => y
  | _ + 1, x, [] => x
  | f + 1, (a, v) :: x, (b, w) :: y =>
    if a < b then (a, v) :: xorCells f x ((b, w) :: y)
    else if b < a then (b, w) :: xorCells f ((a, v) :: x) y
    else if v = w then xorCells f x y
    else (a, v ^^^ w) :: xorCells f x y

def xorBlob (x y : Blob) : Blob := ⟨max x.len y.len, xorCells (x.cells.length + y.cells.length + 1) x.cells y.cells⟩

/-! ### Topology and routes (R295, R296, R291) -/

/-- MEMBERS of the active image. -/
def State.members (s : State) : Nat := s.img.active.plain.members

/-- The member and port that R295 wires to a port of a member; none where the topology leaves the port in Down. -/
def wired (c : PlainCfg) (m port : Nat) : Option (Nat × Nat) :=
  let n := c.members
  let span := if c.topology = 2 then c.cols else c.chordSpan
  if n ≤ 1 then none
  else match port with
    | 0 => some ((m + n - 1) % n, 1)
    | 1 => some ((m + 1) % n, 0)
    | 2 => if c.topology = 0 then none else some ((m + span) % n, 3)
    | _ => if c.topology = 0 then none else some ((m + n * span - span) % n, 2)

/-- A chord link. -/
def isChord (port : Nat) : Bool := port ≥ 2

/-- Members that a flit can be at after one more hop, with whether it may still take a chord. -/
def hopSet (c : PlainCfg) (present : Nat → Bool) (l : List (Nat × Bool)) : List (Nat × Bool) :=
  (l.flatMap fun x => [0, 1, 2, 3].filterMap fun p =>
    if isChord p && !x.2 then none
    else match wired c x.1 p with
      | some (y, _) => if present y then some (y, isChord p) else none
      | none => none).eraseDups

/-- Hops from a set of places to a member, with fuel. -/
def hopsTo (c : PlainCfg) (present : Nat → Bool) (dst : Nat) : Nat → List (Nat × Bool) → Option Nat
  | 0, _ => none
  | f + 1, l => if l.any (fun x => x.1 == dst) then some 0 else (hopsTo c present dst f (hopSet c present l)).map (· + 1)

def State.port (s : State) (p : Nat) : Port := s.plain.ports.getD p Port.reset

def onPort (p : Nat) (f : Port → Port) (s : State) : State :=
  { s with plain := { s.plain with ports := modifyAt s.plain.ports p f } }

/-- Ports that carry traffic. -/
def State.upPorts (s : State) : List Nat := [0, 1, 2, 3].filter fun p => (s.port p).state == .up

/-- A member that routes may pass. -/
def State.routable (s : State) (m : Nat) : Bool := s.plain.present.getLsbD m || m == s.plain.member

/-- Hops to a member through an output port. -/
def State.hopsVia (s : State) (dst p : Nat) : Option Nat :=
  let c := s.img.active.plain
  match wired c s.plain.member p with
  | some (y, _) =>
    if s.routable y || y == dst then
      (hopsTo c (fun m => s.routable m || m == dst) dst 48 [(y, isChord p)]).map (· + 1)
    else none
  | none => none

/-- The output port of the shortest route and its length; a tie goes to the lower port. -/
def State.route (s : State) (dst : Nat) : Option (Nat × Nat) :=
  s.upPorts.foldl (fun best p =>
    match s.hopsVia dst p, best with
    | none, b => b
    | some h, none => some (p, h)
    | some h, some (q, g) => if h < g then some (p, h) else some (q, g)) none

/-- CLASS on leaving by a port (R291): 1 across a dateline, 0 again from a chord link to a ring link. -/
def State.outClass (s : State) (fromChord : Bool) (cls p : Nat) : Nat :=
  let c := s.img.active.plain
  let near := s.plain.member
  match wired c near p with
  | some (far, _) =>
    let cls := if fromChord && !(isChord p) then 0 else cls
    if isChord p then (if far < near then 1 else cls)
    else if (near = c.members - 1 ∧ far = 0 ∧ p = 1) ∨ (near = 0 ∧ far = c.members - 1 ∧ p = 0) then 1 else cls
  | none => cls

/-! ### Kinds of message (R288) -/

/-- TYPE and virtual channel of a payload. A lesson's flits travel on the channel its descriptor names (R255). -/
def Payload.kind : Payload → Nat × Nat
  | .idle => (0x00, 0)
  | .bell _ => (0x01, 0)
  | .joinRequest _ => (0x02, 0)
  | .joinAdmit _ => (0x03, 0)
  | .leave => (0x04, 0)
  | .flowSetup _ => (0x05, 0)
  | .nak _ => (0x06, 0)
  | .resync _ => (0x07, 0)
  | .parityAck _ => (0x08, 0)
  | .train _ => (0x09, 0)
  | .timetable _ _ => (0x0A, 0)
  | .nsTable _ => (0x0B, 0)
  | .query _ => (0x20, 1)
  | .answer _ => (0x21, 1)
  | .delta _ => (0x40, 2)
  | .rebuild _ => (0x41, 2)
  | .proxyRead _ => (0x42, 2)
  | .proxyData _ => (0x43, 2)
  | .mirror _ => (0x44, 2)
  | .scale _ => (0x60, 3)
  | .sum _ => (0x61, 3)
  | .gather _ => (0x62, 3)
  | .lesson vc => (if vc = 1 then 0x21 else 0x61, vc)

def Payload.vc (b : Payload) : Nat := b.kind.2

/-! ### Credits and the sending of flits (R287, R289) -/

/-- Place of a virtual channel and class in a list of eight counts. -/
def vcSlot (vc cls : Nat) : Nat := vc * 2 + cls

/-- Shared slots that are free: 176 less what each channel and class holds beyond its reserve of 2. -/
def Port.sharedFree (p : Port) : Nat := 176 - p.inFlight.foldl (fun a f => a + (f - 2)) 0

/-- A flit of a channel and class can be sent now. An idle flit takes no credit. -/
def Port.canSend (p : Port) (x : Sent) : Bool :=
  decide (p.replay.length < 256) &&
  (x.body == .idle || decide (p.inFlight.getD (vcSlot x.vc x.cls) 0 < 2) || decide (0 < p.sharedFree))

/-- A flit put on the link of its port. -/
def transmit (fwd : Bool) (x : Sent) (s : State) : State :=
  let p := s.port x.port
  let y := { x with seq := p.txSeq, ack := (p.rxSeq + 65535) % 65536 }
  let s := onPort x.port (fun p => { p with
    txSeq := (p.txSeq + 1) % 65536
    replay := p.replay ++ [(y, 0)]
    inFlight := if x.body == .idle then p.inFlight else modifyAt p.inFlight (vcSlot x.vc x.cls) (· + 1)
    sent := if x.body == .idle then p.sent else modifyAt p.sent (vcSlot x.vc x.cls) (· + 1) }) s
  if fwd then { s with plain := { s.plain with forwarded := s.plain.forwarded ++ [y] } }
  else { s with plain := { s.plain with tx := s.plain.tx ++ [y] } }

/-- Order in which a link serves what waits: VC 0, VC 2, then VC 1 and VC 3; forwarded flits first (R288). -/
def queueRank (x : Sent × Bool) : Nat :=
  (if x.1.vc = 0 then 0 else if x.1.vc = 2 then 2 else 4) + (if x.2 then 0 else 1)

/-- The first in rank of the flits that wait and can be sent. -/
def Port.nextQueued (p : Port) : Option (Sent × Bool) :=
  p.queue.foldl (fun a x =>
    if !(p.canSend x.1) then a
    else match a with
      | none => some x
      | some y => if queueRank x < queueRank y then some x else some y) none

/-- Flits that wait are sent while they can be, with fuel. -/
def drainQueue (port : Nat) : Nat → State → State
  | 0, s => s
  | f + 1, s =>
    match (s.port port).nextQueued with
    | none => s
    | some x => drainQueue port f (transmit x.2 x.1 (onPort port (fun p => { p with queue := p.queue.erase x }) s))

/-- A flit handed to an output link: sent at once if it can be and nothing of its channel waits before it. -/
def sendFlit (fwd : Bool) (x : Sent) (s : State) : State :=
  let p := s.port x.port
  if p.canSend x && !(p.queue.any fun q => q.1.vc == x.vc) then transmit fwd x s
  else onPort x.port (fun p => { p with queue := p.queue ++ [(x, fwd)] }) s

/-- A message of the member's own on an output port, in class 0 on entering the plain. -/
def sendPort (port dst : Nat) (flow : Nat) (b : Payload) (s : State) : State :=
  if (s.port port).state != .up then s
  else sendFlit false ⟨port, s.plain.member, dst, 0, b.vc, s.outClass false 0 port, flow, b, 0, 0⟩ s

/-- A message to another member by its route; without one it is dropped (R296). -/
def sendTo (dst : Nat) (flow : Nat) (b : Payload) (s : State) : State :=
  match s.route dst with
  | some (p, _) => sendPort p dst flow b s
  | none => { s with plain := { s.plain with unrouted := s.plain.unrouted + 1 } }

/-- A message to every member: out of every port that is Up. -/
def flood (b : Payload) (s : State) : State := s.upPorts.foldl (fun s p => sendPort p 0xFF 0 b s) s

/-- A flit passed on towards its destination. -/
def passOn (inPort : Nat) (hd : FlitHdr) (b : Payload) (s : State) : State :=
  let go := fun (p : Nat) (s : State) =>
    sendFlit true ⟨p, hd.src.toNat, hd.dst.toNat, 0, b.vc, s.outClass (isChord inPort) (bit (hd.ctrl.getLsbD 2)) p,
      hd.flow.toNat, b, 0, 0⟩ s
  if hd.dst = 0xFF#8 then (s.upPorts.filter (· != inPort)).foldl (fun s p => go p s) s
  else match s.route hd.dst.toNat with
    | some (p, _) => go p s
    | none => { s with plain := { s.plain with unrouted := s.plain.unrouted + 1 } }

/-! ### The receiving of flits (R286, R287, R289) -/

/-- Bytes 00h to 0Bh of a header. -/
def hdrBytes (h : FlitHdr) : List Byte :=
  [h.kind, h.ctrl, h.src, h.dst] ++ leBytes 2 h.seq.toNat ++ leBytes 2 h.ack.toNat ++ leBytes 2 h.creditRet.toNat ++
    leBytes 2 h.flow.toNat

/-- The header is intact and no codeword under the flit is uncorrectable. -/
def hdrIntact (h : FlitHdr) : Bool := h.fecOk && crc32c (hdrBytes h) == h.crc

/-- ACK releases the flits up to it from the replay buffer. -/
def Port.acked (p : Port) (ack : Nat) : Port :=
  { p with replay := p.replay.filter fun x => decide (32768 ≤ (ack + 65536 - x.1.seq) % 65536) }

/-- CREDIT_RET gives credits of a channel and class back. -/
def Port.credited (p : Port) (ret : BitVec 16) : Port :=
  { p with inFlight := modifyAt p.inFlight (bitsOf ret.toNat 15 13) (fun f => f - bitsOf ret.toNat 7 0) }

/-- The credit of a received flit goes back in an idle flit. -/
def returnCredit (port vc cls : Nat) (s : State) : State :=
  sendFlit false ⟨port, s.plain.member, 0xFF, 0, 0, 0, 0, .idle, 0, vc * 16384 + cls * 8192 + 1⟩ s

/-- The header of a flit in order is taken: its ACK and its credits, the next SEQ and the count of its channel; flits that waited go out. -/
def takeHeader (port : Nat) (hd : FlitHdr) (s : State) : State :=
  drainQueue port 257 (onPort port (fun p => { ((p.acked hd.ack.toNat).credited hd.creditRet) with
    rxSeq := (p.rxSeq + 1) % 65536
    received := if hd.kind = 0 then p.received
      else modifyAt p.received (vcSlot (bitsOf hd.ctrl.toNat 1 0) (bit (hd.ctrl.getLsbD 2))) (· + 1) }) s)

/-- The credit of a flit goes back once it has had its effect; an idle flit held none. -/
def giveCredit (port : Nat) (hd : FlitHdr) (s : State) : State :=
  if hd.kind = 0 then s else returnCredit port (bitsOf hd.ctrl.toNat 1 0) (bit (hd.ctrl.getLsbD 2)) s

/-- A flit arrives on a port. A damaged flit, or one out of its order, is discarded and the first missing SEQ is named in a NAK; one
received before is dropped. Otherwise its ACK and credits are taken, it has its effect, and the credit it held goes back. -/
def receive (port : Nat) (hd : FlitHdr) (k : State → State) (s : State) : State :=
  let p := s.port port
  if !(s.up && p.state == .up) then s
  else if !(hdrIntact hd) || (hd.seq.toNat != p.rxSeq && decide ((hd.seq.toNat + 65536 - p.rxSeq) % 65536 < 32768)) then
    sendPort port 0xFF 0 (.nak p.rxSeq) { s with plain := { s.plain with discarded := s.plain.discarded + 1 } }
  else if hd.seq.toNat != p.rxSeq then s
  else giveCredit port hd (k (takeHeader port hd s))

/-- A message for one member: has its effect here, or is passed on. -/
def receiveFor (port : Nat) (hd : FlitHdr) (b : Payload) (k : State → State) (s : State) : State :=
  receive port hd (fun s => if hd.dst.toNat = s.plain.member ∨ hd.dst = 0xFF#8 then k s else passOn port hd b s) s

/-! ### Members -/

def State.peer (s : State) (m : Nat) : Peer := s.plain.peers.getD m Peer.reset

def onPeer (m : Nat) (f : Peer → Peer) (s : State) : State :=
  { s with plain := { s.plain with peers := modifyAt s.plain.peers m f } }

/-- The event of R312: own state or a peer's state has changed. -/
def plainEvent (s : State) : State := vendorEvent 0xC3 s

/-- A member is Present as this drive sees it. -/
def State.isPresent (s : State) (m : Nat) : Bool := (s.peer m).state == .present

/-- The drive takes part in its plain. -/
def State.isMember (s : State) : Bool := s.plain.own == .member || s.plain.own == .leaving

/-- Other configured members. -/
def State.others (s : State) : List Nat := (List.range s.members).filter (· != s.plain.member)

/-! ### Parity layout (R303) -/

/-- k and m where the image lays the slots out in blocks; none otherwise (R91). -/
def State.parity? (s : State) : Option (Nat × Nat) :=
  let c := s.img.active.plain
  if 1 < c.members ∧ 1 ≤ c.parityM then some (c.parityK, c.parityM) else none

/-- The logical slot of a data slot. -/
def State.lsnOf (s : State) (d : Nat) : Nat :=
  match s.parity? with
  | some (k, m) => d / k * (k + m) + m + d % k
  | none => d

/-- The data slot of a logical slot; none for a parity slot. -/
def State.dataOf (s : State) (lsn : Nat) : Option Nat :=
  match s.parity? with
  | some (k, m) => if lsn % (k + m) < m then none else some (lsn / (k + m) * k + (lsn % (k + m) - m))
  | none => some lsn

/-- The stripe of a member's slot within its block: parity slot p of member (t + p), data slot m + i of member (t + m + i). -/
def stripeOf (n : Nat) (km : Nat) (member lsn : Nat) : Nat := (member + n * km - lsn % km) % n

/-- The member that holds position j of stripe t: parity 0 to m - 1, then data. -/
def holderOf (n t j : Nat) : Nat := (t + j) % n

end Sys2Proof.Machine
end

