-- ==== Sys2Proof/Machine/Ftl.lean ====
section
/-! DEFINITION. Flash translation (R313 to R337, R440): the map, superblocks and columns, streams and slots, the write buffer and its
groups, losses after acknowledgement (R102, R103), page reads, garbage collection, erases, patrol and the map journal. -/

namespace Sys2Proof.Machine

/-! ### Geometry (R313, R314, R333) -/

/-- Superblocks S of the part. -/
def superblocks : Nat := if Config.isL240 then 43680 else 21840
/-- Logical slots U of the part. -/
def userSlots : Nat := if Config.isL240 then 3662109375 else 1831054687
/-- Rows of a superblock. -/
def sbRows : Nat := 3072
/-- A physical slot. -/
def pslotOf (sb row ch : Nat) : Nat := sb * 98304 + row * 32 + ch
def sbOf (p : Nat) : Nat := p / 98304
def rowOf (p : Nat) : Nat := p / 32 % 3072
def chOf (p : Nat) : Nat := p % 32
/-- The group of a physical slot in its superblock. -/
def groupOf (p : Nat) : Nat := rowOf p / 4
def colKey (sb ch : Nat) : Nat := sb * 32 + ch
/-- Bytes of a unit. -/
def unitBytes : Nat := 65536
/-- Every granule of a unit. -/
def allGranules : List Nat := List.range 1024

def onFtl (f : FtlSt → FtlSt) (s : State) : State := { s with ftl := f s.ftl }
def onFtlStats (f : FtlStats → FtlStats) (s : State) : State := onFtl (fun t => { t with stats := f t.stats }) s

def State.col (s : State) (sb ch : Nat) : Column :=
  (lookupNat s.ftl.cols (colKey sb ch)).getD ⟨s.ftl.baseErases, false, false, 0, none, false⟩
def onCol (sb ch : Nat) (f : Column → Column) (s : State) : State :=
  onFtl (fun t => { t with cols := setKey (colKey sb ch) (f (s.col sb ch)) t.cols }) s
def State.sb? (s : State) (sb : Nat) : Option Sb := lookupNat s.ftl.sbs sb
def onSb (sb : Nat) (f : Sb → Sb) (s : State) : State :=
  match s.sb? sb with
  | some x => onFtl (fun t => { t with sbs := setKey sb (f x) t.sbs }) s
  | none => s

/-- Channels of a superblock whose column is not retired. -/
def State.usable (s : State) (sb : Nat) : List Nat := (List.range 32).filter fun ch => !(s.col sb ch).retired

/-- Data and parity channels that an opening of a superblock would have. -/
def State.layoutOf (s : State) (sb : Nat) : List Nat × List Nat :=
  let u := s.usable sb
  let nom := [2 * (sb % 16), 2 * (sb % 16) + 1]
  let par := nom.filter u.contains
  let rest := u.filter fun ch => !(nom.contains ch)
  (rest.drop (2 - par.length), par ++ rest.take (2 - par.length))

/-! ### Free superblocks (R320, R334) -/

/-- At most `n` superblocks are free: those that are not listed are. -/
def State.freeAtMost (s : State) (n : Nat) : Bool :=
  if s.ftl.sbs.length + n < 21840 then false else decide (superblocks ≤ s.ftl.sbs.length + n)

/-- Erases over the usable columns of a superblock, and their number. -/
def State.wear (s : State) (sb : Nat) : Nat × Nat :=
  ((s.usable sb).foldl (fun a ch => a + (s.col sb ch).erases) 0, (s.usable sb).length)

/-- Superblocks among which the one of least wear is found: one that was never opened has the least there is. -/
def State.freeCandidates (s : State) : List Nat :=
  let n := s.ftl.sbs.length + s.ftl.cols.length + 33
  (List.range (if n < 21840 then n else min n superblocks)).filter fun sb => (s.sb? sb).isNone

/-- The free superblock with the lowest mean erase count; a tie goes to the lower number. A parity pair may be ruled out. -/
def State.pickFree (s : State) (notPair : Option Nat) : Option Nat :=
  (s.freeCandidates.filter fun sb => match notPair with
    | some p => sb % 16 != p
    | none => true).foldl (fun a sb => match a with
      | none => some sb
      | some b =>
        let x := s.wear sb
        let y := s.wear b
        if x.1 * y.2 < y.1 * x.2 then some sb else some b) none

/-- A superblock opened for a stream. The host stream opens one only while more than 2 are free. -/
def openStream (st : Stream) (s : State) : Option State :=
  if s.freeAtMost (if st == .host then 2 else 0) then none
  else
    let other := (s.ftl.opens.find? fun o => o.stream == st).map fun o => o.sb % 16
    match s.pickFree other with
    | none => none
    | some sb =>
      let l := s.layoutOf sb
      some (onFtl (fun t => { t with
        openSeq := t.openSeq + 1
        sbs := setKey sb ⟨t.openSeq, st, l.1, l.2, false, false⟩ t.sbs
        opens := t.opens ++ [⟨sb, st, t.openSeq, List.replicate 32 0, 0⟩] })
        (l.1.foldl (fun s ch => if (lookupNat s.ftl.cols (colKey sb ch)).isSome then
            onCol sb ch (fun c => { c with closed := false, erased := false }) s else s) s))

/-- Data channels of an open superblock whose column is neither retired nor closed. -/
def State.live (s : State) (sb : Nat) : List Nat :=
  match s.sb? sb with
  | some x => x.data.filter fun ch => !(s.col sb ch).retired && !(s.col sb ch).closed
  | none => []

def OpenSb.row (o : OpenSb) (ch : Nat) : Nat := o.fill.getD ch 0

/-- The slot taken on a channel of an open superblock. -/
def takeSlot (o : OpenSb) (ch : Nat) (s : State) : Nat × State :=
  (pslotOf o.sb (o.row ch) ch, onFtl (fun t => { t with opens := t.opens.map fun x =>
    if x.sb = o.sb then { x with fill := modifyAt x.fill ch (· + 1) } else x }) s)

/-! ### The map (R313, R440) -/

def State.mapOf (s : State) (lsn : Nat) : Option MapEnt := lookupNat s.ftl.map lsn
def State.wcountOf (s : State) (lsn : Nat) : Nat := (lookupNat s.ftl.wcounts lsn).getD 0

/-- A map entry changed, with its journal record. -/
def setMap (lsn : Nat) (e : Option MapEnt) (wc : Nat) (ready : Bool) (s : State) : State :=
  onFtl (fun t => { t with
    map := match e with
      | some x => setKey lsn x t.map
      | none => dropKey lsn t.map
    staging := t.staging ++ [⟨true, lsn, e, wc, ready, []⟩]
    flushMark := false }) s

/-- The write count of a slot raised (R305). -/
def bumpCount (lsn : Nat) (s : State) : Nat × State :=
  let c := (s.wcountOf lsn + 1) % 65536
  (c, onFtl (fun t => { t with wcounts := setKey lsn c t.wcounts }) s)

/-- Valid units of a superblock: map entries that name it (R321). -/
def State.validUnits (s : State) (sb : Nat) : List (Nat × Nat) :=
  s.ftl.map.filterMap fun x => match x.2 with
    | .phys p => if sbOf p = sb then some (x.1, p) else none
    | .lost => none

/-! ### The write buffer (R318, R381) -/

/-- Exposed units: buffer units whose group has not committed, and change units not yet programmed. -/
def State.exposed (s : State) : Nat :=
  (s.ftl.buf.filter fun u => !u.committed).length +
  s.ftl.staging.foldl (fun a r => if r.isMap || r.ready then a else a + r.units.length) 0

/-- Write-through is in force (R385). -/
def State.writeThrough (s : State) : Bool := s.power.through

/-- Units that the write buffer can take: 512 MiB in all, 64 MiB exposed. Under write-through the second limit is met by not
completing a Write before its group commits. -/
def State.bufferRoom (s : State) : Nat :=
  min (8192 - s.ftl.buf.length) (if s.writeThrough then 8192 else 1024 - s.exposed)

/-- Buffer copies that may go: their group has committed and every present parity member has acknowledged. -/
def releaseBuffers (s : State) : State :=
  onFtl (fun t => { t with buf := t.buf.filter fun u => !(u.committed && u.acks.isEmpty) }) s

/-- The buffered unit of a physical slot. -/
def State.buffered (s : State) (p : Nat) : Option BufUnit := s.ftl.buf.find? fun u => u.pslot == p

/-- Pages of a unit (R134): compressed where COMPRESS is 1 and it pays; pieces of indexes are never compressed. -/
def State.pagesOf (s : State) (kind : Nat) (d : Blob) : Nat :=
  if kind = 1 ∧ s.host.policy.compress = 1 ∧ Config.compressedLen d ≤ 49152
  then max 1 (ceilDiv (Config.compressedLen d) 16384) else 4

/-! ### Deferred write errors (R102, R103) -/

/-- The namespace that holds a logical slot, and the first LBA of its unit. -/
def State.lbaOf (s : State) (lsn : Nat) : Option (Nat × Nat) :=
  match s.dataOf lsn with
  | some d => (s.ns.list.find? fun n => decide (n.base ≤ d ∧ d < n.base + n.slots)).map fun n =>
      (n.nsid, (d - n.base) * 16)
  | none => none

/-- Adjacent units of one namespace joined into ranges. -/
def joinRanges : List (Nat × Nat) → List (Nat × Nat × Nat)
  | [] => []
  | (n, a) :: r =>
    match joinRanges r with
    | (m, b, c) :: q => if m = n ∧ b = a + 16 then (n, a, c + 16) :: q else (n, a, 16) :: (m, b, c) :: q
    | [] => [(n, a, 16)]

/-- One range recorded: its journal record, its entry of log page C6h, and the event. -/
def recordRange (cause : Nat) (x : Nat × Nat × Nat) (s : State) : State :=
  let n := s.ftl.deferTotal
  let (q, s) := norRecord 5 (Blob.concat [fld 8 n, fld 8 x.2.1, fld 4 x.1, fld 4 x.2.2, fld 6 s.bell.count.toNat,
    fld 1 cause]) [] s
  let l := ⟨n, x.1, x.2.1, x.2.2, s.bell.count, cause, false, [], q⟩ :: s.ftl.defers
  vendorEvent 0xC6 (onFtl (fun t => { t with
    defers := l.take 255
    deferTotal := n + 1
    deferOverflow := t.deferOverflow || decide (255 < l.length) }) s)

/-- Units lost in one event. -/
def recordLosses (cause : Nat) (lsns : List Nat) (s : State) : State :=
  (joinRanges (sortBy (fun x y => decide (x.1 < y.1 ∨ (x.1 = y.1 ∧ x.2 < y.2))) (lsns.filterMap s.lbaOf))).foldl
    (fun s x => recordRange cause x s) s

/-- LBAs of a namespace written again or deallocated. A range that is wholly mended is dropped, with a retraction. -/
def mend (nsid slba n : Nat) (s : State) : State :=
  let touched := fun (d : Defer) => d.nsid == nsid && decide (slba < d.slba + d.count ∧ d.slba < slba + n)
  let l := s.ftl.defers.map fun d =>
    if touched d then { d with mended := insertAll ((spanList slba n).filter fun a => decide (d.slba ≤ a ∧ a < d.slba + d.count)) d.mended }
    else d
  let gone := l.filter fun d => d.mended.length == d.count
  gone.foldl (fun s d => (norRecord 6 (fld 6 d.record) [] s).2)
    (onFtl (fun t => { t with defers := l.filter fun d => d.mended.length != d.count }) s)

/-- An LBA lies in a lost range that has not been mended (R102 step 6). -/
def State.deferredLba (s : State) (nsid lba : Nat) : Bool :=
  s.ftl.defers.any fun d => d.nsid == nsid && decide (d.slba ≤ lba ∧ lba < d.slba + d.count) && !(d.mended.contains lba)

/-- A range is to be reported on the next Write or Flush to a namespace; of any namespace for FFFF_FFFFh. -/
def State.reportDue (s : State) (nsid : Nat) : Bool :=
  s.ftl.defers.any fun d => !d.reported && (nsid == 0xFFFFFFFF || d.nsid == nsid)

/-- The report made (R102 steps 1, 3 and 4). -/
def reportLosses (h : Hdr) (nsid : Nat) (s : State) : State :=
  let due := s.ftl.defers.filter fun d => !d.reported && (nsid == 0xFFFFFFFF || d.nsid == nsid)
  finish h stDeferred (due.foldl (fun s d => norFlag d.record 1 s)
    (onFtl (fun t => { t with defers := t.defers.map fun d => if due.contains d then { d with reported := true } else d }) s))

/-! ### Parity deltas (R305, R306) -/

/-- Parity index, member, parity slot and data position for a data slot of this member. -/
def State.parityTargets (s : State) (lsn : Nat) : List (Nat × Nat × Nat × Nat) :=
  match s.parity? with
  | some (k, m) =>
    if s.plain.own == .standalone || s.plain.own == .joining || decide (lsn % (k + m) < m) then []
    else
      let t := stripeOf s.members (k + m) s.plain.member lsn
      (List.range m).map fun p => (p, holderOf s.members t p, lsn / (k + m) * (k + m) + p, lsn % (k + m) - m)
  | none => []

/-- A stripe put into the stale map. -/
def markStale (lsn member : Nat) (s : State) : State :=
  match s.parity? with
  | some (k, m) =>
    let e := (lsn / (k + m), stripeOf s.members (k + m) s.plain.member lsn, member)
    if s.plain.stale.contains e then s else { s with plain := { s.plain with stale := s.plain.stale ++ [e] } }
  | none => s

/-- Content of a slot under the write count before `wc`; zero where it is not held. -/
def State.oldContent (s : State) (lsn wc : Nat) : Blob :=
  let w := (wc + 65535) % 65536
  match s.ftl.buf.find? fun u => u.lsn == lsn && u.wcount == w with
  | some u => u.data
  | none => match s.ftl.flash.find? fun x => x.2.lsn == lsn && x.2.wcount == w with
    | some x => x.2.data
    | none => Blob.zero unitBytes

/-- The deltas of a change of a slot: sent, queued for recess, or recorded stale where the parity member is not Present. Answers
the parity indices whose acknowledgement is awaited. -/
def sendDeltas (recess : Bool) (lsn wc : Nat) (change : Blob) (s : State) : List Nat × State :=
  (s.parityTargets lsn).foldl (fun (a : List Nat × State) t =>
    let d : ParityDelta := ⟨t.2.2.1, t.2.2.2, t.1, BitVec.ofNat 16 wc, lsn, change⟩
    if !(a.2.isPresent t.2.1 && a.2.isMember) then (a.1, markStale lsn t.2.1 a.2)
    else
      let s := { a.2 with plain := { a.2.plain with deltas := a.2.plain.deltas ++ [⟨d, t.2.1, !recess, recess⟩] } }
      (a.1 ++ [t.1], if recess then s else sendTo t.2.1 0 (.delta d) s)) ([], s)

/-! ### Groups (R316, R318, R324, R329, R332) -/

/-- A column retired (R333): a superblock with fewer than 22 data columns left is retired whole. -/
def retireColumn (event sb ch p : Nat) (s : State) : State :=
  if (s.col sb ch).retired then s
  else
    let s := onCol sb ch (fun c => { c with retired := true, closed := true }) s
    let s := onFtlStats (fun x => { x with retiredColumns := bump32 x.retiredColumns }) s
    let s := logEvent event 1 ⟨4, ch, 0, p⟩ s
    if (s.layoutOf sb).1.length < 22 then
      let listed := (s.sb? sb).getD ⟨0, .relocation, [], [], true, false⟩
      if listed.retired then s
      else onFtlStats (fun x => { x with retiredSbs := bump32 x.retiredSbs })
        (onFtl (fun t => { t with sbs := setKey sb { listed with retired := true } t.sbs }) s)
    else s

/-- A unit of the buffer that cannot be programmed from its copy (R102, R360). A copy of garbage collection leaves its source as it
is; any other unit becomes lost. Answers the slots that a host lost. -/
def dropPoisoned (us : List BufUnit) (s : State) : List Nat × State :=
  us.foldl (fun (a : List Nat × State) u =>
    let s := onFtl (fun t => { t with buf := t.buf.filter fun x => x.pslot != u.pslot }) a.2
    if u.source.isSome then (a.1, s)
    else if s.mapOf u.lsn == some (.phys u.pslot) then
      let s := logEvent 6 0 ⟨4, chOf u.pslot, 0, u.pslot⟩ (setMap u.lsn (some .lost) u.wcount true s)
      (if u.kind = 1 then a.1 ++ [u.lsn] else a.1, s)
    else (a.1, s)) ([], s)

/-- Units of a group that wait in the buffer. -/
def State.groupUnits (s : State) (sb g : Nat) : List BufUnit :=
  s.ftl.buf.filter fun u => decide (sbOf u.pslot = sb ∧ groupOf u.pslot = g) && !u.committed

/-- A group programmed: poisoned units are left out, and the deltas of the others go to their parity members. Index and namespace
units that carry no new content (copies) send none. -/
def startGroup (sb g : Nat) (st : Stream) (s : State) : State :=
  let us := s.groupUnits sb g
  let (lost, s) := dropPoisoned (us.filter fun u => !u.poison.isEmpty) s
  let s := recordLosses 1 lost s
  let s := (us.filter fun u => u.poison.isEmpty && u.source.isNone).foldl (fun s u =>
    let (acks, s) := sendDeltas false u.lsn u.wcount (xorBlob (s.oldContent u.lsn u.wcount) u.data) s
    onFtl (fun t => { t with buf := t.buf.map fun x => if x.pslot = u.pslot then { x with acks := acks } else x }) s) s
  let n := match s.sb? sb with
    | some x => 4 * (x.data.length + x.par.length)
    | none => 0
  onFtl (fun t => { t with
    progs := t.progs ++ [⟨sb * 768 + g, sb, g, st⟩]
    opens := t.opens.map (fun o => if o.sb = sb then { o with started := g + 1 } else o)
    stats := { t.stats with unitsProgrammed := satAdd 64 t.stats.unitsProgrammed n } }) s

/-- The next group of an open superblock is full on every live channel. -/
def State.groupFull (s : State) (o : OpenSb) : Bool :=
  let l := s.live o.sb
  !l.isEmpty && decide (o.started < 768) && l.all fun ch => decide (4 * (o.started + 1) ≤ o.row ch)

/-- The next group of an open superblock holds some unit. -/
def State.groupOpen (s : State) (o : OpenSb) : Bool := (s.live o.sb).any fun ch => decide (4 * o.started < o.row ch)

/-- The rest of the next group taken as filler. -/
def padGroup (o : OpenSb) (s : State) : State :=
  onFtl (fun t => { t with opens := t.opens.map fun x =>
    if x.sb = o.sb then { x with fill := x.fill.map fun r => max r (4 * (o.started + 1)) } else x }) s

/-- Every group of an open superblock that holds a unit is programmed, the last padded, with fuel. -/
def startAll (sb : Nat) : Nat → State → State
  | 0, s => s
  | f + 1, s =>
    match s.ftl.opens.find? fun o => o.sb == sb with
    | none => s
    | some o => if s.groupOpen o then startAll sb f (startGroup sb o.started o.stream (padGroup o s)) else s

/-- An open superblock closed: what it holds is programmed and its unwritten slots are filler (R317). -/
def closeSb (o : OpenSb) (s : State) : State :=
  let s := startAll o.sb 768 s
  onSb o.sb (fun x => { x with closed := true }) (onFtl (fun t => { t with opens := t.opens.filter fun x => x.sb != o.sb }) s)

/-- Rows used of an open superblock, over all channels. -/
def OpenSb.used (o : OpenSb) : Nat := o.fill.foldl (· + ·) 0

/-- A slot of the host stream: the data channel with the fewest rows, the lowest first, which is the order of R317. -/
def allocHost : Nat → State → Option (Nat × State)
  | 0, _ => none
  | f + 1, s =>
    match s.ftl.opens.find? fun o => o.stream == .host with
    | none => match openStream .host s with
      | some t => allocHost f t
      | none => none
    | some o =>
      match ((s.live o.sb).filter fun ch => decide (o.row ch < sbRows)).foldl (fun a ch => match a with
        | none => some ch
        | some b => if o.row ch < o.row b then some ch else some b) none with
      | some ch => some (takeSlot o ch s)
      | none => allocHost f (closeSb o s)

/-- A slot of the index or the relocation stream on a channel (R317). -/
def allocOn (st : Stream) (ch : Nat) : Nat → State → Option (Nat × State)
  | 0, _ => none
  | f + 1, s =>
    let l := s.ftl.opens.filter fun o => o.stream == st
    match l.find? fun o => (s.live o.sb).contains ch && decide (o.row ch < sbRows) with
    | some o => some (takeSlot o ch s)
    | none =>
      if l.length < 2 then
        match openStream st s with
        | some t => allocOn st ch f t
        | none => none
      else
        match l.foldl (fun a o => match a with
          | none => some o
          | some b => if b.used < o.used then some o else some b) none with
        | some o => allocOn st ch f (closeSb o s)
        | none => none

/-- A slot of a stream; the channel is the unit's own in the streams that keep it. -/
def allocSlot (st : Stream) (ch : Nat) (s : State) : Option (Nat × State) :=
  if st == .host then allocHost 3 s else allocOn st ch 5 s

/-- A unit put into the write buffer at a slot of a stream. -/
def placeUnit (st : Stream) (ch lsn kind wc : Nat) (d : Blob) (poison : List Nat) (source : Option Nat) (s : State) :
    Option (Nat × State) :=
  match allocSlot st ch s with
  | none => none
  | some (p, s) =>
    some (p, onFtl (fun t => { t with buf := t.buf ++ [⟨p, lsn, kind, wc, d, poison, source, false, []⟩] }) s)

/-- A unit written: its slot, its count, its buffer copy and its map entry (R318 steps 1 to 3). -/
def writeUnit (st : Stream) (ch lsn kind : Nat) (d : Blob) (poison : List Nat) (s : State) : Option (Nat × State) :=
  let (wc, s) := bumpCount lsn s
  match placeUnit st ch lsn kind wc d poison none s with
  | none => none
  | some (p, s) => some (p, setMap lsn (some (.phys p)) wc false s)

/-- The records made ready by the commit of a slot. -/
def readyRecords (p : Nat) (s : State) : State :=
  onFtl (fun t => { t with staging := t.staging.map fun r => if r.ent == some (.phys p) then { r with ready := true } else r }) s

/-- Ready records programmed to the ring. -/
def programJournal (s : State) : State :=
  onFtl (fun t => { t with ring := t.ring ++ t.staging.filter (·.ready), staging := t.staging.filter fun r => !r.ready }) s

/-- One unit of a group that has committed. A copy takes its map entry only where that still names its source (R322). -/
def commitUnit (u : BufUnit) (s : State) : State :=
  let q := match s.sb? (sbOf u.pslot) with
    | some x => x.openSeq
    | none => 0
  let s := onFtl (fun t => { t with
    flash := setKey u.pslot ⟨u.lsn, u.kind, s.pagesOf u.kind u.data, u.wcount, q, u.data⟩ t.flash
    buf := t.buf.map fun x => if x.pslot = u.pslot then { x with committed := true } else x }) s
  match u.source with
  | some p =>
    if s.mapOf u.lsn == some (.phys p) then setMap u.lsn (some (.phys u.pslot)) u.wcount true s
    else onFtlStats (fun x => { x with gcDiscarded := bump64 x.gcDiscarded }) s
  | none => readyRecords u.pslot s

/-- One unit of a group that failed: a copy is made again from its source in a later recess, another unit is placed again from its
buffer copy (R324, R329). -/
def redoUnit (st : Stream) (u : BufUnit) (s : State) : State :=
  let s := onFtl (fun t => { t with buf := t.buf.filter fun x => x.pslot != u.pslot }) s
  match u.source with
  | some p =>
    let s := onFtlStats (fun x => { x with gcDiscarded := bump64 x.gcDiscarded }) s
    if s.mapOf u.lsn == some (.phys p) then
      onFtl (fun t => { t with rewriteLsns := t.rewriteLsns ++ [u.lsn] }) s
    else s
  | none =>
    if s.mapOf u.lsn == some (.phys u.pslot) then
      match placeUnit st (chOf u.pslot) u.lsn u.kind u.wcount u.data u.poison none s with
      | some (p, s) => setMap u.lsn (some (.phys p)) u.wcount false s
      | none => onFtl (fun t => { t with buf := t.buf ++ [u] }) s
    else s

/-- What a failed program does to its column (R332). -/
def failColumn (sb g ch : Nat) (s : State) : State :=
  let p := pslotOf sb (4 * g) ch
  let s := onFtlStats (fun x => { x with programFails := bump32 x.programFails }) s
  if s.host.policy.progfailRetire = 1 then
    retireColumn 7 sb ch p (onFtl (fun t => { t with copyCols := t.copyCols ++ [colKey sb ch] }) s)
  else logEvent 7 0 ⟨4, ch, 0, p⟩ (onCol sb ch (fun c => { c with closed := true }) s)

/-- Writes under write-through that wait for nothing more complete, after their journal records (R385). -/
def finishWrites (s : State) : State :=
  let ended := fun (w : WriteWait) => w.slots.all fun p => match s.buffered p with
    | some u => u.committed
    | none => true
  if s.ftl.writes.any ended then
    (s.ftl.writes.filter ended).foldl (fun s w => finish w.hdr stOk s)
      (programJournal (onFtl (fun t => { t with writes := t.writes.filter fun w => !(ended w) }) s))
  else s

/-- A group program ends (R316, R324, R332). -/
def endGroup (pid : Nat) (failed : List Nat) (s : State) : State :=
  match s.ftl.progs.find? fun p => p.pid == pid with
  | none => s
  | some g =>
    let s := onFtl (fun t => { t with progs := t.progs.filter fun p => p.pid != pid }) s
    let us := s.groupUnits g.sb g.group
    let bad := match s.sb? g.sb with
      | some x => failed.filter fun ch => x.data.contains ch || x.par.contains ch
      | none => []
    if bad.isEmpty then finishWrites (releaseBuffers (us.foldl (fun s u => commitUnit u s) s))
    else
      let s := bad.foldl (fun s ch => failColumn g.sb g.group ch s) s
      let (lost, s) := dropPoisoned (us.filter fun u => !u.poison.isEmpty) s
      let s := recordLosses 2 lost s
      (us.filter fun u => u.poison.isEmpty).foldl (fun s u => redoUnit g.stream u s) s

/-- A group of a stream starts: one that is full, or under write-through one that holds a unit (R318, R385). -/
def startNextGroup (st : Stream) (s : State) : State :=
  match s.ftl.opens.find? fun o => o.stream == st && s.groupFull o with
  | some o => startGroup o.sb o.started st s
  | none =>
    if s.writeThrough then
      match s.ftl.opens.find? fun o => o.stream == st && s.groupOpen o with
      | some o => startGroup o.sb o.started st (padGroup o s)
      | none => s
    else s

/-- GROUP_PROGRAM_START. -/
def execGroupProgramStart (stream : Stream) (s : State) : Res := .next (if s.up then startNextGroup stream s else s)

/-- GROUP_PROGRAM_DONE. -/
def execGroupProgramDone (pid : Nat) (failed : List Nat) (s : State) : Res := .next (endGroup pid failed s)

/-! ### Page reads (R128 to R132, R315, R328) -/

/-- A valley's counters changed. -/
def onValley (v : Nat) (f : ValleyStats → ValleyStats) (s : State) : State :=
  { s with query := { s.query with valleys := modifyAt s.query.valleys v f } }

/-- A unit that is delivered with every granule poisoned. -/
def UnitData.bad (lsn : Nat) (lost : Bool) : UnitData := ⟨lsn, Blob.zero unitBytes, allGranules, lost⟩

/-- A unit delivered to a job. -/
def deliver (job : Nat) (u : UnitData) (s : State) : State :=
  onFtl (fun t => { t with jobs := t.jobs.map fun j =>
    if j.jid = job then { j with wait := j.wait.erase u.lsn, got := j.got ++ [u] } else j }) s

/-- The column that a read of a superblock and channel finds under erase on the same die, other than its own. -/
def State.erasingBeside (s : State) (sb ch : Nat) : Option Nat :=
  (s.ftl.cols.find? fun x => decide (x.1 % 32 = ch ∧ x.1 / 32 % 16 = sb % 16 ∧ x.1 / 32 ≠ sb) && x.2.erasing.isSome).map
    fun x => x.1 / 32

/-- A page read of a programmed slot: refused into an erasing column (R328), else issued, with the suspend of an erase on its die.
The content of a failed valley die is recovered at once (R373). -/
def issueRead (job lsn p : Nat) (s : State) : State :=
  let sb := sbOf p
  let ch := chOf p
  if (s.col sb ch).erasing.isSome then
    deliver job (UnitData.bad lsn false) (onValley ch (fun v => { v with refused := bump32 v.refused }) s)
  else
    let s := match s.erasingBeside sb ch with
      | some e =>
        let k := match (s.col e ch).erasing with
          | some x => x.suspends
          | none => 0
        if k < s.host.policy.suspendMax then
          onFtlStats (fun x => { x with suspends := bump32 x.suspends })
            (onCol e ch (fun (c : Column) => { c with erasing := c.erasing.map fun (x : Erasing) => ⟨x.record, x.suspends + 1⟩ }) s)
        else onFtlStats (fun x => { x with suspendWaits := bump32 x.suspendWaits }) s
      | none => s
    let s := match s.sb? sb with
      | some x => if x.stream == Stream.index then onCol sb ch (fun c => { c with reads := c.reads + 1 }) s else s
      | none => s
    let stage : ReadStage := if (s.die (if ch < 16 then 1 else 2)).state == .failed then .recover else .hard
    onFtl (fun t => { t with
      nextId := t.nextId + 1
      reads := t.reads ++ [⟨t.nextId, job, lsn, p, stage, 0⟩] }) s

/-- One unit asked for by a job: served at once where it is unmapped, lost or in the buffer, else read from flash. -/
def askUnit (job lsn : Nat) (s : State) : State :=
  match s.mapOf lsn with
  | none =>
    let (d, s) := freeBytes unitBytes s
    deliver job ⟨lsn, d, [], false⟩ s
  | some .lost => deliver job (UnitData.bad lsn true) s
  | some (.phys p) =>
    match s.buffered p with
    | some u => deliver job ⟨lsn, u.data, u.poison, false⟩ s
    | none =>
      match lookupNat s.ftl.flash p with
      | some _ => issueRead job lsn p s
      | none => deliver job (UnitData.bad lsn false) s

/-- A job opened on a list of units; answers its number. -/
def openJob (k : JobKind) (lsns : List Nat) (s : State) : Nat × State :=
  let j := s.ftl.nextId
  let s := onFtl (fun t => { t with nextId := t.nextId + 1, jobs := t.jobs ++ [⟨j, k, lsns, []⟩] }) s
  (j, lsns.foldl (fun s l => askUnit j l s) s)

/-- A read of one physical slot for a copy or for patrol, whatever its map entry says. -/
def openSlotJob (k : JobKind) (lsn p : Nat) (s : State) : Nat × State :=
  let j := s.ftl.nextId
  let s := onFtl (fun t => { t with nextId := t.nextId + 1, jobs := t.jobs ++ [⟨j, k, [lsn], []⟩] }) s
  (j, match s.buffered p with
    | some u => deliver j ⟨lsn, u.data, u.poison, false⟩ s
    | none => issueRead j lsn p s)

def State.job? (s : State) (jid : Nat) : Option Job := s.ftl.jobs.find? fun j => j.jid == jid

/-- A job closed, its reads with it. -/
def closeJob (jid : Nat) (s : State) : State :=
  onFtl (fun t => { t with jobs := t.jobs.filter (fun j => j.jid != jid), reads := t.reads.filter fun r => r.job != jid }) s

/-- The unit of a slot among those a job has. -/
def Job.unit (j : Job) (lsn : Nat) : UnitData :=
  (j.got.find? fun u => u.lsn == lsn).getD (UnitData.bad lsn true)

/-- Granules that a unit delivers poisoned (R376); a lost unit has none to deliver. -/
def UnitData.poisoned (u : UnitData) : Nat := if u.lost then 0 else u.poison.length

/-- Granules of one LBA of a unit that are delivered poisoned. -/
def UnitData.poisonedLba (u : UnitData) (lba : Nat) : Nat :=
  if u.lost then 0 else (u.poison.filter fun g => g / 64 == lba % 16).length

/-- Granules that a job delivers poisoned. -/
def Job.poisoned (j : Job) : Nat := j.got.foldl (fun a u => a + u.poisoned) 0

/-- The column of a slot is to be copied in the next recess, ahead of other background work (R332). -/
def softRewrite (p : Nat) (s : State) : State :=
  let k := colKey (sbOf p) (chOf p)
  if s.host.policy.softRewrite = 1 && !(s.ftl.copyCols.contains k) then
    onFtl (fun t => { t with copyCols := t.copyCols ++ [k], stats := { t.stats with softRewrites := bump32 t.stats.softRewrites } }) s
  else s

/-! ### Copies: garbage collection, refresh, retirement, rewrite (R321 to R324, R330 to R332) -/

/-- The stream that a copy of a slot goes to. -/
def State.copyStream (s : State) (p : Nat) : Stream :=
  match s.sb? (sbOf p) with
  | some x => if x.stream == .index then .index else .relocation
  | none => .relocation

/-- A copy of a unit is already under way. -/
def State.copying (s : State) (p : Nat) : Bool :=
  s.ftl.jobs.any (fun j => match j.kind with
    | .copy q _ => q == p
    | _ => false) || s.ftl.buf.any fun u => u.source == some p && !u.committed

/-- A source unit that has been read is written to its stream, if the map still names it (R322, R323). -/
def finishCopy (p : Nat) (st : Stream) (j : Job) (s : State) : State :=
  let s := closeJob j.jid s
  match j.got with
  | u :: _ =>
    if s.mapOf u.lsn != some (.phys p) then s
    else if !u.poison.isEmpty || u.lost then
      onFtlStats (fun x => { x with lostUnits := bump32 x.lostUnits })
        (logEvent 6 0 ⟨4, chOf p, 0, p⟩ (setMap u.lsn (some .lost) (s.wcountOf u.lsn) true s))
    else
      let kind := match lookupNat s.ftl.flash p with
        | some f => f.kind
        | none => 1
      match placeUnit st (chOf p) u.lsn kind (s.wcountOf u.lsn) u.data [] (some p) s with
      | some (_, s) => onFtlStats (fun x => { x with gcCopies := bump64 x.gcCopies }) s
      | none => s
  | [] => s

/-- Copies of a list of units started. -/
def startCopies (l : List (Nat × Nat)) (s : State) : State :=
  l.foldl (fun s x =>
    if s.copying x.2 || (s.buffered x.2).isSome then s
    else
      let st := s.copyStream x.2
      let (j, s) := openSlotJob (.copy x.2 st) x.1 x.2 s
      match s.job? j with
      | some jb => if jb.wait.isEmpty then finishCopy x.2 st jb s else s
      | none => s) s

/-- Valid units of a column. -/
def State.columnUnits (s : State) (key : Nat) : List (Nat × Nat) :=
  (s.validUnits (key / 32)).filter fun x => chOf x.2 == key % 32

/-- The victim of R321. -/
def State.victim (s : State) : Option (Nat × Sb) :=
  (s.ftl.sbs.filter fun x => x.2.closed && !x.2.retired && !(s.ftl.progs.any fun p => p.sb == x.1)).foldl (fun a x =>
    match a with
    | none => some x
    | some b =>
      let u := (s.validUnits x.1).length
      let v := (s.validUnits b.1).length
      if u < v ∨ (u = v ∧ x.2.openSeq < b.2.openSeq) then some x else some b) none

/-- The drive is exhausted (R334). -/
def State.isExhausted (s : State) : Bool :=
  s.freeAtMost 2 && (match s.victim with
    | some v => decide (v.2.data.length * sbRows ≤ (s.validUnits v.1).length)
    | none => true)

/-- The exhausted state entered: its marker in the option area, and the actions of R107. -/
def exhaust (s : State) : State :=
  if s.ftl.exhausted then s
  else setCritical 3 0 (norBlock 5 0x87 (Blob.zero 0) (onFtl (fun t => { t with exhausted := true }) s)).2

/-- A column's erase begins: the erase record with BEGUN, then the erase (R326). -/
def startErase (sb ch : Nat) (s : State) : State :=
  let n := (s.col sb ch).erases + 1
  let (q, s) := norRecord 1 (Blob.concat [fld 1 (sb % 16), fld 1 ch, fld 2 (1 + sb / 16), fld 4 n]) [1] s
  onCol sb ch (fun c => { c with erasing := some ⟨q, 0⟩ }) s

/-- A closed superblock that holds nothing valid, and to which no read or program is outstanding, may be erased (R322). -/
def State.erasable (s : State) (x : Nat × Sb) : Bool :=
  x.2.closed && !x.2.retired && (s.validUnits x.1).isEmpty && !(s.ftl.reads.any fun r => sbOf r.pslot == x.1) &&
  !(s.ftl.progs.any fun p => p.sb == x.1) && !(s.ftl.buf.any fun u => sbOf u.pslot == x.1 && !u.committed)

/-- Erases of recess (R326). -/
def startErases (s : State) : State :=
  (s.ftl.sbs.filter s.erasable).foldl (fun s x =>
    ((s.usable x.1).filter fun ch => !(s.col x.1 ch).erased && (s.col x.1 ch).erasing.isNone).foldl
      (fun s ch => startErase x.1 ch s) s) s

/-- A superblock whose usable columns are all erased goes back to the free pool. -/
def freeSb (sb : Nat) (s : State) : State :=
  match s.sb? sb with
  | some x =>
    if !x.retired && (s.usable sb).all fun ch => (s.col sb ch).erased then
      onFtl (fun t => { t with sbs := dropKey sb t.sbs }) s
    else s
  | none => s

/-- An erase ends (R326, R332). -/
def endErase (sb ch : Nat) (ok : Bool) (s : State) : State :=
  match (s.col sb ch).erasing with
  | none => s
  | some e =>
    if ok then
      freeSb sb (norFlag e.record 2 (onFtl (fun t => { t with flash := t.flash.filter fun x => !(sbOf x.1 == sb && chOf x.1 == ch) })
        (onCol sb ch (fun c => { c with erases := c.erases + 1, erasing := none, erased := true, reads := 0, closed := false }) s)))
    else
      let s := norFlag e.record 2 (onCol sb ch (fun c => { c with erasing := none }) s)
      freeSb sb (retireColumn 8 sb ch (pslotOf sb 0 ch) (onFtlStats (fun x => { x with eraseFails := bump32 x.eraseFails }) s))

/-- ERASE_DONE. -/
def execEraseDone (sb ch : Nat) (ok : Bool) (s : State) : Res := .next (endErase sb ch ok s)

/-- A refresh is due (R331): in the next recess, or in class once the counter has doubled (R77). -/
def refreshDue (sb ch : Nat) (s : State) : State :=
  let n := (s.col sb ch).reads
  let limit := s.host.policy.readRefresh
  let priv := match s.sb? sb with
    | some x => x.stream == .index
    | none => false
  if !priv || decide (n < limit) then s
  else if 2 * limit ≤ n then
    startCopies (s.columnUnits (colKey sb ch))
      { onFtl (fun t => { t with
          refreshCols := t.refreshCols.erase (colKey sb ch)
          stats := { t.stats with refreshes := bump32 t.stats.refreshes } }) s with
        bell := { s.bell with classRefreshes := bump32 s.bell.classRefreshes } }
  else if s.ftl.refreshCols.contains (colKey sb ch) then s
  else onFtl (fun t => { t with refreshCols := t.refreshCols ++ [colKey sb ch] }) s

/-- READ_REFRESH_DUE. -/
def execReadRefreshDue (sb ch : Nat) (s : State) : Res := .next (if s.up then refreshDue sb ch s else s)

/-- Programmed slots in the order of patrol: superblocks by OPEN_SEQ (R330). -/
def State.patrolList (s : State) : List (Nat × FSlot) :=
  sortBy (fun x y => decide (x.2.openSeq < y.2.openSeq)) s.ftl.flash

/-- One patrol read; the end of a cycle gives its overrun (R78, R330). -/
def patrolStep (s : State) : State :=
  let l := s.patrolList
  if l.isEmpty then s
  else
    let i := s.ftl.patrolAt
    if l.length ≤ i then
      let perDay := 86400000000 / max 1 s.img.active.periodUs
      let days := s.ftl.patrolBells / max 1 perDay
      onFtl (fun t => { t with
        patrolAt := 0
        patrolBells := 0
        stats := { t.stats with patrolProgress := 0, patrolOverrun := min 65535 (days - s.host.policy.patrolDays) } }) s
    else
      match l[i]? with
      | some x =>
        (openSlotJob (.patrol x.1) x.2.lsn x.1 (onFtl (fun t => { t with
          patrolAt := i + 1
          stats := { t.stats with patrolProgress := (i + 1) * 10000 / l.length } }) s)).2
      | none => s

/-- Background work of a recess on flash: columns to copy first, then rewrites, refreshes, garbage collection, erases and patrol
(R75, R76, R321, R330 to R332). -/
def ftlRecess (s : State) : State :=
  let cols := s.ftl.copyCols
  let s := cols.foldl (fun s k => startCopies (s.columnUnits k) s) (onFtl (fun t => { t with copyCols := [] }) s)
  let lsns := s.ftl.rewriteLsns
  let s := startCopies (lsns.filterMap fun l => match s.mapOf l with
    | some (.phys p) => some (l, p)
    | _ => none) (onFtl (fun t => { t with rewriteLsns := [] }) s)
  let refs := s.ftl.refreshCols
  let s := refs.foldl (fun s k => startCopies (s.columnUnits k)
    (onFtlStats (fun x => { x with refreshes := bump32 x.refreshes }) s)) (onFtl (fun t => { t with refreshCols := [] }) s)
  let s := if s.freeAtMost (s.host.policy.gcLow - 1) then
      match s.victim with
      | some v => startCopies (s.validUnits v.1) s
      | none => s
    else s
  patrolStep (startErases s)

/-- Garbage collection in class, while free superblocks are few (R77, R321). -/
def gcInClass (s : State) : State :=
  if s.freeAtMost (s.host.policy.gcCrit - 1) then
    match s.victim with
    | some v =>
      let s := if s.bell.classGc then s
        else { s with bell := { s.bell with classGc := true, classGcBells := bump32 s.bell.classGcBells } }
      startErases (startCopies (s.validUnits v.1) s)
    | none => s
  else s

/-! ### Journal and checkpoints (R336, R440) -/

/-- Records of one ring group: 120 data slots of 64 KiB, 16 bytes each. -/
def ringGroup : Nat := 491520

/-- JOURNAL_GROUP_PROGRAM: a ring group of ready records, or under write-through those there are. -/
def execJournalGroupProgram (s : State) : Res :=
  .next (
    let n := (s.ftl.staging.filter (·.ready)).length
    if s.up && (decide (ringGroup ≤ n) || (s.writeThrough && decide (0 < n))) then programJournal s else s)

/-- The next map checkpoint generation: the ring's records are in it, and its commit record is written (R336, R356). -/
def writeCheckpoint (s : State) : State :=
  let g := s.ftl.ckptGen + 1
  (norRecord 7 (Blob.concat [fld 1 0, fld 4 g, fld 1 (1 + g % 6)]) []
    (onFtl (fun t => { t with ckptGen := g, ckptAge := 0, ring := [] }) s)).2

/-- MAP_CHECKPOINT: in recess, after 1,000 bells or with the ring half full. -/
def execMapCheckpoint (s : State) : Res :=
  .next (if s.up && s.bell.inRecess && (decide (1000 ≤ s.ftl.ckptAge) || decide (Config.ringRecords ≤ 2 * s.ftl.ring.length))
    then writeCheckpoint s else s)

end Sys2Proof.Machine
end

