-- ==== Sys2Proof/Machine/Tier.lean ====
section
/-! DEFINITION. The tier pool: segments and their placement (R118 to R124), range sets (R120), and the Memory commands (R94, R361,
R362). -/

namespace Sys2Proof.Machine

/-! ### Occupied space -/

/-- Spans of a tier and die that segments, range sets and lost spans take: first byte and length, in the share's own offsets. -/
def State.takenSpans (s : State) (tier die : Nat) : List (Nat × Nat) :=
  let nsid := if tier = 0 then 73 else 74
  let lo := if tier = 0 then dieBase die else 0
  let hi := if tier = 0 then lo + dieShare die else len74
  let within := fun (a n : Nat) => if a < hi ∧ lo < a + n then some (max a lo - lo, min (a + n) hi - max a lo) else none
  ((s.mem.segs.filter fun g => g.tier == tier && (tier == 1 || g.die == die)).map fun g => (g.base, g.size)) ++
  (s.mem.sets.flatMap fun r => r.ranges.filterMap fun x => if x.nsid = nsid then within x.ofst x.len else none) ++
  s.mem.lostSpans.filterMap fun x => if x.1 = nsid then within x.2.1 x.2.2 else none

/-- The end of a span up to a multiple of 64. -/
def align64 (n : Nat) : Nat := (n + 63) / 64 * 64

/-- The lowest place for `size` bytes from `pos` on, between spans in ascending order. -/
def fitFrom (limit size : Nat) : Nat → List (Nat × Nat) → Option Nat
  | pos, [] => if pos + size ≤ limit then some pos else none
  | pos, (a, n) :: r => if pos + size ≤ a then some pos else fitFrom limit size (max pos (align64 (a + n))) r

/-- Bytes of a tier and die that segments may take. -/
def shareOf (tier die : Nat) : Nat := if tier = 0 then dieShare die else len74

def sortSpans (l : List (Nat × Nat)) : List (Nat × Nat) := sortBy (fun x y => decide (x.1 < y.1)) l

/-- The lowest place where a segment fits (R122: the choice of a place is the drive's own). -/
def State.fit (s : State) (tier die size : Nat) : Option Nat :=
  fitFrom (shareOf tier die) size 0 (sortSpans (s.takenSpans tier die))

/-! ### Quotas (R123) -/

def State.quotaMode (s : State) : Bool := s.img.active.poolMode == 1

def State.quota (s : State) (room : Nat) : Quota := s.img.active.quotas.getD room ⟨0, 0, 0⟩

/-- Bytes that a classroom holds of a tier: segments and range sets. -/
def State.heldBy (s : State) (room tier : Nat) : Nat :=
  (s.mem.segs.filter fun g => g.room == room && g.tier == tier).foldl (fun a g => a + g.size) 0 +
  (s.mem.sets.filter fun r => r.room == room).foldl (fun a r => a +
    (r.ranges.filter fun x => x.nsid == 73 + tier).foldl (fun b x => b + x.len) 0) 0

def State.quotaBytes (s : State) (room tier : Nat) : Nat :=
  (if tier = 0 then (s.quota room).sram else (s.quota room).dram) * 1048576

/-- A classroom may take `size` more bytes of a tier. -/
def State.withinQuota (s : State) (room tier size : Nat) : Bool :=
  !s.quotaMode || decide (s.heldBy room tier + size ≤ s.quotaBytes room tier)

/-! ### Eviction and placement (R121, R122) -/

/-- A segment goes before another in eviction: the one read longer ago, then classroom, then base. -/
def evictsBefore (x y : Segment) : Bool :=
  decide (x.lastRead < y.lastRead ∨ (x.lastRead = y.lastRead ∧ (x.room < y.room ∨ (x.room = y.room ∧ x.base < y.base))))

/-- The cached segment to be evicted next for a classroom. -/
def State.evictable (s : State) (room tier die : Nat) : Option Segment :=
  (s.mem.segs.filter fun g => g.kind == .cached && g.users.isEmpty && g.tier == tier && (tier == 1 || g.die == die) &&
    (!s.quotaMode || g.room == room)).foldl (fun a g => match a with
      | none => some g
      | some b => if evictsBefore g b then some g else some b) none

def onMem (f : MemSt → MemSt) (s : State) : State := { s with mem := f s.mem }

/-- The classroom of a lesson run. -/
def lessonRoom : Instr → Option Nat
  | .executeLesson _ room _ _ => some room
  | _ => none

/-- Runs of a classroom that wait for a segment (R122). -/
def State.waitingRuns (s : State) (room : Nat) : Nat :=
  (s.host.held.filter fun c => c.why == .segment && lessonRoom c.cmd == some room).length

/-- A bell spent waiting, for each run that waits (R127). -/
def countWaits (s : State) : State :=
  let l := (List.range 8).map s.waitingRuns
  onMem (fun m => { m with stats := { m.stats with
    waitBells := satAdd 64 m.stats.waitBells (l.foldl (· + ·) 0)
    classWait := (List.range 8).map fun i => satAdd 64 (m.stats.classWait.getD i 0) (l.getD i 0) } }) s

def dropSeg (g : Segment) (s : State) : State := onMem (fun m => { m with segs := m.segs.erase g }) s

/-- A segment placed, with evictions as they are needed; none where it cannot be placed at all. -/
def placeSeg (room : Nat) (owner : SegOwner) (d : SegDecl) : Nat → State → Option (Segment × State)
  | 0, _ => none
  | f + 1, s =>
    match (if s.withinQuota room d.tier d.size then s.fit d.tier d.die d.size else none) with
    | some base =>
      let g : Segment := ⟨owner, d.kind, room, d.tier, d.die, base, d.size, s.bell.count.toNat, false, []⟩
      some (g, onMem (fun m => { m with segs := m.segs ++ [g] }) s)
    | none =>
      match s.evictable room d.tier d.die with
      | some g => placeSeg room owner d f
          (onMem (fun m => { m with stats := { m.stats with evictions := bump64 m.stats.evictions } }) (dropSeg g s))
      | none => none

/-- A set of segments placed as a whole or not at all. -/
def placeAll (room : Nat) (owner : SegOwner) : List SegDecl → State → Option (List Segment × State)
  | [], s => some ([], s)
  | d :: r, s =>
    match placeSeg room owner d (s.mem.segs.length + 1) s with
    | none => none
    | some (g, s) => match placeAll room owner r s with
      | none => none
      | some (l, s) => some (g :: l, s)

/-- Where a segment of tier 0 or 1 begins in its memory namespace. -/
def Segment.start (g : Segment) : Nat := if g.tier = 0 then dieBase g.die + g.base else g.base

/-- Segments of an owner freed. -/
def freeSegs (o : SegOwner) (s : State) : State := onMem (fun m => { m with segs := m.segs.filter fun g => g.owner != o }) s

/-- Pinned bytes of tier 1. -/
def State.pinnedDram (s : State) : Nat :=
  (s.mem.segs.filter fun g => g.kind == .pinned && g.tier == 1).foldl (fun a g => a + g.size) 0

/-- Stale segments that no running lesson uses are freed (R124). -/
def freeStale (s : State) : State :=
  let gone := s.mem.segs.filter fun g => g.stale && g.users.isEmpty
  onMem (fun m => { m with
    segs := m.segs.filter fun g => !(g.stale && g.users.isEmpty)
    stats := { m.stats with staleFrees := satAdd 64 m.stats.staleFrees gone.length } }) s

/-- Cached copies of a span of a namespace become stale (R124), unit by unit. -/
def markStaleSegs (nsid slba n : Nat) (s : State) : State :=
  freeStale (onMem (fun m => { m with segs := m.segs.map fun g => match g.owner with
    | .cache _ ns a c => if ns = nsid ∧ slba / 16 * 16 < a + c ∧ a / 16 * 16 < slba + n then { g with stale := true } else g
    | _ => g }) s)

/-! ### Range sets (R120) -/

/-- A range of a set: within its namespace and not empty. -/
def memRangeOk (r : MemRange) : Bool :=
  (r.nsid == 73 || r.nsid == 74) && decide (1 ≤ r.len) && memFits r.nsid r.ofst r.len

/-- Spans of placed segments in a memory namespace. -/
def State.segSpans (s : State) (nsid : Nat) : List (Nat × Nat) :=
  (s.mem.segs.filter fun g => g.tier + 73 == nsid).map fun g => (if g.tier = 0 then dieBase g.die + g.base else g.base, g.size)

/-- Spans of the range sets in a memory namespace. -/
def State.setSpans (s : State) (nsid : Nat) : List (Nat × Nat) :=
  s.mem.sets.flatMap fun r => (r.ranges.filter fun x => x.nsid == nsid).map fun x => (x.ofst, x.len)

def touches (x y : Nat × Nat) : Bool := decide (x.1 < y.1 + y.2 ∧ y.1 < x.1 + x.2)

/-- The ranges overlap neither each other nor another set nor a segment. -/
def State.rangesClear (s : State) (l : List MemRange) : Bool :=
  [73, 74].all fun n =>
    let mine := (l.filter fun r => r.nsid == n).map fun r => (r.ofst, r.len)
    disjointSpans mine && mine.all fun x => (s.segSpans n ++ s.setSpans n).all fun y => !(touches x y)

/-- The lowest identifier from 1 that no range set of the drive has. -/
def State.freeRsid (s : State) : Nat :=
  ((spanList 1 (s.mem.sets.length + 1)).find? fun n => !(s.mem.sets.any fun r => r.id == n)).getD 0

/-- Memory Range Set Management, create: the drive names the set, and completion dword 0 says how (log 30). A set that passes the
classroom's quota completes with Namespace Insufficient Capacity (log 15). -/
def createSet (h : Hdr) (room : Nat) (l : List MemRange) (s : State) : State :=
  if l.isEmpty || !(l.all memRangeOk) || !(s.rangesClear l) then finish h stInvalidField s
  else if s.quotaMode && [0, 1].any (fun t => !(s.withinQuota room t
      ((l.filter fun r => r.nsid == 73 + t).foldl (fun a r => a + r.len) 0))) then
    finish h stNsCapacity s
  else
    let n := s.freeRsid
    finishDw h stOk n (onMem (fun m => { m with sets := m.sets ++ [⟨room, n, l⟩] }) s)

/-- MEMORY_RANGE_SET_CREATE. -/
def execMemoryRangeSetCreate (h : Hdr) (room : Nat) (ranges : List MemRange) (s : State) : Res :=
  .next (admitRoom h (.memoryRangeSetCreate h room ranges) room (fun _ s => createSet h room ranges s) s)

/-- Memory Range Set Management, delete: the set must exist and be the classroom's own. -/
def deleteSet (h : Hdr) (room rsid : Nat) (s : State) : State :=
  if s.mem.sets.any fun r => r.room == room && r.id == rsid then
    finish h stOk (onMem (fun m => { m with sets := m.sets.filter fun r => !(r.room == room && r.id == rsid) }) s)
  else finish h stInvalidField s

/-- MEMORY_RANGE_SET_DELETE. -/
def execMemoryRangeSetDelete (h : Hdr) (room rsid : Nat) (s : State) : Res :=
  .next (admitRoom h (.memoryRangeSetDelete h room rsid) room (fun _ s => deleteSet h room rsid s) s)

/-! ### Memory commands (R94, R120, R126, R362) -/

/-- MDTS: 2 MiB. -/
def mdtsBytes : Nat := 2097152

def isMemNs (nsid : Nat) : Bool := nsid == 73 || nsid == 74

/-- Bytes of a delivered span, those of poisoned granules replaced by free values. -/
def maskBytes (d : Blob) (bad : List Nat) (s : State) : Blob × State :=
  if bad.isEmpty then (d, s)
  else
    let (f, s) := freeBytes d.len s
    (Blob.ofBytes ((List.range d.len).map fun i => if bad.contains i then f.byte i else d.byte i), s)

/-- Granules delivered poisoned to a consumer are counted (R376). -/
def countDelivered (n : Nat) (s : State) : State :=
  { s with dies := { s.dies with poisonDelivered := satAdd 64 s.dies.poisonDelivered n } }

/-- Memory Read. -/
def memoryReadCore (h : Hdr) (nsid ofst len : Nat) (s : State) : State :=
  if !(isMemNs nsid) then finish h stInvalidNs s
  else if mdtsBytes < len then finish h stInvalidField s
  else if !(memFits nsid ofst len) then finish h stLbaRange s
  else if len = 0 then finish h stOk s
  else
    let d := memRead nsid ofst len s
    let bad := (s.ram nsid).badBytes ofst len
    if s.spanLost nsid ofst len then
      let (d, s) := maskBytes d (List.range len) s
      finishUnrecovered h d nsid ofst s
    else match bad with
      | [] => finishData h d s
      | b :: _ =>
        let (d, s) := maskBytes d bad s
        finishUnrecovered h d nsid (ofst + b) (countDelivered ((granules ofst len).filter fun g => (s.ram nsid).poison.contains g).length s)

/-- MEMORY_READ. -/
def execMemoryRead (h : Hdr) (nsid ofst len : Nat) (s : State) : Res :=
  .next (admitIo h (.memoryRead h nsid ofst len) false (memoryReadCore h nsid ofst len) s)

/-- The destination of a Memory Write or Memory Copy: in one range of a range set, then not in a lost span. -/
def destinationStatus (nsid ofst len : Nat) (s : State) : Option Status :=
  if !(s.inRange none nsid ofst len) then some stInvalidField
  else if s.spanLost nsid ofst len then some stAccess
  else none

/-- Memory Write. -/
def memoryWriteCore (h : Hdr) (nsid ofst : Nat) (d : Blob) (s : State) : State :=
  if !(isMemNs nsid) then finish h stInvalidNs s
  else if mdtsBytes < d.len then finish h stInvalidField s
  else if !(memFits nsid ofst d.len) then finish h stLbaRange s
  else if d.len = 0 then finish h stOk s
  else match destinationStatus nsid ofst d.len s with
    | some st => finish h st s
    | none => finish h stOk (memWrite nsid ofst d s)

/-- MEMORY_WRITE. -/
def execMemoryWrite (h : Hdr) (nsid ofst : Nat) (data : Blob) (s : State) : Res :=
  .next (admitIo h (.memoryWrite h nsid ofst data) false (memoryWriteCore h nsid ofst data) s)

/-- Data written with the marks of its poisoned bytes: a granule that takes one is poisoned (R222, R362). -/
def writeMarked (nsid ofst : Nat) (d : Blob) (bad : List Nat) (s : State) : State :=
  memMark nsid ((bad.map fun i => (ofst + i) / 64).eraseDups) (memWrite nsid ofst d s)

end Sys2Proof.Machine
end

