-- ==== Sys2Proof/Machine/Sched.lean ====
section
/-! DEFINITION. Runs and engines (R243 to R255): keys, the holding of engines, semaphore counts, the mapping of a run, its end, and
the check of an access by device address (R111, R115, R116). -/

namespace Sys2Proof.Machine

def onSched (f : SchedSt → SchedSt) (s : State) : State := { s with sched := f s.sched }

def State.run? (s : State) (id : Nat) : Option Run := s.sched.runs.find? fun r => r.id == id

def onRun (id : Nat) (f : Run → Run) (s : State) : State :=
  onSched (fun c => { c with runs := c.runs.map fun r => if r.id = id then f r else r }) s

def onRoomStats (room : Nat) (f : RoomStats → RoomStats) (s : State) : State :=
  onSched (fun c => { c with rooms := modifyAt c.rooms room f }) s

def State.lesson? (s : State) (room slot : Nat) : Option Lesson :=
  s.sched.lessons.find? fun l => l.room == room && l.slot == slot

/-! ### Engines -/

/-- The die that an engine stands on (R12). -/
def engineDie : Engine → Nat
  | .mxa n | .vu n => if n < 4 then 3 else 4
  | .mover n => if n < 2 then 3 else 4
  | .me _ => 0
  | .valley n => if n < 16 then 1 else 2

/-- The run that holds an engine. -/
def State.holder (s : State) (e : Engine) : Option Nat :=
  match s.sched.engines.find? fun x => x.engine == e with
  | some x => x.run
  | none => none

/-- An engine given to a run for a slice of its classroom, or to none. -/
def setHolder (e : Engine) (r : Option Nat) (s : State) : State :=
  let slice := match r with
    | some id => match s.run? id with
      | some x => (s.room? x.room).elim 0 Room.slice
      | none => 0
    | none => 0
  onSched (fun c => { c with engines := (c.engines.filter fun x => x.engine != e) ++
    (match r with
      | some id => [⟨e, some id, s.pos + slice, false⟩]
      | none => []) }) s

/-! ### Keys (R247, R254) -/

/-- Classroom PRIORITY and LESSON_PRI of a run, raised while a hand-back lasts. -/
def State.rank (s : State) (r : Run) : Nat × Nat :=
  match r.raised with
  | some (p, q, _) => (p, q)
  | none => ((s.room? r.room).elim 0 Room.priority, r.pri)

/-- A run's key is higher than another's: classroom PRIORITY, LESSON_PRI, earlier admission. -/
def State.outranks (s : State) (x y : Run) : Bool :=
  let a := s.rank x
  let b := s.rank y
  decide (b.1 < a.1 ∨ (a.1 = b.1 ∧ (b.2 < a.2 ∨ (a.2 = b.2 ∧ x.id < y.id))))

/-- The run of the highest key in a list. -/
def State.topRun (s : State) (l : List Run) : Option Run :=
  l.foldl (fun a r => match a with
    | none => some r
    | some b => if s.outranks r b then some r else some b) none

/-- While a die replays its suspects, only the one in replay has its engines (R371). -/
def State.replayAllows (s : State) (id : Nat) (e : Engine) : Bool :=
  let d := s.die (engineDie e)
  d.state != .replaying || d.suspects.head? == some id

/-- Runs that are ready on an engine. -/
def State.readyOn (s : State) (e : Engine) : List Run :=
  s.sched.runs.filter fun r => s.replayAllows r.id e && r.ready.any fun x => x.1 == e

/-- A run becomes ready on an engine it is mapped to. -/
def makeReady (id : Nat) (e : Engine) (s : State) : State :=
  onRun id (fun r => if r.ready.any (fun x => x.1 == e) then r
    else { r with ready := r.ready ++ [(e, s.bell.count.toNat)] }) s

/-- A run takes an engine. -/
def takeEngine (e : Engine) (id : Nat) (s : State) : State :=
  setHolder e (some id) (onRun id (fun r => { r with ready := r.ready.filter fun x => x.1 != e }) s)

/-- A run may issue an operation on an engine: it is mapped there, the engine is its own or idle, no wait of its own blocks the
engine, and the die serves. -/
def State.mayIssue (s : State) (id : Nat) (e : Engine) : Bool :=
  match s.run? id with
  | some r => s.up && r.engines.contains e && !(r.waits.any fun w => w.engine == e) && !r.rerun &&
      s.dieServes (engineDie e) && s.replayAllows id e && (s.holder e == some id || s.holder e == none)
  | none => false

/-- A run that issues an operation on an idle engine takes it. -/
def claim (e : Engine) (id : Nat) (s : State) : State := if s.holder e == some id then s else takeEngine e id s

/-! ### Semaphores (R250 to R252) -/

/-- The count of a semaphore as a run sees it. -/
def State.semCount (s : State) (r : Run) (sem : Nat) : Nat :=
  if sem < 32 then r.sems.getD sem 0
  else match s.sched.shared.find? fun x => x.1 == (r.room, sem) with
    | some x => x.2
    | none => 0

def setSem (r : Run) (sem n : Nat) (s : State) : State :=
  if sem < 32 then onRun r.id (fun x => { x with sems := modifyAt x.sems sem fun _ => n }) s
  else onSched (fun c => { c with shared :=
    (c.shared.filter fun x => x.1 != (r.room, sem)) ++ (if n = 0 then [] else [((r.room, sem), n)]) }) s

/-- A unit taken: of a shared semaphore it is held (R251). -/
def takeSem (r : Run) (sem : Nat) (s : State) : State :=
  let s := setSem r sem (s.semCount r sem - 1) s
  if sem < 32 then s else onRun r.id (fun x => { x with holds := x.holds ++ [sem] }) s

/-- Runs that hold a unit of a shared semaphore of a classroom. -/
def State.holders (s : State) (room sem : Nat) : List Run :=
  s.sched.runs.filter fun r => r.room == room && r.holds.contains sem

/-- Priority hand-back (R254): holders with a lower key take the waiter's priorities, and a holder that is blocked passes them on,
with fuel. -/
def handBack (waiter : Run) (p : Nat × Nat) : Nat → Nat → State → State
  | 0, _, s => s
  | f + 1, sem, s =>
    (s.holders waiter.room sem).foldl (fun s h =>
      let k := s.rank h
      if h.id = waiter.id ∨ ¬(k.1 < p.1 ∨ (k.1 = p.1 ∧ k.2 < p.2)) then s
      else
        let s := onRoomStats h.room (fun x => { x with handbacks := bump32 x.handbacks })
          (onSched (fun c => { c with handbacks := bump64 c.handbacks })
            (onRun h.id (fun x => { x with raised := some (p.1, p.2, waiter.id) }) s))
        h.waits.foldl (fun s w => if w.sem < 32 then s else handBack waiter p f w.sem s) s) s

/-- Holders that a waiter has raised return to their own keys. -/
def endHandBack (waiter : Nat) (s : State) : State :=
  onSched (fun c => { c with runs := c.runs.map fun r => match r.raised with
    | some (_, _, w) => if w = waiter then { r with raised := none } else r
    | none => r }) s

/-- A run blocks on a semaphore: its engine is free for others, and a shared semaphore hands priority back. -/
def blockOn (id : Nat) (e : Engine) (sem : Nat) (op : Option Instr) (s : State) : State :=
  match s.run? id with
  | none => s
  | some r =>
    let s := onRun id (fun x => { x with
      waits := x.waits ++ [⟨e, sem, s.bell.count.toNat, false, op⟩]
      ready := x.ready.filter fun y => y.1 != e }) s
    let s := if s.holder e == some id then setHolder e none s else s
    if sem < 32 then s else handBack r (s.rank r) (s.sched.runs.length + 1) sem s

/-! ### The end of a run (R118, R122, R253, R362) -/

/-- What a run held is freed: segments, windows, engines, holds without posting, and its requests. -/
def dropRun (r : Run) (s : State) : State :=
  let s := r.engines.foldl (fun s e => if s.holder e == some r.id then setHolder e none s else s) s
  let s := endHandBack r.id (freeSegs (.run r.id) s)
  let s := onMem (fun m => { m with segs := m.segs.map fun g => { g with users := g.users.filter (· != r.id) } }) s
  freeStale { s with
    sched := { s.sched with runs := s.sched.runs.filter fun x => x.id != r.id }
    eng := { s.eng with
      mxa := s.eng.mxa.map fun a => if a.drains.any (fun d => d.run == r.id) then { a with drains := a.drains.filter fun d => d.run != r.id } else a
      movers := s.eng.movers.map fun m => match m with
        | some x => if x.run = r.id then none else some x
        | none => none }
    ftl := { s.ftl with jobs := s.ftl.jobs.filter fun j => match j.kind with
      | .move n => match s.eng.movers.getD n none with
        | some x => x.run != r.id
        | none => true
      | _ => true } }

/-- A run ends with a status. A Train Step's lesson completes no command of its own. -/
def endRun (id : Nat) (st : Status) (s : State) : State :=
  match s.run? id with
  | none => s
  | some r =>
    let s := dropRun r s
    if r.train then s
    else if st = stUnrecovered then finishUnrecovered r.hdr (Blob.zero 0) 0 0 s
    else finish r.hdr st s

/-- A run has an operation in flight. -/
def State.inFlight (s : State) (id : Nat) : Bool :=
  s.eng.mxa.any (fun a => a.drains.any fun d => d.run == id) ||
  s.eng.movers.any fun m => match m with
    | some x => x.run == id
    | none => false

/-- A run whose operations have all ended completes: with Unrecovered Read Error if it wrote poison (R362). -/
def settle (id : Nat) (s : State) : State :=
  match s.run? id with
  | none => s
  | some r =>
    match s.lesson? r.room r.slot with
    | none => s
    | some l =>
      if decide (Config.lessonOps l.image ≤ r.done) && !(s.inFlight id) && r.waits.isEmpty && r.resume.isEmpty then
        endRun id (if r.wrotePoison then stUnrecovered else stOk) s
      else s

/-- One operation of a run has ended. -/
def opDone (id : Nat) (s : State) : State := settle id (onRun id (fun r => { r with done := r.done + 1 }) s)

/-! ### Parameter blocks (R93, R362) -/

/-- The parameter block of Execute Program: it lies in NSID 73 or 74, and none of it is lost or poisoned (log 17). -/
def paramBlock (p : ParamRef) (s : State) : Except Status Blob :=
  if !(isMemNs p.nsid) || !(memFits p.nsid p.ofst p.len) then .error stInvalidField
  else if s.spanLost p.nsid p.ofst p.len || (s.ram p.nsid).poisoned p.ofst p.len then .error stUnrecovered
  else .ok (memRead p.nsid p.ofst p.len s)

/-- A program that ends before it has started. -/
def failProgram (h : Hdr) (st : Status) (p : ParamRef) (s : State) : State :=
  if st = stUnrecovered then finishUnrecovered h (Blob.zero 0) p.nsid p.ofst s else finish h st s

/-! ### Accesses by device address (R111, R115, R116) -/

/-- The access lies in a segment of the classroom, or in none. -/
def State.inSegment (s : State) (room tier die ofst len : Nat) : Bool :=
  s.mem.segs.any fun g => g.room == room && g.tier == tier && (tier == 1 || g.die == die) &&
    decide (g.base ≤ ofst ∧ ofst + len ≤ g.base + g.size)

/-- An access of a run that R111 allows. -/
def State.accessOk (s : State) (r : Run) (addr len : Nat) (write : Bool) : Bool :=
  match placeOf addr with
  | some (.sram die o) => decide (o + len ≤ dieShare die) && s.inSegment r.room 0 die o len
  | some (.dram o) => decide (o + len ≤ len74) && s.inSegment r.room 1 0 o len
  | some (.flash nsid o) =>
    !write && (s.room? r.room).elim false Room.valley &&
    (match s.ns.list.find? fun n => n.nsid == nsid && n.attached with
      | some n => decide (o + len ≤ n.slots * unitBytes)
      | none => false)
  | some (.host w o) =>
    match r.windows[w]? with
    | some x => decide (o + len ≤ x.pages * 4096) && x.access.testBit (bit write)
    | none => false
  | none => false

/-- A refused access ends the run with Access Denied. -/
def denyRun (id : Nat) (s : State) : State :=
  endRun id stAccess (onMem (fun m => { m with stats := { m.stats with denied := bump32 m.stats.denied } }) s)

/-- Windows of a parameter block (R116): header, then entries of 16 bytes; none where one is out of range. -/
def parseWindows (b : Blob) : Option (List Window) :=
  let n := b.le 0 2
  if 4096 < n ∨ ¬ b.zeroAt 2 14 ∨ b.len < 16 + 16 * n then none
  else
    let l := (List.range n).map fun i =>
      let o := 16 + 16 * i
      ((⟨b.le o 8, b.le (o + 8) 4, b.le (o + 12) 1⟩ : Window), b.zeroAt (o + 13) 3)
    if l.all fun x => decide (x.1.base % 4096 = 0 ∧ 1 ≤ x.1.pages ∧ 1 ≤ x.1.access ∧ x.1.access ≤ 3) && x.2 then
      some (l.map Prod.fst)
    else none

/-! ### Mapping (R245, R246) -/

/-- Bits of a mask that name engines of an array die: 0 to 3 on die 3, 4 to 7 on die 4. -/
def granted (mask die : Nat) : List Nat := ([0, 1, 2, 3].map fun i => i + (if die = 4 then 4 else 0)).filter mask.testBit

/-- Runs that an engine serves. -/
def State.serves (s : State) (e : Engine) : Nat := (s.sched.runs.filter fun r => r.engines.contains e).length

/-- Engines in the order in which logical engines take them: those that serve the fewest runs, then ascending. -/
def State.byLoad (s : State) (l : List Engine) : List Engine := sortBy (fun x y => decide (s.serves x < s.serves y)) l

/-- Engines of one kind that a run may have on a die. -/
def enginesOn (r : Room) (die : Nat) : List Engine × List Engine × List Engine :=
  ((granted r.mxa die).map Engine.mxa, (granted r.vu die).map Engine.vu,
   (if die = 4 then [2, 3] else [0, 1]).map Engine.mover)

/-- `n` engines of a kind: from the chosen die, and with SPAN the rest from its sibling. -/
def State.takeEngines (s : State) (n : Nat) (span : Bool) (own other : List Engine) : Option (List Engine) :=
  let a := (s.byLoad own).take n
  if a.length = n then some a
  else
    let b := a ++ (s.byLoad other).take (n - a.length)
    if span && b.length == n then some b else none

/-- An array die takes no run: it has failed, or has not returned within REPLAY_WINDOW bells of its reset (R372). -/
def State.dieGone (s : State) (d : Nat) : Bool :=
  (s.die d).state == .failed ||
  ((s.die d).state == .resetting && reached ((s.die d).resetAt + 1024 * s.img.active.watch.replayWindow) s.pos)

/-- The engines of a run on a die; none where the masks of the classroom do not have them, or a die that is needed has failed. -/
def State.mapOn (s : State) (r : Room) (l : Lesson) (die : Nat) : Option (List Engine) :=
  let sib := if die = 3 then 4 else 3
  let span := l.flags.testBit 1 && !(s.dieGone sib)
  let o := enginesOn r die
  let t := enginesOn r sib
  if s.dieGone die then none
  else match s.takeEngines l.arrays span o.1 t.1, s.takeEngines l.vus span o.2.1 t.2.1, s.takeEngines l.movers span o.2.2 t.2.2 with
    | some a, some b, some c => some (a ++ b ++ c)
    | _, _, _ => none

/-- Engines of a classroom on a die that serve no run. -/
def State.idleOn (s : State) (r : Room) (die : Nat) : Nat :=
  let e := enginesOn r die
  ((e.1 ++ e.2.1 ++ e.2.2).filter fun x => s.serves x == 0).length

/-- Logical slots under a byte span of a namespace. -/
def State.slotsUnder (s : State) (nsid ofst len : Nat) : List Nat :=
  match s.ns.list.find? fun n => n.nsid == nsid with
  | some n => (spanList (ofst / unitBytes) ((ofst + len - 1) / unitBytes + 1 - ofst / unitBytes)).map fun u => s.lsnOf (n.base + u)
  | none => []

/-- Tier 2 spans that the moves of a lesson read: namespace, first byte, length. -/
def lessonSources (l : Lesson) : List (Nat × Nat × Nat) :=
  (Config.lessonDescs l.image).filterMap fun x =>
    let b := x.2
    match placeOf (b.le 0x10 8) with
    | some (.flash ns o) =>
      if b.le 0 1 = 2 then some (ns, o, (b.le 8 4 - 1) * b.le 0x20 8 + ((Fmt.ofCode (b.le 1 1)).getD .int8).bytes (b.le 0xC 4)) else none
    | _ => none

/-- A byte span and a span of LBAs of a namespace have a byte in common. -/
def meetsLbas (x : Nat × Nat × Nat) (ns slba lbas : Nat) : Bool :=
  x.1 == ns && decide (x.2.1 < (slba + lbas) * 4096 ∧ slba * 4096 < x.2.1 + x.2.2)

/-- Rule 2 of R245: the array die that holds a cached segment of a tier 2 source. -/
def State.cacheDie (s : State) (room : Nat) (srcs : List (Nat × Nat × Nat)) : Option Nat :=
  (s.mem.segs.find? fun g => g.room == room && g.tier == 0 && (g.die == 3 || g.die == 4) && !g.stale && (match g.owner with
    | .cache _ ns a c => srcs.any fun x => meetsLbas x ns a c
    | _ => false)).map (·.die)

/-- Units of tier 2 sources whose valley has its home on a die (R32). -/
def State.unitsHome (s : State) (srcs : List (Nat × Nat × Nat)) (die : Nat) : Nat :=
  ((srcs.flatMap fun x => s.slotsUnder x.1 x.2.1 x.2.2).eraseDups.filter fun l => match s.mapOf l with
    | some (.phys p) => s.img.active.valleyHome.getD (chOf p) 3 == die
    | _ => false).length

/-- Rules 2 to 5 of R245: a cached segment of the source, the home of most of its units, the die with more idle engines, die 3. -/
def State.chooseDie (s : State) (r : Room) (l : Lesson) : Nat :=
  let srcs := lessonSources l
  match s.cacheDie r.room srcs with
  | some d => d
  | none =>
    let a := s.unitsHome srcs 3
    let b := s.unitsHome srcs 4
    if a < b then 4
    else if b < a then 3
    else if s.idleOn r 3 < s.idleOn r 4 then 4 else 3

/-- The array die that a lesson's own entries name for a pinned tier 0 segment. -/
def Lesson.pinDie (l : Lesson) : Option Nat :=
  (l.segs.find? fun d => d.kind == .pinned && d.tier == 0 && (d.die == 3 || d.die == 4)).map (·.die)

/-- The array die that a lesson's pinned segments of DIE FFh go to: that of its other pinned segments, else the one that a run would be given
now and can be mapped on. -/
def State.loadDie (s : State) (r : Room) (l : Lesson) : Nat :=
  match l.pinDie with
  | some d => d
  | none =>
    let d := s.chooseDie r l
    if (s.mapOn r l d).isNone && (s.mapOn r l (7 - d)).isSome then 7 - d else d

/-- The array die of a run (R245): that of the lesson's pinned tier 0 segments, else by rules 2 to 5; the other where the first cannot take
it. -/
def State.mapRun (s : State) (r : Room) (l : Lesson) : Option (Nat × List Engine) :=
  let pin := s.mem.segs.find? fun g => g.owner == .lesson l.room l.slot && g.kind == .pinned && g.tier == 0 && g.die != 0
  let first := match pin with
    | some g => g.die
    | none => s.chooseDie r l
  match s.mapOn r l first with
  | some e => some (first, e)
  | none =>
    if pin.isSome then none
    else match s.mapOn r l (7 - first) with
      | some e => some (7 - first, e)
      | none => none

/-- The lesson could be placed within the classroom's masks, whatever runs now (R244 check 3): on the die of its pinned segments, or on either. -/
def placeable (r : Room) (l : Lesson) : Bool :=
  let fits := fun (die : Nat) => decide (l.arrays ≤ (granted r.mxa die).length ∧ l.vus ≤ (granted r.vu die).length ∧ l.movers ≤ 2)
  (match l.pinDie with
    | some d => fits d
    | none => fits 3 || fits 4) ||
  (l.flags.testBit 1 && decide (l.arrays ≤ (granted r.mxa 3).length + (granted r.mxa 4).length ∧
    l.vus ≤ (granted r.vu 3).length + (granted r.vu 4).length ∧ l.movers ≤ 4))

/-! ### Cached segments of lessons (R118, R121) -/

/-- A cached segment is read by an engine for a run: its age starts again, and the run uses it. -/
def Segment.readBy (g : Segment) (run bell : Nat) : Segment := { g with lastRead := bell, users := insertSet run g.users }

/-- Cached segments of the run's classroom that hold one of the device addresses are read. -/
def useCached (r : Run) (addrs : List Nat) (s : State) : State :=
  let holds := fun (g : Segment) (a : Nat) => match placeOf a with
    | some (.sram die o) => g.tier == 0 && g.die == die && decide (g.base ≤ o ∧ o < g.base + g.size)
    | some (.dram o) => g.tier == 1 && decide (g.base ≤ o ∧ o < g.base + g.size)
    | _ => false
  onMem (fun m => { m with segs := m.segs.map fun g =>
    if g.kind == .cached && g.room == r.room && addrs.any (holds g) then g.readBy r.id s.bell.count.toNat else g }) s

/-- The first read of a tier 2 source that a cached segment of the run's lesson copies places that segment (R118): one that stands and is
not stale is used again, and one that finds no place is left out. -/
def cacheSource (r : Run) (x : Nat × Nat × Nat) (s : State) : State :=
  match s.lesson? r.room r.slot with
  | none => s
  | some l => (l.segs.zipIdx.filter fun y => y.1.kind == .cached).foldl (fun s y =>
      let (ns, a, c) := Config.lessonSource l.image y.2
      if !(meetsLbas x ns a c) then s
      else
        let d : SegDecl := if y.1.tier = 0 ∧ y.1.die = 255 then { y.1 with die := r.die } else y.1
        let owner := SegOwner.cache r.room ns a c
        let mine := fun (g : Segment) => g.owner == owner && g.tier == d.tier && (d.tier == 1 || g.die == d.die) && g.size == d.size &&
          (!g.stale || g.users.contains r.id)
        let s := if s.mem.segs.any mine then s
          else match placeSeg r.room owner d (s.mem.segs.length + 1) s with
            | some (_, t) => t
            | none => s
        onMem (fun m => { m with segs := m.segs.map fun g => if mine g then g.readBy r.id s.bell.count.toNat else g }) s) s

end Sys2Proof.Machine
end

