-- ==== Sys2Proof/Machine/Array.lean ====
section
/-! DEFINITION. The matrix arrays and the tile movers (R203 to R218, R222, R225 to R242): fill and move descriptors, the sums of a
fill, its drain, and the conversion of moved rows. -/

namespace Sys2Proof.Machine

/-! ### Fill descriptors (R205, R206, R209) -/

structure FillDesc where
  mode : Nat
  aFmt : Nat
  bFmt : Nat
  outFmt : Nat
  flags : Nat
  group : Nat
  m : Nat
  n : Nat
  zpA : Nat
  zpB : Nat
  waitSem : Nat
  postSem : Nat
  k0 : Nat
  k1 : Nat
  k2 : Nat
  aStride : Nat
  bStride : Nat
  cStride : Nat
  aK1 : Int
  aK2 : Int
  aAddr : Nat
  bAddr : Nat
  cAddr : Nat
  scaleA : Nat
  scaleB : Nat
  sideA : Nat
  sideB : Nat
  deriving DecidableEq, Repr

def parseFill (b : Blob) : FillDesc where
  mode := b.le 1 1
  aFmt := b.le 2 1
  bFmt := b.le 3 1
  outFmt := b.le 4 1
  flags := b.le 5 1
  group := b.le 6 1
  m := b.le 8 2
  n := b.le 0xA 2
  zpA := b.le 0xC 1
  zpB := b.le 0xD 1
  waitSem := b.le 0xE 1
  postSem := b.le 0xF 1
  k0 := b.le 0x10 2
  k1 := b.le 0x12 2
  k2 := b.le 0x14 2
  aStride := b.le 0x18 4
  bStride := b.le 0x1C 4
  cStride := b.le 0x20 4
  aK1 := toSigned 32 (b.le 0x24 4)
  aK2 := toSigned 32 (b.le 0x28 4)
  aAddr := b.le 0x30 8
  bAddr := b.le 0x38 8
  cAddr := b.le 0x40 8
  scaleA := b.le 0x48 8
  scaleB := b.le 0x50 8
  sideA := b.le 0x58 8
  sideB := b.le 0x60 8

def FillDesc.transA (d : FillDesc) : Bool := d.flags.testBit 0
def FillDesc.transB (d : FillDesc) : Bool := d.flags.testBit 1
def FillDesc.acc (d : FillDesc) : Bool := d.flags.testBit 2
def FillDesc.drain (d : FillDesc) : Bool := d.flags.testBit 3
def FillDesc.drainAdd (d : FillDesc) : Bool := d.flags.testBit 4
def FillDesc.scaled (d : FillDesc) : Bool := d.flags.testBit 5
def FillDesc.outlier (d : FillDesc) : Bool := d.flags.testBit 6
/-- K = K0 × K1 × K2. -/
def FillDesc.k (d : FillDesc) : Nat := d.k0 * d.k1 * d.k2
/-- Elements of a group along K; all of K without groups. -/
def FillDesc.groupSize (d : FillDesc) : Nat := if d.group = 1 then 32 else if d.group = 2 then 64 else if d.group = 3 then 128 else d.k
/-- Rows and columns of a mode's tile. -/
def tileRows (mode : Nat) : Nat := if mode = 0 then 128 else if mode = 1 then 64 else 32
def tileCols (mode : Nat) : Nat := if mode = 0 then 128 else if mode = 1 then 256 else 512

def isInt8Fmt (f : Nat) : Bool := f ≤ 2
def isFp8Fmt (f : Nat) : Bool := f == 6 || f == 7

/-- An integer pair of R206. -/
def FillDesc.intPair (d : FillDesc) : Bool := (isInt8Fmt d.aFmt && isInt8Fmt d.bFmt) || (d.aFmt == 3 && d.bFmt == 3)

/-- A pair of R206. -/
def FillDesc.pairOk (d : FillDesc) : Bool :=
  d.intPair || (isFp8Fmt d.aFmt && isFp8Fmt d.bFmt) || (d.aFmt == 8 && d.bFmt == 8) || (d.aFmt == 9 && d.bFmt == 9)

/-- The accumulator is FP32: a floating pair, or SCALED or OUTLIER set (R206, R240). -/
def FillDesc.float (d : FillDesc) : Bool := !d.intPair || d.scaled || d.outlier

def FillDesc.outOk (d : FillDesc) : Bool :=
  if d.float then [8, 9, 10].contains d.outFmt else [4, 5, 10].contains d.outFmt

/-! ### The check at load (R40, R210, R229, R237, R238, R240) -/

/-- Grants that a fill needs: mode, formats, group and outlier list (R40). -/
def FillDesc.granted (d : FillDesc) (x : Shape) : Bool :=
  x.modes.testBit d.mode && x.formats.testBit d.aFmt && x.formats.testBit d.bFmt && x.formats.testBit d.outFmt &&
  (d.group == 0 || x.groups.testBit (d.group - 1)) && (!d.outlier || x.outlier == 1)

/-- An address lies in tier 0 of a die; `need` asks for a multiple of 64. -/
def onDie0 (die a : Nat) (need : Bool) : Bool :=
  match placeOf a with
  | some (.sram d _) => d == die && (!need || a % 64 == 0)
  | _ => false

/-- Fields of a fill descriptor in range (R209, R210). -/
def fillFieldsOk (die : Nat) (b : Blob) (d : FillDesc) : Bool :=
  let zp := fun (f z : Nat) => f == 2 || z == 0
  let scaleAddr := fun (on : Bool) (a : Nat) => if on then onDie0 die a true else a == 0
  let sideAddr := fun (a : Nat) => if d.outlier then (a == 0 || onDie0 die a true) else a == 0
  let sideFmt := fun (a f : Nat) => a == 0 || f == 0 || f == 1
  decide (b.len = 0x80) && b.le 0 1 == 1 && decide (d.mode ≤ 2) && d.pairOk && d.outOk && decide (d.flags < 128) &&
  decide (d.group ≤ 3) && (decide (d.group ≠ 0) == (d.scaled || d.outlier)) && b.zeroAt 7 1 &&
  decide (1 ≤ d.m ∧ d.m ≤ tileRows d.mode ∧ 1 ≤ d.n ∧ d.n ≤ tileCols d.mode) && zp d.aFmt d.zpA && zp d.bFmt d.zpB &&
  (decide (d.waitSem < 64) || d.waitSem == 255) && (decide (d.postSem < 64) || d.postSem == 255) &&
  decide (1 ≤ d.k0 ∧ d.k0 ≤ 16384 ∧ 1 ≤ d.k1 ∧ d.k1 ≤ 16384 ∧ 1 ≤ d.k2 ∧ d.k2 ≤ 16384 ∧ d.k ≤ 16384) && b.zeroAt 0x16 2 &&
  b.zeroAt 0x2C 4 && b.zeroAt 0x68 24 && onDie0 die d.aAddr true && onDie0 die d.bAddr true &&
  (!d.drain || onDie0 die d.cAddr true) && scaleAddr d.scaled d.scaleA && scaleAddr d.scaled d.scaleB && sideAddr d.sideA &&
  sideAddr d.sideB && (d.group == 0 || d.k % d.groupSize == 0) && sideFmt d.sideA d.aFmt && sideFmt d.sideB d.bFmt &&
  (!(d.aFmt == 0) || (if d.transA then d.m else d.k0) % 2 == 0) && (!(d.bFmt == 0) || (if d.transB then d.k0 else d.n) % 2 == 0) &&
  (!d.drainAdd || (d.drain && [4, 5, 10].contains d.outFmt))

/-- ACC continues the fill before it, and the list ends on a draining fill (R210). -/
def chainOk : Option FillDesc → List FillDesc → Bool
  | none, [] => true
  | some p, [] => p.drain
  | p, d :: r =>
    (!d.acc || (match p with
      | some q => !q.drain && q.mode == d.mode && q.m == d.m && q.n == d.n && q.float == d.float && q.group == d.group
      | none => false)) && chainOk (some d) r

/-! ### Operands (R209, R227, R236 to R239) -/

/-- Half bytes of an element. -/
def halves (fmt : Nat) : Nat := if fmt = 0 then 1 else if fmt = 3 ∨ fmt = 8 ∨ fmt = 9 then 4 else 2

/-- The half-byte address of A[i][k]. -/
def FillDesc.aAt (d : FillDesc) (i k : Nat) : Int :=
  let q0 := k % d.k0
  let q1 := k / d.k0 % d.k1
  let q2 := k / (d.k0 * d.k1)
  2 * (d.aAddr : Int) + 2 * (q1 * d.aK1 + q2 * d.aK2) +
    (if d.transA then i * halves d.aFmt + 2 * (q0 * d.aStride) else 2 * (i * d.aStride) + q0 * halves d.aFmt : Nat)

/-- The half-byte address of B[k][j]. -/
def FillDesc.bAt (d : FillDesc) (k j : Nat) : Int :=
  2 * (d.bAddr : Int) + (if d.transB then k * halves d.bFmt + 2 * (j * d.bStride) else 2 * (k * d.bStride) + j * halves d.bFmt : Nat)

/-- Byte address and bytes of an element at a half-byte address. -/
def elemSpan (fmt : Nat) (h : Int) : Nat × Nat := ((h / 2).toNat, max 1 (halves fmt / 2))

/-- The code of an element at a half-byte address, and whether its granule is poisoned. -/
def readElem (s : State) (fmt : Nat) (h : Int) : Nat × Bool :=
  let (a, n) := elemSpan fmt h
  match memSpan a n with
  | some (ns, o) =>
    let v := (memRead ns o n s).le 0 n
    (if fmt = 0 then v / 16 ^ (h % 2).toNat % 16 else v, (s.ram ns).poisoned o n)
  | none => (0, false)

/-- A BF16 value at a byte address, and whether its granule is poisoned. -/
def readBf16 (s : State) (a : Nat) : Num × Bool :=
  match memSpan a 2 with
  | some (ns, o) => (fBF16.decode ((memRead ns o 2 s).le 0 2), (s.ram ns).poisoned o 2)
  | none => (.fin 0 0, false)

/-- What a cell receives for one operand element: an integer, a floating value, or an escape (R236, R238). -/
inductive Opd where
  | int (v : Int)
  | num (x : Num)
  | esc
  deriving DecidableEq, Repr

/-- An operand element as it enters the cells. -/
def opdOf (fmt zp : Nat) (escapes : Bool) (code : Nat) : Opd :=
  if fmt = 0 then (if escapes && code == 8 then .esc else .int (toSigned 4 code))
  else if fmt = 1 then (if escapes && code == 0x80 then .esc else .int (toSigned 8 code))
  else if fmt = 2 then .int ((code : Int) - zp)
  else if fmt = 3 then .int (toSigned 16 code)
  else match Fmt.ofCode fmt with
    | some f => .num (f.value code)
    | none => .int 0

def Opd.toNum : Opd → Num
  | .int v => .fin v 0
  | .num x => x
  | .esc => .fin 0 0

/-- The elements of one row of A or column of B, with poison: its codes at K elements in order. -/
def operandRow (s : State) (fmt zp : Nat) (escapes : Bool) (ats : List Int) : List (Opd × Bool) :=
  ats.map fun h => let (c, p) := readElem s fmt h; (opdOf fmt zp escapes c, p)

/-- Side values put in place of escapes, in ascending K within a group: the first four take the side entry's values, later ones are
zero (R238, R239). Answers the values, the poison met and the escapes beyond four. -/
def resolveEsc (s : State) (addr : Nat) : Nat → List (Opd × Bool) → List (Option Num × Opd × Bool) × Nat
  | _, [] => ([], 0)
  | i, (o, p) :: r =>
    if o = .esc then
      if i < 4 then
        let (v, q) := readBf16 s (addr + 2 * i)
        let (l, n) := resolveEsc s addr (i + 1) r
        ((some v, o, p || q) :: l, n)
      else
        let (l, n) := resolveEsc s addr (i + 1) r
        ((some (.fin 0 0), o, p) :: l, n + 1)
    else
      let (l, n) := resolveEsc s addr i r
      ((none, o, p) :: l, n)

/-! ### The sums of a cell (R207, R241) -/

/-- 48 bits of an integer. -/
def acc48 (v : Int) : BitVec 48 := BitVec.ofInt 48 v

/-- One addition into the FP32 accumulator. -/
def accAdd (a : F32) (x : Num) : F32 := toF32 ((f32 a).add x)

/-- The group result of a cell with SCALED or OUTLIER set (R207, R241). -/
def groupSum (sA sB : Num) (a b : List (Option Num × Opd × Bool)) (float : Bool) (acc : F32) : F32 :=
  let z := List.zip a b
  let plain := z.filter fun p => p.1.1.isNone && p.2.1.isNone
  let sum : Num :=
    if float then f32 (plain.foldl (fun acc p => accAdd acc (p.1.2.1.toNum.mul p.2.2.1.toNum)) 0)
    else .fin (plain.foldl (fun acc p => match p.1.2.1, p.2.2.1 with
      | .int x, .int y => acc + x * y
      | _, _ => acc) (0 : Int)) 0
  let acc := accAdd acc (f32 (toF32 (sum.mul (sA.mul sB))))
  (z.filter fun p => p.1.1.isSome || p.2.1.isSome).foldl (fun acc p =>
    let x := match p.1.1 with
      | some v => v
      | none => p.1.2.1.toNum.mul sA
    let y := match p.2.1 with
      | some v => v
      | none => p.2.2.1.toNum.mul sB
    accAdd acc (x.mul y)) acc

/-- A list cut into groups of `n`. -/
def groupsOf {α : Type} (n : Nat) (l : List α) : List (List α) := chunks (l.length + 1) n l

/-- Operands of a row or column for a whole fill, by group, with scale, and escapes past four. -/
def groupOperands (s : State) (d : FillDesc) (fmt zp side scale lines idx : Nat) (ats : List Int) :
    List (Num × Bool × List (Option Num × Opd × Bool)) × Nat :=
  let gs := groupsOf (max 1 d.groupSize) (operandRow s fmt zp (d.outlier && side != 0) ats)
  (gs.zipIdx).foldl (fun (a : List (Num × Bool × List (Option Num × Opd × Bool)) × Nat) g =>
    let (sc, p) := if d.scaled then readBf16 s (scale + 2 * (g.2 * lines + idx)) else (.fin 1 0, false)
    let (l, n) := resolveEsc s (side + 8 * (g.2 * lines + idx)) 0 g.1
    (a.1 ++ [(sc, p, l)], a.2 + n)) ([], 0)

/-- A cell after the fill: its accumulator and whether it is marked (R207, R222, R242). -/
def cellSum (d : FillDesc) (a b : List (Num × Bool × List (Option Num × Opd × Bool))) (acc0 : BitVec 48) (mark0 : Bool) :
    BitVec 48 × Bool :=
  let z := List.zip a b
  let mark := mark0 || z.any fun g => g.1.2.1 || g.2.2.1 || g.1.2.2.any (fun x => x.2.2) || g.2.2.2.any fun x => x.2.2
  let v :=
    if d.float then
      if d.scaled || d.outlier then
        (z.foldl (fun acc g => groupSum g.1.1 g.2.1 g.1.2.2 g.2.2.2 (!d.intPair) acc) (acc0.setWidth 32)).setWidth 48
      else
        (z.foldl (fun acc g => (List.zip g.1.2.2 g.2.2.2).foldl (fun acc p => accAdd acc (p.1.2.1.toNum.mul p.2.2.1.toNum)) acc)
          (acc0.setWidth 32)).setWidth 48
    else
      acc48 (z.foldl (fun acc g => (List.zip g.1.2.2 g.2.2.2).foldl (fun acc p => match p.1.2.1, p.2.2.1 with
        | .int x, .int y => acc + x * y
        | _, _ => acc) acc) acc0.toInt)
  (v, mark)

/-! ### Issue and drain of a fill -/

def State.mxa (s : State) (n : Nat) : Mxa := s.eng.mxa.getD n ⟨[], [], none, []⟩

def onMxa (n : Nat) (f : Mxa → Mxa) (s : State) : State := { s with eng := { s.eng with mxa := modifyAt s.eng.mxa n f } }

/-- Every access of a fill is allowed (R111). -/
def fillAllowed (s : State) (r : Run) (d : FillDesc) : Bool :=
  let ok := fun (a n : Nat) (w : Bool) => s.accessOk r a n w
  let es := match Fmt.ofCode d.outFmt with
    | some f => f.bits / 8
    | none => 1
  let groups := if d.group = 0 then 0 else d.k / max 1 d.groupSize
  ((List.range d.m).all fun i => (List.range d.k).all fun k => let x := elemSpan d.aFmt (d.aAt i k); ok x.1 x.2 false) &&
  ((List.range d.n).all fun j => (List.range d.k).all fun k => let x := elemSpan d.bFmt (d.bAt k j); ok x.1 x.2 false) &&
  (!d.drain || (List.range d.m).all fun i => ok (d.cAddr + i * d.cStride) (d.n * es) true) &&
  (!d.scaled || (List.range groups).all fun g =>
    ((List.range d.m).all fun i => ok (d.scaleA + 2 * (g * tileRows d.mode + i)) 2 false) &&
    (List.range d.n).all fun j => ok (d.scaleB + 2 * (g * tileCols d.mode + j)) 2 false) &&
  (d.sideA == 0 || (List.range groups).all fun g => (List.range d.m).all fun i => ok (d.sideA + 8 * (g * tileRows d.mode + i)) 8 false) &&
  (d.sideB == 0 || (List.range groups).all fun g => (List.range d.n).all fun j => ok (d.sideB + 8 * (g * tileCols d.mode + j)) 8 false)

/-- Accumulators and marks after a fill, and the escapes past four that it met. -/
def fillResult (s : State) (x : Mxa) (d : FillDesc) : List (Nat × BitVec 48) × List Nat × Nat :=
  let ks := List.range d.k
  let rows := (List.range d.m).map fun i =>
    groupOperands s d d.aFmt d.zpA d.sideA d.scaleA (tileRows d.mode) i (ks.map fun k => d.aAt i k)
  let cols := (List.range d.n).map fun j =>
    groupOperands s d d.bFmt d.zpB d.sideB d.scaleB (tileCols d.mode) j (ks.map fun k => d.bAt k j)
  let cells := (rows.zipIdx).flatMap fun a => (cols.zipIdx).map fun b =>
    let c := a.2 * tileCols d.mode + b.2
    let acc0 := if d.acc then (lookupNat x.acc c).getD 0 else 0
    (c, cellSum d a.1.1 b.1.1 acc0 (d.acc && x.marks.contains c))
  (cells.map fun c => (c.1, c.2.1), (cells.filter fun c => c.2.2).map Prod.fst,
   rows.foldl (fun a r => a + r.2) 0 + cols.foldl (fun a r => a + r.2) 0)

/-- A fill that may start: its sums, and its drain under way (R204). A drain takes the accumulators with it. -/
def issueFill (id n : Nat) (b : Blob) (s : State) : State :=
  match s.run? id with
  | none => s
  | some r =>
    let d := parseFill b
    if !(fillAllowed s r d) then denyRun id s
    else
      let (acc, marks, clipped) := fillResult s (s.mxa n) d
      let drain : Drain := ⟨id, b, if d.drain then acc else [], if d.drain then marks else [], d.float⟩
      useCached r ([d.aAddr, d.bAddr, d.scaleA, d.scaleB, d.sideA, d.sideB].filter (· != 0)) <|
        onDie (engineDie (.mxa n)) (fun x => { x with outlierOverflow := satAdd 32 x.outlierOverflow clipped })
        (onMxa n (fun x => { x with
          acc := if d.drain then [] else acc
          marks := if d.drain then [] else marks
          chain := if d.drain then none else some ⟨d.mode, d.m, d.n, d.float, d.group⟩
          drains := x.drains ++ [drain] }) s)

/-- The code that a drained accumulator is written as (R208). -/
def drainCode (d : FillDesc) (v : BitVec 48) : Nat :=
  match Fmt.ofCode d.outFmt with
  | some f => f.store (if d.float then f32 (v.setWidth 32) else .fin v.toInt 0)
  | none => 0

/-- DRAIN_ADD (R214): INT32 saturating, FX64 modulo 2^64, FP32 rounded once. -/
def addCode (outFmt old new : Nat) : Nat :=
  if outFmt = 4 then Fmt.int32.store (.fin (toSigned 32 old + toSigned 32 new) 0)
  else if outFmt = 5 then (old + new) % 2 ^ 64
  else (fadd (BitVec.ofNat 32 old) (BitVec.ofNat 32 new)).toNat

/-- One logical row of a drain written: codes to consecutive addresses, granules that hold a marked value poisoned (R222). Answers
whether any was. -/
def drainRow (d : FillDesc) (x : Drain) (i : Nat) (s : State) : Bool × State :=
  let size := match Fmt.ofCode d.outFmt with
    | some f => f.bits / 8
    | none => 1
  match memSpan (d.cAddr + i * d.cStride) (d.n * size) with
  | none => (false, s)
  | some (ns, o) =>
    let old := memRead ns o (d.n * size) s
    let codes := (List.range d.n).map fun j =>
      let v := drainCode d ((lookupNat x.vals (i * tileCols d.mode + j)).getD 0)
      if d.drainAdd then addCode d.outFmt (old.le (j * size) size) v else v
    let bad := ((List.range d.n).filter fun j => x.marks.contains (i * tileCols d.mode + j)).flatMap fun j => spanList (j * size) size
    let kept := if d.drainAdd then (s.ram ns).badBytes o (d.n * size) else []
    (!(bad ++ kept).isEmpty, writeMarked ns o (Blob.ofBytes (codes.flatMap (leBytes size))) (bad ++ kept) s)

/-- The drain write of the oldest fill that ends on an array. Answers the run and its POST_SEM. -/
def writeDrain (n : Nat) (s : State) : Option (Nat × Nat × State) :=
  match (s.mxa n).drains with
  | [] => none
  | x :: r =>
    let d := parseFill x.desc
    let s := onMxa n (fun a => { a with drains := r }) s
    let (bad, s) := if d.drain then
        (List.range d.m).foldl (fun (a : Bool × State) i => let (p, s) := drainRow d x i a.2; (a.1 || p, s)) (false, s)
      else (false, s)
    some (x.run, d.postSem, if bad then onRun x.run (fun y => { y with wrotePoison := true }) s else s)

/-! ### Moves (R218, R234) -/

structure MoveDesc where
  src : Nat
  dst : Nat
  waitSem : Nat
  postSem : Nat
  rows : Nat
  elems : Nat
  srcAddr : Nat
  dstAddr : Nat
  srcStride : Nat
  dstStride : Nat
  deriving DecidableEq, Repr

def parseMove (b : Blob) : MoveDesc :=
  ⟨b.le 1 1, b.le 2 1, b.le 4 1, b.le 5 1, b.le 8 4, b.le 0xC 4, b.le 0x10 8, b.le 0x18 8, b.le 0x20 8, b.le 0x28 8⟩

/-- A place in tier 0 of a die. -/
def tier0On (die a : Nat) : Bool :=
  match placeOf a with
  | some (.sram d _) => d == die
  | _ => false

/-- Fields of a move descriptor in range (R218, R234). -/
def moveFieldsOk (die : Nat) (b : Blob) (d : MoveDesc) : Bool :=
  (match Fmt.ofCode d.src, Fmt.ofCode d.dst with
    | some x, some y => !(Fmt.moverExcluded x y) && (!(x == .int4 || y == .int4) || d.elems % 2 == 0)
    | _, _ => false) &&
  decide (b.len = 0x40) && b.le 0 1 == 2 && b.zeroAt 3 1 && b.zeroAt 6 2 && b.zeroAt 0x30 16 &&
  (decide (d.waitSem < 64) || d.waitSem == 255) && (decide (d.postSem < 64) || d.postSem == 255) &&
  decide (1 ≤ d.rows ∧ d.rows ≤ 65536 ∧ 1 ≤ d.elems ∧ d.elems ≤ 1048576) &&
  (placeOf d.srcAddr).isSome && (match placeOf d.dstAddr with
    | some (.flash _ _) => false
    | some _ => true
    | none => false) && (tier0On die d.srcAddr || tier0On die d.dstAddr)

/-- Bytes of a source and of a destination row. -/
def MoveDesc.srcBytes (d : MoveDesc) : Nat := ((Fmt.ofCode d.src).getD .int8).bytes d.elems
def MoveDesc.dstBytes (d : MoveDesc) : Nat := ((Fmt.ofCode d.dst).getD .int8).bytes d.elems

/-- The code of element i of a row. -/
def rowCode (f : Fmt) (row : Blob) (i : Nat) : Nat :=
  if f = .int4 then row.le (i / 2) 1 / 16 ^ (i % 2) % 16 else row.le (i * f.bits / 8) (f.bits / 8)

/-- Codes packed into a row. -/
def packRow (f : Fmt) (codes : List Nat) : Blob :=
  if f = .int4 then
    Blob.ofBytes ((List.range (ceilDiv codes.length 2)).map fun i =>
      BitVec.ofNat 8 (codes.getD (2 * i) 0 % 16 + 16 * (codes.getD (2 * i + 1) 0 % 16)))
  else Blob.ofBytes (codes.flatMap (leBytes (f.bits / 8)))

/-- NaNs among values that become integers, counted in CONVERT_INVALID (R232). -/
def nanToInt (a b : Fmt) (codes : List Nat) : Nat :=
  if b.float.isSome then 0 else (codes.filter fun c => (a.value c).isNan).length

/-- A row converted (R230 to R232), with its poisoned bytes and the NaNs that became zero. -/
def convertRow (d : MoveDesc) (row : Blob) (bad : List Nat) : Blob × List Nat × Nat :=
  let x := (Fmt.ofCode d.src).getD .int8
  let y := (Fmt.ofCode d.dst).getD .int8
  if x = y then (row.fit d.dstBytes, bad, 0)
  else
    let codes := (List.range d.elems).map (rowCode x row)
    let badElems := (List.range d.elems).filter fun i =>
      (spanList (i * x.bits / 8) (max 1 (x.bits / 8))).any fun o => bad.contains o
    (packRow y (codes.map fun c => y.store (x.value c)),
     badElems.flatMap fun i => spanList (i * y.bits / 8) (max 1 (y.bits / 8)), nanToInt x y codes)

def setMover (n : Nat) (m : Option Moving) (s : State) : State :=
  { s with eng := { s.eng with movers := modifyAt s.eng.movers n fun _ => m } }

/-- Source rows taken in and converted. -/
def takeRows (n : Nat) (d : MoveDesc) (rows : List (Blob × List Nat)) (m : Moving) (s : State) : State :=
  let l := rows.map fun x => convertRow d x.1 x.2
  onDie (engineDie (.mover n)) (fun x => { x with convertInvalid := satAdd 32 x.convertInvalid (l.foldl (fun a x => a + x.2.2) 0) })
    (setMover n (some { m with rows := l.map fun x => x.1, poison := l.map fun x => x.2.1, job := none }) s)

/-- The read of a move's source is noted: a first read of a tier 2 source places its cached segment, and a cached segment that is read ages
no more (R118, R121). -/
def noteSource (r : Run) (d : MoveDesc) (s : State) : State :=
  match placeOf d.srcAddr with
  | some (.flash ns o) => cacheSource r (ns, o, (d.rows - 1) * d.srcStride + d.srcBytes) s
  | _ => useCached r ((List.range d.rows).map fun i => d.srcAddr + i * d.srcStride) s

/-- The source of a move is read: from flash through a job, from host memory as free values (the model holds no host memory, log 44). A read
of another die waits for its reply, in a request that its die may lose (R370). -/
def readSource (id n : Nat) (b : Blob) (s : State) : State :=
  let d := parseMove b
  let srcs := (List.range d.rows).map fun i => d.srcAddr + i * d.srcStride
  let m : Moving := ⟨id, b, none, [], [], none⟩
  match placeOf d.srcAddr with
  | some (.flash nsid o) =>
    let slots := (List.range d.rows).flatMap fun i => s.slotsUnder nsid (o + i * d.srcStride) d.srcBytes
    let (j, s) := openJob (.move n) slots.eraseDups s
    setMover n (some { m with job := some j }) s
  | some (.host _ _) =>
    let rows := (List.range d.rows).foldl (fun (a : List (Blob × List Nat) × State) _ =>
      let (f, s) := freeBytes d.srcBytes a.2; (a.1 ++ [(f, [])], s)) ([], s)
    takeRows n d rows.1 m rows.2
  | some (.sram die _) =>
    let rows := srcs.map fun a => match memSpan a d.srcBytes with
      | some (ns, o) => (memRead ns o d.srcBytes s, (s.ram ns).badBytes o d.srcBytes)
      | none => (Blob.zero d.srcBytes, [])
    if die = engineDie (.mover n) then takeRows n d rows m s
    else
      let q := s.dies.nextReq
      takeRows n d rows { m with req := some q } { s with dies := { s.dies with
        nextReq := q + 1
        reqs := s.dies.reqs ++ [⟨q, engineDie (.mover n), die, (s.die die).gen, s.pos, id⟩] } }
  | _ =>
    takeRows n d (srcs.map fun a => match memSpan a d.srcBytes with
      | some (ns, o) => (memRead ns o d.srcBytes s, (s.ram ns).badBytes o d.srcBytes)
      | none => (Blob.zero d.srcBytes, [])) m s

/-- A move that may start: both its ends are allowed (R111). -/
def issueMove (id n : Nat) (b : Blob) (s : State) : State :=
  match s.run? id with
  | none => s
  | some r =>
    let d := parseMove b
    if !((List.range d.rows).all fun i => s.accessOk r (d.srcAddr + i * d.srcStride) d.srcBytes false) then denyRun id s
    else
      let s := noteSource r d s
      if !((List.range d.rows).all fun i => s.accessOk r (d.dstAddr + i * d.dstStride) d.dstBytes true) then denyRun id s
      else readSource id n b s

/-- A tier 2 source whose units have come: the rows are cut out of them. A unit that cannot be delivered whole fails the read, and the
run ends with Unrecovered Read Error (R125). -/
def moveUnits (n : Nat) (j : Job) (s : State) : State :=
  let s := closeJob j.jid s
  match s.eng.movers.getD n none with
  | none => s
  | some m =>
    let d := parseMove m.desc
    match placeOf d.srcAddr with
    | some (.flash nsid o) =>
      if j.got.any fun u => u.lost || u.poison.length == 1024 then
        endRun m.run stUnrecovered (onMem (fun x => { x with stats := { x.stats with failT2 := bump32 x.stats.failT2 } }) s)
      else
        let s := countDelivered j.poisoned s
        let rows := (List.range d.rows).map fun i =>
          let a := o + i * d.srcStride
          let parts := (s.slotsUnder nsid a d.srcBytes).map fun l => (j.unit l).data.fit unitBytes
          let all := Blob.concat parts
          let first := a % unitBytes
          let bad := (s.slotsUnder nsid a d.srcBytes).zipIdx.flatMap fun x =>
            (j.unit x.1).poison.flatMap fun g => spanList (x.2 * unitBytes + g * 64) 64
          (all.slice first d.srcBytes, (bad.filter fun b => decide (first ≤ b ∧ b < first + d.srcBytes)).map fun b => b - first)
        takeRows n d rows m s
    | _ => s

/-- The rows of a move written (R218, R362): to tier 0 and 1 with their marks, to host memory but for poisoned granules. -/
def writeMove (m : Moving) (s : State) : State :=
  let d := parseMove m.desc
  let s := if m.poison.all List.isEmpty then s else onRun m.run (fun r => { r with wrotePoison := true }) s
  (List.zip (List.zip m.rows m.poison) (List.range d.rows)).foldl (fun s x =>
    let a := d.dstAddr + x.2 * d.dstStride
    match placeOf a with
    | some (.host w o) =>
      match (s.run? m.run).bind fun r => r.windows[w]? with
      | some win =>
        if x.1.2.isEmpty then { s with eng := { s.eng with hostWrites := s.eng.hostWrites ++ [(win.base + o, x.1.1)] } }
        else
          let gs := (x.1.2.map fun b => (o + b) / 64).eraseDups
          let parts := (granules o x.1.1.len).filter fun g => !(gs.contains g)
          { s with eng := { s.eng with hostWrites := s.eng.hostWrites ++ parts.map fun g =>
            let lo := max (g * 64) o
            let hi := min (g * 64 + 64) (o + x.1.1.len)
            (win.base + lo, x.1.1.slice (lo - o) (hi - lo)) } }
      | none => s
    | _ => match memSpan a x.1.1.len with
      | some (ns, o) => writeMarked ns o x.1.1 x.1.2 s
      | none => s) s

end Sys2Proof.Machine
end

