-- ==== Sys2Proof/Machine/Vector.lean ====
section
/-! DEFINITION. The vector units (R219, R220, R222, R228 to R234): lanes, the operations on them, loads and stores, reductions, table
lookups and scatter-adds. -/

namespace Sys2Proof.Machine

def State.vu (s : State) (n : Nat) : Vu := s.eng.vu.getD n ⟨[], [], ⟨[], []⟩⟩

def onVu (n : Nat) (f : Vu → Vu) (s : State) : State := { s with eng := { s.eng with vu := modifyAt s.eng.vu n f } }

/-- A lane of a register, and whether it is poisoned. -/
def Vu.lane (v : Vu) (reg i : Nat) : BitVec 32 := (lookupNat v.regs (64 * reg + i)).getD 0
def Vu.bad (v : Vu) (reg i : Nat) : Bool := v.poison.contains (64 * reg + i)

/-- Lanes of a register written, each with its poison. -/
def Vu.put (v : Vu) (reg : Nat) (l : List (Nat × BitVec 32 × Bool)) : Vu :=
  l.foldl (fun (v : Vu) (x : Nat × BitVec 32 × Bool) =>
    let k := 64 * reg + x.1
    { v with
      regs := if x.2.1 = 0#32 then dropKey k v.regs else setKey k x.2.1 v.regs
      poison := if x.2.2 then insertSet k v.poison else v.poison.filter (· != k) }) v

/-- An operation of a run on a vector unit: it takes the unit where that is idle, does its work and counts as ended. -/
def vuOp (run vu : Nat) (f : State → State) (s : State) : State :=
  if s.mayIssue run (.vu vu) then opDone run (f (claim (.vu vu) run s)) else s

/-- All 64 lanes of a register from those of up to three others. -/
def vuLanes (vu dst : Nat) (srcs : List Nat) (f : List (BitVec 32) → BitVec 32) (s : State) : State :=
  let v := s.vu vu
  onVu vu (fun v' => v'.put dst ((List.range 64).map fun i =>
    (i, f (srcs.map fun r => v.lane r i), srcs.any fun r => v.bad r i))) s

/-! ### Lane results (R219, R230) -/

/-- An INT32 result; outside the format it is open (log 7). -/
def int32Or (k : Nat) (x y : BitVec 32) (v : Int) : BitVec 32 :=
  if -2147483648 ≤ v ∧ v ≤ 2147483647 then BitVec.ofInt 32 v else Config.laneOpen k x y

def laneBool (b : Bool) : BitVec 32 := if b then Config.compareTrue else Config.compareFalse

/-- The lesser or the greater of two lanes: of equal ones the first; of a NaN, open. -/
def laneExt (ty : LaneType) (k : Nat) (max : Bool) (x y : BitVec 32) : BitVec 32 :=
  match ty with
  | .int32 => if (if max then BitVec.slt x y else BitVec.slt y x) then y else x
  | .fp32 =>
    if (f32 x).isNan || (f32 y).isNan then Config.laneOpen k x y
    else if (if max then flt x y else flt y x) then toF32 (f32 y) else toF32 (f32 x)

def laneAdd (ty : LaneType) (x y : BitVec 32) : BitVec 32 :=
  match ty with
  | .fp32 => fadd x y
  | .int32 => int32Or 0 x y (x.toInt + y.toInt)

def laneArith (op : VuArith) (ty : LaneType) (x y z : BitVec 32) : BitVec 32 :=
  match op, ty with
  | .add, _ => laneAdd ty x y
  | .sub, .fp32 => fsub x y
  | .sub, .int32 => int32Or 1 x y (x.toInt - y.toInt)
  | .mul, .fp32 => fmul x y
  | .mul, .int32 => int32Or 2 x y (x.toInt * y.toInt)
  | .min, _ => laneExt ty 3 false x y
  | .max, _ => laneExt ty 4 true x y
  | .cmpEq, .fp32 => laneBool (feq x y)
  | .cmpEq, .int32 => laneBool (x == y)
  | .cmpLt, .fp32 => laneBool (flt x y)
  | .cmpLt, .int32 => laneBool (BitVec.slt x y)
  | .cmpLe, .fp32 => laneBool (fle x y)
  | .cmpLe, .int32 => laneBool (BitVec.sle x y)
  | .select, _ => if Config.selects z then x else y
  | .abs, .fp32 => toF32 (match f32 x with
    | .fin m e => .fin m.natAbs e
    | .inf _ => .inf false
    | .nan => .nan)
  | .abs, .int32 => int32Or 9 x 0 (x.toInt.natAbs)

/-- Register operands that an operation reads. -/
def arithSources (op : VuArith) (a b c : Nat) : List Nat :=
  match op with
  | .select => [a, b, c]
  | .abs => [a]
  | _ => [a, b]

/-- VU_ARITHMETIC. Of a select, register c holds the condition. -/
def execVuArithmetic (run vu : Nat) (op : VuArith) (ty : LaneType) (dst a b c : Nat) (s : State) : Res :=
  .next (vuOp run vu (vuLanes vu dst (arithSources op a b c) fun l => laneArith op ty (l.getD 0 0) (l.getD 1 0) (l.getD 2 0)) s)

/-- VU_FUSED_MULTIPLY_ADD: a × b + c with one rounding. -/
def execVuFusedMultiplyAdd (run vu dst a b c : Nat) (s : State) : Res :=
  .next (vuOp run vu (vuLanes vu dst [a, b, c] fun l => ffma (l.getD 0 0) (l.getD 1 0) (l.getD 2 0)) s)

/-- A shift by 32 or more is open (log 7). -/
def laneLogic (op : VuLogic) (x y : BitVec 32) : BitVec 32 :=
  match op with
  | .and => x &&& y
  | .or => x ||| y
  | .xor => x ^^^ y
  | .shl => if y.toNat < 32 then x <<< y.toNat else Config.laneOpen 10 x y
  | .shr => if y.toNat < 32 then x >>> y.toNat else Config.laneOpen 11 x y
  | .sar => if y.toNat < 32 then x.sshiftRight y.toNat else Config.laneOpen 12 x y

/-- VU_INTEGER_LOGIC. -/
def execVuIntegerLogic (run vu : Nat) (op : VuLogic) (dst a b : Nat) (s : State) : Res :=
  .next (vuOp run vu (vuLanes vu dst [a, b] fun l => laneLogic op (l.getD 0 0) (l.getD 1 0)) s)

/-- Correctly rounded results; a quotient by zero, of two infinities, or a root of a negative number has no stated result. -/
def laneDiv (op : VuDiv) (x y : BitVec 32) : BitVec 32 :=
  match op with
  | .div => if (f32 y).isZero || (!(f32 x).isFinite && !(f32 y).isFinite && !(f32 x).isNan && !(f32 y).isNan) then
      Config.laneOpen 13 x y else fdiv x y
  | .sqrt => if (f32 x).lt (.fin 0 0) then Config.laneOpen 14 x 0 else fsqrt x
  | .recip => if (f32 x).isZero then Config.laneOpen 15 x 0 else fdiv fOne x
  | .rsqrt => if (f32 x).isZero || (f32 x).lt (.fin 0 0) then Config.laneOpen 16 x 0 else frsqrt x

/-- VU_DIVIDE_SQRT. -/
def execVuDivideSqrt (run vu : Nat) (op : VuDiv) (dst a b : Nat) (s : State) : Res :=
  .next (vuOp run vu (vuLanes vu dst (if op = .div then [a, b] else [a]) fun l => laneDiv op (l.getD 0 0) (l.getD 1 0)) s)

/-- VU_TRANSCENDENTAL. -/
def execVuTranscendental (run vu : Nat) (op : VuTrans) (dst a : Nat) (s : State) : Res :=
  .next (vuOp run vu (vuLanes vu dst [a] fun l => transF32 op (l.getD 0 0)) s)

/-! ### Loads and stores (R227, R233, R234) -/

/-- Bytes that `n` elements take. -/
def fmtBytes (fmt n : Nat) : Nat := ((Fmt.ofCode fmt).getD .int8).bytes n

/-- The number that a lane holds. -/
def laneNum (ty : LaneType) (x : BitVec 32) : Num :=
  match ty with
  | .fp32 => f32 x
  | .int32 => .fin x.toInt 0

/-- A stored element as a lane: integer formats as INT32, floating formats as FP32; FX64 as either, in FP32 lanes scaled by 2^-E. -/
def loadLane (f : Fmt) (ty : LaneType) (e : Int) (code : Nat) : BitVec 32 :=
  if f = .fx64 then
    (match ty with
      | .int32 => BitVec.ofNat 32 (Fmt.int32.store (f.value code))
      | .fp32 => toF32 (.fin (toSigned 64 code) (-e)))
  else if f.float.isSome then toF32 (f.value code)
  else BitVec.ofNat 32 (Fmt.int32.store (f.value code))

/-- A lane as a stored element; FP32 lanes go to FX64 scaled by 2^E. -/
def storeLane (f : Fmt) (ty : LaneType) (e : Int) (x : BitVec 32) : Nat :=
  let v := laneNum ty x
  if f = .fx64 ∧ ty = .fp32 then f.store (match v with
    | .fin m k => .fin m (k + e)
    | w => w)
  else f.store v

/-- Bytes of element i of a row, by offset. -/
def elemBytes (f : Fmt) (i : Nat) : List Nat := spanList (i * f.bits / 8) (max 1 (f.bits / 8))

/-- A load or a store: tier 0 of the unit's own die, under R111. -/
def vuTransfer (run vu : Nat) (store : Bool) (ty : LaneType) (fmt reg addr : Nat) (scale : Option Nat) (lanes : Nat) (s : State) :
    State :=
  let n := min lanes 64
  let len := fmtBytes fmt n
  match s.run? run, Fmt.ofCode fmt, memSpan addr len with
  | some r, some f, some (ns, o) =>
    if !(s.accessOk r addr len store && onDie0 (engineDie (.vu vu)) addr false) then denyRun run s
    else
      let v := s.vu vu
      let e := fun (i : Nat) => scale.elim (0 : Int) fun q => (v.lane q i).toInt
      let eBad := fun (i : Nat) => f == .fx64 && ty == .fp32 && scale.any fun q => v.bad q i
      if store then
        let codes := (List.range n).map fun i => storeLane f ty (e i) (v.lane reg i)
        let row := packRow f codes
        -- Of an odd count of INT4 elements, bits 7:4 of the last byte stand (R227).
        let row := if f = .int4 ∧ n % 2 = 1 then
            row.overlaid (len - 1) (fld 1 (row.le (len - 1) 1 % 16 + (memRead ns (o + len - 1) 1 s).le 0 1 / 16 * 16)) else row
        let bad := ((List.range n).filter fun i => v.bad reg i || eBad i).flatMap (elemBytes f)
        let nans := if f.float.isSome then 0 else ((List.range n).filter fun i => (laneNum ty (v.lane reg i)).isNan).length
        let s := if bad.isEmpty then s else onRun run (fun r => { r with wrotePoison := true }) s
        opDone run (onDie (engineDie (.vu vu)) (fun x => { x with convertInvalid := satAdd 32 x.convertInvalid nans })
          (writeMarked ns o row bad s))
      else
        let row := memRead ns o len s
        let bad := (s.ram ns).badBytes o len
        opDone run (onVu vu (fun v' => v'.put reg ((List.range n).map fun i =>
          (i, loadLane f ty (e i) (rowCode f row i), eBad i || (elemBytes f i).any fun b => bad.contains b))) (useCached r [addr] s))
  | some _, some _, none => denyRun run s
  | _, _, _ => s

/-- VU_FORMAT_CONVERSION. A format code above 10 names no format, and the load of its lesson would have been refused (R229). -/
def execVuFormatConversion (run vu : Nat) (store : Bool) (ty : LaneType) (fmt reg : Nat) (addr : BitVec 64) (scale : Option Nat)
    (lanes : Nat) (s : State) : Res :=
  .next (if s.mayIssue run (.vu vu) then vuTransfer run vu store ty fmt reg addr.toNat scale lanes (claim (.vu vu) run s) else s)

/-! ### Reductions (R220) -/

/-- What a reduction carries: a value and the element it came from. -/
structure Best where
  val : BitVec 32
  idx : BitVec 32
  deriving DecidableEq, Repr

/-- Two partial results combined. Ties of an arg-extreme go to the lower element. -/
def reduce2 (op : VuReduce) (ty : LaneType) (x y : Best) : Best :=
  let arg := fun (max : Bool) (k : Nat) =>
    let open' := ty == .fp32 && ((f32 x.val).isNan || (f32 y.val).isNan)
    let lt := fun (a b : BitVec 32) => if ty = .fp32 then flt a b else BitVec.slt a b
    if open' then (⟨toF32 .nan, Config.laneOpen k x.idx y.idx⟩ : Best)
    else if (if max then lt x.val y.val else lt y.val x.val) then y
    else if (if max then lt y.val x.val else lt x.val y.val) then x
    else if y.idx.toNat < x.idx.toNat then y else x
  match op with
  | .sum => ⟨laneAdd ty x.val y.val, 0⟩
  | .max => ⟨laneExt ty 4 true x.val y.val, 0⟩
  | .min => ⟨laneExt ty 3 false x.val y.val, 0⟩
  | .argMin => arg false 17
  | .argMax => arg true 18

/-- The two stages of R220 over the elements in order: lanes that have no element take no part. -/
def reduceAll (op : VuReduce) (ty : LaneType) (l : List (BitVec 32)) : Best :=
  let els := (l.zipIdx).map fun x => (some ⟨x.1, BitVec.ofNat 32 x.2⟩ : Option Best)
  let f := fun (a b : Option Best) => match a, b with
    | some x, some y => some (reduce2 op ty x y)
    | some x, none => some x
    | none, y => y
  (pairTree f none 7 (laneFold f none 64 els)).getD ⟨0, 0⟩

/-- The lane that a reduction writes: its value, or the element number of an arg-extreme. -/
def reduceOut (op : VuReduce) (b : Best) : BitVec 32 :=
  match op with
  | .argMin | .argMax => b.idx
  | _ => b.val

/-- VU_REDUCTION, over `count` registers from `first`; the result goes to lane 0 of the destination (log 16), poisoned whole. -/
def execVuReduction (run vu : Nat) (op : VuReduce) (ty : LaneType) (dst first count : Nat) (s : State) : Res :=
  .next (vuOp run vu (fun s =>
    let v := s.vu vu
    let regs := (spanList first count).filter (· < 32)
    let els := regs.flatMap fun r => (List.range 64).map fun i => (v.lane r i, v.bad r i)
    onVu vu (fun v' => v'.put dst [(0, reduceOut op (reduceAll op ty (els.map Prod.fst)), els.any Prod.snd)]) s) s)

/-! ### Tables and scatter (R219) -/

/-- A byte of the gather buffer: Ittor's vector-unit code has placed it (log 3). -/
def gatherAt (v : Vu) (run vu o : Nat) : Byte :=
  match lookupNat v.gather.cells o with
  | some b => b
  | none => Config.gatherByte run vu o

/-- VU_TABLE_LOOKUP: an 8-bit or a 16-bit index of each lane into a table of entries of `width` bytes. -/
def execVuTableLookup (run vu dst idx : Nat) (wide : Bool) (width base : Nat) (s : State) : Res :=
  .next (vuOp run vu (fun s =>
    let v := s.vu vu
    onVu vu (fun v' => v'.put dst ((List.range 64).map fun i =>
      let o := (base + (v.lane idx i).toNat % (if wide then 65536 else 256) * width) % 65536
      (i, BitVec.ofNat 32 (leNat ((spanList o (min width 4)).map fun a => gatherAt v run vu (a % 65536))),
       v.bad idx i || v.gather.poisoned o width))) s) s)

/-- The address of a lane of a scatter-add. -/
def scatterAddr (base : Nat) (idx : BitVec 32) : Nat := ((base : Int) + 4 * idx.toInt).toNat

/-- Lanes added one after another, in lane order. -/
def scatterLanes (v : Vu) (ty : LaneType) (val idx base : Nat) : List Nat → State → Bool × State
  | [], s => (false, s)
  | i :: r, s =>
    match memSpan (scatterAddr base (v.lane idx i)) 4 with
    | none => scatterLanes v ty val idx base r s
    | some (ns, o) =>
      let old := BitVec.ofNat 32 ((memRead ns o 4 s).le 0 4)
      let bad := v.bad val i || v.bad idx i
      let held := !((s.ram ns).badBytes o 4).isEmpty
      let s := writeMarked ns o (fld 4 (laneAdd ty old (v.lane val i)).toNat) (if bad || held then [0, 3] else []) s
      let (b, s) := scatterLanes v ty val idx base r s
      (b || bad || held, s)

/-- VU_SCATTER_ADD: lane i adds to the 4 bytes at base + 4 × index. -/
def execVuScatterAdd (run vu : Nat) (ty : LaneType) (val idx : Nat) (base : BitVec 64) (lanes : Nat) (s : State) : Res :=
  .next (if s.mayIssue run (.vu vu) then
      let s := claim (.vu vu) run s
      let v := s.vu vu
      let l := List.range (min lanes 64)
      match s.run? run with
      | none => s
      | some r =>
        if l.all fun i => let a := scatterAddr base.toNat (v.lane idx i)
            s.accessOk r a 4 true && onDie0 (engineDie (.vu vu)) a false then
          let (bad, s) := scatterLanes v ty val idx base.toNat l s
          opDone run (if bad then onRun run (fun r => { r with wrotePoison := true }) s else s)
        else denyRun run s
    else s)

end Sys2Proof.Machine
end

