-- ==== Sys2Proof/Machine/Lessons.lean ====
section
/-! DEFINITION. Lessons and their runs (R93, R116, R118, R122, R125, R243 to R255): Load Program, activation, Execute Program of a
lesson, fills, moves, semaphores, safe points, slices and send blocks. -/

namespace Sys2Proof.Machine

/-! ### The lesson image (R243) -/

/-- The slot that a program index names in a classroom (R93). -/
def slotIndex (r : Room) (pind : Nat) : Option Nat :=
  if 0x40 ≤ pind ∧ pind < 0x40 + r.slots then some (pind - 0x40) else none

/-- FP32 values that must be finite. -/
def finiteAt (b : Blob) (o : Nat) : Bool := (f32 (BitVec.ofNat 32 (b.le o 4))).isFinite

/-- A segment entry in range. -/
def segEntryOk (b : Blob) (o : Nat) : Bool :=
  decide (b.le o 1 ≤ 2) && b.zeroAt (o + 3) 5 && b.le (o + 8) 8 % 64 == 0 &&
  (match b.le (o + 1) 1 with
    | 0 => [0, 3, 4, 255].contains (b.le (o + 2) 1)
    | 1 => b.le (o + 2) 1 == 0
    | _ => false)

/-- A shared-semaphore declaration in range. -/
def semEntryOk (b : Blob) (o : Nat) : Bool := decide (32 ≤ b.le o 1 ∧ b.le o 1 ≤ 63) && b.zeroAt (o + 1) 1

/-- The declared input in range. -/
def inputOk (b : Blob) : Bool :=
  let kind := b.le 0x40 1
  let a := b.le 0x44 4
  decide (kind ≤ 2) && decide (b.le 0x41 1 ≤ 10) && decide (b.le 0x42 1 ≤ 1) && b.zeroAt 0x43 1 &&
  (if kind = 1 then
      decide (1 ≤ a % 65536 ∧ a % 65536 ≤ 4096 ∧ 1 ≤ a / 65536 ∧ a / 65536 ≤ 4096) && b.zeroAt 0x48 4
    else if kind = 2 then
      b.le 0x42 1 == 0 && decide (1 ≤ a ∧ a ≤ 1048576 ∧ 8000 ≤ b.le 0x48 4 ∧ b.le 0x48 4 ≤ 192000)
    else true)

/-- Check 1 of R244. -/
def lessonHeaderOk (b : Blob) : Bool :=
  let segs := b.le 0x14 1
  let sems := b.le 0x15 1
  let dim := b.le 0x64 2
  decide (0x80 + 0xB0 ≤ b.len ∧ b.len ≤ 16777216) && decide (b.take 0 4 = [0x56#8, 0x51#8, 0x4C#8, 0x49#8]) && b.le 4 2 == 1 &&
  b.le 6 2 == 0x80 && b.le 8 4 == b.len &&
  decide (b.le 0xC 1 ≤ 7 ∧ b.le 0xD 1 ≤ 8 ∧ b.le 0xE 1 ≤ 8 ∧ b.le 0xF 1 ≤ 4 ∧ 1 ≤ b.le 0x10 4 ∧ b.le 0x10 4 ≤ 65536) &&
  decide (segs ≤ 64 ∧ sems ≤ 32 ∧ b.le 0x16 2 < 8 ∧ 0x80 + 16 * segs + 4 * sems + 0xB0 ≤ b.len) && inputOk b &&
  ([0x4C, 0x50, 0x54, 0x58, 0x5C, 0x60].all fun o => finiteAt b o) &&
  (if dim = 0 then b.le 0x66 1 == 0 else decide (32 ≤ dim ∧ dim ≤ 2048) && [8, 9, 10].contains (b.le 0x66 1)) &&
  b.zeroAt 0x67 25 && ((List.range segs).all fun i => segEntryOk b (0x80 + 16 * i)) &&
  (List.range sems).all fun i => semEntryOk b (0x80 + 16 * segs + 4 * i)

/-- Check 2 of R244: the trailer under R48 and R49. -/
def lessonTrailerOk (owner : BitVec 256) (b : Blob) : Bool :=
  let t := b.slice (b.len - 0xB0) 0xB0
  (firstBad (trailerChecks t [0x56#8, 0x51#8, 0x4C#8, 0x54#8])).isNone && trailerKeyOk owner t &&
    trailerSigned (b.fit (b.len - 0xB0)) t

/-- A lesson as its image gives it. -/
def parseLesson (room slot : Nat) (b : Blob) : Lesson where
  room := room
  slot := slot
  image := b
  digest := BitVec.ofNat 256 (b.be (b.len - 0xB0 + 8) 32)
  active := false
  quarantined := false
  pri := b.le 0xC 1
  arrays := b.le 0xD 1
  vus := b.le 0xE 1
  movers := b.le 0xF 1
  flags := b.le 0x16 2
  localInit := (List.range 32).map fun i => b.le (0x20 + i) 1
  inKind := b.le 0x40 1
  inFmt := b.le 0x41 1
  inLayout := b.le 0x42 1
  inA := b.le 0x44 4
  inB := b.le 0x48 4
  mean := [0x4C, 0x50, 0x54].map fun o => BitVec.ofNat 32 (b.le o 4)
  invStd := [0x58, 0x5C, 0x60].map fun o => BitVec.ofNat 32 (b.le o 4)
  outDim := b.le 0x64 2
  outFmt := b.le 0x66 1
  segs := (List.range (b.le 0x14 1)).map fun i =>
    let o := 0x80 + 16 * i
    ⟨if b.le o 1 = 0 then .pinned else if b.le o 1 = 1 then .working else .cached, b.le (o + 1) 1, b.le (o + 2) 1, b.le (o + 8) 8⟩
  sems := (List.range (b.le 0x15 1)).map fun i =>
    let o := 0x80 + 16 * b.le 0x14 1 + 4 * i
    (b.le o 1, b.le (o + 2) 2)

def Lesson.sends (l : Lesson) : Bool := l.flags.testBit 0
def Lesson.span (l : Lesson) : Bool := l.flags.testBit 1
def Lesson.train (l : Lesson) : Bool := l.flags.testBit 2

/-- Fill and move descriptors of an image, by the array or mover they are for. -/
def fillsOf (ds : List (Nat × Blob)) : List (Nat × Blob) := ds.filter fun d => d.2.le 0 1 == 1
def movesOf (ds : List (Nat × Blob)) : List (Nat × Blob) := ds.filter fun d => d.2.le 0 1 == 2

/-- Check 3 of R244: the grants of the classroom. -/
def lessonGranted (s : State) (r : Room) (l : Lesson) : Bool :=
  (fillsOf (Config.lessonDescs l.image)).all (fun d =>
    (parseFill d.2).granted (s.img.active.shapes.getD r.room Shape.default)) &&
  placeable r l && (!l.sends || r.plain) && (!l.train || r.train)

/-- Check 4 of R244: every descriptor, for the array die that it may run on, and MAX_UNSAFE. -/
def lessonDescsOk (l : Lesson) : Bool :=
  let ds := Config.lessonDescs l.image
  let onEither := fun (f : Nat → Bool) => f 3 || f 4
  ds.all (fun d => d.2.le 0 1 == 1 || d.2.le 0 1 == 2) &&
  (fillsOf ds).all (fun d => onEither fun die => fillFieldsOk die d.2 (parseFill d.2)) &&
  (movesOf ds).all (fun d => onEither fun die => moveFieldsOk die d.2 (parseMove d.2)) &&
  ((List.range 8).all fun n => chainOk none (((fillsOf ds).filter fun d => d.1 == n).map fun d => parseFill d.2)) &&
  decide (Config.lessonSpan l.image ≤ l.image.le 0x10 4)

/-- Check 5 of R244, R252: no other loaded lesson of the classroom declares a semaphore with another INIT. -/
def semsAgree (s : State) (l : Lesson) : Bool :=
  (s.sched.lessons.filter fun x => x.room == l.room && x.slot != l.slot).all fun x =>
    x.sems.all fun d => l.sems.all fun e => d.1 != e.1 || d.2 == e.2

/-! ### Loading and unloading (R118, R122, R244, R252) -/

/-- Runs of a lesson that are in progress. -/
def State.runsOf (s : State) (room slot : Nat) : List Run := s.sched.runs.filter fun r => r.room == room && r.slot == slot

/-- A lesson unloaded: its pinned segments are freed, and semaphores that no loaded lesson declares any more return to 0. -/
def unloadLesson (l : Lesson) (s : State) : State :=
  let s := freeSegs (.lesson l.room l.slot) (onSched (fun c => { c with lessons := c.lessons.filter fun x =>
    !(x.room == l.room && x.slot == l.slot) }) s)
  let kept := fun (sem : Nat) => s.sched.lessons.any fun x => x.room == l.room && x.sems.any fun d => d.1 == sem
  onSched (fun c => { c with shared := c.shared.filter fun x => x.1.1 != l.room || kept x.1.2 || !(l.sems.any fun d => d.1 == x.1.2) }) s

/-- Shared semaphores that no loaded lesson of the classroom declares yet take the INIT of this one. -/
def declareSems (l : Lesson) (s : State) : State :=
  onSched (fun (c : SchedSt) =>
    let fresh := l.sems.filter fun d => !(c.lessons.any fun x => x.room == l.room && x.sems.any fun e => e.1 == d.1)
    let c : SchedSt := { c with shared := (c.shared.filter fun (x : (Nat × Nat) × Nat) => !(x.1.1 == l.room && fresh.any fun d => d.1 == x.1.2)) ++
      (fresh.filter fun d => d.2 != 0).map fun d => ((l.room, d.1), d.2) }
    { c with lessons := c.lessons ++ [l] }) s

/-- Segment entries with the chosen array die in place of FFh (R245). -/
def onDies (die : Nat) (l : List SegDecl) : List SegDecl := l.map fun d => if d.tier = 0 ∧ d.die = 255 then { d with die := die } else d

/-- Bytes that a list of segment entries takes of a tier. -/
def segBytes (tier : Nat) (l : List SegDecl) : Nat := (l.filter fun d => d.tier == tier).foldl (fun a d => a + d.size) 0

/-- The segment entry of a lesson that a pinned segment was placed for: its segments stand in the order of their entries. -/
def pinnedEntry (l : Lesson) (g : Segment) (s : State) : Nat :=
  ((l.segs.zipIdx.filter fun y => y.1.kind == .pinned).map Prod.snd).getD ((s.mem.segs.filter fun x => x.owner == g.owner).idxOf g) 0

/-- A pinned segment is loaded with its bytes of the lesson image (R126). -/
def loadSeg (l : Lesson) (g : Segment) (s : State) : State :=
  memWrite (73 + g.tier) g.start ((Config.lessonPinned l.image (pinnedEntry l g s)).fit g.size) s

/-- Pinned segments loaded. -/
def fillPinned (l : Lesson) (gs : List Segment) (s : State) : State := gs.foldl (fun s g => loadSeg l g s) s

/-- Check 6 of R244: sizes, quota, PIN_LIMIT, then a place for every pinned segment, loaded with its bytes of the image. -/
def placePinned (r : Room) (l : Lesson) (s : State) : Option State :=
  let pinned := onDies (s.loadDie r l) (l.segs.filter fun d => d.kind == .pinned)
  if l.segs.any fun d => decide ((if d.tier = 0 then (if d.die = 255 then 0x3C00000 else dieShare d.die) else len74) < d.size) then none
  else if s.quotaMode && [0, 1].any fun t => decide (s.quotaBytes r.room t < segBytes t l.segs) then none
  else if s.img.active.pinLimit * 1048576 < s.pinnedDram + segBytes 1 pinned then none
  else (placeAll r.room (.lesson l.room l.slot) pinned s).map fun x => fillPinned l x.1 x.2

/-- The checks of R244 in order, and the load. -/
def loadLesson (h : Hdr) (r : Room) (slot : Nat) (image : Blob) (s : State) : State :=
  if !(lessonHeaderOk image) || !(lessonTrailerOk s.sec.ownerHash image) then finish h stInvalidField s
  else
    let l := parseLesson r.room slot image
    if !(lessonGranted s r l) then finish h stNotGranted s
    else if !(lessonDescsOk l) || !(semsAgree s l) then finish h stInvalidField s
    else
      let t := match s.lesson? r.room slot with
        | some old => unloadLesson old s
        | none => s
      match placePinned r l t with
      | none => finish h stNsCapacity s
      | some t => finish h stOk (declareSems l t)

/-- Load Program. An image of no bytes unloads the slot, as the Computational Programs Command Set has it (log 18). -/
def loadProgramCore (h : Hdr) (pind : Nat) (image : Blob) (r : Room) (s : State) : State :=
  match slotIndex r pind with
  | none => finish h stInvalidField s
  | some slot =>
    if !(s.runsOf r.room slot).isEmpty then finish h stSequence s
    else if image.len = 0 then
      match s.lesson? r.room slot with
      | some l => finish h stOk (unloadLesson l s)
      | none => finish h stInvalidField s
    else loadLesson h r slot image s

/-- LOAD_PROGRAM. -/
def execLoadProgram (h : Hdr) (room pind : Nat) (image : Blob) (s : State) : Res :=
  .next (admitRoom h (.loadProgram h room pind image) room (fun r s => loadProgramCore h pind image r s) s)

/-- Program Activation Management: a deactivation stops new runs and leaves those in progress alone (log 18). -/
def activationCore (h : Hdr) (pind : Nat) (activate : Bool) (r : Room) (s : State) : State :=
  match slotIndex r pind with
  | none => finish h stInvalidField s
  | some slot =>
    if (s.lesson? r.room slot).isNone then finish h stInvalidField s
    else finish h stOk (onSched (fun c => { c with lessons := c.lessons.map fun l =>
      if l.room = r.room ∧ l.slot = slot then { l with active := activate } else l }) s)

/-- PROGRAM_ACTIVATION_MANAGEMENT. -/
def execProgramActivationManagement (h : Hdr) (room pind : Nat) (activate : Bool) (s : State) : Res :=
  .next (admitRoom h (.programActivationManagement h room pind activate) room (fun r s => activationCore h pind activate r s) s)

/-! ### Execute Program of a lesson (R116, R118, R122, R245, R246) -/

/-- Most windows that one run may name (R123). -/
def State.windowLimit (s : State) (room : Nat) : Nat := if s.quotaMode then (s.quota room).windows else 4096

/-- Array dies that work again: power gating ends when work comes (R43). -/
def wakeDies (es : List Engine) (s : State) : State :=
  let ds := es.map engineDie
  { s with eng := { s.eng with
      gated := s.eng.gated.filter fun d => !(ds.contains d)
      idleBells := (List.range 2).map fun i => if ds.contains (3 + i) then 0 else s.eng.idleBells.getD i 0 } }

/-- A run placed: its engines, its working segments and its semaphores; none while it cannot be. -/
def startRun (h : Hdr) (r : Room) (l : Lesson) (w : List Window) (train : Bool) (s : State) : Option (Nat × State) :=
  match s.mapRun r l with
  | none => none
  | some (die, es) =>
    let id := s.sched.nextRun
    match placeAll r.room (.run id) (onDies die (l.segs.filter fun d => d.kind == .working)) s with
    | none => none
    | some (_, s) =>
      let run : Run := ⟨id, h, r.room, l.slot, l.pri, s.pos, die, es, l.localInit, [], none, [], w, 0, [], false, [], train, false⟩
      let s := onSched (fun c => { c with
        runs := c.runs ++ [run]
        nextRun := id + 1
        runsStarted := bump64 c.runsStarted }) s
      let s := onRoomStats r.room (fun x => { x with runs := bump64 x.runs }) s
      some (id, wakeDies es (es.foldl (fun s e => makeReady id e s) s))

/-- Most windows that one run of a classroom has named (R127). -/
def countWindows (room n : Nat) (s : State) : State :=
  onMem (fun m => { m with stats := { m.stats with windowsMax := modifyAt m.stats.windowsMax room (max n) } }) s

/-- Execute Program of a lesson. -/
def executeCore (h : Hdr) (c : Instr) (pind : Nat) (p : ParamRef) (r : Room) (s : State) : State :=
  match slotIndex r pind with
  | none => finish h stInvalidField s
  | some slot =>
    match s.lesson? r.room slot with
    | none => finish h stInvalidField s
    | some l =>
      if l.quarantined then finish h stProgramFaulted s
      else if !l.active then finish h stInvalidField s
      else match paramBlock p s with
        | .error st => failProgram h st p s
        | .ok b =>
          match parseWindows b with
          | none => finish h stInvalidField s
          | some w =>
            if s.windowLimit r.room < w.length then finish h stInvalidField s
            else match startRun h r l w false s with
              | none => hold h c .segment s
              | some (id, s) => settle id (begin' h .program (countWindows r.room w.length s))

/-- EXECUTE_LESSON. -/
def execExecuteLesson (h : Hdr) (room pind : Nat) (p : ParamRef) (s : State) : Res :=
  .next (admitRoom h (.executeLesson h room pind p) room (fun r s => executeCore h (.executeLesson h room pind p) pind p r s) s)

/-! ### Fills, moves and semaphores (R204, R209, R218, R250 to R254) -/

/-- The operation that a granted wait has held back is issued on an engine that the run holds. -/
def issueOp (op : Instr) (s : State) : State :=
  match op with
  | .fill run n d => issueFill run n d s
  | .move run n d => issueMove run n d s
  | _ => s

/-- A run takes an engine, and issues what it had left to issue there. -/
def takeAndResume (e : Engine) (id : Nat) (s : State) : State :=
  let ops : List Instr := match s.run? id with
    | some r => (r.resume.filter fun x => x.1 == e).map Prod.snd
    | none => []
  ops.foldl (fun s op => issueOp op s)
    (onRun id (fun (r : Run) => { r with resume := r.resume.filter fun x => x.1 != e }) (takeEngine e id s))

/-- One blocked wait granted. -/
def grantWait (r : Run) (w : Wait) (s : State) : State :=
  let s := takeSem r w.sem (onRun r.id (fun x => { x with waits := x.waits.erase w }) s)
  let s := endHandBack r.id s
  match w.op with
  | none => makeReady r.id w.engine s
  | some op =>
    if s.holder w.engine == some r.id then issueOp op s
    else if s.holder w.engine == none then issueOp op (takeEngine w.engine r.id s)
    else makeReady r.id w.engine (onRun r.id (fun x => { x with resume := x.resume ++ [(w.engine, op)] }) s)

/-- Blocked waits on a semaphore granted in key order while its count lasts, with fuel. -/
def grantWaits (room sem : Nat) (own : Nat) : Nat → State → State
  | 0, s => s
  | f + 1, s =>
    let l := s.sched.runs.filter fun r => r.room == room && (32 ≤ sem || r.id == own) && !r.rerun && r.waits.any fun w => w.sem == sem
    match s.topRun l with
    | none => s
    | some r =>
      if s.semCount r sem = 0 then s
      else match r.waits.find? fun w => w.sem == sem with
        | none => s
        | some w => grantWaits room sem own f (grantWait r w s)

/-- Holders of a semaphore stand raised for a waiter: it waits on the semaphore, or a holder that it has raised does (R254). -/
def State.raisesBy (s : State) (room sem waiter : Nat) : Bool :=
  s.sched.runs.any fun y => y.room == room && (y.waits.any fun v => v.sem == sem) && (y.id == waiter || (match y.raised with
    | some (_, _, w) => w == waiter
    | none => false))

/-- A run posts a semaphore: the count rises, to at most 65,535; one hold of the run ends, with a hand-back for it. -/
def postSem (id sem : Nat) (s : State) : State :=
  match s.run? id with
  | none => s
  | some r =>
    let n := s.semCount r sem
    let s := if n < 65535 then setSem r sem (n + 1) s
      else onDie r.die (fun d => { d with semOverflows := bump32 d.semOverflows }) s
    let s := if sem < 32 then s else onRun id (fun x => { x with
      holds := x.holds.erase sem
      raised := match x.raised with
        | some (p, q, w) => if s.raisesBy r.room sem w then none else some (p, q, w)
        | none => none }) s
    grantWaits r.room sem id (s.sched.runs.length + 1) s

/-- An operation of a run on an engine, behind its WAIT_SEM where it names one. -/
def issueBehind (run : Nat) (e : Engine) (sem : Nat) (op : Instr) (s : State) : State :=
  match s.run? run with
  | none => s
  | some r =>
    if sem = 255 then issueOp op (wakeDies [e] (claim e run s))
    else if 0 < s.semCount r sem then issueOp op (wakeDies [e] (claim e run (takeSem r sem s)))
    else blockOn run e sem (some op) s

/-- A fill may follow what its array has done: with ACC set it continues an open chain of its own shape, and an open chain belongs to the
run that holds the array. -/
def fillFollows (x : Mxa) (d : FillDesc) : Bool :=
  !d.acc || x.chain == some ⟨d.mode, d.m, d.n, d.float, d.group⟩

/-- FILL. -/
def execFill (run mxa : Nat) (d : Blob) (s : State) : Res :=
  .next (if s.mayIssue run (.mxa mxa) && fillFieldsOk (engineDie (.mxa mxa)) d (parseFill d) && fillFollows (s.mxa mxa) (parseFill d) then
      issueBehind run (.mxa mxa) (parseFill d).waitSem (.fill run mxa d) s
    else s)

/-- An operation has ended: its POST_SEM is posted, and the run may complete. -/
def endOp (run sem : Nat) (s : State) : State := opDone run (if sem = 255 then s else postSem run sem s)

/-- FILL_DRAIN_DONE. -/
def execFillDrainDone (mxa : Nat) (s : State) : Res :=
  .next (if !(s.up && s.dieServes (engineDie (.mxa mxa))) then s
    else match writeDrain mxa s with
    | none => s
    | some (run, sem, s) => endOp run sem s)

/-- MOVE. -/
def execMove (run mover : Nat) (d : Blob) (s : State) : Res :=
  .next (if s.mayIssue run (.mover mover) && moveFieldsOk (engineDie (.mover mover)) d (parseMove d) &&
      (s.eng.movers.getD mover none).isNone then
      issueBehind run (.mover mover) (parseMove d).waitSem (.move run mover d) s
    else s)

/-- The reply that a move waits for will not come: its die has reset since the request (R370). -/
def State.replyLost (s : State) (m : Moving) : Bool :=
  match m.req with
  | some q => s.dies.reqs.any fun x => x.id == q && x.tag != (s.die x.target).gen
  | none => false

/-- MOVE_DONE: once the source has been read and no reply is awaited. -/
def execMoveDone (mover : Nat) (s : State) : Res :=
  .next (if !(s.up && s.dieServes (engineDie (.mover mover))) then s
    else match s.eng.movers.getD mover none with
    | none => s
    | some m =>
      if m.job.isSome || m.rows.isEmpty || s.replyLost m then s
      else
        let s := writeMove m s
        let s := match m.req with
          | some q => { s with dies := { s.dies with reqs := s.dies.reqs.filter fun x => x.id != q } }
          | none => s
        endOp m.run (parseMove m.desc).postSem (setMover mover none s))

/-- SEMAPHORE_WAIT: a wait operation on an engine of the run. -/
def execSemaphoreWait (run : Nat) (e : Engine) (sem : Nat) (s : State) : Res :=
  .next (if s.mayIssue run e then
      match s.run? run with
      | none => s
      | some r => if 0 < s.semCount r sem then takeSem r sem (claim e run s) else blockOn run e sem none s
    else s)

/-- SEMAPHORE_POST. -/
def execSemaphorePost (run sem : Nat) (s : State) : Res :=
  .next (match s.run? run with
    | some r => if s.up && !r.rerun && s.dieServes r.die then postSem run sem s else s
    | none => s)

/-- LONG_SEM_WAIT: once for each wait (R253). -/
def execLongSemWait (run : Nat) (e : Engine) (s : State) : Res :=
  .next (match s.run? run with
    | none => s
    | some r => match r.waits.find? fun w => w.engine == e && !w.counted && decide (w.since + 1024 ≤ s.bell.count.toNat) with
      | none => s
      | some w => onSched (fun c => { c with longWaits := bump32 c.longWaits })
          (onRun run (fun x => { x with waits := x.waits.map fun y => if y = w then { y with counted := true } else y }) s))

/-! ### Safe points and slices (R224, R247 to R249) -/

/-- The engine stands at a safe point. -/
def State.atSafePoint (s : State) (e : Engine) : Bool :=
  s.up && s.dieServes (engineDie e) &&
  match e with
  | .mxa n => (s.mxa n).drains.isEmpty && (s.mxa n).chain.isNone
  | .vu _ => true
  | .mover n => (s.eng.movers.getD n none).isNone
  | _ => false

/-- What holds an engine, with its slice. -/
def State.slot? (s : State) (e : Engine) : Option EngineSt := s.sched.engines.find? fun x => x.engine == e

/-- A run gives way to another on an engine: it stays ready there. -/
def yieldTo (e : Engine) (old new : Nat) (s : State) : State := takeAndResume e new (makeReady old e s)

/-- Of the runs with the same priorities as another, the next in turn, in order of admission. -/
def State.nextEqual (s : State) (e : Engine) (r : Run) : Option Run :=
  let l := (s.readyOn e).filter fun x => x.id != r.id && s.rank x == s.rank r
  match l.find? fun x => decide (r.id < x.id) with
  | some x => some x
  | none => l.head?

/-- The engine chooses whom it serves: a higher key pre-empts, an ended slice passes the engine on among equals. -/
def chooseRun (e : Engine) (s : State) : State :=
  let ready := s.readyOn e
  match s.slot? e with
  | some ⟨_, some id, stop, grace⟩ =>
    match s.run? id with
    | none => setHolder e none s
    | some r =>
      let past := reached stop s.pos
      let high := ready.filter fun x => s.outranks x r && s.rank x != s.rank r
      if grace && !past then s
      else match s.topRun high with
        | some x =>
          yieldTo e id x.id (onRoomStats r.room (fun y => { y with preempted := bump32 y.preempted })
            (onSched (fun c => { c with preemptions := bump64 c.preemptions }) s))
        | none =>
          if past then
            match s.nextEqual e r with
            | some x => yieldTo e id x.id s
            | none => s
          else s
  | _ =>
    match s.topRun ready with
    | some x => takeAndResume e x.id s
    | none => s

/-- SAFE_POINT. -/
def execSafePoint (e : Engine) (s : State) : Res := .next (if s.atSafePoint e then chooseRun e s else s)

/-- SLICE_END: the engine passes on at once where it stands at a safe point, else at its next one. -/
def execSliceEnd (e : Engine) (s : State) : Res :=
  .next (match s.slot? e with
    | some ⟨_, some _, stop, _⟩ => if reached stop s.pos && s.atSafePoint e then chooseRun e s else s
    | _ => s)

/-- STARVE_GRANT: ready for 16 bells without the engine (R249). -/
def execStarveGrant (e : Engine) (run : Nat) (s : State) : Res :=
  .next (match s.run? run with
    | none => s
    | some r =>
      if s.atSafePoint e && !r.rerun && r.ready.any (fun x => x.1 == e && decide (x.2 + 16 ≤ s.bell.count.toNat)) then
        let s := onRoomStats r.room (fun y => { y with starve := bump32 y.starve })
          (onSched (fun c => { c with starveGrants := bump32 c.starveGrants }) s)
        let s := match s.holder e with
          | some old => makeReady old e s
          | none => s
        let s := takeAndResume e run s
        onSched (fun c => { c with engines := c.engines.map fun x => if x.engine = e ∧ x.run = some run then { x with grace := true } else x }) s
      else s)

/-! ### Sends and failed reads (R125, R255) -/

/-- Flits sent one after another. -/
def sendMany (port vc : Nat) : Nat → State → State
  | 0, s => s
  | n + 1, s => sendMany port vc n (sendPort port ((s.port port).far.elim 0xFF fun f => f.member) 0 (.lesson vc) s)

/-- SEND_BLOCK: on the query or the reduction channel, for a lesson with SENDS set. Credits that its flits do not spend are never taken,
so that none has to be returned. -/
def execSendBlock (run port vc flits : Nat) (s : State) : Res :=
  .next (match s.run? run with
    | none => s
    | some r =>
      match s.lesson? r.room r.slot with
      | none => s
      | some l =>
        if s.up && l.sends && !r.rerun && (s.room? r.room).any Room.plain && (vc == 1 || vc == 3) && decide (1 ≤ flits ∧ flits ≤ 192) &&
            (s.port port).state == .up then
          opDone run (sendMany port vc flits (onSched (fun c => { c with sends := c.sends ++ [(port, vc, flits)] }) s))
        else s)

/-- TIER3_READ_FAILED: a run that may read a window ends with Data Transfer Error. -/
def execTier3ReadFailed (run : Nat) (s : State) : Res :=
  .next (match s.run? run with
    | none => s
    | some r =>
      if s.up && r.windows.any fun w => w.access.testBit 0 then
        endRun run stDataTransfer (onMem (fun m => { m with stats := { m.stats with failT3 := bump32 m.stats.failT3 } }) s)
      else s)

end Sys2Proof.Machine
end

