-- ==== Sys2Proof/Machine/Nvm.lean ====
section
/-! DEFINITION. The NVM command set (R90 to R92, R102, R107, R318, R325, R362), Memory Copy (R94) and the namespace commands
(R90, R91, R303). -/

namespace Sys2Proof.Machine

/-! ### Namespaces and the pool (R91, R303, R304, R441) -/

def lbaBytes : Nat := 4096

def State.ns? (s : State) (nsid : Nat) : Option Ns := s.ns.list.find? fun n => n.nsid == nsid

/-- An attached NVM namespace. -/
def State.attached? (s : State) (nsid : Nat) : Option Ns := s.ns.list.find? fun n => n.nsid == nsid && n.attached

def Ns.lbas (n : Ns) : Nat := n.slots * 16

/-- The logical slot of an LBA. -/
def State.slotOf (s : State) (n : Ns) (lba : Nat) : Nat := s.lsnOf (n.base + lba / 16)

/-- Data slots of the pool. In a plain that mixes the parts, B blocks of the smallest member count (R304). -/
def State.poolSlots (s : State) : Nat :=
  match s.parity? with
  | some (k, m) => (if s.plain.blocks = 0 then userSlots / (k + m) else min s.plain.blocks (userSlots / (k + m))) * k
  | none => userSlots

/-- Logical slots of a list version and of centroid data. -/
def ListVer.slots (v : ListVer) : List Nat := v.code ++ v.ids ++ v.vecs
def Index.slots (x : Index) : List Nat :=
  (match x.cent with
    | some c => c.lsns
    | none => []) ++ x.lists.flatMap fun l => l.2.slots

/-- Slots of a committed change that is not published yet. -/
def Change.slots : Change → List Nat
  | .train _ c => c.lsns
  | .fold _ _ v _ => v.slots
  | .retrain _ c ls _ => c.lsns ++ ls.flatMap fun l => l.2.slots
  | _ => []

/-- Slots that indexes hold: published, still held, being written or waiting for their publish point (R441). -/
def State.indexSlots (s : State) : List Nat :=
  (s.idx.live.flatMap Index.slots ++ s.idx.dropped.flatMap Index.slots ++ s.idx.building.flatMap (fun b => b.change.slots) ++
    s.idx.queue.flatMap (fun p => p.change.slots) ++ s.query.runs.flatMap (fun r => r.view.slots)).eraseDups

/-- Slots that mirrors of other members' indexes hold on this drive (R309). -/
def State.mirrorSlots (s : State) : Nat := s.plain.peers.foldl (fun a p => a + (p.mirror.flatMap Index.slots).length) 0

/-- Slots left for namespaces, indexes and mirrors. -/
def State.freeSlots (s : State) : Nat :=
  s.poolSlots - (s.ns.list.foldl (fun a n => a + n.slots) 0 + s.indexSlots.length + s.mirrorSlots)

/-- Data slots in use, as spans in ascending order. -/
def State.usedSpans (s : State) : List (Nat × Nat) :=
  sortSpans (s.ns.list.map (fun n => (n.base, n.slots)) ++ (s.indexSlots.filterMap s.dataOf).map fun d => (d, 1))

/-- The lowest run of `n` data slots that is free. -/
def gapFor (limit n : Nat) : Nat → List (Nat × Nat) → Option Nat
  | pos, [] => if pos + n ≤ limit then some pos else none
  | pos, (a, l) :: r => if pos + n ≤ a then some pos else gapFor limit n (max pos (a + l)) r

/-- Where a namespace's slots must end: within the protected space that parity lays out (R303). Without parity a slot number is only a
name, so that a namespace fits wherever the pool has the slots (R91). -/
def State.slotLimit (s : State) (n : Nat) : Nat :=
  if s.parity?.isSome then s.poolSlots else s.usedSpans.foldl (fun a x => max a (x.1 + x.2)) s.poolSlots + n

/-- The `n` lowest data slots that are free. -/
def gapSlots (limit : Nat) : Nat → Nat → List (Nat × Nat) → List Nat
  | 0, _, _ => []
  | n, pos, [] => spanList pos (min n (limit - pos))
  | n, pos, (a, l) :: r =>
    let take := spanList pos (min n (a - pos))
    take ++ gapSlots limit (n - take.length) (max pos (a + l)) r

/-- `n` logical slots for an index; none where the pool has not as many. -/
def State.takeSlots (s : State) (n : Nat) : Option (List Nat) :=
  if s.freeSlots < n then none
  else
    let l := gapSlots s.poolSlots n 0 s.usedSpans
    if l.length = n then some (l.map s.lsnOf) else none

/-- The namespace table of this member, with its key pairs wrapped under the plain key (R303, R405). -/
def State.ownTable (s : State) : Payload :=
  .nsTable ⟨s.plain.member, s.ns.list.map fun n => ⟨n.nsid, n.base, n.slots, (lookupNat s.sec.nsKeys n.nsid).getD 0⟩⟩

/-- The namespace table sent to every member at each change (R303, R405). -/
def sendTable (s : State) : State :=
  if s.isMember then (s.others.filter s.isPresent).foldl (fun s m => sendTo m 0 s.ownTable s) s else s

/-- A key pair drawn for a namespace (R404). -/
def newKey (nsid : Nat) (s : State) : State :=
  let (k, s) := draw s
  { s with sec := { s.sec with nsKeys := setKey nsid k s.sec.nsKeys } }

/-- One unit unmapped, with its delta queued for recess (R306, R325). -/
def unmapSlot (lsn : Nat) (s : State) : State :=
  match s.mapOf lsn with
  | none => s
  | some _ =>
    let (wc, s) := bumpCount lsn s
    (sendDeltas true lsn wc (s.oldContent lsn wc) (setMap lsn none wc true s)).2

/-- Mapped slots of a namespace. -/
def State.mappedOf (s : State) (n : Ns) : List Nat :=
  (s.ftl.map.map Prod.fst).filter fun l => match s.dataOf l with
    | some d => decide (n.base ≤ d ∧ d < n.base + n.slots)
    | none => false

/-- Every unit of a namespace unmapped. -/
def unmapNs (n : Ns) (s : State) : State := (s.mappedOf n).foldl (fun s l => unmapSlot l s) s

/-- Deferred ranges of a namespace go with it, and their journal records (R103). -/
def dropDefers (nsid : Nat) (s : State) : State :=
  (s.ftl.defers.filter fun d => d.nsid == nsid).foldl (fun s d => (norRecord 6 (fld 6 d.record) [] s).2)
    (onFtl (fun t => { t with defers := t.defers.filter fun d => d.nsid != nsid }) s)

def onNs (f : List Ns → List Ns) (s : State) : State := { s with ns := ⟨f s.ns.list⟩ }

/-- Namespace Management, create (R91): the lowest free NSID of 1 to 64. -/
def createNs (h : Hdr) (nsze ncap flbas dps : Nat) (s : State) : State :=
  if nsze ≠ ncap ∨ nsze = 0 ∨ nsze % 16 ≠ 0 then finish h stInvalidField s
  else if flbas ≠ 0 then finish h stFormat s
  else if dps ≠ 0 then finish h stInvalidField s
  else match (spanList 1 64).find? fun i => (s.ns? i).isNone with
    | none => finish h stNsIdUnavailable s
    | some nsid =>
      if s.freeSlots < nsze / 16 then finish h stNsCapacity s
      else match gapFor (s.slotLimit (nsze / 16)) (nsze / 16) 0 s.usedSpans with
        | none => finish h stNsCapacity s
        | some base =>
          finishDw h stOk nsid (sendTable (newKey nsid (onNs (fun l => l ++ [⟨nsid, base, nsze / 16, false⟩]) s)))

/-- One namespace deleted. -/
def dropNs (n : Ns) (s : State) : State :=
  let s := dropDefers n.nsid (unmapNs n s)
  let s := markStaleSegs n.nsid 0 n.lbas s
  onNs (fun l => l.filter fun x => x.nsid != n.nsid)
    { s with sec := { s.sec with nsKeys := dropKey n.nsid s.sec.nsKeys } }

/-- Namespace Management, delete; FFFF_FFFFh names every namespace. -/
def deleteNs (h : Hdr) (nsid : Nat) (s : State) : State :=
  if 65 ≤ nsid ∧ nsid ≤ 74 then finish h stInvalidField s
  else if nsid = 0xFFFFFFFF then finish h stOk (sendTable (s.ns.list.foldl (fun s n => dropNs n s) s))
  else match s.ns? nsid with
    | none => finish h stInvalidNs s
    | some n => finish h stOk (sendTable (dropNs n s))

/-- NAMESPACE_MANAGEMENT. -/
def execNamespaceManagement (h : Hdr) (op : NsOp) (s : State) : Res :=
  .next (admitAdmin h 0x0D (fun s => match op with
    | .create nsze ncap flbas dps => createNs h nsze ncap flbas dps s
    | .delete nsid => deleteNs h nsid s) s)

/-- Namespace Attachment (R90). -/
def attachNs (h : Hdr) (nsid : Nat) (attach : Bool) (s : State) : State :=
  if 65 ≤ nsid ∧ nsid ≤ 74 then finish h stInvalidField s
  else match s.ns? nsid with
    | none => finish h stInvalidNs s
    | some n =>
      if attach && n.attached then finish h stNsAttached s
      else if !attach && !n.attached then finish h stNsNotAttached s
      else finish h stOk (onNs (fun l => l.map fun x => if x.nsid = nsid then { x with attached := attach } else x) s)

/-- NAMESPACE_ATTACHMENT. -/
def execNamespaceAttachment (h : Hdr) (nsid : Nat) (attach : Bool) (s : State) : Res :=
  .next (admitAdmin h 0x15 (attachNs h nsid attach) s)

/-! ### Reads (R318, R362) -/

/-- LBAs of a command as they lie in units: logical slots in order. -/
def State.unitsOf (s : State) (n : Ns) (slba lbas : Nat) : List Nat :=
  (spanList (slba / 16) ((slba + lbas - 1) / 16 + 1 - slba / 16)).map fun u => s.lsnOf (n.base + u)

/-- The data of one LBA out of its unit, and whether it may be trusted: no granule of it is poisoned, its unit is not lost, and it
lies in no lost range. -/
def lbaData (j : Job) (s : State) (n : Ns) (lba : Nat) : Blob × Bool :=
  let u := j.unit (s.slotOf n lba)
  let o := lba % 16 * 4096
  (u.data.slice o 4096,
   !u.lost && !(u.poison.any fun g => decide (o / 64 ≤ g ∧ g < o / 64 + 64)) && !(s.deferredLba n.nsid lba))

/-- Granules of a list of LBAs that are delivered poisoned. -/
def Job.poisonedLbas (j : Job) (s : State) (n : Ns) (l : List Nat) : Nat :=
  l.foldl (fun a x => a + (j.unit (s.slotOf n x)).poisonedLba x) 0

/-- The data of a list of LBAs: those that may not be trusted hold free values. Answers the first of these. -/
def gatherLbas (j : Job) (n : Ns) : List Nat → State → Blob × Option Nat × State
  | [], s => (Blob.zero 0, none, s)
  | a :: r, s =>
    let (d, ok) := lbaData j s n a
    let (d, s) := if ok then (d, s) else freeBytes 4096 s
    let (rest, bad, s) := gatherLbas j n r s
    (d.append rest, if ok then bad else some a, s)

/-- A Read whose units have come (R362). -/
def finishRead (h : Hdr) (nsid slba nlb : Nat) (j : Job) (s : State) : State :=
  let s := closeJob j.jid s
  match s.ns? nsid with
  | none => finish h stInvalidNs s
  | some n =>
    let (d, bad, s) := gatherLbas j n (spanList slba (nlb + 1)) s
    let s := countDelivered (j.poisonedLbas s n (spanList slba (nlb + 1))) s
    match bad with
    | none => finishData h d s
    | some a => finishUnrecovered h d nsid a s

/-- Read: checks, then its units; it completes at once where no page has to be read. -/
def readCore (h : Hdr) (nsid slba nlb : Nat) (s : State) : State :=
  match s.attached? nsid with
  | none => finish h stInvalidNs s
  | some n =>
    if 512 < nlb + 1 then finish h stInvalidField s
    else if n.lbas < slba + nlb + 1 then finish h stLbaRange s
    else
      let (jid, s) := openJob (.nvmRead h nsid slba nlb) (s.unitsOf n slba (nlb + 1)) (begin' h .reading s)
      match s.job? jid with
      | some j => if j.wait.isEmpty then finishRead h nsid slba nlb j s else s
      | none => s

/-- NVM_READ. -/
def execNvmRead (h : Hdr) (nsid slba nlb : Nat) (s : State) : Res :=
  .next (admitIo h (.nvmRead h nsid slba nlb) false (readCore h nsid slba nlb) s)

/-! ### Writes (R92, R102, R107, R318, R385) -/

/-- The new content of a unit: its LBAs that the command covers take the data, the others keep what the job has read. A unit that
was lost keeps nothing, so that its other LBAs are free values already. Answers the unit's poisoned granules. -/
def mergeUnit (j : Job) (lsn first slba : Nat) (d : Blob) : Blob × List Nat :=
  let covered := (List.range 16).filter fun i => decide (slba ≤ first + i ∧ first + i < slba + d.len / 4096)
  let u := j.unit lsn
  let base := if covered.length = 16 then Blob.zero unitBytes else u.data
  (covered.foldl (fun b i => b.overlaid (i * 4096) (d.slice ((first + i - slba) * 4096) 4096)) (base.fit unitBytes),
   if covered.length = 16 ∨ u.lost then [] else u.poison.filter fun g => !(covered.contains (g / 64)))

/-- The units of a Write put into the host stream one after another; none where a slot cannot be had. -/
def placeUnits (j : Job) (n : Ns) (slba : Nat) (d : Blob) : List Nat → State → Option (List Nat × State)
  | [], s => some ([], s)
  | u :: r, s =>
    let lsn := s.lsnOf (n.base + u)
    let (b, bad) := mergeUnit j lsn (u * 16) slba d
    match writeUnit .host 0 lsn 1 b bad s with
    | none => none
    | some (p, s) =>
      match placeUnits j n slba d r (onFtlStats (fun x => { x with hostUnits := bump64 x.hostUnits }) s) with
      | none => none
      | some (l, s) => some (p :: l, s)

/-- Groups that hold units of the host stream are padded and programmed at once (R385). -/
def programNow (s : State) : State :=
  if s.writeThrough then
    (s.ftl.opens.filter fun o => o.stream == .host).foldl (fun s o => startAll o.sb 768 s) s
  else s

/-- A Write that finds no slot: Capacity Exceeded where the drive is exhausted (R334), else it waits. -/
def noSlot (h : Hdr) (c : Instr) (s : State) : State :=
  if s.isExhausted then finish h stCapacity (exhaust s) else hold h c (.room 1) s

/-- A Write whose partial units have been read: slots, buffer, map, completion (R318). Under write-through it completes once its
groups have committed (R385). The LBAs of a Write Zeroes that follow wait for room. -/
def placeWrite (h : Hdr) (nsid slba : Nat) (d : Blob) (rest : Nat) (c : Instr) (j : Job) (s : State) : State :=
  let s := closeJob j.jid s
  match s.ns? nsid with
  | none => finish h stInvalidNs s
  | some n =>
    let lbas := d.len / 4096
    match placeUnits j n slba d (spanList (slba / 16) ((slba + lbas - 1) / 16 + 1 - slba / 16)) s with
    | none => noSlot h c s
    | some (ps, t) =>
      let t := markStaleSegs nsid slba lbas (mend nsid slba lbas t)
      if 0 < rest then hold h (.writeZeroes h nsid (slba + lbas) (rest - 1)) (.room 1) t
      else if t.writeThrough then programNow (onFtl (fun f => { f with writes := f.writes ++ [⟨h, ps⟩] }) t)
      else finish h stOk t

/-- Units that a span of LBAs covers in part: these are read before they are written. -/
def State.partialUnits (s : State) (n : Ns) (slba lbas : Nat) : List Nat :=
  (((if slba % 16 = 0 then [] else [slba / 16]) ++
    if (slba + lbas) % 16 = 0 then [] else [(slba + lbas) / 16]).eraseDups).map fun u => s.lsnOf (n.base + u)

/-- The data of a Write into its units: it waits for room in the buffer, then reads what it needs. -/
def writeData (h : Hdr) (n : Ns) (slba : Nat) (d : Blob) (rest : Nat) (c : Instr) (s : State) : State :=
  let lbas := d.len / 4096
  let units := (slba + lbas - 1) / 16 + 1 - slba / 16
  if s.bufferRoom < units then hold h c (.room units) s
  else
    let (jid, s) := openJob (.write h n.nsid slba d rest) (s.partialUnits n slba lbas) (begin' h .writing s)
    match s.job? jid with
    | some j => if j.wait.isEmpty then placeWrite h n.nsid slba d rest c j s else s
    | none => s

/-- Write: its own checks, then a report that is due, then Capacity Exceeded while the endurance group is read-only. -/
def writeCore (h : Hdr) (nsid slba nlb : Nat) (data : Blob) (c : Instr) (s : State) : State :=
  match s.attached? nsid with
  | none => finish h stInvalidNs s
  | some n =>
    if 512 < nlb + 1 then finish h stInvalidField s
    else if n.lbas < slba + nlb + 1 then finish h stLbaRange s
    else if s.reportDue nsid then reportLosses h nsid s
    else if s.readOnly then finish h stCapacity s
    else writeData h n slba (data.fit ((nlb + 1) * 4096)) 0 c s

/-- NVM_WRITE. -/
def execNvmWrite (h : Hdr) (nsid slba nlb : Nat) (data : Blob) (s : State) : Res :=
  .next (admitIo h (.nvmWrite h nsid slba nlb data) false (writeCore h nsid slba nlb data (.nvmWrite h nsid slba nlb data)) s)

/-- Write Zeroes: the units are written as data. One that needs more room than there is goes in pieces of whole units, as room
frees (R381). -/
def writeZeroesCore (h : Hdr) (nsid slba nlb : Nat) (s : State) : State :=
  match s.attached? nsid with
  | none => finish h stInvalidNs s
  | some n =>
    if n.lbas < slba + nlb + 1 then finish h stLbaRange s
    else if s.readOnly then finish h stCapacity s
    else
      let units := (slba + nlb) / 16 + 1 - slba / 16
      let room := s.bufferRoom
      let now := if units ≤ room then nlb + 1 else (slba / 16 + room) * 16 - slba
      if room = 0 then hold h (.writeZeroes h nsid slba nlb) (.room 1) s
      else writeData h n slba (Blob.zero (now * 4096)) (nlb + 1 - now) (.writeZeroes h nsid slba nlb) s

/-- WRITE_ZEROES. -/
def execWriteZeroes (h : Hdr) (nsid slba nlb : Nat) (s : State) : Res :=
  .next (admitIo h (.writeZeroes h nsid slba nlb) false (writeZeroesCore h nsid slba nlb) s)

/-! ### Dataset Management and Flush (R102, R107, R325) -/

/-- The 64 KiB units that a range covers whole, by unit number. -/
def wholeUnits (r : LbaRange) : List Nat :=
  spanList (ceilDiv r.slba 16) ((r.slba + r.len) / 16 - ceilDiv r.slba 16)

/-- Dataset Management: a range of length 0 is skipped (R108). -/
def deallocateCore (h : Hdr) (nsid : Nat) (ad : Bool) (ranges : List LbaRange) (s : State) : State :=
  match s.attached? nsid with
  | none => finish h stInvalidNs s
  | some n =>
    if ranges.any fun r => decide (0 < r.len ∧ n.lbas < r.slba + r.len) then finish h stLbaRange s
    else if !ad then finish h stOk s
    else if s.readOnly then finish h stCapacity s
    else
      let us := ranges.flatMap fun r => if r.len = 0 then [] else wholeUnits r
      finish h stOk (us.foldl (fun s u =>
        markStaleSegs nsid (u * 16) 16 (mend nsid (u * 16) 16 (unmapSlot (s.lsnOf (n.base + u)) s))) s)

/-- DATASET_MANAGEMENT_DEALLOCATE. -/
def execDatasetManagementDeallocate (h : Hdr) (nsid : Nat) (ad : Bool) (ranges : List LbaRange) (s : State) : Res :=
  .next (admitIo h (.datasetManagementDeallocate h nsid ad ranges) false (deallocateCore h nsid ad ranges) s)

/-- Flush: no action on media; it carries the report of R102. -/
def flushCore (h : Hdr) (nsid : Nat) (s : State) : State :=
  if nsid ≠ 0xFFFFFFFF ∧ (s.attached? nsid).isNone then finish h stInvalidNs s
  else if s.reportDue nsid then reportLosses h nsid s
  else finish h stOk s

/-- FLUSH. -/
def execFlush (h : Hdr) (nsid : Nat) (s : State) : Res :=
  .next (admitIo h (.flush h nsid) false (flushCore h nsid) s)

/-! ### Memory Copy (R94, R120, R362) -/

/-- A Memory Copy from an NVM namespace whose units have come: an LBA that may not be trusted writes its granules poisoned. -/
def finishCopyNvm (h : Hdr) (nsid ofst srcNs slba lbas : Nat) (j : Job) (s : State) : State :=
  let s := closeJob j.jid s
  match s.ns? srcNs with
  | none => finish h stInvalidNs s
  | some n =>
    let l := spanList slba lbas
    let parts := l.map fun a => (a, lbaData j s n a)
    let bad := parts.zipIdx.flatMap fun x =>
      if x.1.2.2 then []
      else
        let u := j.unit (s.slotOf n x.1.1)
        let o := x.1.1 % 16 * 4096
        if u.lost || s.deferredLba srcNs x.1.1 then spanList (x.2 * 4096) 4096
        else (List.range 4096).filterMap fun i => if u.poison.contains ((o + i) / 64) then some (x.2 * 4096 + i) else none
    let s := countDelivered (j.poisonedLbas s n l) (writeMarked nsid ofst (Blob.concat (parts.map fun x => x.2.1)) bad s)
    match parts.find? fun x => !x.2.2 with
    | some x => finishUnrecovered h (Blob.zero 0) srcNs x.1 s
    | none => finish h stOk s

/-- Memory Copy. -/
def memoryCopyCore (h : Hdr) (nsid ofst len : Nat) (src : CopySource) (s : State) : State :=
  if !(isMemNs nsid) then finish h stInvalidNs s
  else match src with
    | .nvm ns slba lbas =>
      match s.attached? ns with
      | none => finish h stInvalidNs s
      | some n =>
        if len ≠ lbas * 4096 then finish h stInvalidField s
        else if !(memFits nsid ofst len) || decide (n.lbas < slba + lbas) then finish h stLbaRange s
        else if len = 0 then finish h stOk s
        else match destinationStatus nsid ofst len s with
          | some st => finish h st s
          | none =>
            let (jid, s) := openJob (.memCopy h nsid ofst ns slba lbas) (s.unitsOf n slba lbas) (begin' h .reading s)
            match s.job? jid with
            | some j => if j.wait.isEmpty then finishCopyNvm h nsid ofst ns slba lbas j s else s
            | none => s
    | .mem ns o =>
      if !(isMemNs ns) then finish h stInvalidNs s
      else if !(memFits nsid ofst len) || !(memFits ns o len) then finish h stLbaRange s
      else if len = 0 then finish h stOk s
      else match destinationStatus nsid ofst len s with
        | some st => finish h st s
        | none =>
          let d := memRead ns o len s
          let bad := if s.spanLost ns o len then List.range len else (s.ram ns).badBytes o len
          match bad with
          | [] => finish h stOk (memWrite nsid ofst d s)
          | b :: _ => finishUnrecovered h (Blob.zero 0) ns (o + b) (writeMarked nsid ofst d bad s)

/-- MEMORY_COPY. -/
def execMemoryCopy (h : Hdr) (nsid ofst len : Nat) (src : CopySource) (s : State) : Res :=
  .next (admitIo h (.memoryCopy h nsid ofst len src) false (memoryCopyCore h nsid ofst len src) s)

end Sys2Proof.Machine
end

