-- ==== Sys2Proof/Machine/Index.lean ====
section
/-! DEFINITION. Vector indexes (R154 to R168, R184, R185, R309, R437, R438, R441): encoding and training, list versions and their pieces,
publication, Index Create, Drop, Train, Insert and Delete, folds and compaction. -/

namespace Sys2Proof.Machine

/-! ### Vectors and codes (R438, R439) -/

/-- An FP32 value read from a stored BF16, FP16 or FP32 code; each is converted exactly. -/
def vecElem (fmt code : Nat) : F32 :=
  match Fmt.ofCode fmt with
  | some f => toF32 (f.value code)
  | none => 0

/-- Bytes of a component in a vector format: 2 for BF16 and FP16, 4 for FP32, none for format 0. -/
def compBytes (fmt : Nat) : Nat := if fmt = 8 ∨ fmt = 9 then 2 else if fmt = 10 then 4 else 0

/-- A vector of `d` components at an offset. -/
def readVec (b : Blob) (o d fmt : Nat) : List F32 :=
  (List.range d).map fun i => vecElem fmt (b.le (o + i * compBytes fmt) (compBytes fmt))

/-- A component rounded to a vector format and read back. -/
def roundComp (fmt : Nat) (x : F32) : F32 :=
  match Fmt.ofCode fmt with
  | some f => toF32 (f.value (f.store (f32 x)))
  | none => 0

/-- The bytes of a vector in a vector format. -/
def vecBytes (fmt : Nat) (v : List F32) : List Byte :=
  match Fmt.ofCode fmt with
  | some f => v.flatMap fun x => leBytes (compBytes fmt) (f.store (f32 x))
  | none => []

/-- A vector that no index takes: it holds a NaN or an infinity, or is zero under metric 2 (R161, R163, R170). -/
def vecBad (metric : Nat) (v : List F32) : Bool :=
  v.any (fun x => !(f32 x).isFinite) || (metric == 2 && v.all fun x => (f32 x).isZero)

/-- Normalisation under metric 2: the squared norm as a reduction of R220, its root, and one division for each component. -/
def normalise (metric : Nat) (v : List F32) : List F32 :=
  if metric = 2 then
    let lanes := (List.range 64).map fun l =>
      ((List.range (ceilDiv v.length 64)).filterMap fun j => v[l + j * 64]?).foldl (fun a x => ffma x x a) 0
    let n := fsqrt (pairTree fadd 0 7 lanes)
    v.map fun x => fdiv x n
  else v

/-- The score of a centroid for a vector rounded to BF16: the lowest wins. -/
def listScore (metric : Nat) (norm : F32) (c x : List F32) : F32 :=
  let s := dotRound x c
  if metric = 0 then toF32 ((f32 norm).add ((f32 s).mul (.fin (-2) 0))) else fneg s

/-- ‖c‖² of a BF16 centroid. -/
def normOf (c : List F32) : F32 := dotRound c c

/-- Position of the least value, the first of equals. -/
def argLeast (l : List F32) : Nat :=
  ((l.zipIdx).foldl (fun (a : Option (F32 × Nat)) x => match a with
    | none => some x
    | some b => if flt x.1 b.1 then some x else some b) none).elim 0 Prod.snd

/-- Scores of every centroid. -/
def scoresOf (metric : Nat) (cents : List (List F32)) (norms : List F32) (x : List F32) : List F32 :=
  let r := x.map toBF16
  (List.zip cents norms).map fun p => listScore metric p.2 p.1 r

/-- A vector cut into `n` parts of equal length. -/
def splitVec (n : Nat) (v : List F32) : List (List F32) :=
  (List.range n).map fun i => (v.drop (i * (v.length / n))).take (v.length / n)

/-- The residual of a vector against a centroid. -/
def residual (x c : List F32) : List F32 := (List.zip x c).map fun p => fsub p.1 p.2

/-- Codes of a residual under a set of codebooks. -/
def codesOf (books : List (List (List F32))) (r : List F32) : List Nat :=
  (List.zip books (splitVec books.length r)).map fun p => argLeast (p.1.map fun e => sqDist p.2 e)

/-- A vector as an index keeps it: in FULL_FORMAT, or not at all. -/
def keptVec (ix : Index) (v : List F32) : List F32 := if ix.full = 0 then [] else v.map (roundComp ix.full)

/-- List, fine code and coarse code of a vector, and the vector itself: it is normalised first under metric 2. -/
def encodeVec (ix : Index) (c : CentData) (x : List F32) : Nat × List Nat × List Nat × List F32 :=
  let v := normalise ix.metric x
  let l := argLeast (scoresOf ix.metric c.cents c.norms v)
  let r := residual v (c.cents.getD l [])
  (l, codesOf c.fine r, if ix.coarse then codesOf c.coarse r else [], v)

/-! ### Training (R161, R437) -/

/-- `n` members of a list drawn without replacement: draw i of the generator picks among those left. -/
def sample {α : Type} (seed : BitVec 64) : Nat → Nat → List α → List α
  | 0, _, _ => []
  | n + 1, i, l =>
    match l[Config.trainDraw seed i % max 1 l.length]? with
    | some x => x :: sample seed n (i + 1) (l.eraseIdx (Config.trainDraw seed i % max 1 l.length))
    | none => []

/-- One cluster without an example takes one: the farthest example of the largest cluster (R437 step 2). -/
def fillEmpty (k : Nat) (own : List (Nat × F32)) (c : Nat) : List (Nat × F32) :=
  if own.any fun o => o.1 == c then own
  else
    let size := fun (x : Nat) => (own.filter fun o => o.1 == x).length
    let big := (List.range k).foldl (fun a x => if size a < size x then x else a) 0
    let far := ((own.zipIdx).filter fun o => o.1.1 == big).foldl (fun (a : Option ((Nat × F32) × Nat)) o => match a with
      | none => some o
      | some b => if flt b.1.2 o.1.2 then some o else some b) none
    match far with
    | some o => modifyAt own o.2 fun x => (c, x.2)
    | none => own

/-- The mean of the examples of a cluster. -/
def meanOf (d : Nat) (l : List (List F32)) : List F32 :=
  let sum := l.foldl (fun a x => (List.zip a x).map fun p => fadd p.1 p.2) (List.replicate d 0)
  sum.map fun x => fdiv x (fOfInt l.length)

/-- One iteration: every example to its best centre, then the means. -/
def kmeansStep (metric d : Nat) (xs cents : List (List F32)) : List (List F32) :=
  let bs := cents.map fun c => c.map toBF16
  let ns := bs.map normOf
  let own := xs.map fun x =>
    let sc := scoresOf metric bs ns x
    let i := argLeast sc
    (i, sc.getD i 0)
  let own := (List.range cents.length).foldl (fillEmpty cents.length) own
  (List.range cents.length).map fun c =>
    meanOf d (((List.zip own xs).filter fun p => p.1.1 == c).map Prod.snd)

/-- Exactly `n` iterations. -/
def kmeans (metric d : Nat) (xs : List (List F32)) : Nat → List (List F32) → List (List F32)
  | 0, c => c
  | n + 1, c => kmeans metric d xs n (kmeansStep metric d xs c)

/-- Codebooks of `n` subspaces with `k` entries each, trained on residuals. -/
def trainBooks (seed : BitVec 64) (at' n k iters : Nat) (rs : List (List F32)) : List (List (List F32)) :=
  (List.range n).map fun s =>
    let sub := rs.map fun r => (splitVec n r).getD s []
    kmeans 0 (sub.headD []).length sub iters (sample seed k (at' + s * k) sub)

/-- A term-table entry ‖C‖² + 2⟨c, C⟩, rounded to BF16. -/
def termOf (c e : List F32) : F32 :=
  toBF16 (toF32 ((f32 (dotFma e e)).add ((f32 (dotFma c e)).mul (.fin 2 0))))

/-- Centroid data from examples (R437), without the slots that it will take. -/
def trainData (ix : Index) (seed : BitVec 64) (iters : Nat) (examples : List (List F32)) : CentData :=
  let xs := examples.map (normalise ix.metric)
  let cents := (kmeans ix.metric ix.dim xs iters (sample seed ix.centroids 0 xs)).map fun c => c.map toBF16
  let norms := cents.map normOf
  let rs := xs.map fun x => residual x (cents.getD (argLeast (scoresOf ix.metric cents norms x)) [])
  let fine := trainBooks seed ix.centroids ix.m 256 iters rs
  let coarse := trainBooks seed (ix.centroids + 256 * ix.m) 16 16 iters rs
  let terms := if ix.metric = 0 then cents.map fun c =>
      (List.zip (splitVec ix.m c) fine).flatMap fun p => p.2.map fun e => termOf p.1 e
    else []
  ⟨cents, norms, fine, coarse, terms, []⟩

/-! ### Pieces (R136, R154, R441) -/

/-- Entries of a code piece, and full vectors of a vector piece. -/
def Index.perPiece (ix : Index) : Nat := 65472 / max 1 (ix.attrLen + ix.m)
def Index.perVec (ix : Index) : Nat := if ix.full = 0 then 0 else 65472 / max 1 (ix.dim * compBytes ix.full)

/-- Bytes of a pending entry (R155). -/
def Index.pendBytes (ix : Index) : Nat := (16 + ix.attrLen + ix.m + 8 + ix.dim * compBytes ix.full + 7) / 8 * 8

/-- Header of a piece. -/
def pieceHeader (list j ver n attr m index : Nat) : Blob :=
  Blob.concat [fld 4 list, fld 4 j, fld 4 ver, fld 2 n, fld 1 attr, fld 1 m, fld 2 index, rsv 46]

/-- Code pieces, ID pieces and vector pieces of a list, each with its valley. -/
def piecesOf (ix : Index) (list ver : Nat) (es : List Entry) : List (Nat × Blob) × List (Nat × Blob) × List (Nat × Blob) :=
  let gs := chunks (es.length + 1) ix.perPiece es
  let code := (gs.zipIdx).map fun g => ((list % 32 + g.2) % 32, ((pieceHeader list g.2 ver g.1.length ix.attrLen ix.m ix.num).append
    (Blob.concat (g.1.map fun e => (e.attr.fit ix.attrLen).append (Blob.ofBytes (e.fine.map (BitVec.ofNat 8)))))).fit unitBytes)
  let ids := (gs.zipIdx).map fun g => ((list % 32 + g.2) % 32, (Blob.ofBytes (g.1.flatMap fun e => leBytes 8 e.id.toNat)).fit unitBytes)
  let vs := if ix.full = 0 then [] else
    ((chunks (es.length + 1) ix.perVec es).zipIdx).map fun g =>
      ((list % 32 + 16 + g.2) % 32, ((pieceHeader list g.2 ver g.1.length 0 0 ix.num).append
        (Blob.ofBytes (g.1.flatMap fun e => vecBytes ix.full e.vec))).fit unitBytes)
  (code, ids, vs)

/-- Units that a list of entries takes. -/
def Index.unitsFor (ix : Index) (n : Nat) : Nat :=
  2 * ceilDiv n (max 1 ix.perPiece) + (if ix.full = 0 then 0 else ceilDiv n (max 1 ix.perVec))

/-- A byte string cut into units. -/
def unitsOfBlob (b : Blob) : List Blob := (List.range (ceilDiv b.len unitBytes)).map fun i => b.slice (i * unitBytes) unitBytes

/-- Units of centroid data, each part rounded up on its own. -/
def centUnits (ix : Index) (c : CentData) : List Blob :=
  unitsOfBlob (Blob.ofBytes (c.cents.flatMap fun v => vecBytes 8 v)) ++
  unitsOfBlob (Blob.ofBytes (c.fine.flatMap fun bk => bk.flatMap fun e => vecBytes 10 e)) ++
  (if ix.coarse then unitsOfBlob (Blob.ofBytes (c.coarse.flatMap fun bk => bk.flatMap fun e => vecBytes 10 e)) else []) ++
  unitsOfBlob (Blob.ofBytes (c.terms.flatMap fun t => vecBytes 8 t))

/-- Units written to the index stream, each at its valley and logical slot. -/
def writeIndexUnits : List ((Nat × Blob) × Nat) → State → Option State
  | [], s => some s
  | x :: r, s =>
    match writeUnit .index x.1.1 x.2 2 x.1.2 [] s with
    | some (_, s) => writeIndexUnits r s
    | none => none

/-- Centroid data with slots of its own, written; unit i goes to valley i mod 32 (log 19). -/
def placeCents (ix : Index) (c : CentData) (s : State) : Option (CentData × State) :=
  let us := centUnits ix c
  match s.takeSlots us.length with
  | none => none
  | some ls =>
    let parts := (us.zipIdx).map fun u => (u.2 % 32, u.1)
    (writeIndexUnits (List.zip parts ls) s).map fun s => ({ c with lsns := ls }, s)

/-- A list version with slots of its own, written. -/
def placeList (ix : Index) (list ver : Nat) (es : List Entry) (dead : List Nat) (coarse : Bool) (held : List Nat) (s : State) :
    Option (ListVer × State) :=
  let (code, ids, vs) := piecesOf ix list ver es
  let n := code.length + ids.length + vs.length
  if s.freeSlots < n + held.length then none
  else
    let used := sortSpans (s.usedSpans ++ (held.filterMap s.dataOf).map fun d => (d, 1))
    let ls := (gapSlots s.poolSlots n 0 used).map s.lsnOf
    if ls.length < n then none
    else
      (writeIndexUnits (List.zip (code ++ ids ++ vs) ls) s).map fun s =>
        (⟨ver, es, dead, ls.take code.length, (ls.drop code.length).take ids.length, ls.drop (code.length + ids.length), coarse⟩, s)

/-- Slots that nothing refers to any more, unmapped (R137, R441). -/
def releaseSlots (l : List Nat) (s : State) : State :=
  let held := s.indexSlots
  (l.filter fun x => !(held.contains x)).foldl (fun s x => unmapSlot x s) s

/-! ### Publication (R81, R165 to R168) -/

def onIdx (f : IdxSt → IdxSt) (s : State) : State := { s with idx := f s.idx }

/-- The bell at which a change that commits now is published (R81). -/
def State.publishAt (s : State) : BitVec 48 := s.bell.count + (if s.bell.tick ≤ 1022 then 1 else 2)

/-- A change commits. -/
def commitChange (c : Change) (s : State) : State :=
  onIdx (fun x => { x with queue := x.queue ++ [⟨s.publishAt, c⟩] }) s

/-- The version of a list that is not stored: empty, with coarse codes where the list may carry them. -/
def Index.list (ix : Index) (l : Nat) : ListVer :=
  (lookupNat ix.lists l).getD ⟨0, [], [], [], [], [], ix.coarse && !(ix.noCoarse.contains l)⟩

/-- Entries of an index that hold coarse codes. -/
def Index.coarseCount (ix : Index) : Nat :=
  ix.lists.foldl (fun a l => if l.2.coarse then a + l.2.entries.length else a) 0 + (ix.pending.filter (·.hasCoarse)).length

/-- The list carries coarse codes (R165). -/
def Index.carries (ix : Index) (l : Nat) : Bool := ix.coarse && (ix.list l).coarse && !(ix.noCoarse.contains l)

/-- A list loses its coarse codes. -/
def loseCoarse (ls : List Nat) (ix : Index) : Index :=
  { ix with
    lists := ix.lists.map fun x => if ls.contains x.1 then (x.1, { x.2 with coarse := false }) else x
    pending := ix.pending.map fun p => if ls.contains p.list then { p with hasCoarse := false } else p
    noCoarse := insertAll ls ix.noCoarse }

/-- Entries inserted, with the coarse codes that the reserve allows. -/
def addPending (ents : List Pend) (ix : Index) : Index :=
  let gain := ((ents.map (·.list)).eraseDups).filter ix.carries
  let want := (ents.filter fun p => gain.contains p.list).length
  let past := ix.reserve < ix.coarseCount + want
  let ix := if past then loseCoarse gain ix else ix
  { ix with pending := ix.pending ++ ents.map fun p => { p with hasCoarse := !past && gain.contains p.list } }

/-- Marks set on ordinals and on pending entries. -/
def markDead (marks : List (Nat × Nat)) (pend : List Nat) (ix : Index) : Index :=
  { ix with
    lists := ix.lists.map fun l => (l.1, { l.2 with dead := insertAll ((marks.filter fun m => m.1 == l.1).map Prod.snd) l.2.dead })
    pending := ix.pending.map fun p => if pend.contains p.num then { p with dead := true } else p }

/-- Where an ordinal or a pending entry has gone. -/
def Moves.ord (mv : Moves) (x : Nat × Nat) : Option (Nat × Nat) := (mv.ords.find? fun m => m.1 == x).map Prod.snd
def Moves.num (mv : Moves) (n : Nat) : Option (Nat × Nat) := (mv.pend.find? fun m => m.1 == n).map Prod.snd

/-- Marks of a delete carried over a new version. -/
def carryMarks (mv : Moves) (lists : List Nat) (marks : List (Nat × Nat)) (pend : List Nat) : List (Nat × Nat) × List Nat :=
  ((marks.filterMap fun m => if lists.contains m.1 then mv.ord m else some m) ++ pend.filterMap mv.num,
   pend.filter fun n => (mv.num n).isNone && !(mv.gone.contains n))

/-- Marks that stand on an index. -/
def Index.deadMarks (ix : Index) : List (Nat × Nat) := ix.lists.flatMap fun l => l.2.dead.map fun o => (l.1, o)
def Index.deadNums (ix : Index) : List Nat := (ix.pending.filter (·.dead)).map (·.num)

/-- New versions of some lists put in place, with marks set since they were made. -/
def putLists (vs : List (Nat × ListVer)) (mv : Moves) (ix : Index) : Index :=
  let ls := vs.map Prod.fst
  let (marks, _) := carryMarks mv ls (ix.deadMarks.filter fun m => ls.contains m.1) ix.deadNums
  let ix := { ix with
    lists := vs.foldl (fun a v => if v.2.entries.isEmpty then dropKey v.1 a else setKey v.1 v.2 a) ix.lists
    pending := ix.pending.filter fun p => (mv.num p.num).isNone && !(mv.gone.contains p.num) }
  markDead marks [] ix

/-- Entries encoded again under new centroid data. -/
def recode (ix : Index) (c : CentData) (ps : List Pend) : List Pend :=
  ps.map fun p =>
    let (l, f, co, v) := encodeVec ix c p.entry.vec
    { p with list := l, entry := { p.entry with fine := f, coarse := co, vec := keptVec ix v } }

/-- The index that a change is about, changed. -/
def onSerial (n : Nat) (f : Index → Index) (l : List Index) : List Index := l.map fun x => if x.serial = n then f x else x

/-- One change published: the indexes after it, and the changes behind it, those of the same index carried over a new version. -/
def applyChange (c : Change) (rest : List Publish) (l : List Index) : List Index × List Publish :=
  let carry := fun (n : Nat) (lists : List Nat) (mv : Moves) => rest.map fun p => match p.change with
    | .delete m marks pend => if m = n then let (a, b) := carryMarks mv lists marks pend; { p with change := .delete m a b } else p
    | _ => p
  match c with
  | .create ix => (l ++ [ix], rest)
  | .drop n => (l.filter fun x => x.serial != n, rest)
  | .insert n ents => (onSerial n (addPending ents) l, rest)
  | .delete n marks pend => (onSerial n (markDead marks pend) l, rest)
  | .train n c => (onSerial n (fun x => { x with cent := some c, state := .trained, lists := [], noCoarse := [] }) l, rest)
  | .fold n list v mv => (onSerial n (fun x =>
      let x := if v.coarse then { x with noCoarse := x.noCoarse.filter (· != list) } else x
      let y := putLists [(list, v)] mv x
      if x.reserve < y.coarseCount then loseCoarse [list] y else y) l, carry n [list] mv)
  | .retrain n c vs mv =>
    let l' := onSerial n (fun x =>
      let y := putLists (vs ++ (x.lists.filter fun o => !(vs.any fun v => v.1 == o.1)).map fun o => (o.1, ⟨0, [], [], [], [], [], x.coarse⟩)) mv x
      { y with cent := some c, state := .trained, noCoarse := [], pending := recode x c y.pending }) l
    let rest := (carry n (List.range 1048576) mv).map fun p => match p.change with
      | .insert m ents => if m = n then
          (match l.find? fun x => x.serial == n with
            | some x => { p with change := .insert m (recode x c ents) }
            | none => p) else p
      | _ => p
    (l', rest)

/-- Changes published one after another, in commit order. -/
def applyAll : Nat → List Publish → List Index → List Index
  | 0, _, l => l
  | _ + 1, [], l => l
  | f + 1, p :: r, l =>
    let (l, r) := applyChange p.change r l
    applyAll f r l

/-- The indexes with every committed change in them, drops left out: what the index programs work on. -/
def State.working (s : State) : List Index :=
  let q := s.idx.queue.filter fun p => match p.change with
    | .drop _ => false
    | _ => true
  applyAll (q.length + 1) q s.idx.live

/-- A committed drop of an index that is not published yet. -/
def State.dropQueued (s : State) (serial : Nat) : Bool :=
  s.idx.queue.any fun p => match p.change with
    | .drop n => n == serial
    | _ => false

/-- The index of a number, as the index programs find it. -/
def State.index? (s : State) (num : Nat) : Option Index := s.working.find? fun x => x.num == num

/-- Cached copies of an index's centroids become stale (R124). -/
def staleCentroids (num : Nat) (s : State) : State :=
  freeStale (onMem (fun m => { m with segs := m.segs.map fun g => match g.owner with
    | .centroids _ n => if n = num then { g with stale := true } else g
    | _ => g }) s)

/-- Some query still uses an index. -/
def State.indexUsed (s : State) (serial : Nat) : Bool := s.query.runs.any fun r => r.view.serial == serial

/-- One change published in the state: versions that it replaces give their slots back once no query holds them. -/
def publishOne (p : Publish) (s : State) : State :=
  let before := s.idx.live
  let (l, q) := applyChange p.change (s.idx.queue.filter (· != p)) before
  let s := onIdx (fun x => { x with live := l, queue := q }) s
  match p.change with
  | .drop n =>
    match before.find? fun x => x.serial == n with
    | some ix => staleCentroids ix.num (onIdx (fun x => { x with dropped := x.dropped ++ [{ ix with state := .dropping }] }) s)
    | none => s
  | .train n _ | .retrain n _ _ _ =>
    match before.find? fun x => x.serial == n with
    | some ix => releaseSlots ix.slots (staleCentroids ix.num s)
    | none => s
  | .fold n l _ _ =>
    match before.find? fun x => x.serial == n with
    | some ix => releaseSlots (ix.list l).slots s
    | none => s
  | _ => s

/-- Changes due at a boundary, in commit order (R80 step 5, R81), with fuel. -/
def publishDue : Nat → State → State
  | 0, s => s
  | f + 1, s =>
    match s.idx.queue.find? fun p => decide (bellsFrom p.at' s.bell.count < 2 ^ 47) with
    | some p => publishDue f (publishOne p s)
    | none => s

/-! ### Journal and mirror of a commit (R163, R309, R381, R440) -/

/-- Change units that a number of bytes takes. -/
def changeUnits (bytes : Nat) : Nat := max 1 (ceilDiv bytes unitBytes)

/-- The change record of a commit; under write-through its units are programmed with it (R385). -/
def journalChange (n bytes : Nat) (s : State) : State :=
  let s := onFtl (fun t => { t with
    staging := t.staging ++ [⟨false, 0, none, 0, s.writeThrough, List.replicate (changeUnits bytes) n⟩]
    flushMark := false }) s
  if s.writeThrough then programJournal s else s

/-- A commit of so many bytes passes neither limit of R381. -/
def State.changeFits (s : State) (bytes : Nat) : Bool :=
  s.writeThrough || decide (s.exposed + changeUnits bytes ≤ 1024 ∧ (s.ftl.staging.length + 1) * 16 ≤ 16777216)

/-- The buddy of this member (R42, R309). -/
def State.buddy (s : State) : Nat := (s.plain.member + s.img.active.plain.buddyOffset) % max 1 s.members

/-- The index is mirrored, and the buddy can take it. -/
def State.mirrors (s : State) (ix : Index) : Bool :=
  ix.mirror && s.img.active.plain.flags.testBit 0 && s.isMember && s.isPresent s.buddy

/-- A pending entry in the layout of R155. -/
def pendBlob (ix : Index) (p : Pend) : Blob :=
  (Blob.concat [fld 8 p.entry.id.toNat, fld 4 p.list, rsv 4, p.entry.attr.fit ix.attrLen,
    Blob.ofBytes (p.entry.fine.map (BitVec.ofNat 8)),
    fld 8 ((p.entry.coarse.zipIdx).foldl (fun a c => a + c.1 * 16 ^ c.2) 0), Blob.ofBytes (vecBytes ix.full p.entry.vec)]).fit ix.pendBytes

/-- What the owner sends its buddy; while the buddy is away its mirror falls behind. -/
def sendMirror (ix : Index) (m : MirrorMsg) (s : State) : State :=
  if !(ix.mirror && s.img.active.plain.flags.testBit 0 && s.isMember) then s
  else if s.isPresent s.buddy then sendTo s.buddy 0 (.mirror m) s
  else onIdx (fun x => { x with behind := true }) s

/-- Parameters of an index, then its centroid data, as one piece message (log 20). -/
def centMessage (ix : Index) : MirrorMsg :=
  .piece ix.num 1048576 0 (Blob.concat ([fld 1 0, fld 1 ix.num, fld 2 ix.dim, fld 4 ix.centroids, fld 1 ix.m, fld 1 (bit ix.coarse),
    fld 1 ix.metric, fld 1 ix.attrLen, fld 1 ix.full, fld 1 1, rsv 2, fld 4 ix.reserve, rsv 12] ++
    (match ix.cent with
      | some c => [Blob.ofBytes (c.cents.flatMap fun v => vecBytes 8 v),
          Blob.ofBytes (c.fine.flatMap fun bk => bk.flatMap fun e => vecBytes 10 e),
          Blob.ofBytes (c.coarse.flatMap fun bk => bk.flatMap fun e => vecBytes 10 e), Blob.ofBytes (c.terms.flatMap fun t => vecBytes 8 t)]
      | none => [])))

/-- A list version as one piece message: its entries in ordinal order, each in the layout of R155. -/
def listMessage (ix : Index) (l : Nat) (v : ListVer) : MirrorMsg :=
  .piece ix.num l v.version (Blob.concat (v.entries.map fun e => pendBlob ix ⟨0, l, e, 0, 0, v.coarse, false⟩))

/-! ### Create and Drop (R156 to R159) -/

/-- Entries in the coarse-code store. -/
def coarseStore : Nat := 1610612736

/-- Coarse store that no index has reserved. -/
def State.coarseFree (s : State) : Nat :=
  coarseStore - (s.working.foldl (fun a x => a + x.reserve) 0 + s.idx.dropped.foldl (fun a x => a + x.reserve) 0)

/-- A field, or its default where it is all ones. -/
def orDefault (n v d : Nat) : Nat := if v = 256 ^ n - 1 then d else v

/-- The fields of Index Create (R157). -/
def State.createFieldsOk (s : State) (b : Blob) : Bool :=
  let q := s.host.queryDef
  let dim := b.le 2 2
  let cents := orDefault 4 (b.le 4 4) q.centroids
  let m := orDefault 1 (b.le 8 1) q.subspaces
  let coarse := orDefault 1 (b.le 9 1) q.coarse
  let attr := b.le 0xB 1
  let res := b.le 0x10 4
  decide (b.le 1 1 ≤ 15 ∧ 32 ≤ dim ∧ dim ≤ 2048 ∧ dim % 32 = 0 ∧ 1 ≤ cents ∧ cents ≤ 1048576 ∧ coarse ≤ 1 ∧
      orDefault 1 (b.le 0xA 1) q.metric ≤ 2 ∧ attr ≤ 64 ∧ attr % 8 = 0 ∧ orDefault 1 (b.le 0xD 1) 1 ≤ 1) &&
    subspacesOk m && decide (dim % m = 0) && [0, 8, 9, 10].contains (b.le 0xC 1) &&
    b.zeroAt 0xE 2 && b.zeroAt 0x14 12 && (coarse == 0 || res == 0xFFFFFFFF || decide (res ≤ 4000000000))

/-- Index Create. -/
def createIndex (h : Hdr) (b : Blob) (s : State) : State :=
  let q := s.host.queryDef
  let dim := b.le 2 2
  let cents := orDefault 4 (b.le 4 4) q.centroids
  let m := orDefault 1 (b.le 8 1) q.subspaces
  let coarse := orDefault 1 (b.le 9 1) q.coarse
  let metric := orDefault 1 (b.le 0xA 1) q.metric
  let attr := b.le 0xB 1
  let full := b.le 0xC 1
  let mirror := orDefault 1 (b.le 0xD 1) 1
  let res := b.le 0x10 4
  if !(s.createFieldsOk b) then finish h stInvalidField s
  else if (s.index? (b.le 1 1)).isSome then finish h stSequence s
  else if 16 ≤ s.working.length then finish h stIndexLimit s
  else
    let reserve := if coarse = 0 then 0 else if res = 0xFFFFFFFF then s.coarseFree else res
    if s.coarseFree < reserve then finish h stNsCapacity s
    else
      let (k, s) := draw s
      let n := s.idx.nextSerial
      let ix : Index := ⟨b.le 1 1, n, dim, cents, m, coarse == 1, metric, attr, full, mirror == 1, reserve, .untrained, none, [], [], []⟩
      let s := { s with sec := { s.sec with idxKeys := setKey n k s.sec.idxKeys } }
      finish h stOk (sendMirror ix (centMessage ix) (commitChange (.create ix) (onIdx (fun x => { x with nextSerial := n + 1 }) s)))

/-- Index Drop. -/
def dropIndex (h : Hdr) (b : Blob) (s : State) : State :=
  if 15 < b.le 1 1 || !(b.zeroAt 2 30) then finish h stInvalidField s
  else match s.index? (b.le 1 1) with
    | none => finish h stIndexNotFound s
    | some ix =>
      if s.dropQueued ix.serial then finish h stOk s
      else finish h stOk (sendMirror ix (.piece ix.num 1048576 0 (Blob.zero 0)) (commitChange (.drop ix.serial) s))

/-- A built-in program with its parameter block, of `n` bytes or more. -/
def withBlock (h : Hdr) (p : ParamRef) (n : Nat) (k : Blob → State → State) (s : State) : State :=
  match paramBlock p s with
  | .error st => failProgram h st p s
  | .ok b => if b.len < n then finish h stInvalidField s else k b s

/-- Index Create/Drop, by ACTION. -/
def indexProgram (h : Hdr) (b : Blob) (s : State) : State :=
  if b.le 0 1 = 0 then createIndex h b s
  else if b.le 0 1 = 1 then dropIndex h b s
  else finish h stInvalidField s

/-- INDEX_CREATE. -/
def execIndexCreate (h : Hdr) (room : Nat) (p : ParamRef) (s : State) : Res :=
  .next (admitRoom h (.indexCreate h room p) room (fun _ s => withBlock h p 0x20 (indexProgram h) s) s)

/-- INDEX_DROP. -/
def execIndexDrop (h : Hdr) (room : Nat) (p : ParamRef) (s : State) : Res :=
  .next (admitRoom h (.indexDrop h room p) room (fun _ s => withBlock h p 0x20 (indexProgram h) s) s)

/-- INDEX_SPACE_FREED: the last query on a dropped index has finished (R159). -/
def execIndexSpaceFreed (serial : Nat) (s : State) : Res :=
  .next (match s.idx.dropped.find? fun x => x.serial == serial with
    | none => s
    | some ix =>
      if s.indexUsed serial then s
      else
        let s := onIdx (fun x => { x with dropped := x.dropped.filter fun y => y.serial != serial }) s
        releaseSlots ix.slots { s with sec := { s.sec with idxKeys := dropKey serial s.sec.idxKeys } })

/-! ### Sources in memory namespaces -/

/-- Bytes that a program takes from NSID 73 or 74: none where the span leaves the namespace; where some of it is poisoned or lost the
program ends with Unrecovered Read Error (log 17). -/
def sourceBytes (nsid ofst len : Nat) (s : State) : Except Status Blob :=
  if !(isMemNs nsid) || !(memFits nsid ofst len) then .error stInvalidField
  else if s.spanLost nsid ofst len || (s.ram nsid).poisoned ofst len then .error stUnrecovered
  else .ok (memRead nsid ofst len s)

/-- Whether an index program may go on: the index exists, and for those that add to it the endurance group is not read-only (R106). -/
def withIndex (h : Hdr) (num : Nat) (writes : Bool) (k : Index → State → State) (s : State) : State :=
  match s.index? num with
  | none => finish h stIndexNotFound s
  | some ix => if writes && s.readOnly then finish h stIndexReadOnly s else k ix s

/-! ### Train (R160, R161, R437) -/

/-- Every entry of an index, published or pending, those of list versions with their place. -/
def Index.entryCount (ix : Index) : Nat :=
  ix.lists.foldl (fun a l => a + l.2.entries.length) 0 + ix.pending.length

/-- Training from examples. -/
def trainExamples (h : Hdr) (ix : Index) (iters : Nat) (seed : BitVec 64) (xs : List (List F32)) (s : State) : State :=
  match (xs.zipIdx).find? fun x => vecBad ix.metric x.1 with
  | some x => finishDw h stInvalidField x.2 s
  | none =>
    if s.dropQueued ix.serial then finish h stIndexNotFound s
    else match placeCents ix (trainData ix seed iters xs) s with
    | none => finish h stNsCapacity s
    | some (c, s) =>
      finish h stOk (sendMirror ix (centMessage { ix with cent := some c }) (commitChange (.train ix.serial c) s))

/-- The lists of a retrained index, one after another, in ascending number. -/
def placeLists (ix : Index) (ver : Nat) : List (Nat × List Entry) → List Nat → State → Option (List (Nat × ListVer) × State)
  | [], _, s => some ([], s)
  | (l, es) :: r, held, s =>
    match placeList ix l ver es [] ix.coarse held s with
    | none => none
    | some (v, s) =>
      match placeLists ix ver r (held ++ v.slots) s with
      | none => none
      | some (vs, s) => some ((l, v) :: vs, s)

/-- Retraining from the stored vectors: every live entry is encoded again into a new version of its list. -/
def retrain (h : Hdr) (ix : Index) (iters n : Nat) (seed : BitVec 64) (s : State) : State :=
  let old := ix.lists.flatMap fun l => (l.2.entries.zipIdx).filterMap fun e =>
    if l.2.dead.contains e.2 then none else some (some (l.1, e.2), 0, e.1)
  let pend := (ix.pending.filter fun p => !p.dead).map fun p => ((none : Option (Nat × Nat)), p.num, p.entry)
  let all := old ++ pend
  if all.length < n then finish h stInvalidField s
  else if s.dropQueued ix.serial then finish h stIndexNotFound s
  else
    let c := trainData ix seed iters (sample seed n (ix.centroids + 512 * ix.m) (all.map fun e => e.2.2.vec))
    match placeCents ix c s with
    | none => finish h stNsCapacity s
    | some (c, t) =>
      let coded := all.map fun e =>
        let (l, f, co, v) := encodeVec ix c e.2.2.vec
        (e.1, e.2.1, l, ({ e.2.2 with fine := f, coarse := co, vec := keptVec ix v } : Entry))
      let lists := ((coded.map fun e => e.2.2.1).eraseDups).map fun l => (l, coded.filter fun e => e.2.2.1 == l)
      let lists := sortBy (fun x y => decide (x.1 < y.1)) lists
      let places := lists.flatMap fun l => (l.2.zipIdx).map fun e => (e.1.1, e.1.2.1, (l.1, e.2))
      let mv : Moves := ⟨places.filterMap fun p => p.1.map fun o => (o, p.2.2),
        (places.filter fun p => p.1.isNone).map fun p => (p.2.1, p.2.2), (ix.pending.filter (·.dead)).map (·.num)⟩
      let ver := ix.lists.foldl (fun a l => max a l.2.version) 0 + 1
      match placeLists ix ver (lists.map fun l => (l.1, l.2.map fun e => e.2.2.2)) c.lsns t with
      | none => finish h stNsCapacity s
      | some (vs, t) =>
        let t := commitChange (.retrain ix.serial c vs mv) t
        let t := sendMirror ix (centMessage { ix with cent := some c }) t
        finish h stOk (vs.foldl (fun t v => sendMirror ix (listMessage ix v.1 v.2) t) t)

/-- A retrain of an index has committed and is not published yet. -/
def State.retraining (s : State) (serial : Nat) : Bool :=
  s.idx.queue.any fun p => match p.change with
    | .retrain n _ _ _ => n == serial
    | _ => false

/-- Inserts that wait are encoded against new centroid data, from their own vectors (R282). -/
def recodeWaiting (ix : Index) (c : CentData) (s : State) : State :=
  let again := fun (p : Pend) =>
    let (l, f, co, _) := encodeVec ix c p.entry.vec
    { p with list := l, entry := { p.entry with fine := f, coarse := co } }
  onIdx (fun x => { x with waiting := x.waiting.map fun w =>
    if w.serial = ix.serial then { w with ents := w.ents.map again, rest := w.rest.map again } else w }) s

/-- A running Train Step has this index in its bucket table (R282). -/
def State.stepUses (s : State) (num : Nat) : Bool :=
  s.train.steps.any fun t => t.buckets.any fun b => decide (1 ≤ b.kind ∧ b.kind ≤ 3) && b.index == num

/-- A Train Step has committed a part of this index and has not been applied yet: inserts and folds hold their commit (R282). -/
def State.stepHolds (s : State) (num : Nat) : Bool :=
  s.train.steps.any fun t =>
    (match t.phase with
      | .running | .applyAt _ => true
      | _ => false) &&
    t.buckets.any fun b => decide (1 ≤ b.kind ∧ b.kind ≤ 3) && b.index == num && (b.reduced.isSome || !b.commits.isEmpty)

/-- The fields of Index Train (R160). -/
def indexTrainFieldsOk (b : Blob) : Bool :=
  let iters := if b.le 3 1 = 255 then 20 else b.le 3 1
  decide (b.le 0 1 ≤ 15 ∧ b.le 1 1 ≤ 1 ∧ 1 ≤ iters ∧ iters ≤ 64) && b.zeroAt 0xC 4 &&
    (if b.le 1 1 = 0 then [8, 9, 10].contains (b.le 2 1) && isMemNs (b.le 8 4) && decide (b.le 0x10 8 % 8 = 0)
      else b.le 2 1 == 0 && b.zeroAt 8 4)

/-- Index Train. -/
def trainCore (h : Hdr) (b : Blob) (s : State) : State :=
  let mode := b.le 1 1
  let fmt := b.le 2 1
  let iters := if b.le 3 1 = 255 then 20 else b.le 3 1
  let n := b.le 4 4
  let seed := BitVec.ofNat 64 (b.le 0x18 8)
  if !(indexTrainFieldsOk b) then finish h stInvalidField s
  else withIndex h (b.le 0 1) true (fun ix s =>
    if n < max ix.centroids 256 || 16777216 < n then finish h stInvalidField s
    else if s.retraining ix.serial || s.stepUses ix.num then finish h stSequence s
    else if mode = 0 then
      if 0 < ix.entryCount then finish h stSequence s
      else
        let size := ix.dim * compBytes fmt
        match sourceBytes (b.le 8 4) (b.le 0x10 8) (n * size) s with
        | .error st => failProgram h st ⟨b.le 8 4, b.le 0x10 8, n * size⟩ s
        | .ok d => trainExamples h ix iters seed ((List.range n).map fun i => readVec d (i * size) ix.dim fmt) s
    else if ix.full = 0 then finish h stInvalidField s
    else if ix.state == .untrained then finish h stSequence s
    else retrain h ix iters n seed s) s

/-- INDEX_TRAIN. -/
def execIndexTrain (h : Hdr) (room : Nat) (p : ParamRef) (s : State) : Res :=
  .next (admitRoom h (.indexTrain h room p) room (fun _ s => withBlock h p 0x20 (trainCore h) s) s)

/-! ### Insert (R155, R156, R162, R163) -/

/-- Entries that exist on the drive, and those that wait to commit. -/
def State.entriesNow (s : State) : Nat := s.working.foldl (fun a x => a + x.entryCount) 0

/-- Bytes of the pending area in use. -/
def State.pendingUsed (s : State) : Nat := s.working.foldl (fun a x => a + x.pending.length * x.pendBytes) 0

/-- Entries for pending numbers from `n` on. -/
def numberPends (n room : Nat) (l : List (Nat × Entry)) : List Pend :=
  (l.zipIdx).map fun x => ⟨n + x.2, x.1.1, x.1.2, 0, room, false, false⟩

/-- An insert, or the groups of an Embed and Insert, put in line for their commits. The first group is shown to the buddy at once. -/
def waitInsert (h : Hdr) (ix : Index) (room : Nat) (groups : List (List Pend)) (e : Option EmbedOut) (s : State) : State :=
  let first := groups.headD []
  let w : Waiting := ⟨s.idx.nextWait, h, ix.serial, room, first, (groups.drop 1).flatMap id, 0, s.mirrors ix, !(s.mirrors ix), e⟩
  sendMirror ix (.pendingEntries ix.num w.wid (Blob.concat (first.map (pendBlob ix))))
    (onIdx (fun x => { x with waiting := x.waiting ++ [w], nextWait := x.nextWait + 1 }) s)

/-- Bytes of a source record (R162). -/
def recordBytes (ix : Index) (fmt : Nat) : Nat := (8 + ix.attrLen + ix.dim * compBytes fmt + 7) / 8 * 8

/-- The fields of Index Insert (R162). -/
def insertFieldsOk (b : Blob) : Bool :=
  decide (b.le 0 1 ≤ 15 ∧ b.le 4 4 ≤ 1048576 ∧ b.le 0x10 8 % 8 = 0) && [8, 9, 10].contains (b.le 1 1) && b.zeroAt 2 2 &&
    isMemNs (b.le 8 4) && b.zeroAt 0xC 4 && b.zeroAt 0x18 8

/-- Index Insert. -/
def insertCore (h : Hdr) (room : Nat) (b : Blob) (s : State) : State :=
  let fmt := b.le 1 1
  let n := b.le 4 4
  if !(insertFieldsOk b) then finish h stInvalidField s
  else if n = 0 then finish h stOk s
  else withIndex h (b.le 0 1) true (fun ix s =>
    match ix.cent with
    | none => finish h stSequence s
    | some c =>
      if 268435456 < n * ix.pendBytes then finish h stInvalidField s
      else
        let size := recordBytes ix fmt
        match sourceBytes (b.le 8 4) (b.le 0x10 8) (n * size) s with
        | .error st => failProgram h st ⟨b.le 8 4, b.le 0x10 8, n * size⟩ s
        | .ok d =>
          let vec := fun (i : Nat) => readVec d (i * size + 8 + ix.attrLen) ix.dim fmt
          match (List.range n).find? fun i => vecBad ix.metric (vec i) with
          | some i => finishDw h stInvalidField i s
          | none =>
            if 4000000000 < s.entriesNow + n then finish h stIndexLimit s
            else
              let es := (List.range n).map fun i =>
                let (l, f, co, v) := encodeVec ix c (vec i)
                (l, (⟨BitVec.ofNat 64 (d.le (i * size) 8), d.slice (i * size + 8) ix.attrLen, f, co, v⟩ : Entry))
              let ps := numberPends s.idx.nextPend room es
              waitInsert h ix room [ps] none (begin' h .program (onIdx (fun x => { x with nextPend := x.nextPend + n }) s))) s

/-- INDEX_INSERT. -/
def execIndexInsert (h : Hdr) (room : Nat) (p : ParamRef) (s : State) : Res :=
  .next (admitRoom h (.indexInsert h room p) room (fun _ s => withBlock h p 0x20 (insertCore h room) s) s)

/-- References of an Embed and Insert that are finished once so many entries have committed (R199). -/
def embedDone : List Nat → Nat → Nat
  | [], _ => 0
  | n :: r, c => if n ≤ c then embedDone r (c - n) + 1 else 0

/-- The header and the outcome records of the references finished (R198). -/
def writeEmbed (e : EmbedOut) (committed : Nat) (s : State) : State :=
  let os := e.outcomes.take (embedDone e.left committed)
  let head := Blob.concat [fld 4 os.length, fld 4 (os.filter fun o => o.vectors == 0).length, fld 8 committed,
    fld 8 (os.foldl (fun a o => a + o.rejected) 0), fld 8 e.padded, rsv 32]
  memWrite e.nsid e.ofst (head.append (Blob.concat (os.map fun o =>
    Blob.concat [fld 1 o.outcome, rsv 3, fld 4 o.vectors, fld 4 o.rejected, fld 4 o.firstReject]))) s

/-- The command of a waiting insert ends. -/
def endWaiting (w : Waiting) (st : Status) (s : State) : State :=
  let s := onIdx (fun x => { x with waiting := x.waiting.filter fun y => y.wid != w.wid }) s
  finish w.hdr st s

/-- One group commits (R163): its entries are published together. -/
def commitGroup (ix : Index) (w : Waiting) (s : State) : State :=
  let now := s.bell.count.toNat
  let ents := w.ents.map fun (p : Pend) => { p with bell := now, entry := { p.entry with vec := keptVec ix p.entry.vec } }
  let s := journalChange w.wid (ents.length * ix.pendBytes) (commitChange (.insert ix.serial ents) s)
  let s := match w.embed with
    | some e => writeEmbed e (w.committed + ents.length) s
    | none => s
  if w.rest.isEmpty then endWaiting w stOk s
  else
    let next := w.rest.take 4096
    let w' := { w with ents := next, rest := w.rest.drop 4096, committed := w.committed + ents.length, confirmed := !(s.mirrors ix), mirrored := s.mirrors ix }
    sendMirror ix (.pendingEntries ix.num w.wid (Blob.concat (next.map (pendBlob ix))))
      (onIdx (fun x => { x with waiting := x.waiting.map fun y => if y.wid = w.wid then w' else y }) s)

/-- INSERT_COMMIT: the entries fit the pending area and the limits of R381, and the buddy has them. -/
def execInsertCommit (wid : Nat) (s : State) : Res :=
  .next (match s.idx.waiting.find? fun w => w.wid == wid with
    | none => s
    | some w =>
      if !s.up then s
      else match s.working.find? fun x => x.serial == w.serial && !(s.dropQueued w.serial) with
        | none => endWaiting w stIndexNotFound s
        | some ix =>
          let bytes := w.ents.length * ix.pendBytes
          if 536870912 < s.pendingUsed + bytes || !(s.changeFits bytes) || !(w.confirmed || !(s.mirrors ix)) || s.stepHolds ix.num then s
          else if w.embed.isSome && decide (4000000000 < s.entriesNow + w.ents.length) then endWaiting w stIndexLimit s
          else commitGroup ix w s)

/-! ### Delete (R166, R167) -/

/-- Entries of a list that carry an ID, where its ID pieces can be read. -/
def findInList (s : State) (ix : Index) (l : Nat × ListVer) (id : BitVec 64) : List (Nat × Nat) :=
  (l.2.entries.zipIdx).filterMap fun e =>
    let piece := l.2.ids[e.2 / max 1 ix.perPiece]?
    if e.1.id == id && (match piece with
      | some lsn => s.mapOf lsn != some .lost
      | none => true) then some (l.1, e.2) else none

/-- The fields of Index Delete (R166). -/
def deleteFieldsOk (b : Blob) : Bool :=
  decide (b.le 0 1 ≤ 15 ∧ b.le 4 4 ≤ 1048576 ∧ b.le 0x10 8 % 8 = 0) && b.zeroAt 1 3 && isMemNs (b.le 8 4) && b.zeroAt 0xC 4 &&
    b.zeroAt 0x18 8

/-- Index Delete. -/
def deleteCore (h : Hdr) (c : Instr) (b : Blob) (s : State) : State :=
  let n := b.le 4 4
  if !(deleteFieldsOk b) then finish h stInvalidField s
  else if n = 0 then finish h stOk s
  else withIndex h (b.le 0 1) false (fun ix s =>
    match sourceBytes (b.le 8 4) (b.le 0x10 8) (n * 16) s with
    | .error st => failProgram h st ⟨b.le 8 4, b.le 0x10 8, n * 16⟩ s
    | .ok d =>
      let list := fun (i : Nat) => d.le (i * 16 + 8) 4
      match (List.range n).find? fun i => !(d.zeroAt (i * 16 + 12) 4) || !(list i == 0xFFFFFFFF || decide (list i < ix.centroids)) with
      | some i => finishDw h stInvalidField i s
      | none =>
        if s.dropQueued ix.serial then finish h stIndexNotFound s
        else if !(s.changeFits (n * 16)) then hold h c (.room 1) s
        else
          let hits := (List.range n).map fun i =>
            let id := BitVec.ofNat 64 (d.le (i * 16) 8)
            let inL := fun (l : Nat) => list i == 0xFFFFFFFF || list i == l
            ((ix.lists.filter fun l => inL l.1).flatMap fun l => findInList s ix l id,
             (ix.pending.filter fun p => inL p.list && p.entry.id == id).map (·.num))
          let marks := ((hits.flatMap Prod.fst).eraseDups).filter fun m => !(ix.deadMarks.contains m)
          let nums := ((hits.flatMap Prod.snd).eraseDups).filter fun m => !(ix.deadNums.contains m)
          let s := journalChange s.idx.nextPend (n * 16) (commitChange (.delete ix.serial marks nums) s)
          finishDw h stOk (min 0xFFFFFFFF (marks.length + nums.length)) (sendMirror ix (.tombstones ix.num (marks ++
            ((ix.pending.filter fun p => nums.contains p.num).map fun p => (0xFFFFFFFF, p.entry.id.toNat)))) s)) s

/-- INDEX_DELETE. -/
def execIndexDelete (h : Hdr) (room : Nat) (p : ParamRef) (s : State) : Res :=
  .next (admitRoom h (.indexDelete h room p) room (fun _ s => withBlock h p 0x20 (deleteCore h (.indexDelete h room p)) s) s)

/-! ### Folds and compaction (R164 to R166, R334, R360) -/

/-- A new version of a list is committed, at once or once the buddy has confirmed it. -/
def commitFold (ix : Index) (l : Nat) (v : ListVer) (mv : Moves) (s : State) : State :=
  let c := Change.fold ix.serial l v mv
  let tell := fun (s : State) => (if v.dead.isEmpty then id else sendMirror ix (.tombstones ix.num (v.dead.map fun o => (l, o))))
    (sendMirror ix (listMessage ix l v) s)
  if s.mirrors ix then
    tell (onIdx (fun x => { x with building := x.building ++ [⟨ix.serial, l, v.version, c⟩] }) s)
  else journalChange s.idx.nextPend 16 (tell (commitChange c s))

/-- A new version of a list from the entries kept of the old one and from pending entries; nothing happens where it finds no room. -/
def rebuildList (ix : Index) (l : Nat) (keepDead : Bool) (pend : List Pend) (coarse : Bool) (s : State) : State :=
  let old := ix.list l
  let kept := (old.entries.zipIdx).filter fun e => keepDead || !(old.dead.contains e.2)
  let live := pend.filter fun p => !p.dead
  let es := kept.map Prod.fst ++ live.map (·.entry)
  let dead := if keepDead then old.dead else []
  let mv : Moves := ⟨(kept.zipIdx).map fun e => ((l, e.1.2), (l, e.2)),
    (live.zipIdx).map fun p => (p.1.num, (l, kept.length + p.2)), (pend.filter (·.dead)).map (·.num)⟩
  if s.bufferRoom < ix.unitsFor es.length then s
  else match placeList ix l (old.version + 1) es dead coarse [] s with
    | none => s
    | some (v, s) => commitFold ix l v mv s

/-- A fold or a compaction of a list is under way. -/
def State.folding (s : State) (serial l : Nat) : Bool :=
  s.idx.building.any (fun b => b.serial == serial && b.list == l) ||
  s.idx.queue.any fun p => match p.change with
    | .fold n m _ _ => n == serial && m == l
    | .retrain n _ _ _ => n == serial
    | _ => false

/-- A fold of a list's published pending entries (R164). Coarse codes of the new version: every entry has one. -/
def foldList (index l : Nat) (s : State) : State :=
  match s.idx.live.find? fun x => x.num == index with
  | none => s
  | some ix =>
    let pend := ix.pending.filter fun p => p.list == l
    let old := pend.any fun p => decide (p.bell + 64 ≤ s.bell.count.toNat)
    if s.readOnly || s.ftl.exhausted || s.stepHolds ix.num || s.folding ix.serial l || s.dropQueued ix.serial || !(decide (1024 ≤ pend.length) || old) then s
    else rebuildList ix l true pend (ix.carries l && pend.all fun p => p.dead || p.hasCoarse) s

/-- LIST_FOLD. -/
def execListFold (index list : Nat) (s : State) : Res := .next (if s.up then foldList index list s else s)

/-- Compaction of an index in recess: lists with marked entries are rewritten without them, and lists that lack coarse codes get them
back in ascending number while the reserve has room (R165, R166). -/
def compactIndex (ix : Index) (s : State) : State :=
  (ix.lists.foldl (fun (a : Nat × State) l =>
    let lacks := ix.coarse && !l.2.coarse
    let back := lacks && decide (a.1 + l.2.entries.length ≤ ix.reserve)
    if (l.2.dead.isEmpty && !back) || a.2.folding ix.serial l.1 then a
    else
      (if back then a.1 + l.2.entries.length else a.1, rebuildList ix l.1 false [] (l.2.coarse || back) a.2))
    (ix.coarseCount, s)).2

/-- Index work of a recess (R75, R167, R334). -/
def indexRecess (s : State) : State :=
  if s.readOnly || s.ftl.exhausted then s
  else s.idx.live.foldl (fun s ix => if s.dropQueued ix.serial || s.stepHolds ix.num then s else compactIndex ix s) s

end Sys2Proof.Machine
end

