-- ==== Sys2Proof/Machine/Scan.lean ====
section
/-! DEFINITION. Field values and predicates (R138, R139), and the records and the result of a Filtered Scan (R144 to R150, R436). -/

namespace Sys2Proof.Machine

/-! ### Field values (R138, R139) -/

/-- Width of a field type in bytes. -/
def typeWidth (t : Nat) : Nat := [1, 2, 4, 8, 1, 2, 4, 8, 4, 8, 8].getD t 8

/-- The value of a field from its bytes as a little-endian number. A byte string counts from its lowest offset. -/
def typeValue (t raw : Nat) : Num :=
  if t ≤ 3 then .fin raw 0
  else if t ≤ 7 then .fin (toSigned (8 * typeWidth t) raw) 0
  else if t = 8 then fFP32.decode raw
  else if t = 9 then fFP64.decode raw
  else .fin (beNat (leBytes 8 raw) : Nat) 0

/-! ### Predicates -/

/-- A predicate of 24 bytes against a record length; none where it is out of range. -/
def parsePred (b : Blob) (len : Nat) : Option Pred :=
  let t := b.le 2 1
  let op := b.le 3 1
  let w := typeWidth t
  let a := b.le 8 8
  let c := b.le 0x10 8
  let x := typeValue t a
  let y := typeValue t c
  if decide (t ≤ 10 ∧ op ≤ 9 ∧ b.le 4 1 ≤ 31 ∧ b.le 0 2 + w ≤ len ∧ a < 256 ^ w ∧ c < 256 ^ w) && b.zeroAt 5 3 &&
      (op == 6 || c == 0) && (decide (op < 7) || decide (t ≤ 3) || t == 10) && !x.isNan && !y.isNan && !(op == 6 && y.lt x) then
    some ⟨b.le 0 2, t, op, b.le 4 1, a, c⟩
  else none

/-- The predicates of a parameter block, from offset 40h. -/
def parsePreds (b : Blob) (n len : Nat) : Option (List Pred) :=
  (List.range n).foldr (fun i acc => match parsePred (b.slice (0x40 + 24 * i) 24) len, acc with
    | some p, some l => some (p :: l)
    | _, _ => none) (some [])

/-- The bytes of a predicate. -/
def Pred.bytes (p : Pred) : Blob :=
  Blob.concat [fld 2 p.ofst, fld 1 p.type, fld 1 p.op, fld 1 p.group, rsv 3, fld 8 p.a, fld 8 p.b]

/-- One predicate on a record. A field that holds a NaN matches under OP 1 alone. -/
def Pred.holds (p : Pred) (r : Blob) : Bool :=
  let raw := r.le p.ofst (typeWidth p.type)
  let v := typeValue p.type raw
  let a := typeValue p.type p.a
  match p.op with
  | 0 => v.eq a
  | 1 => !(v.eq a)
  | 2 => v.lt a
  | 3 => v.lt a || v.eq a
  | 4 => a.lt v
  | 5 => a.lt v || v.eq a
  | 6 => (a.lt v || v.eq a) && (v.lt (typeValue p.type p.b) || v.eq (typeValue p.type p.b))
  | 7 => raw &&& p.a == p.a
  | 8 => raw &&& p.a != 0
  | _ => raw &&& p.a == 0

/-- A record matches: every group present has a predicate that holds. -/
def predsMatch (ps : List Pred) (r : Blob) : Bool := ps.all fun p => ps.any fun q => q.group == p.group && q.holds r

/-! ### Records of a unit (R146, R148, R150) -/

/-- The order of keys: a NaN after every other key, in either order. -/
def keyBefore (t : Nat) (desc : Bool) (x y : Nat) : Bool :=
  let a := typeValue t x
  let b := typeValue t y
  if a.isNan then false
  else if b.isNan then true
  else if desc then b.lt a else a.lt b

/-- A result record stands before another in a run's order. -/
def recBefore (r : ScanRun) (x y : ScanRec) : Bool :=
  let place := decide (x.unitLba < y.unitLba ∨ (x.unitLba = y.unitLba ∧ x.record < y.record))
  if r.mode = 2 then
    if keyBefore r.keyType r.keyDesc x.key y.key then true
    else if keyBefore r.keyType r.keyDesc y.key x.key then false
    else place
  else place

/-- Result records that a run may write. -/
def ScanRun.best (r : ScanRun) : Nat := if r.mode = 2 then min r.cap 4096 else r.cap

/-- Records of a 64 KiB unit. -/
def ScanRun.perUnit (r : ScanRun) : Nat := 2 ^ (16 - r.shift)

/-- One record of a unit evaluated. -/
def scanRecord (u : UnitData) (lba : Nat) (r : ScanRun) (i : Nat) : ScanRun :=
  let len := 2 ^ r.shift
  let o := i * len
  if u.lost || u.poison.any fun g => decide (g * 64 < o + len ∧ o < g * 64 + 64) then { r with poisoned := r.poisoned + 1 }
  else
    let b := u.data.slice o len
    let r := { r with scanned := r.scanned + 1 }
    if !(predsMatch r.preds b) then r
    else
      let key := if r.mode = 2 then b.le r.keyOfst (typeWidth r.keyType) else 0
      let r := { r with matched := r.matched + 1 }
      if r.mode = 0 then r
      else { r with recs := r.recs ++ [⟨lba, i, key, if r.project then b else Blob.zero 0⟩] }

/-- A unit that has come down the pipeline: its records are evaluated, and only those that can be written are kept. -/
def scanUnit (unit : Nat) (u : UnitData) (r : ScanRun) : ScanRun :=
  let r := (List.range r.perUnit).foldl (scanRecord u (unit * 16)) r
  { r with
    units := r.units + 1
    busy := r.busy.erase unit
    recs := (sortBy (recBefore r) r.recs).take r.best }

/-! ### The result (R147, R148) -/

/-- Fewer records than every record of the range would have given. -/
def ScanRun.short (r : ScanRun) : Bool :=
  let full := match r.mode with
    | 0 => false
    | 1 => decide (r.cap ≤ r.recs.length)
    | _ => decide (r.best ≤ r.recs.length)
  !full && ((r.mode == 2 && decide (r.matched < r.best)) || decide (0 < r.skipped) || decide (0 < r.poisoned))

def ScanRun.reasons (r : ScanRun) : Nat :=
  if r.short then
    packBits [r.mode == 2 && decide (r.matched < r.best), r.mode == 2 && decide (r.range < r.best), decide (0 < r.skipped),
      decide (0 < r.poisoned)]
  else 0

def ScanRun.header (r : ScanRun) : Blob :=
  Blob.concat [fld 2 (packBits [r.short, r.mode == 1 && decide (r.cap < r.matched)]), fld 1 r.reasons, rsv 1, fld 4 r.recs.length,
    fld 8 r.matched, fld 8 r.scanned, fld 8 r.units, fld 8 r.skipped, fld 8 r.poisoned, fld 8 r.hostTag.toNat,
    fld 6 r.admitBell.toNat, fld 2 r.admitTick]

def ScanRec.blob (x : ScanRec) : Blob := (Blob.concat [fld 8 x.unitLba, fld 2 x.record, rsv 6, fld 8 x.key]).append x.bytes

def onQuery (f : QuerySt → QuerySt) (s : State) : State := { s with query := f s.query }

def State.scan? (s : State) (id : Nat) : Option ScanRun := s.query.scans.find? fun r => r.id == id

def onScan (id : Nat) (f : ScanRun → ScanRun) (s : State) : State :=
  onQuery (fun q => { q with scans := q.scans.map fun r => if r.id = id then f r else r }) s

/-- A scan with nothing left to read ends: the header and the records are written, and the program completes. -/
def settleScan (id : Nat) (s : State) : State :=
  match s.scan? id with
  | none => s
  | some r =>
    if !(r.todo.isEmpty && r.busy.isEmpty) then s
    else
      finish r.hdr stOk (memWrite r.outNsid r.outFirst (r.header.append (Blob.concat (r.recs.map ScanRec.blob)))
        (onQuery (fun q => { q with scans := q.scans.filter fun x => x.id != id }) s))

/-! ### Admission (R144, R145) -/

/-- An output area of a program: in NSID 73 or 74, its first byte a multiple of 8, wholly within one range of a range set of the
classroom. -/
def State.outputOk (s : State) (room nsid first len : Nat) : Bool :=
  isMemNs nsid && first % 8 == 0 && memFits nsid first len && s.inRange (some room) nsid first len

/-- A deadline of a parameter block: FFFF_FFFFh takes the default; none where it is out of range. -/
def State.deadline? (s : State) (v : Nat) : Option Nat :=
  if v = 0xFFFFFFFF then some s.host.queryDef.deadline else if v ≤ 1048575 then some v else none

/-- A position so many ticks later. -/
def posAfter (p n : Nat) : Nat := (p + n) % 2 ^ 58
/-- A position so many ticks earlier. -/
def posBefore (p n : Nat) : Nat := (p + 2 ^ 58 - n % 2 ^ 58) % 2 ^ 58

/-- A Filtered Scan from its parameter block; none where a check of R145 fails. -/
def parseScan (h : Hdr) (room : Nat) (b : Blob) (s : State) : Option ScanRun :=
  let shift := b.le 4 1
  let mode := b.le 5 1
  let project := b.le 6 1
  let n := b.le 7 1
  let slba := b.le 8 8
  let elba := b.le 0x10 8
  let kofst := b.le 0x1C 2
  let ktype := b.le 0x1E 1
  let first := b.le 0x28 8
  let len := b.le 0x30 8 + 1 - first
  let cap := (len - 64) / (24 + project * 2 ^ shift)
  if !(decide (3 ≤ shift ∧ shift ≤ 11 ∧ mode ≤ 2 ∧ project ≤ 1 ∧ n ≤ 32 ∧ 0x40 + 24 * n ≤ b.len ∧ slba % 16 = 0 ∧ slba ≤ elba ∧
        (elba + 1) % 16 = 0 ∧ b.le 0x1F 1 ≤ 1 ∧ 64 ≤ len) && b.zeroAt 0x24 4 &&
      (if mode = 2 then decide (ktype ≤ 10 ∧ kofst + typeWidth ktype ≤ 2 ^ shift ∧ 1 ≤ cap) else kofst == 0 && ktype == 0) &&
      s.outputOk room (b.le 0x20 4) first len) then none
  else match s.attached? (b.le 0 4), s.deadline? (b.le 0x18 4), parsePreds b n (2 ^ shift) with
    | some ns, some d, some ps =>
      if ns.lbas ≤ elba then none
      else
        let us := (spanList (slba / 16) ((elba + 1 - slba) / 16)).filter fun u => (s.mapOf (s.lsnOf (ns.base + u))).isSome
        some {
          id := s.query.nextRun, hdr := h, room := room, nsid := ns.nsid, shift := shift, mode := mode, project := project == 1
          preds := ps, keyOfst := kofst, keyType := ktype, keyDesc := b.le 0x1F 1 == 1, outNsid := b.le 0x20 4, outFirst := first
          cap := cap, hostTag := BitVec.ofNat 64 (b.le 0x38 8), admitBell := s.bell.count, admitTick := s.bell.tick
          stop := if d = 0 then none else some (posAfter s.pos d)
          todo := us, busy := [], streams := [], recs := [], matched := 0, scanned := 0, units := 0, skipped := 0, poisoned := 0
          range := us.length * 2 ^ (16 - shift) }
    | _, _, _ => none

end Sys2Proof.Machine
end

