-- ==== Sys2Proof/Machine/Query.lean ====
section
/-! DEFINITION. Vector Query (R140 to R142, R169 to R182, R439): lookup tables and distances, heaps, the deadline's cut-offs, dispatch,
the scoring of a valley's share, the merge, the re-rank and the results. -/

namespace Sys2Proof.Machine

/-! ### Lookup tables and distances (R140, R141, R439) -/

/-- A lookup table: BIAS, SCALE_EXP and the FP16 entries of each subspace. -/
structure Lut where
  bias : F32
  scale : Int
  rows : List (List Nat)
  deriving DecidableEq, Repr

/-- The smallest exponent under which every entry fits FP16. -/
def scaleExp (l : List F32) : Int :=
  (((List.range 256).map fun (i : Nat) => ((i : Int) - 128)).find? fun e => l.all fun x => match f32 x with
    | .fin m g => !((Num.fin 65504 e).lt (.fin m.natAbs g))
    | _ => false).getD 127

/-- A table from its entries before scaling. -/
def makeLut (bias : F32) (rows : List (List F32)) : Lut :=
  let e := scaleExp (rows.flatMap id)
  ⟨bias, e, rows.map fun r => r.map fun x => fFP16.encode ((f32 x).mul (.fin 1 (-e)))⟩

/-- Twice a value, negated, exactly. -/
def minusTwice (x : F32) : F32 := toF32 ((f32 x).mul (.fin (-2) 0))

/-- The table of a query for a list from the fine codebooks. -/
def fineLut (ix : Index) (c : CentData) (q : List F32) (l : Nat) : Lut :=
  let cl := c.cents.getD l []
  let parts := List.zip (splitVec ix.m q) c.fine
  if ix.metric = 0 then
    let terms := c.terms.getD l []
    let cs := splitVec ix.m cl
    makeLut 0 ((parts.zipIdx).map fun p =>
      let a := sqDist p.1.1 (cs.getD p.2 [])
      (p.1.2.zipIdx).map fun e => fadd (fadd (terms.getD (p.2 * 256 + e.2) 0) a) (minusTwice (dotFma p.1.1 e.1)))
  else makeLut (fneg (dotFma q cl)) (parts.map fun p => p.2.map fun e => fneg (dotFma p.1 e))

/-- The table of a query for a list from the coarse codebooks. -/
def coarseLut (ix : Index) (c : CentData) (q : List F32) (l : Nat) : Lut :=
  let cl := c.cents.getD l []
  let parts := List.zip (splitVec 16 q) c.coarse
  if ix.metric = 0 then
    let rs := splitVec 16 (residual q cl)
    makeLut 0 ((parts.zipIdx).map fun p => p.1.2.map fun e => sqDist (rs.getD p.2 []) e)
  else makeLut (fneg (dotFma q cl)) (parts.map fun p => p.2.map fun e => fneg (dotFma p.1 e))

/-- Entries that a code selects, as FP32. -/
def Lut.picks (t : Lut) (code : List Nat) : List F32 :=
  (List.zip t.rows code).map fun p => toF32 (fFP16.decode (p.1.getD p.2 0))

/-- The scaled sum and the bias. -/
def Lut.finish (t : Lut) (sum : F32) : F32 := fadd (toF32 ((f32 sum).mul (.fin 1 t.scale))) t.bias

/-- The distance unit's sum for a fine code. -/
def Lut.fine (t : Lut) (code : List Nat) : F32 := t.finish (pairTree fadd 0 5 (laneFold fadd 0 16 (t.picks code)))

/-- The sum for a coarse code, in ascending subspace order. -/
def Lut.coarse (t : Lut) (code : List Nat) : F32 := t.finish ((t.picks code).foldl fadd 0)

/-- The exact distance of R181: 64 lanes, then the tree. -/
def exactDist (metric : Nat) (q x : List F32) : F32 :=
  let p := List.zip q x
  let lane := fun (f : F32 → F32 × F32 → F32) => (List.range 64).map fun l =>
    ((List.range (ceilDiv p.length 64)).filterMap fun j => p[l + j * 64]?).foldl f 0
  if metric = 0 then pairTree fadd 0 7 (lane fun a y => let d := fsub y.1 y.2; ffma d d a)
  else fneg (pairTree fadd 0 7 (lane fun a y => ffma y.1 y.2 a))

/-! ### Orders and heaps (R142, R175) -/

/-- A smaller distance ranks better; a NaN ranks last. -/
def distBefore (x y : F32) : Bool :=
  if (f32 x).isNan then false else if (f32 y).isNan then true else flt x y

/-- The order of the merge: distance, vector ID, member. -/
def mergeBefore (x y : Cand) : Bool :=
  if distBefore x.dist y.dist then true
  else if distBefore y.dist x.dist then false
  else decide (x.id.toNat < y.id.toNat ∨ (x.id = y.id ∧ x.member < y.member))

/-- The order of a heap: distance, list, ordinal. -/
def heapBefore (x y : Cand) : Bool :=
  if distBefore x.dist y.dist then true
  else if distBefore y.dist x.dist then false
  else decide (x.list < y.list ∨ (x.list = y.list ∧ x.ordinal < y.ordinal))

/-- A candidate meets a heap that keeps `n` entries and may hold `lim`. Answers the candidates dropped as truncated ties. -/
def heapAdd (n lim : Nat) (a : List Cand × Nat) (c : Cand) : List Cand × Nat :=
  match a.1[n - 1]? with
  | none => (insertBy heapBefore c a.1, a.2)
  | some w =>
    if distBefore w.dist c.dist then a
    else if !(distBefore c.dist w.dist) && decide (lim ≤ a.1.length) then (a.1, a.2 + 1)
    else
      let l := insertBy heapBefore c a.1
      let keep := match l[n - 1]? with
        | some v => l.filter fun (x : Cand) => !(distBefore v.dist x.dist)
        | none => l
      (keep.take lim, a.2 + (keep.length - lim))

/-- What a heap sends: its best `n` by distance, then vector ID. -/
def heapBest (n : Nat) (l : List Cand) : List Cand := (sortBy mergeBefore l).take n

/-! ### Parts of a view (R154, R164, R168) -/

/-- The key of a pending entry in the place of an ordinal. -/
def pendKey (num : Nat) : Nat := 2 ^ 40 + num

/-- Whether part of a unit cannot be read, so far as its map entry and its buffer copy show. -/
def State.spanBad (s : State) (lsn ofst len : Nat) : Bool :=
  match s.mapOf lsn with
  | some .lost => true
  | some (.phys p) => match s.buffered p with
    | some u => u.poison.any fun g => decide (g * 64 < ofst + len ∧ ofst < g * 64 + 64)
    | none => false
  | none => false

/-- Entries of piece `j` of a list, `per` in a piece, with their ordinals. -/
def pieceEntries (v : ListVer) (per j : Nat) : List (Entry × Nat) :=
  ((v.entries.drop (j * per)).take per).zipIdx.map fun e => (e.1, j * per + e.2)

/-- Bytes stored of a piece of `n` entries of `size` bytes (R136). -/
def storedBytes (n size : Nat) : Nat := min 65536 (ceilDiv (64 + n * size) 16384 * 16384)

/-- Entries that probed lists hold, pending ones in, tombstoned ones out. -/
def Index.heldIn (ix : Index) (l : Nat) : Nat :=
  let v := ix.list l
  v.entries.length - v.dead.length + (ix.pending.filter fun p => p.list == l && !p.dead).length

/-- Entries of a list with coarse codes. -/
def Index.codedIn (ix : Index) (l : Nat) : Nat :=
  let v := ix.list l
  (if v.coarse && ix.coarse then v.entries.length else 0) + (ix.pending.filter fun p => p.list == l && p.hasCoarse).length

/-! ### Reserves and cut-offs (R177, R180) -/

/-- Spans in ns: the merge reserve and the re-rank allowance. -/
def mergeReserve (k shards : Nat) : Nat := 10000 + 4 * k * shards + (if 1 < shards then 2000 else 0)
def rerankAllowance (r : Nat) : Nat := if r = 0 then 0 else 80000 + 200 * r

/-- A span of `a / b` ns in whole ticks, rounded up, under an estimate of the period in ns. -/
def ticksUp (a b est : Nat) : Nat := ceilDiv (a * 1024) (b * max 1 est)

/-- The coarse allowance in ticks for so many coded entries on so many vector units. -/
def coarseTicks (n vus est : Nat) : Nat := ticksUp (5000 * (48 * max 1 vus) + 10 * n) (48 * max 1 vus) est

/-- Vector units granted to a classroom. -/
def Room.vus (r : Room) : Nat := ((List.range 8).filter r.vu.testBit).length

/-! ### The query as it stands -/

def zeroCounters : QCounters := ⟨false, false, 0, 0, 0, 0, 0, 0, 0, 0, 0⟩

def State.qrun? (s : State) (id : Nat) : Option QRun := s.query.runs.find? fun r => r.id == id

def onQRun (id : Nat) (f : QRun → QRun) (s : State) : State :=
  onQuery (fun q => { q with runs := q.runs.map fun r => if r.id = id then f r else r }) s

def onQStats (f : QStats → QStats) (s : State) : State := onQuery (fun q => { q with stats := f q.stats }) s

/-- Candidates that a heap keeps for each query (R142). -/
def QRun.n (r : QRun) : Nat :=
  if r.exhaustive = 2 ∨ r.rerank = 0 then r.k else min (max r.k r.rerank) 4096

/-- Pieces of a list that a query reads: code pieces, or vector pieces with EXHAUSTIVE 2. -/
def QRun.pieces (r : QRun) (l : Nat) : List Nat := if r.exhaustive = 2 then (r.view.list l).vecs else (r.view.list l).code
def QRun.per (r : QRun) : Nat := max 1 (if r.exhaustive = 2 then r.view.perVec else r.view.perPiece)
def QRun.entrySize (r : QRun) : Nat :=
  if r.exhaustive = 2 then r.view.dim * compBytes r.view.full else r.view.attrLen + r.view.m
def QRun.valleyOf (r : QRun) (l j : Nat) : Nat := ((if r.exhaustive = 2 then l % 32 + 16 else l % 32) + j) % 32

/-- Bytes that a read of a piece takes. -/
def QRun.stored (r : QRun) (l j : Nat) : Nat :=
  storedBytes (pieceEntries (r.view.list l) r.per j).length r.entrySize

/-- FLAGS bit 2 of a record from a mirror, and its MEMBER (R174, R185). -/
def State.ownerOf (s : State) (r : QRun) : Nat := if s.isMember then r.owner else 0xFF
def State.fromMirror (s : State) (r : QRun) : Bool := s.isMember && r.owner != s.plain.member

/-- A candidate. -/
def State.cand (s : State) (r : QRun) (e : Entry) (d : F32) (flags list ordinal : Nat) : Cand :=
  ⟨e.id, d, BitVec.ofNat 16 (flags + (if s.fromMirror r then 4 else 0)), s.ownerOf r, list, ordinal⟩

/-- The query vector as it is scored. -/
def QRun.vecOf (r : QRun) (q : QOne) : List F32 := normalise r.view.metric q.vec

/-! ### Scoring -/

/-- An entry meets the predicates, then gets its distance: a candidate, or a count of the filter. -/
def scoreEntry (s : State) (r : QRun) (d : Unit → F32) (flags list ordinal : Nat) (e : Entry) (a : List Cand × QCounters) :
    List Cand × QCounters :=
  if predsMatch r.preds e.attr then
    (s.cand r e (d ()) flags list ordinal :: a.1, { a.2 with scored := a.2.scored + 1 })
  else (a.1, { a.2 with filtered := a.2.filtered + 1 })

/-- The entries of a piece that has been read, for one query: the latest candidate first. -/
def scorePiece (s : State) (r : QRun) (c : CentData) (q : QOne) (p : QPiece) (a : List Cand × QCounters) : List Cand × QCounters :=
  let v := r.view.list p.list
  let vec := r.vecOf q
  let lut := if r.exhaustive = 2 then makeLut 0 [] else fineLut r.view c vec p.list
  (pieceEntries v r.per p.piece).foldl (fun a e =>
    if v.dead.contains e.2 then a
    else
      let o := 64 + (e.2 % r.per) * r.entrySize
      if p.poison.any fun g => decide (g * 64 < o + r.entrySize ∧ o < g * 64 + 64) then
        (a.1, { a.2 with poisoned := a.2.poisoned + 1 })
      else if r.exhaustive = 2 then scoreEntry s r (fun _ => exactDist r.view.metric vec e.1.vec) 2 p.list e.2 e.1 a
      else scoreEntry s r (fun _ => lut.fine e.1.fine) 0 p.list e.2 e.1 a) a

/-- Pending entries of the probed lists: scored with their fine codes, or exactly with EXHAUSTIVE 2. -/
def scorePending (s : State) (r : QRun) (c : CentData) (q : QOne) (a : List Cand × QCounters) : List Cand × QCounters :=
  let vec := r.vecOf q
  q.lists.foldl (fun a l =>
    let ps := r.view.pending.filter fun p => p.list == l && !p.dead
    if ps.isEmpty then a
    else
      let lut := if r.exhaustive = 2 then makeLut 0 [] else fineLut r.view c vec l
      ps.foldl (fun a p =>
        if r.exhaustive = 2 then scoreEntry s r (fun _ => exactDist r.view.metric vec p.entry.vec) 0xA l (pendKey p.num) p.entry a
        else scoreEntry s r (fun _ => lut.fine p.entry.fine) 8 l (pendKey p.num) p.entry a) a) a

/-- Pieces scanned from coarse codes, as many as were covered; the others are skipped (R179). -/
def scoreCoarse (s : State) (r : QRun) (c : CentData) (q : QOne) (covered : Nat) (a : List Cand × QCounters) :
    List Cand × QCounters :=
  let vec := r.vecOf q
  let a := (q.coarse.take covered).foldl (fun a x =>
    let v := r.view.list x.1
    let lut := coarseLut r.view c vec x.1
    (pieceEntries v r.per x.2).foldl (fun a e =>
      if v.dead.contains e.2 then a else scoreEntry s r (fun _ => lut.coarse e.1.coarse) 1 x.1 e.2 e.1 a) a) a
  (a.1, { a.2 with piecesSkipped := a.2.piecesSkipped + (q.coarse.drop covered).length })

/-- Candidates of the vector units, kept as a valley's heap keeps them. With EXHAUSTIVE 2 every candidate goes to the merge. -/
def keepBest (r : QRun) (l : List Cand) : List Cand :=
  if r.exhaustive = 2 then l else heapBest r.n ((l.foldl (heapAdd (max 1 r.n) 4096) ([], 0)).1)

/-- The ID of a candidate's entry can be read from its ID piece (R150). -/
def State.idReadable (s : State) (r : QRun) (c : Cand) : Bool :=
  let j := c.ordinal / max 1 r.view.perPiece
  match (r.view.list c.list).ids[j]? with
  | some lsn => !(s.spanBad lsn (c.ordinal % max 1 r.view.perPiece * 8) 8)
  | none => true

/-- One query's part of a valley's share: its heap, what it sends, and the counts. Answers the truncated ties and the free entries
left in the heap store. -/
def shareOne (s : State) (r : QRun) (c : CentData) (sh : QShare) (i : Nat) (q : QOne) (free : Nat) : QOne × Nat × Nat :=
  let a := (sh.pieces.filter fun p => p.stage == 2 && p.users.contains i).foldl (fun a p => scorePiece s r c q p a) ([], q.counters)
  let cs := a.1.reverse
  if r.exhaustive = 2 then ({ q with cands := q.cands ++ cs, counters := a.2 }, 0, free)
  else
    let lim := min 4096 (r.n + free)
    let h := cs.foldl (heapAdd (max 1 r.n) (max lim 1)) ([], 0)
    let good := h.1.filter (s.idReadable r)
    let cnt := { a.2 with poisoned := a.2.poisoned + (h.1.length - good.length) }
    ({ q with cands := q.cands ++ heapBest r.n good, counters := cnt }, h.2, free - (h.1.length - r.n))

/-! ### Merge, re-rank and answer (R175, R176, R181) -/

/-- The full vector of a candidate, where it can be read: from the pending area, or from its vector piece. -/
def State.fullVector (s : State) (r : QRun) (c : Cand) : Option (List F32) :=
  if pendKey 0 ≤ c.ordinal then
    (r.view.pending.find? fun p => pendKey p.num == c.ordinal).map fun p => p.entry.vec
  else
    let v := r.view.list c.list
    let per := max 1 r.view.perVec
    let size := r.view.dim * compBytes r.view.full
    let ok := match v.vecs[c.ordinal / per]? with
      | some lsn => !(s.spanBad lsn (64 + c.ordinal % per * size) size)
      | none => false
    if ok then (v.entries[c.ordinal]?).map fun e => e.vec else none

/-- Candidates re-ranked in merge order: the first `ranked` get exact distances, the others keep theirs. -/
def rerankOne (s : State) (r : QRun) (q : QOne) (ranked : Nat) : List Cand × QCounters :=
  let vec := r.vecOf q
  let cs := (sortBy mergeBefore q.cands).take r.rerank
  let out := (cs.take ranked).foldl (fun (a : List Cand × QCounters) c =>
    match s.fullVector r c with
    | some x => ({ c with dist := exactDist r.view.metric vec x, flags := c.flags ||| 2#16 } :: a.1,
        { a.2 with reranked := a.2.reranked + 1 })
    | none => (a.1, { a.2 with poisoned := a.2.poisoned + 1 })) ([], q.counters)
  (out.1.reverse ++ cs.drop ranked, { out.2 with rerankCut := decide (ranked < cs.length) })

/-- What each query of a run answers: its best k and its counters. Re-ranked candidates are counted over the batch in order. -/
def answerAll (s : State) (r : QRun) : List (List Cand × QCounters) :=
  (r.one.foldl (fun (a : List (List Cand × QCounters) × Option Nat) q =>
    if r.rerank = 0 ∨ r.exhaustive = 2 then (a.1 ++ [((sortBy mergeBefore q.cands).take r.k, q.counters)], a.2)
    else
      let n := min q.cands.length r.rerank
      let (cs, cnt) := rerankOne s r q (match a.2 with
        | some left => min left n
        | none => n)
      (a.1 ++ [((sortBy mergeBefore cs).take r.k, cnt)], a.2.map fun left => left - n)) ([], r.rerankCut)).1

/-- Counters of several shards added (R173). -/
def addCounters (x y : QCounters) : QCounters :=
  ⟨x.coarseUsed || y.coarseUsed, x.rerankCut || y.rerankCut, x.listsCoarse + y.listsCoarse, x.listsProbed + y.listsProbed,
   x.listsSkipped + y.listsSkipped, x.piecesSkipped + y.piecesSkipped, x.scored + y.scored, x.filtered + y.filtered,
   x.poisoned + y.poisoned, x.reranked + y.reranked, x.held + y.held⟩

/-- REASONS of a result (R176). -/
def reasonsOf (k count : Nat) (unanswered : Bool) (c : QCounters) : Nat :=
  if k ≤ count then 0
  else packBits [decide (0 < c.filtered), decide (c.held < k), decide (0 < c.listsSkipped ∨ 0 < c.piecesSkipped),
    decide (0 < c.poisoned), unanswered]

/-- A result header (R173). -/
def queryHeader (r : QRun) (tag : BitVec 64) (count : Nat) (unanswered : Bool) (answered mirrored : Nat) (c : QCounters) : Blob :=
  let short := decide (count < r.k)
  Blob.concat [fld 2 (packBits [short, c.coarseUsed, mirrored != 0, c.rerankCut]), fld 1 (reasonsOf r.k count unanswered c), rsv 1,
    fld 2 count, fld 2 (min 65535 c.listsCoarse), fld 2 (min 65535 c.listsProbed), fld 2 (min 65535 c.listsSkipped),
    fld 4 (min 0xFFFFFFFF c.piecesSkipped), fld 8 c.scored, fld 8 c.filtered, fld 4 (min 0xFFFFFFFF c.poisoned),
    fld 4 (min 0xFFFFFFFF c.reranked), fld 3 answered, fld 3 mirrored, fld 2 r.admitTick, fld 8 tag.toNat,
    fld 6 r.admitBell.toNat, rsv 2]

/-- A result record (R174). -/
def queryRecord (tag : BitVec 64) (c : Cand) : Blob :=
  Blob.concat [fld 8 c.id.toNat, fld 8 tag.toNat, fld 4 c.dist.toNat, fld 2 c.flags.toNat, fld 1 c.member, rsv 9]

/-- Counters of a result added to the statistics (R186). -/
def countResult (k count : Nat) (unanswered late : Bool) (c : QCounters) (s : State) : State :=
  let rs := reasonsOf k count unanswered c
  let up := fun (i x : Nat) => if rs.testBit i then bump64 x else x
  onQStats (fun t => { t with
    shortFilter := up 0 t.shortFilter
    shortIndex := up 1 t.shortIndex
    shortDeadline := up 2 t.shortDeadline
    shortPoison := up 3 t.shortPoison
    shortMember := up 4 t.shortMember
    listsCoarse := satAdd 64 t.listsCoarse c.listsCoarse
    listsSkipped := satAdd 64 t.listsSkipped c.listsSkipped
    piecesSkipped := satAdd 64 t.piecesSkipped c.piecesSkipped
    late := if late then bump64 t.late else t.late }) s

/-- A run leaves: pieces that only its view held go back to the pool. -/
def dropQRun (id : Nat) (s : State) : State :=
  match s.qrun? id with
  | none => s
  | some r =>
    let s := onQuery (fun q => { q with runs := q.runs.filter fun x => x.id != id }) s
    if s.idx.live.contains r.view || s.fromMirror r then s
    else if s.idx.dropped.any fun x => x.serial == r.view.serial then s
    else releaseSlots r.view.slots s

/-- The results of query `i` written: header and records in merge order. -/
def writeResult (r : QRun) (nsid first i : Nat) (tag : BitVec 64) (late unanswered : Bool) (answered mirrored : Nat)
    (cs : List Cand) (c : QCounters) (s : State) : State :=
  let recs := (sortBy mergeBefore cs).take r.k
  let t := tag + BitVec.ofNat 64 i
  memWrite nsid (first + i * (64 + 32 * r.k))
    (Blob.concat (queryHeader r t recs.length unanswered answered mirrored c :: recs.map (queryRecord t)))
    (countResult r.k recs.length unanswered late c s)

/-- A bitmap of member numbers. -/
def memberBits (l : List Nat) : Nat := l.foldl (fun a m => a ||| 2 ^ m) 0

/-- A run whose own shard has ended, and to which every shard asked for has answered or never will, ends: the answer is merged and
written, or sent to the head. -/
def finishQuery (r : QRun) (s : State) : State :=
  match r.reply with
  | .host h nsid first tag =>
    let late := match r.cuts with
      | some (_, _, e) => reached e s.pos && s.pos != e
      | none => false
    let good := r.answers.filter (·.answered)
    let bits := if s.isMember then memberBits (good.map (·.owner)) else 1
    let mir := memberBits ((good.filter (·.mirrored)).map (·.owner))
    let un := r.wide && !(s.others ++ [s.plain.member]).all fun m => (s.peer m).state == .none && m != s.plain.member ||
      (s.peer m).state == .left && m != s.plain.member || good.any fun a => a.owner == m
    let s := (List.range r.one.length).foldl (fun s i =>
      let cs := good.flatMap fun a => a.cands.getD i []
      let c := good.foldl (fun x a => addCounters x (a.counters.getD i zeroCounters)) zeroCounters
      writeResult r nsid first i tag late un bits mir cs c s) s
    dropQRun r.id (finish h stOk s)
  | .head _ member _ _ =>
    dropQRun r.id (match r.answers with
      | a :: _ => sendTo member 0 (.answer a) s
      | [] => s)

/-- A run that waits for nothing more ends. -/
def settleQuery (id : Nat) (s : State) : State :=
  match s.qrun? id with
  | none => s
  | some r => if r.own && r.asked.isEmpty then finishQuery r s else s

/-- The number by which the head knows a query. -/
def QRun.qid (r : QRun) : Nat :=
  match r.reply with
  | .host _ _ _ _ => r.id
  | .head _ _ q _ => q

/-- The own shard ends once every valley's share has: what the vector units scored joins, the re-rank runs, and the shard's answer is
among the run's answers. -/
def endShard (id : Nat) (s : State) : State :=
  match s.qrun? id with
  | none => s
  | some r =>
    if r.own || !(r.shares.all (·.ended)) then s
    else
      let late := match r.cuts with
        | some (_, rc, _) => reached rc s.pos
        | none => false
      let r := { r with rerankCut := if r.rerankCut.isNone && late && r.exhaustive != 2 && r.rerank != 0 then some 0 else r.rerankCut }
      let one := match r.view.cent with
        | none => r.one
        | some c => (r.one.foldl (fun (a : List QOne × Option Nat) q =>
            let p := scorePending s r c q ([], q.counters)
            let covered := match a.2 with
              | some n => min n q.coarse.length
              | none => q.coarse.length
            let p := scoreCoarse s r c q covered p
            let cnt := { p.2 with
              coarseUsed := !q.coarse.isEmpty
              listsCoarse := ((q.coarse.map Prod.fst).eraseDups).length }
            (a.1 ++ [{ q with cands := q.cands ++ keepBest r p.1.reverse, counters := cnt }],
             a.2.map fun n => n - q.coarse.length)) ([], r.coarseCut)).1
      let r := { r with one := one, own := true }
      let ans := answerAll s r
      let m : MemberAnswer := ⟨r.qid, r.owner, s.fromMirror r, true, ans.map Prod.fst, ans.map Prod.snd⟩
      let s := onQStats (fun t => { t with
        listsFlash := satAdd 64 t.listsFlash (r.one.foldl (fun a q => a + q.flash) 0)
        reranked := satAdd 64 t.reranked (ans.foldl (fun a x => a + x.2.reranked) 0) }) s
      settleQuery id (onQRun id (fun _ => { r with answers := r.answers ++ [m] }) s)

/-! ### Dispatch (R171, R178) -/

/-- Bytes that a read in flight takes of its channel. -/
def State.readBytes (s : State) (x : FRead) : Nat :=
  match lookupNat s.ftl.flash x.pslot with
  | some f => f.pages * 16384
  | none => 65536

/-- Classroom priority of what a read is for; host reads stand above every classroom, background reads below (R130). -/
def State.readClass (s : State) (x : FRead) : Option (Option Nat) :=
  let ofRoom := fun (room : Nat) => some (some room)
  match s.job? x.job with
  | some j => match j.kind with
    | .scan id _ _ => match s.scan? id with
      | some r => ofRoom r.room
      | none => none
    | .piece id _ _ _ => match s.qrun? id with
      | some r => ofRoom r.room
      | none => none
    | .embed _ room _ _ => ofRoom room
    | .copy _ _ => none
    | .patrol _ => none
    | _ => some none
  | none => none

def State.priorityOf (s : State) (room : Nat) : Nat := (s.room? room).elim 0 Room.priority

/-- Work queued on a valley: bytes with the classroom they are for. -/
def State.queuedOn (s : State) (v : Nat) : List (Option Nat × Nat) :=
  ((s.ftl.reads.filter fun x => chOf x.pslot == v).filterMap fun x => (s.readClass x).map fun c => (c, s.readBytes x)) ++
  s.query.runs.flatMap fun r => (r.shares.filter fun sh => sh.valley == v && !sh.ended).flatMap fun sh =>
    (sh.pieces.filter fun p => p.stage == 0).map fun p => (some r.room, r.stored p.list p.piece)

/-- Units of scans queued on a valley. -/
def State.scanQueue (s : State) (v : Nat) : List (Option Nat × Nat) :=
  s.query.scans.flatMap fun r => match s.ns? r.nsid with
    | none => []
    | some n => r.todo.filterMap fun u => match s.mapOf (s.slotOf n (u * 16)) with
      | some (.phys p) => if chOf p = v then some (some r.room, match lookupNat s.ftl.flash p with
          | some f => f.pages * 16384
          | none => 0) else none
      | _ => none

/-- A finish of R178 lies at or before a position: 70 µs and the bytes ahead at the classroom's share of 3.28 GB/s. -/
def finishesBy (bytes share ticks est : Nat) : Bool :=
  decide ((70000 * 328 * share + bytes * 10000) * 1024 ≤ ticks * est * 328 * share)

/-- The share that a valley gives a classroom, in hundredths of a percent. -/
def State.valleyShare (s : State) (room : Nat) (q : List (Option Nat × Nat)) : Nat :=
  let own := if q.any fun x => x.1 != some room && x.1.isSome then ((s.img.active.regs.getD room ⟨100, 100, 100, 100, 0⟩).flash) else 100
  if s.bell.inRecess then own * (100 - s.img.active.bgShare) else own * 100

/-- The valleys' loads as a query is dispatched: bytes ahead at its priority or above, and its share, by valley. -/
def State.loads (s : State) (room : Nat) : List (Nat × Nat) :=
  (List.range 32).map fun v =>
    let q := s.queuedOn v ++ s.scanQueue v
    ((q.filter fun x => match x.1 with
      | some r => decide (s.priorityOf room ≤ s.priorityOf r)
      | none => true).foldl (fun a x => a + x.2) 0, s.valleyShare room q)

/-- Where a list goes. `want` are the pieces that the run reads so far, `load` the bytes ahead on each valley. -/
def dispatchList (r : QRun) (now : Nat) (i l : Nat) (a : QOne × List ((Nat × Nat) × List Nat) × List (Nat × Nat)) :
    QOne × List ((Nat × Nat) × List Nat) × List (Nat × Nat) :=
  let (q, want, load) := a
  let ps := (List.range (r.pieces l).length).map fun j => (l, j)
  let fresh := ps.filter fun p => !(want.any fun w => w.1 == p)
  let load' := fresh.foldl (fun b p => modifyAt b (r.valleyOf p.1 p.2) fun x => (x.1 + r.stored p.1 p.2, x.2)) load
  let fits := match r.cuts with
    | none => true
    | some _ => r.exhaustive == 2 || ps.all fun p =>
      let x := load'.getD (r.valleyOf p.1 p.2) (0, 10000)
      reached now q.cf && finishesBy (x.1 * 100) x.2 (ticksFrom now q.cf) r.tau
  if fits then
    ({ q with flash := q.flash + 1 },
     (want.map fun w => if ps.contains w.1 then (w.1, w.2 ++ [i]) else w) ++ fresh.map fun p => (p, [i]), load')
  else if r.view.carries l then ({ q with coarse := q.coarse ++ ps }, want, load)
  else ({ q with counters := { q.counters with listsSkipped := q.counters.listsSkipped + 1 } }, want, load)

/-- Lists that a query probes, nearest first (R171 stages 1 and 2). -/
def probeLists (r : QRun) (c : CentData) (q : List F32) : List Nat :=
  if r.exhaustive = 2 then List.range r.view.centroids
  else
    let sc := (scoresOf r.view.metric c.cents c.norms (normalise r.view.metric q)).zipIdx
    let l := (sortBy (fun x y => if distBefore x.1 y.1 then true else if distBefore y.1 x.1 then false else decide (x.2 < y.2)) sc).map Prod.snd
    if r.exhaustive = 1 then l else l.take r.nprobe

/-- A query of the batch with its lists and its flash cut-off. -/
def startOne (r : QRun) (c : CentData) (vus : Nat) (q : QOne) : QOne :=
  let ls := probeLists r c q.vec
  let n := ls.foldl (fun a l => a + r.view.codedIn l) 0
  let cf := match r.cuts with
    | some (cc, _, _) => if r.exhaustive = 2 then cc else posBefore cc (coarseTicks n vus r.tau)
    | none => 0
  { q with
    lists := ls
    cf := cf
    counters := { q.counters with listsProbed := ls.length, held := ls.foldl (fun a l => a + r.view.heldIn l) 0 } }

/-- The valleys' shares of a run from the pieces wanted: queries of a valley go in groups that its heap store can take (R143). -/
def sharesOf (r : QRun) (want : List ((Nat × Nat) × List Nat)) : List QShare :=
  (List.range 32).filterMap fun v =>
    let w := want.filter fun x => r.valleyOf x.1.1 x.1.2 == v
    if w.isEmpty then none
    else
      let qs := insertAll (w.flatMap Prod.snd) []
      let g := max 1 (min qs.length (8192 / max 1 r.n))
      let groups := chunks (qs.length + 1) g qs
      some ⟨v, groups.flatMap fun grp => w.filterMap fun x =>
        let us := x.2.filter grp.contains
        if us.isEmpty then none else some ⟨x.1.1, x.1.2, (r.pieces x.1.1).getD x.1.2 0, us, 0, []⟩,
        min 8192 (g * r.n), false, false⟩

/-- Stages 1 to 4 for a run whose vectors are known. -/
def dispatchRun (r : QRun) (s : State) : QRun :=
  match r.view.cent with
  | none => { r with shares := [] }
  | some c =>
    if r.k = 0 then { r with shares := [] }
    else
      let vus := (s.room? r.room).elim 0 Room.vus
      let one := r.one.map (startOne r c vus)
      let out := (one.zipIdx).foldl (fun (a : List QOne × List ((Nat × Nat) × List Nat) × List (Nat × Nat)) x =>
        let b := x.1.lists.foldl (fun b l => dispatchList r s.pos x.2 l b) (x.1, a.2.1, a.2.2)
        (a.1 ++ [b.1], b.2.1, b.2.2)) ([], [], s.loads r.room)
      { r with one := out.1, shares := sharesOf r out.2.1 }

end Sys2Proof.Machine
end

