-- ==== Sys2Proof/Machine/Media.lean ====
section
/-! DEFINITION. Media intake (R188 to R201): object references, identification, sampling, the frame shaper, Embed and Insert, and the
example objects of a query. -/

namespace Sys2Proof.Machine

/-! ### Object references (R189 to R191) -/

/-- An object begins with these bytes at an offset. -/
def beginsAt (b : Blob) (o : Nat) (l : List Byte) : Bool := b.take o l.length == l

/-- An object has the signature of a format. The JP2 signature box is that of JPEG 2000 Part 1. -/
def hasSignature (b : Blob) : Nat → Bool
  | 1 => beginsAt b 0 [0xFF#8, 0xD8#8, 0xFF#8]
  | 2 => beginsAt b 0 [0x89#8, 0x50#8, 0x4E#8, 0x47#8, 0x0D#8, 0x0A#8, 0x1A#8, 0x0A#8]
  | 3 => beginsAt b 0 [0x49#8, 0x49#8, 0x2A#8] || beginsAt b 0 [0x4D#8, 0x4D#8, 0x2A#8]
  | 4 => beginsAt b 0 [0x00#8, 0x00#8, 0x00#8, 0x0C#8, 0x6A#8, 0x50#8, 0x20#8, 0x20#8, 0x0D#8, 0x0A#8, 0x87#8, 0x0A#8] ||
      beginsAt b 0 [0xFF#8, 0x4F#8, 0xFF#8, 0x51#8]
  | 5 => beginsAt b 4 [0x66#8, 0x74#8, 0x79#8, 0x70#8]
  | 6 => beginsAt b 0 [0x1A#8, 0x45#8, 0xDF#8, 0xA3#8]
  | 7 => beginsAt b 0 [0x52#8, 0x49#8, 0x46#8, 0x46#8] && beginsAt b 8 [0x57#8, 0x41#8, 0x56#8, 0x45#8]
  | 8 => beginsAt b 0 [0x66#8, 0x4C#8, 0x61#8, 0x43#8]
  | 9 => beginsAt b 0 [0x4F#8, 0x67#8, 0x67#8, 0x53#8]
  | _ => false

/-- The format of an object, or the outcome: Not Recognised, or Corrupt where it has not the signature of the format named. -/
def identifyObject (b : Blob) (fmt : Nat) : Except Nat Nat :=
  if fmt = 0 then
    match (spanList 1 9).find? (hasSignature b) with
    | some f => .ok f
    | none => .error 3
  else if hasSignature b fmt then .ok fmt else .error 6

/-- The fields of an object reference. -/
structure ObjRef where
  nsid : Nat
  format : Nat
  sample : Nat
  keyOnly : Bool
  audio : Bool
  slba : Nat
  bands : Nat
  elba : Nat
  interval : Nat
  timeMs : Nat
  endMs : Nat
  deriving DecidableEq, Repr

def parseRef (b : Blob) : ObjRef :=
  ⟨b.le 0 4, b.le 4 1, b.le 5 1, (b.le 6 1).testBit 0, (b.le 6 1).testBit 1, b.le 8 6, b.le 0xE 2, b.le 0x10 6, b.le 0x16 2,
    b.le 0x18 4, b.le 0x1C 4⟩

/-- A reference in range (R190). -/
def refOk (s : State) (b : Blob) : Bool :=
  let r := parseRef b
  let image := decide (1 ≤ r.format ∧ r.format ≤ 4)
  decide (r.format ≤ 9 ∧ r.sample ≤ 2 ∧ b.le 6 1 < 4 ∧ r.bands < 4096 ∧ r.slba ≤ r.elba) && b.zeroAt 7 1 &&
  ([0, 3, 4].contains r.format || r.bands == 0) && (!image || (r.sample == 0 && r.timeMs == 0)) &&
  (if r.sample = 2 then decide (1 ≤ r.interval) else r.interval == 0) &&
  (if r.sample = 0 then r.endMs == 0 else decide (r.timeMs ≤ r.endMs)) &&
  (match s.attached? r.nsid with
    | some n => decide (r.elba < n.lbas ∧ r.nsid ≤ 64)
    | none => false)

/-- The logical slots of an object. -/
def State.refSlots (s : State) (r : ObjRef) : List Nat :=
  match s.attached? r.nsid with
  | some n => s.unitsOf n r.slba (r.elba + 1 - r.slba)
  | none => []

/-- The bytes of an object from the units of a job, and its poisoned granules, lost ranges among them. -/
def objectOf (s : State) (j : Job) (r : ObjRef) : Blob × List Nat :=
  match s.ns? r.nsid with
  | none => (Blob.zero 0, [])
  | some n =>
    let l := (spanList r.slba (r.elba + 1 - r.slba)).map fun a => (a, j.unit (s.slotOf n a))
    (Blob.concat (l.map fun x => x.2.data.slice (x.1 % 16 * 4096) 4096),
     l.zipIdx.flatMap fun x =>
      if x.1.2.lost || s.deferredLba r.nsid x.1.1 then spanList (x.2 * 64) 64
      else x.1.2.poison.filterMap fun g =>
        if x.1.1 % 16 * 64 ≤ g ∧ g < x.1.1 % 16 * 64 + 64 then some (x.2 * 64 + (g - x.1.1 % 16 * 64)) else none)

/-! ### Sampling (R192) -/

/-- Sample times of SAMPLE 2 up to an end, one more than may be taken at most. -/
def sampleTimes (start step stop : Nat) : List Nat :=
  if stop < start then [] else (List.range (min 65537 ((stop - start) / step + 1))).map fun i => start + i * step

/-- Pictures of a track that a reference takes, by number. -/
def takenPics (r : ObjRef) (t : Config.MediaTrack) : List Nat :=
  let ps := t.pics.zipIdx
  let at' := fun (x : Nat) => (ps.find? fun p => decide (p.1.ms ≤ x ∧ x < p.1.stop)).map Prod.snd
  let keyAt := fun (x : Nat) => if t.ends ≤ x then none else
    ((ps.filter fun p => p.1.key && decide (p.1.ms ≤ x)).getLast?).map Prod.snd
  if t.image then (ps.take 1).map Prod.snd
  else match r.sample with
    | 0 => (if r.keyOnly then keyAt r.timeMs else at' r.timeMs).toList
    | 1 => (ps.filter fun p => p.1.key && decide (r.timeMs ≤ p.1.ms ∧ p.1.ms ≤ r.endMs)).map Prod.snd
    | _ =>
      let ts := sampleTimes r.timeMs (r.interval * 100) (min r.endMs t.ends)
      if r.keyOnly then (ts.filterMap keyAt).eraseDups else ts.filterMap at'

/-- Times at which windows of an audio track start. -/
def takenWindows (r : ObjRef) (t : Config.MediaTrack) : List Nat :=
  (if r.sample = 0 then [r.timeMs] else sampleTimes r.timeMs (if r.sample = 1 then 1000 else r.interval * 100) (min r.endMs t.ends)).filter
    fun x => decide (x < t.ends)

/-- A time asked for lies beyond the end of the data. -/
def asksBeyond (r : ObjRef) (t : Config.MediaTrack) : Bool :=
  match t.cutAt with
  | none => false
  | some c => decide (c < (if r.sample = 0 then r.timeMs + 1 else min r.endMs t.ends))

/-! ### The frame shaper (R194, R195) -/

/-- What the shaper is told: RESIZE, ORIENT, PAD, MEAN and INV_STD. -/
structure Shaping where
  resize : Nat
  orient : Bool
  pad : Nat
  mean : List F32
  invStd : List F32
  deriving DecidableEq, Repr

/-- A value normalised: (v / (2^d - 1) - MEAN) × INV_STD in FP32. -/
def shapeValue (sh : Shaping) (c depth : Nat) (v : Option F32) : F32 :=
  let x := match v with
    | some x => fdiv x (fOfInt ((2 ^ depth : Nat) - 1))
    | none => fdiv (fOfInt sh.pad) (fOfInt 255)
  fmul (fsub x (sh.mean.getD c 0)) (sh.invStd.getD c 0)

/-- Elements stored in a format, two INT4 elements to a byte. -/
def tensorBytes (fmt : Nat) (l : List F32) : Blob :=
  match Fmt.ofCode fmt with
  | none => Blob.zero 0
  | some f =>
    let n := l.foldr (fun x a => f.store (f32 x) + a * 2 ^ f.bits) 0
    Blob.ofBytes (leBytes (f.bytes l.length) n)

/-- The input tensor of a picture, in the lesson's layout. -/
def pictureTensor (l : Lesson) (sh : Shaping) (fmt bands : Nat) (obj : Blob) (pic : Nat) : Blob :=
  let h := l.inA % 65536
  let w := l.inA / 65536
  let depth := Config.pictureDepth fmt obj
  let vs := Config.pictureValues [fmt, bands, sh.resize, bit sh.orient, h, w] obj pic
  let at' := fun (c i : Nat) => shapeValue sh c depth (vs.getD (c * (h * w) + i) none)
  tensorBytes l.inFmt (if l.inLayout = 0 then (List.range 3).flatMap fun c => (List.range (h * w)).map (at' c)
    else (List.range (h * w)).flatMap fun i => (List.range 3).map fun c => at' c i)

/-! ### One reference (R198, R201) -/

/-- The vector that the encoder lesson gives for a tensor, as its output format holds it. -/
def embedTensor (l : Lesson) (t : Blob) : List F32 :=
  ((List.range l.outDim).map fun i => (Config.encode l.digest t).getD i 0).map (roundComp l.outFmt)

/-- What comes of a reference: its outcome, its vectors with their media times, the times of the samples rejected, and the windows that
were padded. -/
structure RefResult where
  outcome : Nat
  vecs : List (Nat × List F32)
  rejected : List Nat
  padded : Nat
  image : Bool
  deriving DecidableEq, Repr

/-- A reference that yields nothing. -/
def RefResult.none (o : Nat) : RefResult := ⟨o, [], [], 0, true⟩

/-- One sample: its media time, the fault that rejects it, its vector. A vector that no index takes is rejected. -/
def sortSamples (metric : Nat) (l : List (Nat × Nat × List F32)) : List (Nat × List F32) × List Nat :=
  ((l.filter fun x => x.2.1 == 0 && !(vecBad metric x.2.2)).map fun x => (x.1, x.2.2),
   (l.filter fun x => x.2.1 != 0 || vecBad metric x.2.2).map Prod.fst)

/-- A reference decoded, shaped and embedded. A poisoned first granule hides the signature, and an image whose vector no index takes is
reported as Corrupt (log 62). -/
def runRef (l : Lesson) (sh : Shaping) (metric : Nat) (r : ObjRef) (obj : Blob) (poison : List Nat) : RefResult :=
  if poison.contains 0 then RefResult.none 8
  else match identifyObject obj r.format with
  | .error o => RefResult.none o
  | .ok fmt =>
    let audio := r.audio || decide (7 ≤ fmt)
    let t := Config.mediaTrack fmt audio obj poison
    if audio != (l.inKind == 2) then RefResult.none 4
    else if t.fault ≠ 0 then RefResult.none t.fault
    else
      let all : List (Nat × Nat × List F32) := if audio then
          (takenWindows r t).map fun x =>
            let stop := x + l.inA * 1000 / max 1 l.inB
            let bad := t.pics.find? fun p => p.fault != 0 && decide (p.ms < stop ∧ x < p.stop)
            (x, match bad with
              | some p => p.fault
              | none => 0, embedTensor l (tensorBytes l.inFmt (Config.audioSamples fmt l.inB l.inA obj x)))
        else (takenPics r t).filterMap fun i => (t.pics[i]?).map fun p =>
          (p.ms, p.fault, embedTensor l (pictureTensor l sh fmt r.bands obj i))
      let past := decide (65536 < all.length)
      let used := all.take 65536
      let (vs, rej) := sortSamples metric used
      let outcome := if past then 5
        else if asksBeyond r t then 7
        else if used.isEmpty then 2
        else if rej.isEmpty then 0
        else if t.image then ((used.head?).bind fun x => if x.2.1 = 0 then none else some x.2.1).getD 6
        else if vs.isEmpty && used.any fun x => x.2.1 == 8 then 8 else 1
      ⟨outcome, if t.image && outcome != 0 then [] else vs, rej, if audio then (used.filter fun x => decide (t.ends < x.1 + l.inA * 1000 / max 1 l.inB)).length else 0, t.image⟩

/-- The outcome record of a reference. -/
def RefResult.record (r : RefResult) : Outcome :=
  ⟨r.outcome, r.vecs.length, r.rejected.length, if r.image then 0xFFFFFFFF else r.rejected.headD 0xFFFFFFFF⟩

/-! ### Embed and Insert (R196, R197, R199) -/

/-- Bytes of a source record. -/
def embedRecord (ix : Index) : Nat := 40 + ix.attrLen

/-- The encoder lesson of a slot serves an index: an image with three channels or an audio window in, one vector of the index's
dimension out; its input has a format that the frame shaper puts out (R229). -/
def encoderOk (l : Lesson) (ix : Index) : Bool :=
  l.active && (l.inKind == 1 || l.inKind == 2) && decide (6 ≤ l.inFmt ∧ l.inFmt ≤ 10) && l.outDim == ix.dim

/-- A reference suits the lesson's input, so far as the reference itself tells (R197). -/
def refSuits (l : Lesson) (r : ObjRef) : Bool :=
  let audio := r.audio || decide (7 ≤ r.format)
  if l.inKind = 1 then !audio else audio || r.format == 0

/-- The attribute record of a sample, with its media time where TIME_ATTR asks for it. -/
def stampAttr (attr : Blob) (timeAttr ms : Nat) : Blob := if timeAttr = 0xFFFF then attr else attr.overlaid timeAttr (fld 4 ms)

/-- The entries of a reference's vectors. -/
def refEntries (ix : Index) (c : CentData) (id : Nat) (attr : Blob) (timeAttr : Nat) (r : RefResult) : List (Nat × Entry) :=
  r.vecs.zipIdx.map fun x =>
    let (l, f, co, v) := encodeVec ix c x.1.2
    (l, ⟨BitVec.ofNat 64 (id + x.2), stampAttr attr timeAttr x.1.1, f, co, v⟩)

/-- The objects of an Embed and Insert have been read: every reference is decoded and embedded, and its entries wait to commit. -/
def finishEmbed (h : Hdr) (room : Nat) (b recs : Blob) (j : Job) (s : State) : State :=
  let s := closeJob j.jid s
  match s.index? (b.le 0 1), s.lesson? room (b.le 1 1) with
  | some ix, some l =>
    match ix.cent with
    | none => finish h stSequence s
    | some c =>
      let n := b.le 4 4
      let size := embedRecord ix
      let sh : Shaping := ⟨b.le 2 1, (b.le 3 1).testBit 0, b.le 0xE 1, [0x28, 0x2C, 0x30].map fun o => BitVec.ofNat 32 (b.le o 4),
        [0x34, 0x38, 0x3C].map fun o => BitVec.ofNat 32 (b.le o 4)⟩
      let rs := (List.range n).map fun i =>
        let r := parseRef (recs.slice (i * size) 32)
        let o := objectOf s j r
        runRef l sh ix.metric r o.1 o.2
      let es := rs.zipIdx.map fun x =>
        refEntries ix c (recs.le (x.2 * size + 32) 8) (recs.slice (x.2 * size + 40) ix.attrLen) (b.le 0xC 2) x.1
      let e : EmbedOut := ⟨b.le 0x18 4, b.le 0x20 8, rs.map RefResult.record, rs.foldl (fun a r => a + r.padded) 0, es.map List.length⟩
      let all := es.flatMap id
      let s := countDelivered j.poisoned (writeEmbed e 0 s)
      if all.isEmpty then finish h stOk s
      else
        let ps := numberPends s.idx.nextPend room all
        waitInsert h ix room (chunks (ps.length + 1) 4096 ps) (some e) (onIdx (fun x => { x with nextPend := x.nextPend + ps.length }) s)
  | none, _ => finish h stIndexNotFound s
  | some _, none => finish h stInvalidField s

/-- The fields of Embed and Insert (R196). -/
def State.embedFieldsOk (s : State) (room : Nat) (b : Blob) : Bool :=
  decide (b.le 0 1 ≤ 15 ∧ b.le 1 1 ≤ 63 ∧ b.le 2 1 ≤ 2 ∧ b.le 3 1 ≤ 1 ∧ b.le 4 4 ≤ 65536 ∧ b.le 0x10 8 % 8 = 0) && isMemNs (b.le 8 4) &&
    b.zeroAt 0xF 1 && b.zeroAt 0x1C 4 && s.outputOk room (b.le 0x18 4) (b.le 0x20 8) (64 + 16 * b.le 4 4) &&
    ([0x28, 0x2C, 0x30, 0x34, 0x38, 0x3C].all fun o => finiteAt b o)

/-- Embed and Insert: the block, the index, the lesson, the references; then the objects are read. -/
def embedCore (h : Hdr) (room : Nat) (b : Blob) (s : State) : State :=
  let n := b.le 4 4
  if !(s.embedFieldsOk room b) then finish h stInvalidField s
  else if n = 0 then finish h stOk s
  else withIndex h (b.le 0 1) true (fun ix s =>
    if ix.cent.isNone then finish h stSequence s
    else if !(b.le 0xC 2 == 0xFFFF || decide (b.le 0xC 2 + 4 ≤ ix.attrLen)) then finish h stInvalidField s
    else match s.lesson? room (b.le 1 1) with
      | none => finish h stInvalidField s
      | some l =>
        if l.quarantined then finish h stProgramFaulted s
        else if !(encoderOk l ix) then finish h stInvalidField s
        else
          let size := embedRecord ix
          match sourceBytes (b.le 8 4) (b.le 0x10 8) (n * size) s with
          | .error st => failProgram h st ⟨b.le 8 4, b.le 0x10 8, n * size⟩ s
          | .ok recs =>
            let refs := (List.range n).map fun i => recs.slice (i * size) 32
            match refs.zipIdx.find? fun x => !(refOk s x.1) with
            | some x => finishDw h stInvalidField x.2 s
            | none =>
              if refs.any fun x => !(refSuits l (parseRef x)) then finish h stInvalidField s
              else
                let (jid, s) := openJob (.embed h room b recs) ((refs.flatMap fun x => s.refSlots (parseRef x)).eraseDups)
                  (begin' h .program s)
                match s.job? jid with
                | some j => if j.wait.isEmpty then finishEmbed h room b recs j s else s
                | none => s) s

/-- EMBED_AND_INSERT. In a supply sag the media engines take no new object (R380). -/
def execEmbedAndInsert (h : Hdr) (room : Nat) (p : ParamRef) (s : State) : Res :=
  .next (admitRoom h (.embedAndInsert h room p) room (fun r s =>
    if !r.valley || r.me == 0 then finish h stAccess s
    else if s.power.supplySag then hold h (.embedAndInsert h room p) .resource s
    else withBlock h p 0x40 (embedCore h room) s) s)

/-! ### Example objects (R200) -/

/-- The vectors of a query's example objects; or the position of the first whose outcome is not Complete. -/
def exampleVectors (s : State) (l : Lesson) (metric : Nat) (refs : Blob) (j : Job) : Except Nat (List (List F32)) :=
  (List.range (refs.len / 32)).foldl (fun a i => match a with
    | .error e => .error e
    | .ok vs =>
      let r := parseRef (refs.slice (i * 32) 32)
      let o := objectOf s j r
      let x := runRef l ⟨1, true, 0, l.mean, l.invStd⟩ metric r o.1 o.2
      match x.vecs with
      | v :: _ => if x.outcome = 0 then .ok (vs ++ [v.2]) else .error i
      | [] => .error i) (.ok [])

end Sys2Proof.Machine
end

