-- ==== Sys2Proof/Machine/Streams.lean ====
section
/-! DEFINITION. Scan streams (R143, R149, R151): the issue of unit and piece reads, the commands Filtered Scan and Vector Query, their
cut-offs and ends, and plain-wide queries (R184, R185). -/

namespace Sys2Proof.Machine

/-! ### Streams of a valley (R130, R143) -/

/-- Scan streams on a valley. -/
def State.streamCount (s : State) (v : Nat) : Nat :=
  (s.query.scans.filter fun r => r.streams.contains v).length +
  (s.query.runs.flatMap fun r => r.shares.filter fun sh => sh.valley == v && sh.started && !sh.ended).length

/-- Heap entries that a scan reserves. -/
def ScanRun.reserve (r : ScanRun) : Nat := if r.mode = 2 then r.best else 0

/-- Heap entries reserved on a valley. -/
def State.heapUsed (s : State) (v : Nat) : Nat :=
  (s.query.scans.filter fun r => r.streams.contains v).foldl (fun a r => a + r.reserve) 0 +
  (s.query.runs.flatMap fun r => r.shares.filter fun sh => sh.valley == v && sh.started && !sh.ended).foldl (fun a sh => a + sh.reserve) 0

/-- The channel takes another read: fewer than 64 pages are in flight. -/
def State.channelFree (s : State) (v : Nat) : Bool :=
  decide ((s.ftl.reads.filter fun x => chOf x.pslot == v).foldl (fun a x => a + s.readBytes x / 16384) 0 < 64)

/-- The valley that a unit of a scan is read through; a unit that needs no page read goes with valley 0. -/
def State.scanValley (s : State) (n : Ns) (u : Nat) : Nat :=
  match s.mapOf (s.slotOf n (u * 16)) with
  | some (.phys p) => chOf p
  | _ => 0

/-- A unit of a scan has come. -/
def absorbScan (id u : Nat) (j : Job) (s : State) : State :=
  let s := closeJob j.jid s
  match j.got with
  | d :: _ => countDelivered d.poisoned (onScan id (scanUnit u d) s)
  | [] => s

/-- Unit reads of a scan on a valley, in ascending LBA order, while the channel takes them and the deadline has not ended. A unit that
is unmapped by now holds no records (R436). -/
def issueScan (id v : Nat) : Nat → State → State
  | 0, s => s
  | f + 1, s =>
    match s.scan? id with
    | none => s
    | some r =>
      let past := match r.stop with
        | some p => reached p s.pos
        | none => false
      if past then s
      else match s.ns? r.nsid with
        | none => onScan id (fun r => { r with todo := [] }) s
        | some n =>
          match r.todo.find? fun u => s.scanValley n u == v with
          | none => s
          | some u =>
            let lsn := s.slotOf n (u * 16)
            let s := onScan id (fun r => { r with todo := r.todo.erase u }) s
            match s.mapOf lsn with
            | none => issueScan id v f (onScan id (fun r => { r with range := r.range - r.perUnit }) s)
            | some _ =>
              let (jid, s) := openJob (.scan id v u) [lsn] (onScan id (fun r => { r with busy := r.busy ++ [u] }) s)
              let s := match s.job? jid with
                | some j => if j.wait.isEmpty then absorbScan id u j s else s
                | none => s
              if s.channelFree v then issueScan id v f s else s

/-- Pieces of a share changed. -/
def onPieces (id v : Nat) (f : List QPiece → List QPiece) (s : State) : State :=
  onQRun id (fun r => { r with shares := r.shares.map fun sh => if sh.valley = v then { sh with pieces := f sh.pieces } else sh }) s

/-- The first piece that a test picks, changed. -/
def changeFirst (p : QPiece → Bool) (f : QPiece → QPiece) : List QPiece → List QPiece
  | [] => []
  | x :: r => if p x then f x :: r else x :: changeFirst p f r

/-- A piece has come. -/
def absorbPiece (id v l j : Nat) (job : Job) (s : State) : State :=
  let s := closeJob job.jid s
  match job.got with
  | d :: _ =>
    countDelivered d.poisoned (onPieces id v (changeFirst (fun p => p.list == l && p.piece == j && p.stage == 1)
      fun p => { p with stage := 2, poison := d.poison }) s)
  | [] => s

/-- Piece reads of a query on a valley, in the order of dispatch, while the channel takes them. -/
def issuePieces (id v : Nat) : Nat → State → State
  | 0, s => s
  | f + 1, s =>
    match s.qrun? id with
    | none => s
    | some r =>
      match (r.shares.find? fun sh => sh.valley == v && !sh.ended).bind fun sh => sh.pieces.find? fun p => p.stage == 0 with
      | none => s
      | some p =>
        let s := onPieces id v (changeFirst (· == p) fun p => { p with stage := 1 }) s
        let (jid, s) := openJob (.piece id v p.list p.piece) [p.lsn] s
        let s := match s.job? jid with
          | some j => if j.wait.isEmpty then absorbPiece id v p.list p.piece j s else s
          | none => s
        if s.channelFree v then issuePieces id v f s else s

/-- Runs with work to issue on a valley: priority of the classroom, number, and whether a scan; by priority, then by arrival. -/
def State.claims (s : State) (v : Nat) : List (Nat × Nat × Bool) :=
  sortBy (fun x y => decide (y.1 < x.1 ∨ (x.1 = y.1 ∧ x.2.1 < y.2.1)))
    ((s.query.scans.filterMap fun r => match s.ns? r.nsid with
      | some n => if r.todo.any fun u => s.scanValley n u == v then some (s.priorityOf r.room, r.id, true) else none
      | none => none) ++
     (s.query.runs.filter fun r => r.shares.any fun sh => sh.valley == v && !sh.ended && sh.pieces.any fun p => p.stage == 0).map
       fun r => (s.priorityOf r.room, r.id, false))

/-- A run holds its stream on a valley. -/
def State.holdsStream (s : State) (v : Nat) (c : Nat × Nat × Bool) : Bool :=
  if c.2.2 then s.query.scans.any fun r => r.id == c.2.1 && r.streams.contains v
  else s.query.runs.any fun r => r.id == c.2.1 && r.shares.any fun sh => sh.valley == v && sh.started

/-- Heap entries that a run needs for its stream. -/
def State.streamNeed (s : State) (v : Nat) (c : Nat × Nat × Bool) : Nat :=
  if c.2.2 then (s.scan? c.2.1).elim 0 ScanRun.reserve
  else match s.qrun? c.2.1 with
    | some r => (r.shares.find? fun sh => sh.valley == v).elim 0 QShare.reserve
    | none => 0

/-- A run takes its stream. -/
def takeStream (v : Nat) (c : Nat × Nat × Bool) (s : State) : State :=
  if c.2.2 then onScan c.2.1 (fun r => if r.streams.contains v then r else { r with streams := r.streams ++ [v] }) s
  else onQRun c.2.1 (fun r => { r with shares := r.shares.map fun sh => if sh.valley = v then { sh with started := true } else sh }) s

/-- Reads issued on a valley. The first run that cannot get its stream waits, and those behind it (R143). -/
def pumpValley (s : State) (v : Nat) : State :=
  ((s.claims v).foldl (fun (a : Bool × State) c =>
    let s := a.2
    let ready := s.holdsStream v c || (!a.1 && decide (s.streamCount v < 8 ∧ s.heapUsed v + s.streamNeed v c ≤ 8192))
    if !ready then (true, s)
    else
      let s := takeStream v c s
      if !(s.channelFree v) then (a.1, s)
      else if c.2.2 then (a.1, issueScan c.2.1 v ((s.scan? c.2.1).elim 0 fun r => r.todo.length) s)
      else (a.1, issuePieces c.2.1 v ((s.qrun? c.2.1).elim 0 fun r => (r.shares.map fun sh => sh.pieces.length).foldl (· + ·) 0) s))
    (false, s)).2

/-- Streams of scans whose share of a valley has ended are given back. -/
def endStreams (s : State) : State :=
  let waits := fun (r : ScanRun) (v : Nat) => match s.ns? r.nsid with
    | some n => r.todo.any fun u => s.scanValley n u == v
    | none => false
  let reads := fun (r : ScanRun) (v : Nat) => s.ftl.jobs.any fun j => match j.kind with
    | .scan id w _ => id == r.id && w == v
    | _ => false
  onQuery (fun q => { q with scans := q.scans.map fun (r : ScanRun) =>
    { r with streams := r.streams.filter fun v => waits r v || reads r v } }) s

/-- Runs headed here that wait for nothing more end. -/
def settleHeads (s : State) : State :=
  (s.query.runs.filter fun r => r.own && r.asked.isEmpty).foldl (fun s r => settleQuery r.id s) s

/-- Reads are issued on every valley, and what has nothing left to read ends. -/
def pump (s : State) : State :=
  if s.query.scans.isEmpty && s.query.runs.isEmpty then s
  else
    let s := endStreams ((List.range 32).foldl pumpValley s)
    settleHeads ((s.query.scans.map (·.id)).foldl (fun s id => settleScan id s) s)

/-! ### Filtered Scan -/

/-- Filtered Scan with its parameter block. -/
def scanCore (h : Hdr) (room : Nat) (b : Blob) (s : State) : State :=
  match parseScan h room b s with
  | none => finish h stInvalidField s
  | some r => pump (onQuery (fun q => { q with scans := q.scans ++ [r], nextRun := q.nextRun + 1 }) (begin' h .program s))

/-- FILTERED_SCAN. -/
def execFilteredScan (h : Hdr) (room : Nat) (p : ParamRef) (s : State) : Res :=
  .next (admitRoom h (.filteredScan h room p) room (fun r s =>
    if !r.valley then finish h stAccess s else withBlock h p 0x40 (scanCore h room) s) s)

/-- SCAN_DEADLINE_END: units never issued are counted as skipped (R149). -/
def execScanDeadlineEnd (run : Nat) (s : State) : Res :=
  .next (match s.scan? run with
    | none => s
    | some r => match r.stop with
      | none => s
      | some p =>
        if !(reached p s.pos) then s
        else pump (onScan run (fun r => { r with skipped := r.skipped + r.todo.length, todo := [] }) s))

/-! ### Vector Query -/

/-- A query of a batch that has not been scored. -/
def newOne (v : List F32) : QOne := ⟨v, [], 0, [], 0, false, [], zeroCounters⟩

/-- A run dispatched: its reads are issued, and it ends at once where it has none. -/
def launch (id : Nat) (s : State) : State :=
  match s.qrun? id with
  | none => s
  | some r => pump (settleHeads (endShard id (onQRun id (fun _ => dispatchRun r s) s)))

/-- Positions of cc, rc and E from the end that a shard works to and the end of the query. -/
def cutOffs (e e' k shards rerank est : Nat) : Nat × Nat × Nat :=
  (posBefore e' (ticksUp (mergeReserve k shards + rerankAllowance rerank) 1 est), posBefore e' (ticksUp (mergeReserve k shards) 1 est), e)

/-- Present members of the plain, this one among them. -/
def State.presentCount (s : State) : Nat := (s.others.filter s.isPresent).length + 1

/-- The member that holds the mirror of another (R42). -/
def State.buddyOf (s : State) (m : Nat) : Nat := (m + s.img.active.plain.buddyOffset) % max 1 s.members

/-- A plain-wide query as it goes to the member that serves a shard. -/
def wideQuery (r : QRun) (owner : Nat) : PlainQuery :=
  let d := match r.cuts with
    | some (_, _, e) => ticksFrom (r.admitBell.toNat * 1024 + r.admitTick) e
    | none => 0
  ⟨r.id, r.view.num, r.view.dim, r.view.m, r.view.metric, r.exhaustive, r.k, r.nprobe, r.rerank, d, r.admitBell, r.admitTick, owner,
    r.one.map (·.vec), r.preds.map Pred.bytes⟩

/-- A run of another shard on this drive: its own for a head elsewhere, or an absent member's from the mirror. Nothing is asked for
where the index is missing or differs (R184). -/
def serveShard (port src : Nat) (q : PlainQuery) (s : State) : State :=
  let mirrored := q.owner != s.plain.member
  let ix := if mirrored then
      if (s.peer q.owner).mirrorBehind then none else (s.peer q.owner).mirror.find? fun x => x.num == q.index
    else s.idx.live.find? fun x => x.num == q.index
  let none' : MemberAnswer := ⟨q.qid, q.owner, mirrored, false, [], []⟩
  let deny := fun (s : State) => if src = s.plain.member then
      onQRun q.qid (fun r => { r with asked := r.asked.erase q.owner, answers := r.answers ++ [none'] }) s
    else sendTo src 0 (.answer none') s
  match ix with
  | none => deny s
  | some ix =>
    if ix.dim ≠ q.dim ∨ ix.m ≠ q.subspaces ∨ ix.metric ≠ q.metric then deny s
    else
      let id := s.query.nextRun
      let at' := q.admitBell.toNat * 1024 + q.admitTick
      let e := posAfter at' q.deadline
      let r : QRun := {
        id := id, room := (s.img.active.rooms.head?).elim 0 Room.room, reply := .head port src q.qid mirrored, wide := false
        owner := q.owner, view := ix, exhaustive := q.exhaustive, k := q.k, nprobe := q.nprobe, rerank := q.rerank
        preds := q.preds.filterMap fun p => parsePred p 256
        admitBell := q.admitBell, admitTick := q.admitTick, tau := s.estimateNs
        cuts := if q.deadline = 0 then none else some (cutOffs e (posBefore e 4) q.k s.presentCount (if q.exhaustive = 2 then 0 else q.rerank) s.estimateNs)
        one := q.vectors.map newOne, shares := [], rerankCut := none, coarseCut := none, asked := [], answered := [], mirrored := []
        answers := [], own := false }
      launch id (onQStats (fun t => { t with
          sharesServed := bump64 t.sharesServed
          mirrorShares := if mirrored then bump64 t.mirrorShares else t.mirrorShares })
        (onQuery (fun q => { q with runs := q.runs ++ [r], nextRun := id + 1 }) s))

/-- A shard asked for: of its owner where it is present, else of the buddy, which may be this drive; none where neither is. -/
def askShard (r : QRun) (owner : Nat) (s : State) : State :=
  let b := s.buddyOf owner
  let ask := fun (m : Nat) (s : State) => sendTo m 0 (.query (wideQuery r owner))
    (onQRun r.id (fun r => { r with asked := r.asked ++ [owner] }) s)
  if s.isPresent owner then ask owner s
  else if (s.peer owner).state == .none || (s.peer owner).state == .left then s
  else if b = s.plain.member then
    serveShard 0 s.plain.member (wideQuery r owner) (onQRun r.id (fun r => { r with asked := r.asked ++ [owner] }) s)
  else if s.isPresent b then ask b s
  else s

/-- A run whose vectors are known starts: the other shards are asked for, then its own lists are dispatched. -/
def startRunQ (id : Nat) (s : State) : State :=
  match s.qrun? id with
  | none => s
  | some r => launch id (if r.wide then s.others.foldl (fun s m => askShard r m s) s else s)

/-- The query vectors of a block; none where one of them is refused (R170). -/
def queryVectors (metric dim fmt n : Nat) (d : Blob) : Option (List (List F32)) :=
  let vs := (List.range n).map fun i => readVec d (i * dim * compBytes fmt) dim fmt
  if vs.any (vecBad metric) then none else some vs

/-- The parameters of a Vector Query that its block gives: k, NPROBE, RERANK and DEADLINE after defaults. -/
def queryParams (b : Blob) (s : State) : Nat × Nat × Nat × Option Nat :=
  let q := s.host.queryDef
  (orDefault 2 (b.le 6 2) q.k, orDefault 2 (b.le 8 2) q.nprobe, orDefault 4 (b.le 0xC 4) q.rerank, s.deadline? (b.le 0x10 4))

/-- Fields of the block that need no index (R169). -/
def queryFieldsOk (b : Blob) (s : State) : Bool :=
  let (k, np, rr, d) := queryParams b s
  let fmt := b.le 3 1
  decide (b.le 0 1 ≤ 15 ∧ b.le 1 1 ≤ 1 ∧ b.le 2 1 ≤ 2 ∧ 1 ≤ b.le 4 2 ∧ b.le 4 2 ≤ 1024 ∧ k ≤ 4096 ∧ 1 ≤ np ∧ np ≤ 4096 ∧
    b.le 0xA 1 ≤ 32 ∧ 0x40 + 24 * b.le 0xA 1 ≤ b.len ∧ b.le 0x18 8 % 8 = 0) && [8, 9, 10, 255].contains fmt &&
  (if fmt = 255 then decide (b.le 0xB 1 ≤ 63) else b.le 0xB 1 == 0) && (rr == 0 || decide (k ≤ rr ∧ rr ≤ 65536)) && d.isSome &&
  isMemNs (b.le 0x14 4) && isMemNs (b.le 0x30 4) && b.zeroAt 0x34 4

/-- A drive's read of a query's centroid data through cached segments of the classroom: centroids in the array dies' SRAM, half on
each, and all of the data in DRAM (R118, R154). A segment already there is read again; one that finds no place is left out. -/
def cacheCentroids (room : Nat) (ix : Index) (c : CentData) (s : State) : State :=
  let bytes := c.cents.length * ix.dim * 2
  let all := (centUnits ix c).length * unitBytes
  let owner := SegOwner.centroids room ix.num
  let here := s.mem.segs.any fun g => g.owner == owner
  if here then onMem (fun m => { m with segs := m.segs.map fun g =>
      if g.owner = owner then { g with lastRead := s.bell.count.toNat } else g }) s
  else [(⟨.cached, 0, 3, align64 (bytes / 2)⟩ : SegDecl), ⟨.cached, 0, 4, align64 (bytes / 2)⟩, ⟨.cached, 1, 0, align64 all⟩].foldl
    (fun s d => match placeSeg room owner d (s.mem.segs.length + 1) s with
      | some (_, t) => t
      | none => s) s

/-- A Vector Query whose block has passed: the run is admitted. -/
def admitQuery (h : Hdr) (r : Room) (b : Blob) (ix : Index) (ps : List Pred) (d : Nat) (vs : List (List F32)) (s : State) : Nat × State :=
  let (k, np, rr, _) := queryParams b s
  let wide := b.le 1 1 == 1
  let shards := if wide then s.presentCount else 1
  let id := s.query.nextRun
  let e := posAfter s.pos d
  let x : QRun := {
    id := id, room := r.room, reply := .host h (b.le 0x14 4) (b.le 0x18 8) (BitVec.ofNat 64 (b.le 0x28 8)), wide := wide
    owner := s.plain.member, view := ix, exhaustive := b.le 2 1, k := k, nprobe := np, rerank := rr, preds := ps
    admitBell := s.bell.count, admitTick := s.bell.tick, tau := s.estimateNs
    cuts := if d = 0 then none else
      some (cutOffs e (if wide then posBefore e 4 else e) k shards (if b.le 2 1 = 2 then 0 else rr) s.estimateNs)
    one := vs.map newOne, shares := [], rerankCut := none, coarseCut := none, asked := [], answered := [], mirrored := []
    answers := [], own := false }
  let s := onQStats (fun t => { t with
      queries := satAdd 64 t.queries (b.le 4 2)
      queriesHead := if wide then bump64 t.queriesHead else t.queriesHead })
    (onQuery (fun q => { q with runs := q.runs ++ [x], nextRun := id + 1 }) (begin' h .program s))
  (id, match ix.cent with
    | some c => if k = 0 then s else cacheCentroids r.room ix c s
    | none => s)

/-- The example objects of a query have been read: their vectors are its own, or it ends with the position of the first that is not
Complete. -/
def finishExamples (id slot : Nat) (refs : Blob) (j : Job) (s : State) : State :=
  let s := countDelivered j.poisoned (closeJob j.jid s)
  match s.qrun? id with
  | none => s
  | some r =>
    match r.reply, s.lesson? r.room slot with
    | .host h _ _ _, some l =>
      match exampleVectors s l r.view.metric refs j with
      | .ok vs => startRunQ id (onQRun id (fun r => { r with one := vs.map newOne }) s)
      | .error i => dropQRun id (finishDw h stInvalidField i s)
    | .host h _ _ _, none => dropQRun id (finish h stInvalidField s)
    | _, _ => dropQRun id s

/-- Q_FORMAT FFh: the references are checked, then their objects are read. -/
def exampleQuery (h : Hdr) (r : Room) (b : Blob) (ix : Index) (ps : List Pred) (d : Nat) (refs : Blob) (s : State) : State :=
  let l := (List.range (b.le 4 2)).map fun i => refs.slice (i * 32) 32
  match s.lesson? r.room (b.le 0xB 1) with
  | none => finish h stInvalidField s
  | some ls =>
    if ls.quarantined then finish h stProgramFaulted s
    else if !(encoderOk ls ix) then finish h stInvalidField s
    else match l.zipIdx.find? fun x => !(refOk s x.1) || (parseRef x.1).sample != 0 with
      | some x => finishDw h stInvalidField x.2 s
      | none =>
        if l.any fun x => !(refSuits ls (parseRef x)) then finish h stInvalidField s
        else
          let (id, s) := admitQuery h r b ix ps d [] s
          let (jid, s) := openJob (.examples id (b.le 0xB 1) refs) ((l.flatMap fun x => s.refSlots (parseRef x)).eraseDups) s
          match s.job? jid with
          | some j => if j.wait.isEmpty then finishExamples id (b.le 0xB 1) refs j s else s
          | none => s

/-- Vector Query with its parameter block (R170). -/
def queryCore (h : Hdr) (r : Room) (b : Blob) (s : State) : State :=
  let fmt := b.le 3 1
  let n := b.le 4 2
  let (k, _, rr, dl) := queryParams b s
  if !(queryFieldsOk b s) then finish h stInvalidField s
  else if fmt = 255 ∧ r.me = 0 then finish h stAccess s
  else if b.le 1 1 = 1 ∧ !s.isMember then finish h stNotPresent s
  else match s.idx.live.find? fun x => x.num == b.le 0 1 with
    | none => finish h stIndexNotFound s
    | some ix =>
      let d := dl.getD 0
      let shards := if b.le 1 1 = 1 then s.presentCount else 1
      if (rr != 0 || b.le 2 1 == 2) && ix.full == 0 then finish h stInvalidField s
      else if 0 < b.le 0xA 1 ∧ ix.attrLen = 0 then finish h stInvalidField s
      else match parsePreds b (b.le 0xA 1) ix.attrLen with
        | none => finish h stInvalidField s
        | some ps =>
          let least := ticksUp (mergeReserve k shards + rerankAllowance (if b.le 2 1 = 2 then 0 else rr)) 1 s.estimateNs + 2
          if 0 < d ∧ d < least then
            finish h stInvalidField (onQStats (fun t => { t with deadlineRejects := bump32 t.deadlineRejects }) s)
          else
            let len := b.le 0x20 8 + 1 - b.le 0x18 8
            if len < n * (64 + 32 * k) || !(s.outputOk r.room (b.le 0x14 4) (b.le 0x18 8) len) then finish h stInvalidField s
            else
              let size := if fmt = 255 then n * 32 else n * ix.dim * compBytes fmt
              match sourceBytes (b.le 0x30 4) (b.le 0x38 8) size s with
              | .error st => failProgram h st ⟨b.le 0x30 4, b.le 0x38 8, size⟩ s
              | .ok src =>
                if fmt = 255 then exampleQuery h r b ix ps d src s
                else match queryVectors ix.metric ix.dim fmt n src with
                  | none => finish h stInvalidField s
                  | some vs =>
                    let (id, s) := admitQuery h r b ix ps d vs s
                    startRunQ id s

/-- VECTOR_QUERY. -/
def execVectorQuery (h : Hdr) (room : Nat) (p : ParamRef) (s : State) : Res :=
  .next (admitRoom h (.vectorQuery h room p) room (fun r s =>
    if !r.valley then finish h stAccess s else withBlock h p 0x40 (queryCore h r) s) s)

/-! ### Cut-offs and the ends of shares (R142, R179, R181) -/

/-- Query `i` takes no more pieces that are not issued: their ordinals go to coarse codes where the list carries them, else the piece is
skipped. -/
def cutFlash (r : QRun) (i : Nat) : QRun :=
  let gone := r.shares.flatMap fun sh => (sh.pieces.filter fun p => p.stage == 0 && p.users.contains i).map fun p => (p.list, p.piece)
  let toCoarse := fun (x : Nat × Nat) => r.exhaustive != 2 && r.view.carries x.1
  { r with
    one := modifyAt r.one i fun q => { q with
      cut := true
      coarse := q.coarse ++ gone.filter toCoarse
      counters := { q.counters with piecesSkipped := q.counters.piecesSkipped + (gone.filter fun x => !(toCoarse x)).length } }
    shares := r.shares.map fun sh => { sh with pieces := sh.pieces.map (fun (p : QPiece) =>
      if p.stage == 0 && p.users.contains i then
        let us := p.users.erase i
        { p with users := us, stage := if us.isEmpty then 3 else 0 }
      else p) } }

/-- Queries whose flash cut-off has come, or all of them, are cut. -/
def cutDue (all : Bool) (now : Nat) (r : QRun) : QRun :=
  (r.one.zipIdx.filter fun q => !q.1.cut && (all || reached q.1.cf now)).foldl (fun r q => cutFlash r q.2) r

/-- QUERY_FLASH_CUTOFF. -/
def execQueryFlashCutoff (run : Nat) (s : State) : Res :=
  .next (match s.qrun? run with
    | none => s
    | some r => if r.cuts.isNone || r.own then s else onQRun run (cutDue false s.pos) s)

/-- Reads of a query that have not come are given up, and their pieces are skipped. -/
def giveUp (r : QRun) : QRun :=
  let late := r.shares.flatMap fun sh => (sh.pieces.filter fun p => p.stage == 1).flatMap fun p => p.users
  { r with
    one := r.one.zipIdx.map fun q => { q.1 with counters := { q.1.counters with
      piecesSkipped := q.1.counters.piecesSkipped + (late.filter (· == q.2)).length } }
    shares := r.shares.map fun sh => { sh with pieces := sh.pieces.map fun p => if p.stage = 1 then { p with stage := 3 } else p } }

/-- Jobs of a query's pieces closed. -/
def closePieces (run : Nat) (s : State) : State :=
  (s.ftl.jobs.filter fun j => match j.kind with
    | .piece id _ _ _ => id == run
    | _ => false).foldl (fun s j => closeJob j.jid s) s

/-- The coarse cut-off of a run (R179). -/
def cutCoarse (run covered : Nat) (s : State) : State :=
  pump (closePieces run (onQRun run (fun r =>
    let r := giveUp (cutDue true s.pos r)
    { r with coarseCut := some (r.coarseCut.getD covered) }) s))

/-- QUERY_COARSE_CUTOFF. -/
def execQueryCoarseCutoff (run covered : Nat) (s : State) : Res :=
  .next (match s.qrun? run with
    | none => s
    | some r => match r.cuts with
      | none => s
      | some (cc, _, _) => if r.own || !(reached cc s.pos) then s else cutCoarse run covered s)

/-- QUERY_RERANK_CUTOFF: shards that have not answered are not waited for any longer. -/
def execQueryRerankCutoff (run ranked : Nat) (s : State) : Res :=
  .next (match s.qrun? run with
    | none => s
    | some r => match r.cuts with
      | none => s
      | some (_, rc, _) =>
        if !(reached rc s.pos) then s
        else
          settleHeads (onQRun run (fun r => { r with
            asked := []
            rerankCut := if r.own || r.rerank == 0 || r.exhaustive == 2 then r.rerankCut else some (r.rerankCut.getD ranked) }) s))

/-- A valley's share ends: each query's heap is read out, and its best candidates go to the merge (R142, R150). -/
def endShare (run v : Nat) (s : State) : State :=
  match s.qrun? run with
  | none => s
  | some r =>
    match r.shares.find? fun sh => sh.valley == v && !sh.ended && sh.pieces.all fun p => 2 ≤ p.stage, r.view.cent with
    | some sh, some c =>
      let users := (sh.pieces.flatMap (·.users)).eraseDups
      let out := (r.one.zipIdx).foldl (fun (a : List QOne × Nat × Nat) q =>
        if users.contains q.2 then
          let x := shareOne s r c sh q.2 q.1 a.2.2
          (a.1 ++ [x.1], a.2.1 + x.2.1, x.2.2)
        else (a.1 ++ [q.1], a.2)) ([], 0, 8192 - s.heapUsed v)
      let r := { r with
        one := out.1
        shares := r.shares.map fun x => if x.valley = v then { x with ended := true } else x }
      pump (endShard run (onQuery (fun q => { q with tieTruncations := satAdd 64 q.tieTruncations out.2.1 }) (onQRun run (fun _ => r) s)))
    | _, _ => s

/-- VALLEY_SHARE_END. -/
def execValleyShareEnd (run valley : Nat) (s : State) : Res := .next (if s.up then endShare run valley s else s)

/-! ### Plain-wide queries (R184, R185) -/

/-- PLAIN_WIDE_QUERY. -/
def execPlainWideQuery (port : Nat) (hd : FlitHdr) (q : PlainQuery) (s : State) : Res :=
  .next (receiveFor port hd (.query q) (serveShard port hd.src.toNat q) s)

/-- An answer for a run headed here. -/
def takeAnswer (a : MemberAnswer) (s : State) : State :=
  settleHeads (onQRun a.qid (fun r =>
    if r.wide && r.asked.contains a.owner then { r with asked := r.asked.erase a.owner, answers := r.answers ++ [a] } else r) s)

/-- MEMBER_ANSWER. -/
def execMemberAnswer (port : Nat) (hd : FlitHdr) (a : MemberAnswer) (s : State) : Res :=
  .next (receiveFor port hd (.answer a) (takeAnswer a) s)

/-- A member has been lost: its shard is asked of its buddy where that can still start before the flash cut-off, and shards that it
served from its mirrors stay unanswered (R185). -/
def queryLost (m : Nat) (s : State) : State :=
  settleHeads ((s.query.runs.filter fun r => r.wide && !r.asked.isEmpty).foldl (fun s r =>
    let gone := r.asked.filter fun o => o == m || (s.buddyOf o == m && !(s.isPresent o))
    let s := onQRun r.id (fun r => { r with asked := r.asked.filter fun o => !(gone.contains o) }) s
    let inTime := r.cuts.isNone || r.one.all fun q => !(reached q.cf s.pos)
    if gone.contains m && inTime then askShard r m s else s) s)

end Sys2Proof.Machine
end

