-- ==== Sys2Proof/Machine/Port.lean ====
section
/-! DEFINITION. The states of a pass port, replay, credits and rate (R283 to R291, R296): what the outside world does to a port. -/

namespace Sys2Proof.Machine

/-! ### Training and identification (R284, R290, R296) -/

/-- A port that takes part: enabled, in a plain of more than one member, and wired by the topology (R284, R295). -/
def State.portWired (s : State) (p : Nat) : Bool :=
  let c := s.img.active.plain
  decide (p < 4) && c.portEnable.testBit p && decide (1 < c.members) && (wired c 0 p).isSome

/-- The member number that this drive has, asks for, or had at its last reset (R299, R301). -/
def State.ownNumber (s : State) : Option Nat :=
  if s.plain.member != 0xFF then some s.plain.member
  else match s.plain.join with
    | some j => some j.member
    | none => match s.nor.membership with
      | some (id, m, _) => if id = s.img.active.plain.plainId then some m else none
      | none => none

/-- The far end carries what R296 asks for. A far end that is no member yet carries FFh; a drive that has no number cannot check
which member it is. -/
def State.identityOk (s : State) (p : Nat) (f : PortIdentity) : Bool :=
  f.plainId == s.img.active.plain.plainId && f.hash == sectionHash s.img.active &&
  (match s.ownNumber with
    | some m => match wired s.img.active.plain m p with
      | some (y, q) => f.port == q && (f.member == y || f.member == 0xFF)
      | none => false
    | none => match wired s.img.active.plain 0 p with
      | some (_, q) => f.port == q
      | none => false)

/-- The median of the echoes: the mean of the two in the middle. -/
def medianOf (l : List Nat) : Nat :=
  let x := sortBy (fun a b => decide (a < b)) l
  (x.getD ((x.length - 1) / 2) 0 + x.getD (x.length / 2) 0) / 2

/-- The round trip that CABLE_DM leads to expect, in ns (R290). -/
def expectedTrip (dm : Nat) : Nat := 780 + dm + if 20 < dm then 120 else 0

/-- Payload rate in units of 0.1 GB/s at a round trip, rounded to the nearest; half of it on one lane (R284, R290). -/
def rateAt (t : Nat) (one : Bool) : Nat :=
  let num := 496 * min 861 t
  let den := max 1 t * (if one then 2 else 1)
  (2 * num + den) / (2 * den)

/-- A port leaves Down for Detect. -/
def execPortDetect (port : Nat) (s : State) : Res :=
  .next (if s.up && !s.fw.recovery && s.portWired port && (s.port port).state == .down && decide ((s.port port).failRun < 3)
    then onPort port (fun p => { p with state := .detect }) s else s)

/-- PORT_RETRY: as detection, once three trainings in a row have failed. -/
def execPortRetry (port : Nat) (s : State) : Res :=
  .next (if s.up && !s.fw.recovery && s.portWired port && (s.port port).state == .down && decide (3 ≤ (s.port port).failRun)
    then onPort port (fun p => { p with state := .detect }) s else s)

/-- ELECTRICAL_PRESENCE. -/
def execElectricalPresence (port : Nat) (s : State) : Res :=
  .next (if s.up && (s.port port).state == .detect then onPort port (fun p => { p with state := .train }) s else s)

/-- PORT_TRAIN_DONE: the lanes that reached Align, none where the time ran out. -/
def execPortTrainDone (port lanes : Nat) (s : State) : Res :=
  .next (if !(s.up && (s.port port).state == .train) then s
    else if lanes = 0 then
      onPort port (fun p => { p with state := .down, trainFails := bump32 p.trainFails, failRun := p.failRun + 1 }) s
    else onPort port (fun p => { p with state := .align, oneLane := lanes == 1 }) s)

/-- The join request of a drive that has a port Up goes to the reference member (R300 step 4). -/
def sendJoin (s : State) : State :=
  match s.plain.join with
  | some j =>
    if j.requested || s.upPorts.isEmpty then s
    else
      let km := match s.parity? with
        | some (k, m) => k + m
        | none => 1
      flood (.joinRequest ⟨s.img.active.plain.plainId, j.member, j.mode, userSlots / km, true, j.mode == 0⟩)
        { s with plain := { s.plain with join := some { j with requested := true } } }
  | none => s

/-- PORT_IDENTIFY. At Up the sequence numbers start again and the receiver grants every slot (R289). -/
def execPortIdentify (port : Nat) (far : PortIdentity) (echoes : List Nat) (s : State) : Res :=
  .next (
    let st := (s.port port).state
    if !(s.up && (st == .align || st == .identify || st == .miswired)) then s
    else if !(s.identityOk port far) then
      onPort port (fun p => { p with state := .miswired, far := some far, neighbour := far.member }) s
    else
      let t := medianOf echoes
      sendJoin (onPort port (fun p => { Port.reset with
        state := .up
        oneLane := p.oneLane
        cableLong := decide (expectedTrip s.img.active.plain.cableDm + 50 < t)
        neighbour := far.member
        far := some far
        rtt := t
        rate := rateAt t p.oneLane
        fecCorrected := p.fecCorrected
        replays := p.replays
        linkLosses := p.linkLosses
        trainFails := p.trainFails
        creditFixes := p.creditFixes }) s))

/-! ### Loss of the link (R285, R296) -/

/-- A payload that belongs to its link alone. -/
def Payload.linkOnly : Payload → Bool
  | .idle | .nak _ | .resync _ => true
  | _ => false

/-- A flit of a lost port sent again on the new route of its destination; a flood is not. -/
def resend (x : Sent) (s : State) : State :=
  if x.body.linkOnly || x.dst == 0xFF then s
  else match s.route x.dst with
    | some (p, _) => sendFlit true { x with port := p, cls := s.outClass (isChord x.port) x.cls p } s
    | none => { s with plain := { s.plain with unrouted := s.plain.unrouted + 1 } }

/-- A port goes to Down: its flits take the new routes, and queries hear at once of the members it cut off (R185, R298). -/
def dropLink (port : Nat) (s : State) : State :=
  let p := s.port port
  let lost := s.others.filter fun m => (s.route m).isSome
  let s := onPort port (fun p => { p with
    state := .down
    oneLane := false
    cableLong := false
    neighbour := 0xFF
    far := none
    linkLosses := if p.state == .up then bump32 p.linkLosses else p.linkLosses
    replay := []
    inFlight := Port.reset.inFlight
    queue := [] }) s
  if p.state != .up then s
  else
    let s := (p.replay.map Prod.fst ++ p.queue.map Prod.fst).foldl (fun s x => resend x s) s
    (lost.filter fun m => (s.route m).isNone).foldl (fun s m => queryLost m s) s

/-- PORT_LINK_LOSS. -/
def execPortLinkLoss (port : Nat) (s : State) : Res :=
  .next (if s.up && (s.port port).state != .down && (s.port port).state != .detect then dropLink port s else s)

/-! ### Replay and credits (R287, R289) -/

/-- NAK: the flits from a SEQ on are sent again in order; the eighth time the port goes to Down. -/
def execNak (port seq : Nat) (s : State) : Res :=
  .next (
    let p := s.port port
    let i := p.replay.findIdx fun x => x.1.seq == seq
    if !(s.up && p.state == .up) || decide (p.replay.length ≤ i) then s
    else
      let again := p.replay.drop i
      let s := onPort port (fun p => { p with
        replay := p.replay.take i ++ again.map fun x => (x.1, x.2 + 1)
        replays := bump32 p.replays }) s
      if again.any fun x => decide (7 ≤ x.2) then dropLink port s
      else { s with plain := { s.plain with tx := s.plain.tx ++ again.map Prod.fst } })

/-- CREDIT_RESYNC: the credits that the sender counts as spent are those of the flits that the far end has not received. -/
def execCreditResync (port : Nat) (hd : FlitHdr) (counts : List Nat) (s : State) : Res :=
  .next (receive port hd (fun s =>
    let p := s.port port
    let fixed := (List.range 8).map fun i => p.sent.getD i 0 - counts.getD i 0
    if fixed == p.inFlight then s
    else drainQueue port 257 (onPort port (fun p => { p with inFlight := fixed, creditFixes := bump32 p.creditFixes }) s)) s)

/-- IDLE_FLIT: its ACK and credits are taken. -/
def execIdleFlit (port : Nat) (hd : FlitHdr) (s : State) : Res := .next (receive port hd (fun s => s) s)

/-- FLOW_SETUP. -/
def execFlowSetup (port : Nat) (hd : FlitHdr) (e : FlowEntry) (s : State) : Res :=
  .next (receiveFor port hd (.flowSetup e) (fun s => { s with plain := { s.plain with
    flows := s.plain.flows.filter (fun x => x.flow != e.flow) ++ [e] } }) s)

/-- REDUCTION_GATHER: a copy is stored, and the flit goes on (R293 Copy mode). -/
def execReductionGather (port : Nat) (hd : FlitHdr) (g : GatherFlit) (s : State) : Res :=
  .next (receive port hd (fun s =>
    let s := { s with plain := { s.plain with gathered := s.plain.gathered ++ [(g.flow, g.data)] } }
    if hd.dst.toNat = s.plain.member then s else passOn port hd (.gather g) s) s)

end Sys2Proof.Machine
end

