-- ==== Sys2Proof/Machine/Plain.lean ====
section
/-! DEFINITION. The plain (R297 to R311): bell flits and the reference member, joining and leaving, cross-drive parity, reads that another
member serves or that are rebuilt, and the mirrors held for others. -/

namespace Sys2Proof.Machine

def onPlain (f : PlainSt → PlainSt) (s : State) : State := { s with plain := f s.plain }

/-! ### The reference member and roll call (R71, R298) -/

/-- Bell state of a member as this drive knows it. -/
def State.modeOf (s : State) (m : Nat) : BellMode := if m = s.plain.member then s.bell.mode else (s.peer m).mode

/-- The lowest-numbered present member that is Locked; where none is, the lowest-numbered present one; FFh outside a plain. -/
def State.findReference (s : State) : Nat :=
  if !(s.isMember || s.plain.own == .isolated) then 0xFF
  else
    let l := (List.range s.members).filter fun m => s.plain.present.getLsbD m || m == s.plain.member
    match l.find? fun m => s.modeOf m == .locked with
    | some m => m
    | none => l.headD 0xFF

def renewReference (s : State) : State := onPlain (fun p => { p with reference := s.findReference }) s

def bitmapOf (l : List Nat) : BitVec 24 := l.foldl (fun a m => a ||| (1#24 <<< m)) 0#24

/-- A peer's state changed, with what follows: the event of R312, and for a member marked Absent its bell and count. -/
def setPeer (m : Nat) (st : PeerState) (s : State) : State :=
  if (s.peer m).state == st then s
  else
    plainEvent (onPeer m (fun p => { p with
      state := st
      silent := if st == .present || st == .rejoining then 0 else p.silent
      absentBell := if st == .absent then s.bell.count else p.absentBell
      absentCount := if st == .absent then bump32 p.absentCount else p.absentCount }) s)

/-- The bits of the other members that are Present. -/
def renewPresent (s : State) : State :=
  onPlain (fun p => { p with present := bitmapOf ((s.others.filter s.isPresent) ++ if s.isMember then [s.plain.member] else []) }) s

/-- A group of so many of the configured members is a minority (R298). -/
def minority (n size : Nat) (holds0 : Bool) : Bool := decide (size < n / 2 + 1) && !(n % 2 == 0 && size == n / 2 && holds0)

/-- A member that finds itself with a minority is Isolated, and returns when it is with a majority again. -/
def settleIsolation (s : State) : State :=
  let l := (List.range s.members).filter fun m => s.plain.present.getLsbD m || m == s.plain.member
  if minority s.members l.length (l.contains 0) then
    if s.plain.own == .member then plainEvent (onPlain (fun p => { p with own := .isolated }) s) else s
  else if s.plain.own == .isolated then plainEvent (onPlain (fun p => { p with own := .member }) s)
  else s

/-! ### GF(2^8) solving for lost slots (R294, R308) -/

def xorRow (x y : List Byte) : List Byte := (List.zip x y).map fun p => p.1 ^^^ p.2

/-- One column of an augmented matrix cleared; the minors of a Cauchy matrix are never zero, so that no row has to be exchanged. -/
def clearColumn (a : List (List Byte)) (c : Nat) : List (List Byte) :=
  let piv := a.getD c []
  let piv := piv.map (gfMul (gfInv (piv.getD c 1)))
  (a.zipIdx).map fun r => if r.2 = c then piv else xorRow r.1 (piv.map (gfMul (r.1.getD c 0)))

/-- The inverse of a square matrix. -/
def gfInverse (a : List (List Byte)) : List (List Byte) :=
  let n := a.length
  let aug := (a.zipIdx).map fun r => r.1 ++ (List.range n).map fun j => if r.2 = j then (1 : Byte) else 0
  ((List.range n).foldl clearColumn aug).map fun r => r.drop n

/-- The k surviving positions of a stripe that rebuild position `j`, with their coefficients: every surviving data slot, then parity in
ascending order. None where more than m slots are lost. -/
def rebuildPlan (k m : Nat) (gone : Nat → Bool) (j : Nat) : Option (List (Nat × Byte)) :=
  let lost := fun (q : Nat) => gone q || q == j
  let ds := (List.range k).filter fun i => !(lost (m + i))
  let ls := (List.range k).filter fun i => lost (m + i)
  let ps := ((List.range m).filter fun p => !(lost p)).take ls.length
  if ps.length < ls.length then none
  else
    let inv := gfInverse (ps.map fun p => ls.map fun i => parityCoef p i)
    -- coefficients of data position ls[a] on the parity ps[b] and on the data position i
    let onPar := fun (a b : Nat) => (inv.getD a []).getD b 0
    let onData := fun (a i : Nat) => (ps.zipIdx).foldl (fun (x : Byte) p => x ^^^ gfMul (onPar a p.2) (parityCoef p.1 i)) 0
    let target := fun (par b i : Nat) => -- coefficient of survivor: parity number b, or data position i
      if m ≤ j then
        let a := ls.findIdx (· == j - m)
        if par = 1 then onPar a b else onData a i
      else
        let own : Byte := if par = 1 then 0 else parityCoef j i
        (ls.zipIdx).foldl (fun (x : Byte) l =>
          x ^^^ gfMul (parityCoef j l.1) (if par = 1 then onPar l.2 b else onData l.2 i)) own
    some (ds.map (fun i => (m + i, target 0 0 i)) ++ (ps.zipIdx).map fun p => (p.1, target 1 p.2 0))

/-- The name of a member's slot in its stripe (see `RebuildFlit`). -/
def slotKey (n km member lsn : Nat) : Nat := (lsn / km * n + stripeOf n km member lsn) * km + lsn % km

/-- Stripe number within its block, logical slot and holder that a name stands for. -/
def keyStripe (n km key : Nat) : Nat := key / km % n
def keySlot (n km key : Nat) : Nat := key / km / n * km + key % km
def keyHolder (n km key : Nat) : Nat := holderOf n (keyStripe n km key) (key % km)

/-- The plan for a named slot over the members that are Present. -/
def State.planFor (s : State) (requester key : Nat) : Option (List (Nat × Byte)) :=
  match s.parity? with
  | some (k, m) =>
    let n := s.members
    let t := keyStripe n (k + m) key
    rebuildPlan k m (fun q =>
      let h := holderOf n t q
      !(h == s.plain.member || h == requester || s.plain.present.getLsbD h)) (key % (k + m))
  | none => none

/-- The content of an own slot as the adders take it: a slot never written is zero, a lost one poisoned throughout. Flash is taken to
deliver (log 21). -/
def State.slotContent (s : State) (lsn : Nat) : UnitData :=
  match s.plain.parity.find? fun x => x.slot == lsn with
  | some x => ⟨lsn, x.data, [], false⟩
  | none => match s.mapOf lsn with
    | none => ⟨lsn, Blob.zero unitBytes, [], false⟩
    | some .lost => UnitData.bad lsn false
    | some (.phys p) => match s.buffered p with
      | some u => ⟨lsn, u.data, u.poison, false⟩
      | none => match lookupNat s.ftl.flash p with
        | some f => ⟨lsn, f.data, [], false⟩
        | none => UnitData.bad lsn false

/-- This member's part of a stream: its slot times its coefficient. -/
def addOwn (coef : Byte) (u : UnitData) (r : RebuildFlit) : RebuildFlit :=
  if coef = 0 then r
  else { r with data := xorBlob r.data (gfScale coef u.data), poison := insertAll u.poison r.poison }

/-- The stream goes to the next survivor that the plan names after the positions done, or to the requester. -/
def sendNext (r : RebuildFlit) (left : List (Nat × Byte)) (s : State) : Option RebuildFlit × State :=
  match s.parity? with
  | none => (none, s)
  | some (k, m) =>
    let n := s.members
    match left with
    | x :: _ =>
      let h := holderOf n (keyStripe n (k + m) r.lost) x.1
      (none, sendTo h 0 (.rebuild { r with slot := r.lost / (k + m) / n * (k + m) + x.1, coef := x.2, last := false }) s)
    | [] =>
      let r := { r with last := true }
      if r.requester = s.plain.member then (some r, s) else (none, sendTo r.requester 0 (.rebuild r) s)

/-! ### Rebuilt slots and reads for other members (R307, R308, R362) -/

/-- The data of LBAs of another member's namespace: those that may not be trusted hold free values. Answers the first of these. -/
def gatherProxy (units : List UnitData) (keyAt : Nat → Nat) : List Nat → State → Blob × Option Nat × State
  | [], s => (Blob.zero 0, none, s)
  | a :: r, s =>
    let u := (units.find? fun u => u.lsn == keyAt a).getD (UnitData.bad 0 true)
    let o := a % 16 * 4096
    let ok := !u.lost && !(u.poison.any fun g => decide (o / 64 ≤ g ∧ g < o / 64 + 64))
    let (d, s) := if ok then (u.data.slice o 4096, s) else freeBytes 4096 s
    let (rest, bad, s) := gatherProxy units keyAt r s
    (d.append rest, if ok then bad else some a, s)

/-- Name of the slot that holds an LBA of another member's namespace. -/
def State.proxyKey (s : State) (m : Nat) (e : NsTableEntry) (lba : Nat) : Nat :=
  let km := match s.parity? with
    | some (k, m) => k + m
    | none => 1
  slotKey s.members km m (s.lsnOf (e.base + lba / 16))

def State.tableEntry (s : State) (m nsid : Nat) : Option NsTableEntry := (s.peer m).table.find? fun e => e.nsid == nsid

/-- A Read for another member's data whose slots have all come. Without the member's keys the data cannot be read (R405): it is a free
value. -/
def finishProxy (x : Proxy) (s : State) : State :=
  let s := onPlain (fun p => { p with proxies := p.proxies.filter fun y => y.tag != x.tag }) s
  match s.tableEntry x.member x.nsid with
  | none => finish x.hdr stInvalidNs s
  | some e =>
    let (d, bad, s) := gatherProxy x.got (s.proxyKey x.member e) (spanList x.slba (x.nlb + 1)) s
    let (d, s) := if e.key = 0 then freeBytes d.len s else (d, s)
    let s := countDelivered ((spanList x.slba (x.nlb + 1)).foldl (fun a l =>
        a + ((x.got.find? fun u => u.lsn == s.proxyKey x.member e l).elim 0 fun u => u.poisonedLba l)) 0) s
    match bad with
    | none => finishData x.hdr d s
    | some a => finishUnrecovered x.hdr d x.nsid a s

/-- Reads whose slots have all come end. -/
def settleProxies (s : State) : State :=
  (s.plain.proxies.filter fun x => !x.want.isEmpty && x.want.all fun w => x.got.any fun u => u.lsn == w).foldl (fun s x => finishProxy x s) s

/-- A slot handed to the reads that want it. -/
def giveProxies (u : UnitData) (s : State) : State :=
  let take := fun (x : Proxy) =>
    if x.want.contains u.lsn && !(x.got.any fun y => y.lsn == u.lsn) then { x with got := x.got ++ [u] } else x
  settleProxies (onPlain (fun p => { p with proxies := p.proxies.map take }) s)

/-- A slot of this member's own that has been rebuilt is written again (R311). -/
def storeRebuilt (key : Nat) (u : UnitData) (s : State) : State :=
  match s.parity? with
  | none => s
  | some (k, m) =>
    let lsn := keySlot s.members (k + m) key
    let s := onPlain (fun p => { p with rebuildLeft := p.rebuildLeft - 1 }) s
    if !u.poison.isEmpty then s
    else if key % (k + m) < m then
      let s := onPlain (fun p => { p with parity := p.parity.filter (fun x => x.slot != lsn) ++ [⟨lsn, u.data, []⟩] }) s
      match writeUnit .host 0 lsn 1 u.data [] s with
      | some (_, s) => s
      | none => s
    else if u.data.cells.isEmpty then s
    else match writeUnit .host 0 lsn 1 u.data [] s with
      | some (_, s) => s
      | none => s

/-- A stream has brought a lost slot to its requester. The second result names the page read that waited for it. -/
def deliverRebuilt (r : RebuildFlit) (s : State) : Option Nat × State :=
  let u : UnitData := ⟨r.lost, r.data, r.poison, false⟩
  let s := onPlain (fun p => { p with rebuiltReads := bump64 p.rebuiltReads }) s
  match s.plain.recover.find? fun x => x.1 == r.lost with
  | some x => (some x.2, onPlain (fun p => { p with recover := p.recover.erase x }) s)
  | none =>
    if (s.plain.proxies.any fun x => x.want.contains r.lost) then (none, giveProxies u s)
    else (none, storeRebuilt r.lost u s)

/-- A stream for a lost slot set up and sent off; a stripe with too many slots lost is counted, and the slot stays lost. -/
def startStream (key : Nat) (s : State) : Option Nat × State :=
  match s.parity?, s.planFor s.plain.member key with
  | some (k, m), some plan =>
    let n := s.members
    let mine := fun (q : Nat) => holderOf n (keyStripe n (k + m) key) q == s.plain.member
    let r : RebuildFlit := ⟨s.plain.member, key, 0, 0, false, Blob.zero unitBytes, []⟩
    let r := match plan.find? fun x => mine x.1 with
      | some x => addOwn x.2 (s.slotContent (key / (k + m) / n * (k + m) + x.1)) r
      | none => r
    let (done, s) := sendNext r (plan.filter fun x => !(mine x.1)) s
    match done with
    | some r => deliverRebuilt r s
    | none => (none, s)
  | _, _ =>
    (none, giveProxies ⟨key, Blob.zero unitBytes, allGranules, true⟩ (onPlain (fun p => { p with unrecoverable := bump64 p.unrecoverable }) s))

/-- The slots of a Read asked for through rebuild streams. -/
def rebuildFor (x : Proxy) (e : NsTableEntry) (s : State) : State :=
  let keys := (spanList (x.slba / 16) ((x.slba + x.nlb) / 16 + 1 - x.slba / 16)).map fun u => s.proxyKey x.member e (u * 16)
  let s := onPlain (fun p => { p with proxies := p.proxies.filter (fun y => y.tag != x.tag) ++ [{ x with want := keys }] }) s
  keys.foldl (fun s k => (startStream k s).2) s

/-- Read with PROXY of another member. -/
def proxyCore (h : Hdr) (nsid slba nlb target : Nat) (s : State) : State :=
  if s.members ≤ target then finish h stInvalidField s
  else if !s.isMember then finish h stNotPresent s
  else if target = s.plain.member then readCore h nsid slba nlb s
  else match s.tableEntry target nsid with
    | none => finish h stInvalidNs s
    | some e =>
      if 512 < nlb + 1 then finish h stInvalidField s
      else if e.slots * 16 < slba + nlb + 1 then finish h stLbaRange s
      else
        let x : Proxy := ⟨s.plain.nextTag, h, target, nsid, slba, nlb, [], []⟩
        let s := onPlain (fun p => { p with nextTag := p.nextTag + 1, proxies := p.proxies ++ [x] }) (begin' h .reading s)
        if (s.peer target).state == .absent || (s.peer target).state == .left then rebuildFor x e s
        else sendTo target 0 (.proxyRead ⟨x.tag, nsid, slba, nlb⟩) s

/-- READ_WITH_PROXY. Without PROXY the Read is an ordinary one. -/
def execReadWithProxy (h : Hdr) (nsid slba nlb target : Nat) (s : State) : Res :=
  .next (admitIo h (.readWithProxy h nsid slba nlb target) true (fun s =>
    if h.proxy then proxyCore h nsid slba nlb target s else readCore h nsid slba nlb s) s)

/-- Poisoned granules of a read served for another member, by granule of its data. -/
def proxyPoison (j : Job) (s : State) (n : Ns) (lbas : List Nat) : List Nat :=
  (lbas.zipIdx).flatMap fun a =>
    let u := j.unit (s.slotOf n a.1)
    if u.lost || s.deferredLba n.nsid a.1 then spanList (a.2 * 64) 64
    else ((List.range 64).filter fun g => u.poison.contains (a.1 % 16 * 64 + g)).map fun g => a.2 * 64 + g

/-- A read for another member whose units have come: its data go back on VC 2 (R307). -/
def finishServed (member tag nsid slba nlb : Nat) (j : Job) (s : State) : State :=
  let s := closeJob j.jid s
  let l := spanList slba (nlb + 1)
  match s.ns? nsid with
  | none => sendTo member 0 (.proxyData ⟨tag, Blob.zero (l.length * 4096), List.range (l.length * 64)⟩) s
  | some n =>
    sendTo member 0 (.proxyData ⟨tag, Blob.concat (l.map fun a => (lbaData j s n a).1), proxyPoison j s n l⟩) s

/-- A read of another member's command served here. -/
def serveProxy (port src : Nat) (q : ProxyRead) (s : State) : State :=
  let fail := sendTo src 0 (.proxyData ⟨q.tag, Blob.zero ((q.nlb + 1) * 4096), List.range ((q.nlb + 1) * 64)⟩) s
  match s.ns? q.nsid with
  | none => fail
  | some n =>
    if decide (n.lbas < q.slba + q.nlb + 1) || decide (512 < q.nlb + 1) then fail
    else
      let (jid, s) := openJob (.proxy port src q.tag q.nsid q.slba q.nlb) (s.unitsOf n q.slba (q.nlb + 1)) s
      match s.job? jid with
      | some j => if j.wait.isEmpty then finishServed src q.tag q.nsid q.slba q.nlb j s else s
      | none => s

/-- PROXY_READ_REQUEST. -/
def execProxyReadRequest (port : Nat) (hd : FlitHdr) (q : ProxyRead) (s : State) : Res :=
  .next (receiveFor port hd (.proxyRead q) (serveProxy port hd.src.toNat q) s)

/-- The data of a forwarded Read have come back. -/
def endProxy (d : ProxyData) (s : State) : State :=
  match s.plain.proxies.find? fun x => x.tag == d.tag && x.want.isEmpty with
  | none => s
  | some x =>
    let n := x.nlb + 1
    let s := countDelivered d.poison.length (onPlain (fun p => { p with proxies := p.proxies.filter fun y => y.tag != x.tag }) s)
    let badLba := fun (i : Nat) => d.poison.any fun g => decide (i * 64 ≤ g ∧ g < i * 64 + 64)
    let bytes := d.poison.flatMap fun g => spanList (g / 64 * 4096) 4096
    let (out, s) := maskBytes (d.data.fit (n * 4096)) bytes.eraseDups s
    match (List.range n).find? badLba with
    | none => finishData x.hdr out s
    | some i => finishUnrecovered x.hdr out x.nsid (x.slba + i) s

/-- PROXY_READ_DATA. -/
def execProxyReadData (port : Nat) (hd : FlitHdr) (d : ProxyData) (s : State) : Res :=
  .next (receiveFor port hd (.proxyData d) (endProxy d) s)

/-- What follows when a member is marked Absent: its queries, and Reads that had been forwarded to it are rebuilt. -/
def memberGone (m : Nat) (s : State) : State :=
  let s := queryLost m s
  (s.plain.proxies.filter fun x => x.member == m && x.want.isEmpty).foldl (fun s x =>
    match s.tableEntry m x.nsid with
    | some e => rebuildFor x e s
    | none => finish x.hdr stInvalidNs (onPlain (fun p => { p with proxies := p.proxies.filter fun y => y.tag != x.tag }) s)) s

/-! ### Leaving (R302) -/

/-- Nothing holds the leave back: every delta sent has been acknowledged, every shard served, every query headed and every Train
Step ended. -/
def State.leaveReady (s : State) : Bool :=
  !(s.plain.deltas.any fun d => s.isPresent d.member) &&
  !(s.query.runs.any fun r => r.wide || (match r.reply with
    | .head _ _ _ _ => true
    | .host _ _ _ _ => false)) &&
  s.train.steps.isEmpty

/-- The membership record withdrawn. -/
def eraseMembership (s : State) : State :=
  match s.nor.option 5 0x85 with
  | some r => norFlag r.seq 1 s
  | none => s

/-- The drive on its own: the plain key and its copies of the others' keys are destroyed, and what it held for others goes. -/
def standAlone (s : State) : State :=
  plainEvent (onPlain (fun p => { p with
    own := .standalone
    member := 0xFF
    peers := p.peers.map fun _ => Peer.reset
    present := 0
    presentNext := none
    reference := 0xFF
    stale := []
    rebuild := none
    rebuildLeft := 0
    deltas := []
    parity := []
    early := []
    join := none
    admissions := []
    plainKey := false }) s)

/-- A leave whose conditions are met ends; its command completes, unless a reset has ended it (R101). -/
def tryLeave (s : State) : State :=
  if s.plain.own == .leaving && s.leaveReady then
    let h := s.plain.leaveHdr
    let s := onPlain (fun p => { p with leaveHdr := none }) (standAlone (eraseMembership (flood .leave s)))
    match h with
    | some h => finish h stOk s
    | none => s
  else s

/-- PLAIN_LEAVE. -/
def execPlainLeave (h : Hdr) (s : State) : Res :=
  .next (admitAdmin h 0xC6 (fun s =>
    match s.plain.own with
    | .standalone | .joining => finish h stNotPresent s
    | .leaving => finish h stSequence s
    | .member | .isolated =>
      tryLeave (plainEvent (onPlain (fun p => { p with own := .leaving, leaveHdr := some h }) (begin' h .admin s)))) s)

/-- A member has left: it is marked, its keys are destroyed, and the message goes on once. -/
def peerLeft (port m : Nat) (s : State) : State :=
  if (s.peer m).state == .left then s
  else
    let s := (s.upPorts.filter (· != port)).foldl (fun s p =>
      sendFlit true ⟨p, m, 0xFF, 0, 0, s.outClass (isChord port) 0 p, 0, .leave, 0, 0⟩ s) s
    let s := setPeer m .left (onPeer m (fun p => { p with table := p.table.map fun e => { e with key := 0 }, mirror := [], mirrorBehind := false }) s)
    renewReference (renewPresent (memberGone m s))

/-- LEAVE_MESSAGE. -/
def execLeaveMessage (port : Nat) (hd : FlitHdr) (s : State) : Res :=
  .next (receive port hd (peerLeft port hd.src.toNat) s)

/-! ### Joining (R299 to R301, R304, R405) -/

/-- A join fails: the drive is Standalone, and its reason is kept. -/
def failJoin (reason : Nat) (s : State) : State :=
  match s.plain.join with
  | none => s
  | some j =>
    let s := plainEvent (onPlain (fun p => { p with own := .standalone, join := none, joinRefusal := reason }) s)
    match j.hdr with
    | some h => finishDw h stJoinRefused reason s
    | none => s

/-- A join refused before it began. -/
def refuseJoin (h : Hdr) (reason : Nat) (s : State) : State :=
  finishDw h stJoinRefused reason (onPlain (fun p => { p with joinRefusal := reason }) s)

/-- A join begins. -/
def beginJoin (h : Option Hdr) (member mode wait : Nat) (s : State) : State :=
  sendJoin (plainEvent (onPlain (fun p => { p with
    own := .joining
    join := some ⟨h, member, mode, s.bell.count, s.bell.count + BitVec.ofNat 48 wait, false, none⟩ }) s))

/-- The fields of Plain Join (R299). -/
def joinFieldsOk (c : PlainCfg) (b : Blob) : Bool :=
  decide (b.le 0 8 = c.plainId.toNat ∧ b.le 8 1 < c.members ∧ b.le 9 1 ≤ 2 ∧ 1 ≤ b.le 0xC 4 ∧ b.le 0xC 4 ≤ 1000) &&
  b.zeroAt 0xA 2 && b.zeroAt 0x10 4080

/-- The membership record in the option area names this plain and member. -/
def State.recordHolds (s : State) (member : Nat) : Bool :=
  match s.nor.membership with
  | some (id, m, _) => id == s.img.active.plain.plainId && m == member
  | none => false

/-- Plain Join, steps 1 to 3. -/
def joinCore (h : Hdr) (b : Blob) (s : State) : State :=
  let c := s.img.active.plain
  if !(joinFieldsOk c b) then finish h stInvalidField s
  else if s.plain.own == .joining then refuseJoin h 1 s
  else if s.plain.own != .standalone then refuseJoin h 7 s
  else if c.members ≤ 1 then refuseJoin h 1 s
  else if b.le 9 1 = 0 ∧ !(s.ns.list.isEmpty && s.idx.live.isEmpty && s.idx.queue.isEmpty) then refuseJoin h 8 s
  else if b.le 9 1 = 1 ∧ !(s.recordHolds (b.le 8 1)) then refuseJoin h 5 s
  else beginJoin (some h) (b.le 8 1) (b.le 9 1) (b.le 0xC 4) (begin' h .admin s)

/-- PLAIN_JOIN. -/
def execPlainJoin (h : Hdr) (data : Blob) (s : State) : Res := .next (admitAdmin h 0xC5 (joinCore h data) s)

/-- JOIN_WAIT_EXPIRED: no port has come up within 1 s (reason 3), or WAIT_BELLS have passed (reason 4). -/
def execJoinWaitExpired (s : State) : Res :=
  .next (match s.plain.join with
    | none => s
    | some j =>
      if s.plain.own != .joining then s
      else if s.upPorts.isEmpty && decide (1000000 ≤ bellsFrom j.start s.bell.count * s.img.active.periodUs) then failJoin 3 s
      else if bellsFrom j.start j.until' ≤ bellsFrom j.start s.bell.count then failJoin 4 s
      else s)

/-- AUTO_JOIN. -/
def execAutoJoin (s : State) : Res :=
  .next (match s.nor.membership with
    | some (id, m, _) =>
      let c := s.img.active.plain
      if s.up && c.flags.testBit 1 && id == c.plainId && decide (1 < c.members ∧ m < c.members) && s.plain.own == .standalone &&
          !s.upPorts.isEmpty then beginJoin none m 1 1000 s
      else s
    | none => s)

/-- The drive becomes Member (R300 step 6): the membership record is written and the command completes. -/
def becomeMember (j : Join) (present : BitVec 24) (s : State) : State :=
  let c := s.img.active.plain
  let (_, s) := norBlock 5 0x85 (Blob.concat [fld 8 c.plainId.toNat, fld 1 j.member, fld 1 c.members]) s
  let km := match s.parity? with
    | some (k, m) => (if j.mode = 0 then k + m else m) * (if s.plain.blocks = 0 then userSlots / (k + m) else s.plain.blocks)
    | none => 0
  let s := plainEvent (onPlain (fun p => { p with
    own := .member
    member := j.member
    plainKey := true
    present := present ||| (1#24 <<< j.member)
    rebuild := some ⟨j.mode, 0⟩
    rebuildLeft := km
    joinRefusal := 0
    peers := (p.peers.zipIdx).map fun x =>
      if x.2 = j.member ∨ c.members ≤ x.2 then { x.1 with state := .none }
      else { x.1 with state := if present.getLsbD x.2 then .present else .absent } }) s)
  let s := renewReference (sendTable s)
  match j.hdr with
  | some h => finish h stOk s
  | none => s

/-- JOIN_ADMIT. The joiner takes the plain's bell count at its next boundary, and the timetable in force there (R68, R79). -/
def takeAdmit (a : JoinAnswer) (s : State) : State :=
  match s.plain.join with
  | none => s
  | some j =>
    if s.plain.own != .joining then s
    else match a with
      | .refused r => failJoin r s
      | .admitted count present ok tt =>
        if !ok then failJoin 9 s
        else
          let s := onPlain (fun p => { p with join := some { j with admitted := some (count, present, tt) } }) s
          becomeMember j present { s with bell := { s.bell with timetable := tt } }

/-- JOIN_ADMIT: for this joiner, or passed on. -/
def execJoinAdmit (port : Nat) (hd : FlitHdr) (a : JoinAnswer) (s : State) : Res :=
  .next (receive port hd (fun s =>
    let mine : Bool := match s.plain.join with
      | some j => s.plain.own == .joining && (hd.dst.toNat == j.member || hd.dst == 0xFF#8)
      | none => false
    if mine then takeAdmit a s
    else if hd.dst.toNat = s.plain.member ∨ hd.dst = 0xFF#8 then s
    else passOn port hd (.joinAdmit a) s) s)

/-- The reason for which the reference member refuses a joiner; none where it admits it (R300 step 4, R304). -/
def State.joinFault (s : State) (j : JoinReq) : Option Nat :=
  let km := match s.parity? with
    | some (k, m) => k + m
    | none => 1
  let blocks := if s.plain.blocks = 0 then userSlots / km else s.plain.blocks
  let st := (s.peer j.member).state
  if !j.certOk then some 9
  else if j.member = s.plain.member ∨ st = .present ∨ st = .rejoining ∨ (s.plain.admissions.any fun a => a.member == j.member) then some 2
  else if j.blocks < blocks then some 6
  else if j.mode = 2 ∧ !(match s.plain.rebuild with
      | some r => r.mode == 2
      | none => false) then some 1
  else none

/-- A join request reaches the reference member. -/
def takeRequest (j : JoinReq) (s : State) : State :=
  if j.plainId != s.img.active.plain.plainId || decide (s.members ≤ j.member) then s
  else match s.joinFault j with
    | some r => sendTo j.member 0 (.joinAdmit (.refused r)) s
    | none => onPlain (fun p => { p with admissions := p.admissions ++ [⟨j.member, j.stale⟩] }) s

/-- JOIN_REQUEST: taken by the reference member, passed on to it by another. Joiners that find no plain form one: the lowest-numbered of
them becomes its reference member (log 22). -/
def execJoinRequest (port : Nat) (hd : FlitHdr) (j : JoinReq) (s : State) : Res :=
  .next (receive port hd (fun s =>
    match s.plain.own with
    | .standalone | .isolated => s
    | .joining => match s.plain.join with
      | some o =>
        if o.member < j.member ∧ s.plain.reference = 0xFF then takeRequest j (becomeMember o 0 (onPlain (fun p => { p with join := none }) s))
        else s
      | none => s
    | .member | .leaving =>
      if s.plain.reference = s.plain.member then takeRequest j s
      else match s.route s.plain.reference with
        | some (p, _) => sendFlit true ⟨p, hd.src.toNat, s.plain.reference, 0, 0, s.outClass (isChord port) 0 p, 0, .joinRequest j, 0, 0⟩ s
        | none => s) s)

/-- The reference member admits at a boundary those whose request it has accepted (R300 step 5). -/
def admitJoiners (s : State) : State :=
  s.plain.admissions.foldl (fun s a =>
    let s := renewPresent (setPeer a.member (if a.stale then .rejoining else .present) (onPeer a.member (fun p => { p with heard := true }) s))
    sendTo a.member 0 (.joinAdmit (.admitted s.bell.count s.plain.present true s.bell.timetable)) s)
    (onPlain (fun p => { p with admissions := [] }) s)

/-! ### Bell flits (R71, R298) -/

/-- A bell flit has its effect on a member's view of its sender. A flit of the boundary that is about to come counts as of the bell
before (log 23). -/
def noteBell (m : Nat) (f : BellFlit) (s : State) : State :=
  let early := decide (512 ≤ s.bell.tick)
  let bound := ((s.bell.boundNs : Int) + f.phaseNs + (if early then 0 else (s.estimateNs : Int))).toNat
  let s := onPeer m (fun p => { p with
    heard := true
    count := if early then f.count - 1 else f.count
    mode := f.mode
    phaseNs := f.phaseNs
    nextNs := some bound }) s
  let s := if m = s.plain.reference then onPlain (fun p => { p with presentNext := some f.present }) s else s
  renewReference s

/-- BELL_FLIT_RECEIVED: forwarded once for each sender and bell count. -/
def execBellFlitReceived (port : Nat) (hd : FlitHdr) (f : BellFlit) (s : State) : Res :=
  .next (receive port hd (fun s =>
    let m := hd.src.toNat
    if s.plain.seen.contains (m, f.count) || m == s.plain.member then s
    else
      let s := onPlain (fun p => { p with seen := ((m, f.count) :: p.seen).take 96 }) s
      let s := passOn port { hd with dst := 0xFF#8 } (.bell f) s
      if s.plain.own == .standalone || decide (s.members ≤ m) then s else noteBell m f s) s)

/-- What a member sends at each boundary (R71, R289). -/
def sendBell (s : State) : State :=
  let s := if s.isMember || s.plain.own == .isolated then
      flood (.bell ⟨s.bell.count, s.bell.mode, 0, s.plain.present⟩) s else s
  s.upPorts.foldl (fun s p => sendPort p 0xFF 0 (.resync (s.port p).received) s) s

/-- Roll call on the reference member: those not heard, those not heard three times in a row, and those heard again. A Rejoining member
that is heard and has no stale stripe here is Present (log 24). -/
def rollCall (s : State) : State :=
  (s.others.foldl (fun s m =>
    let p := s.peer m
    let s :=
      if p.heard then
        match p.state with
        | .silent | .absent => setPeer m .present s
        | .rejoining => if s.plain.stale.any fun x => x.2.2 == m then s else setPeer m .present s
        | _ => s
      else
        match p.state with
        | .present | .rejoining => onPeer m (fun p => { p with silent := 1 }) (setPeer m .silent s)
        | .silent =>
          if 2 ≤ p.silent then memberGone m (setPeer m .absent s) else onPeer m (fun p => { p with silent := p.silent + 1 }) s
        | _ => s
    onPeer m (fun p => { p with heard := false }) s) s)

/-- The bitmap of the reference member adopted by another: a member that it has dropped is Silent, and Absent at the third bell. -/
def adoptPresent (s : State) : State :=
  match s.plain.presentNext with
  | none => s
  | some b =>
    let s := onPlain (fun p => { p with presentNext := none }) s
    s.others.foldl (fun s m =>
      let p := s.peer m
      if b.getLsbD m then
        if p.state == .present then s
        else
          let s := setPeer m .present s
          sendTo m 0 s.ownTable s
      else match p.state with
        | .present | .rejoining => onPeer m (fun p => { p with silent := 1 }) (setPeer m .silent s)
        | .silent => if 2 ≤ p.silent then memberGone m (setPeer m .absent s) else onPeer m (fun p => { p with silent := p.silent + 1 }) s
        | _ => s) s

/-- Step 7 of a boundary (R80): roll call by the reference member, admissions, the bitmap, and the isolation of a minority. -/
def plainBoundary (s : State) : State :=
  if !(s.isMember || s.plain.own == .isolated) then s
  else
    let s := if s.plain.reference = s.plain.member then admitJoiners (rollCall s) else adoptPresent s
    settleIsolation (renewReference (renewPresent s))

/-! ### Parity (R293, R294, R305, R306) -/

/-- PARITY_ACKNOWLEDGEMENT. -/
def execParityAcknowledgement (port : Nat) (hd : FlitHdr) (a : ParityAck) (s : State) : Res :=
  .next (receiveFor port hd (.parityAck a) (fun s =>
    let m := hd.src.toNat
    let mine := fun (d : DeltaOut) => d.member == m && d.delta.lsn == a.lsn && d.delta.wcount == a.wcount
    let pars := (s.plain.deltas.filter mine).map fun d => d.delta.par
    let s := onPlain (fun p => { p with deltas := p.deltas.filter fun d => !(mine d) }) s
    tryLeave (releaseBuffers (onFtl (fun t => { t with buf := t.buf.map fun u =>
      if u.lsn = a.lsn ∧ u.wcount = a.wcount.toNat then { u with acks := u.acks.filter fun x => !(pars.contains x) } else u }) s))) s)

/-- How a delta's count stands to the last that was folded for its data position: 0 already folded, 1 its turn, 2 ahead of its turn. The
first delta for a position is always in turn. -/
def deltaTurn (last : Option Nat) (c : Nat) : Nat :=
  match last with
  | none => 1
  | some l =>
    let d := (c + 65536 - l) % 65536
    if d = 0 ∨ 32768 ≤ d then 0 else if d = 1 then 1 else 2

/-- A delta folded into its parity slot, which is then written, and acknowledged. -/
def foldDelta (src : Nat) (d : ParityDelta) (s : State) : State :=
  let old := (s.plain.parity.find? fun x => x.slot == d.slot).getD ⟨d.slot, (s.slotContent d.slot).data, []⟩
  let new : ParitySlot := ⟨d.slot, xorBlob old.data (gfScale (parityCoef d.par d.pos) d.data), setKey d.pos d.wcount.toNat old.counts⟩
  let s := onPlain (fun p => { p with parity := p.parity.filter (fun x => x.slot != d.slot) ++ [new] }) s
  let s := match writeUnit .host 0 d.slot 1 new.data [] s with
    | some (_, s) => s
    | none => s
  sendTo src 0 (.parityAck ⟨d.lsn, d.wcount⟩) s

/-- A delta taken in write-count order: folded, kept until its turn, or dropped and acknowledged again. -/
def takeDelta (src : Nat) (d : ParityDelta) (s : State) : State :=
  let last := (s.plain.parity.find? fun x => x.slot == d.slot).bind fun x => lookupNat x.counts d.pos
  match deltaTurn last d.wcount.toNat with
  | 0 => sendTo src 0 (.parityAck ⟨d.lsn, d.wcount⟩) s
  | 1 => foldDelta src d s
  | _ => onPlain (fun p => { p with early := p.early ++ [d] }) s

/-- Deltas kept for their turn whose turn has come, with fuel. -/
def takeEarly (src : Nat) : Nat → State → State
  | 0, s => s
  | f + 1, s =>
    match s.plain.early.find? fun d => deltaTurn ((s.plain.parity.find? fun x => x.slot == d.slot).bind fun x => lookupNat x.counts d.pos)
        d.wcount.toNat != 2 with
    | some d => takeEarly src f (takeDelta src d (onPlain (fun p => { p with early := p.early.erase d }) s))
    | none => s

/-- PARITY_DELTA. -/
def execParityDelta (port : Nat) (hd : FlitHdr) (d : ParityDelta) (s : State) : Res :=
  .next (receiveFor port hd (.delta d) (fun s =>
    let src := hd.src.toNat
    takeEarly src (s.plain.early.length + 1) (takeDelta src d s)) s)

/-- A stripe that the parity holder recomputes leaves the stale map once this drive's slot has gone into the stream (log 25). -/
def unstale (r : RebuildFlit) (s : State) : State :=
  match s.parity? with
  | some (k, m) =>
    if r.lost % (k + m) < m then
      let key := r.lost / (k + m)
      onPlain (fun p => { p with stale := p.stale.filter fun x =>
        !(x.1 == key / s.members && x.2.1 == key % s.members && x.2.2 == r.requester) }) s
    else s
  | none => s

/-- A stream passes a survivor, which adds its slot and sends it on, or has come to its requester. -/
def passStream (r : RebuildFlit) (s : State) : Option Nat × State :=
  match s.parity?, s.planFor r.requester r.lost with
  | some (k, m), some plan =>
    if r.last then
      if r.requester = s.plain.member then deliverRebuilt r s else (none, sendTo r.requester 0 (.rebuild r) s)
    else
      let n := s.members
      let holder := fun (q : Nat) => holderOf n (keyStripe n (k + m) r.lost) q
      let rest := ((plan.dropWhile fun x => holder x.1 != s.plain.member).drop 1).filter fun x => holder x.1 != r.requester
      sendNext (addOwn r.coef (s.slotContent r.slot) r) rest (unstale r s)
        |> fun x => (none, x.2)
  | _, _ => (none, s)

/-- Slots that one recess starts to rebuild (R311): one, while a rebuild is under way (log 25). -/
def rebuildRecess (s : State) : State :=
  match s.plain.rebuild, s.parity? with
  | some r, some (k, m) =>
    if !s.isMember then s
    else
      let blocks := if s.plain.blocks = 0 then userSlots / (k + m) else s.plain.blocks
      let per := if r.mode = 0 then k + m else m
      if blocks * per ≤ r.next then onPlain (fun p => { p with rebuild := none, rebuildLeft := 0 }) s
      else
        let lsn := r.next / per * (k + m) + r.next % per
        let s := onPlain (fun p => { p with rebuild := some { r with next := r.next + 1 } }) s
        if r.mode = 1 ∧ !(Config.staleElsewhere r.next) then onPlain (fun p => { p with rebuildLeft := p.rebuildLeft - 1 }) s
        else (startStream (slotKey s.members (k + m) s.plain.member lsn) s).2
  | _, _ => s

/-- Deltas of deallocates sent in recess (R306). -/
def sendQueued (s : State) : State :=
  (s.plain.deltas.filter fun d => d.recess && !d.sent && s.isPresent d.member).foldl (fun s d =>
    sendTo d.member 0 (.delta d.delta) (onPlain (fun p => { p with deltas := p.deltas.map fun x => if x = d then { x with sent := true } else x }) s)) s

/-- NAMESPACE_TABLE_MESSAGE. -/
def execNamespaceTableMessage (port : Nat) (hd : FlitHdr) (t : NsTable) (s : State) : Res :=
  .next (receiveFor port hd (.nsTable t) (onPeer t.member (fun p => { p with table := t.entries })) s)

/-! ### Mirrors (R309) -/

/-- Parameters and centroid data of a mirrored index, in the layout of `centMessage` (log 20). -/
def readCents (b : Blob) : Index :=
  let d := b.le 2 2
  let c := b.le 4 4
  let m := b.le 8 1
  let coarse := b.le 9 1 == 1
  let ix : Index := ⟨b.le 1 1, 0, d, c, m, coarse, b.le 0xA 1, b.le 0xB 1, b.le 0xC 1, b.le 0xD 1 == 1, b.le 0x10 4, .untrained, none, [], [], []⟩
  if b.len ≤ 32 then ix
  else
    let q := if m = 0 then 0 else d / m
    let o1 := 32
    let o2 := o1 + c * d * 2
    let o3 := o2 + 256 * d * 4
    let o4 := o3 + (if coarse then 16 * d * 4 else 0)
    let cents := (List.range c).map fun i => readVec b (o1 + i * d * 2) d 8
    let books := fun (o n parts w : Nat) => (List.range parts).map fun i => (List.range n).map fun j => readVec b (o + (i * n + j) * w * 4) w 10
    { ix with
      state := .trained
      cent := some ⟨cents, cents.map normOf, books o2 256 m q, if coarse then books o3 16 16 (d / 16) else [],
        (List.range c).map fun i => readVec b (o4 + i * m * 256 * 2) (m * 256) 8, []⟩ }

/-- Entries in the layout of R155. -/
def readPends (ix : Index) (b : Blob) : List Entry :=
  (List.range (b.len / max 1 ix.pendBytes)).map fun i =>
    let o := i * ix.pendBytes
    let f := o + 16 + ix.attrLen
    ⟨BitVec.ofNat 64 (b.le o 8), b.slice (o + 16) ix.attrLen, (List.range ix.m).map fun j => b.le (f + j) 1,
     (List.range 16).map (fun j => b.le (f + ix.m) 8 / 16 ^ j % 16), if ix.full = 0 then [] else readVec b (f + ix.m + 8) ix.dim ix.full⟩

/-- A mirror held for another member changed. -/
def onMirror (m num : Nat) (f : Index → Index) (s : State) : State :=
  onPeer m (fun p => { p with mirror := p.mirror.map fun x => if x.num = num then f x else x }) s

/-- Upkeep of a mirror held for `src`, or a confirmation from this drive's own buddy. -/
def takeMirror (src : Nat) (g : MirrorMsg) (s : State) : State :=
  match g with
  | .piece num list version data =>
    if list = 1048576 then
      let s := if data.len = 0 then onPeer src (fun p => { p with mirror := p.mirror.filter fun x => x.num != num }) s
        else onPeer src (fun p => { p with mirror := p.mirror.filter (fun x => x.num != num) ++ [readCents data], mirrorBehind := false }) s
      sendTo src 0 (.mirror (.confirm num list version)) s
    else
      match (s.peer src).mirror.find? fun x => x.num == num with
      | none => s
      | some ix =>
        match placeList ix list version (readPends ix data) [] true [] s with
        | none => s
        | some (v, s) =>
          let held := v.entries.map (·.id)
          sendTo src 0 (.mirror (.confirm num list version)) (onMirror src num (fun x => { x with
            lists := setKey list v x.lists
            pending := x.pending.filter fun p => !(p.list == list && held.contains p.entry.id) }) s)
  | .pendingEntries num wid data =>
    match (s.peer src).mirror.find? fun x => x.num == num with
    | none => s
    | some ix =>
      let es := (readPends ix data).zipIdx.map fun e =>
        (⟨s.idx.nextPend + e.2, data.le (e.2 * ix.pendBytes + 8) 4, e.1, s.bell.count.toNat, 0, true, false⟩ : Pend)
      sendTo src 0 (.mirror (.confirmPending wid)) (onMirror src num (fun x => { x with pending := x.pending ++ es })
        (onIdx (fun x => { x with nextPend := x.nextPend + es.length }) s))
  | .tombstones num marks =>
    let ids := (marks.filter fun x => x.1 == 0xFFFFFFFF).map Prod.snd
    onMirror src num (fun x => { markDead (marks.filter fun x => x.1 != 0xFFFFFFFF) [] x with
      pending := x.pending.map fun p => if ids.contains p.entry.id.toNat then { p with dead := true } else p }) s
  | .confirm num list version =>
    match s.idx.building.find? fun b => b.list == list && b.version == version && s.working.any fun x => x.serial == b.serial && x.num == num with
    | some b => journalChange s.idx.nextPend 16 (commitChange b.change (onIdx (fun x => { x with building := x.building.erase b }) s))
    | none => s
  | .confirmPending wid =>
    onIdx (fun x => { x with waiting := x.waiting.map fun w => if w.wid = wid then { w with confirmed := true } else w }) s

/-- MIRROR_UPKEEP. -/
def execMirrorUpkeep (port : Nat) (hd : FlitHdr) (m : MirrorMsg) (s : State) : Res :=
  .next (receiveFor port hd (.mirror m) (takeMirror hd.src.toNat m) s)

/-- A mirror that is behind is sent again in recess, once the buddy is Present. -/
def mirrorRecess (s : State) : State :=
  if !(s.idx.behind && s.isMember && s.isPresent s.buddy) then s
  else
    (s.idx.live.filter fun x => x.mirror).foldl (fun s ix =>
      let s := sendMirror ix (centMessage ix) s
      let s := ix.lists.foldl (fun s l =>
        let s := sendMirror ix (listMessage ix l.1 l.2) s
        if l.2.dead.isEmpty then s else sendMirror ix (.tombstones ix.num (l.2.dead.map fun o => (l.1, o))) s) s
      if ix.pending.isEmpty then s
      else sendMirror ix (.pendingEntries ix.num 0xFFFFFFFF (Blob.concat (ix.pending.map (pendBlob ix)))) s)
      (onIdx (fun x => { x with behind := false }) s)

/-- Work of the plain in recess (R75, R311). -/
def plainRecess (s : State) : State := mirrorRecess (rebuildRecess (sendQueued s))

end Sys2Proof.Machine
end

