-- ==== Sys2Proof/Machine/Train.lean ====
section
/-! DEFINITION. Train Step (R260 to R282): admission, attempts, the exact reduction of gradient buckets, commit and apply, and what
ends an attempt. -/

namespace Sys2Proof.Machine

/-! ### Parameter block and bucket table (R262, R263) -/

def f32At (b : Blob) (o : Nat) : F32 := BitVec.ofNat 32 (b.le o 4)

/-- FP32, finite and not negative. -/
def notNegative (x : F32) : Bool := (f32 x).isFinite && !(flt x 0)
/-- FP32, 0 to below 1. -/
def belowOne (x : F32) : Bool := notNegative x && flt x fOne

/-- The fields of the parameter block. -/
def trainFieldsOk (s : State) (room : Nat) (b : Blob) : Bool :=
  let opt := b.le 2 1
  let ex := b.le 7 1
  decide (b.le 0 1 ≤ 63 ∧ b.le 1 1 ≤ 1 ∧ opt ≤ 2 ∧ b.le 3 1 ≤ 1 ∧ 1 ≤ b.le 4 2 ∧ b.le 4 2 ≤ 4096 ∧ ex ≤ 2 ∧
    ((1 ≤ b.le 6 1 ∧ b.le 6 1 ≤ 16) ∨ b.le 6 1 = 255) ∧ 1 ≤ b.le 8 4 ∧ b.le 8 4 ≤ 16777216 ∧ 1 ≤ b.le 0xC 4) &&
  (if ex = 1 then b.zeroAt 0x10 4 && decide (b.le 0x14 1 ≤ 15) && b.zeroAt 0x18 8
    else isMemNs (b.le 0x10 4) && b.zeroAt 0x14 1 && b.le 0x18 8 % 8 == 0) &&
  b.zeroAt 0x15 3 && isMemNs (b.le 0x20 4) && b.le 0x28 8 % 64 == 0 && s.outputOk room (b.le 0x24 4) (b.le 0x30 8) 64 &&
  notNegative (f32At b 0x40) && notNegative (f32At b 0x50) &&
  (if opt = 0 then b.zeroAt 0x44 4 else belowOne (f32At b 0x44)) &&
  (if opt = 2 then belowOne (f32At b 0x48) && notNegative (f32At b 0x4C) && flt 0 (f32At b 0x4C) else b.zeroAt 0x48 8) &&
  b.zeroAt 0x54 12 && b.zeroAt 0x68 24

/-- An entry of the bucket table. -/
def parseBucket (b : Blob) (o : Nat) : Bucket :=
  ⟨b.le o 2, b.le (o + 2) 1, b.le (o + 3) 1, b.le (o + 4) 4, b.le (o + 8) 8, b.le (o + 0x10) 8, b.le (o + 0x18) 8, b.le (o + 0x20) 8,
   b.le (o + 0x28) 1, false, [], none, [], [], none, [], [], none, false⟩

/-- Bytes of a weight as staged: BF16 for W_FMT 8 and for centroids, else FP32. -/
def Bucket.wBytes (k : Bucket) : Nat := if k.kind = 0 then compBytes k.wFmt else if k.kind = 1 then 2 else 4
/-- FP32 values of optimizer state for each element. -/
def stateWords (opt : Nat) : Nat := opt

/-- The address ranges of a bucket, each with its length. -/
def Bucket.spans (opt : Nat) (k : Bucket) : List (Nat × Nat) :=
  [(k.grad, k.elems * 4)] ++ (if k.kind = 0 then [(k.weight, k.elems * k.wBytes)] else []) ++
  (if k.kind = 4 then [] else [(k.next, k.elems * (k.wBytes + 4 * stateWords opt))]) ++
  (if opt = 0 ∨ k.kind = 4 then [] else [(k.state, k.elems * 4 * stateWords opt)])

/-- The fields of an entry on their own. -/
def bucketFieldsOk (opt : Nat) (b : Blob) (o : Nat) : Bool :=
  let k := parseBucket b o
  decide (k.id ≤ 4095 ∧ k.kind ≤ 4 ∧ 1 ≤ k.elems ∧ k.elems ≤ 2097152 ∧ (k.kind = 4 → k.elems = 1)) &&
  (if 1 ≤ k.kind ∧ k.kind ≤ 3 then decide (k.index ≤ 15) else k.index == 0) &&
  (if k.kind = 0 then k.wFmt == 8 || k.wFmt == 10 else k.wFmt == 0 && k.weight == 0) &&
  (k.kind != 4 || k.next == 0) && (!(opt == 0 || k.kind == 4) || k.state == 0) && b.zeroAt (o + 0x29) 23

/-- Elements of an index part (R154). -/
def partElems (ix : Index) (kind : Nat) : Nat :=
  if kind = 1 then ix.centroids * ix.dim else if kind = 2 then 256 * ix.dim else if ix.coarse then 16 * ix.dim else 0

/-- A span lies in tier 0 or tier 1, within one range of a range set of the classroom. -/
def State.roomSpan (s : State) (room addr len : Nat) : Bool :=
  match memSpan addr len with
  | some (nsid, o) => s.inRange (some room) nsid o len
  | none => false

/-- The checks of the bucket table; the status of the first that fails. -/
def State.tableFault (s : State) (room opt scope n : Nat) (b : Blob) : Option Status :=
  let ks := (List.range n).map fun i => parseBucket b (i * 64)
  let spans := ks.flatMap (Bucket.spans opt)
  let parts := ks.filter fun k => decide (1 ≤ k.kind ∧ k.kind ≤ 3)
  if !((List.range n).all fun i => bucketFieldsOk opt b (i * 64)) || !(allDistinct (ks.map (·.id))) ||
      decide (1 < (ks.filter fun k => k.kind == 4).length) || (scope == 1 && !parts.isEmpty) ||
      !(spans.all fun x => s.roomSpan room x.1 x.2) || !(disjointSpans (sortSpans spans)) then some stInvalidField
  else
    let found := parts.map fun k => (k, s.idx.live.find? fun x => x.num == k.index && !(s.dropQueued x.serial))
    if found.any fun x => x.2.isNone then some stIndexNotFound
    else if found.any (fun x => match x.2 with
        | some ix => ix.cent.isNone || ix.state == .untrained || s.retraining ix.serial
        | none => false) then some stSequence
    else if found.any (fun x => match x.2 with
        | some ix => partElems ix x.1.kind != x.1.elems
        | none => false) then some stInvalidField
    else if !parts.isEmpty && s.readOnly then some stIndexReadOnly
    else none

/-- LESSON_ID of a loaded lesson (R243). -/
def lessonId (l : Lesson) : BitVec 64 := BitVec.ofNat 64 (l.image.le 0x18 8)

/-! ### Steps -/

def onTrain (f : TrainSt → TrainSt) (s : State) : State := { s with train := f s.train }
def State.step? (s : State) (room : Nat) : Option TStep := s.train.steps.find? fun t => t.room == room
def onStep (room : Nat) (f : TStep → TStep) (s : State) : State :=
  onTrain (fun t => { t with steps := t.steps.map fun x => if x.room = room then f x else x }) s
def onBucket (room id : Nat) (f : Bucket → Bucket) (s : State) : State :=
  onStep room (fun t => { t with buckets := t.buckets.map fun b => if b.id = id then f b else b }) s
def removeStep (room : Nat) (s : State) : State := onTrain (fun t => { t with steps := t.steps.filter fun x => x.room != room }) s
def TStep.bucket? (t : TStep) (id : Nat) : Option Bucket := t.buckets.find? fun b => b.id == id
def stale (s : State) : State := onTrain (fun t => { t with stale := bump64 t.stale }) s

/-- This drive's number among participants; a standalone drive is member 0. -/
def State.me (s : State) : Nat := if s.plain.member = 0xFF then 0 else s.plain.member

def State.heads (s : State) (t : TStep) : Bool := t.head == s.me

/-- P, this drive's place among the participants, and the participant after it. -/
def TStep.count (t : TStep) : Nat := t.participants.length
def State.placeIn (s : State) (t : TStep) : Nat := t.participants.findIdx (· == s.me)
def State.nextIn (s : State) (t : TStep) : Nat := t.participants.getD ((s.placeIn t + 1) % max 1 t.count) s.me

/-- The headroom ⌈log2 P⌉ (R270). -/
def headroom (p : Nat) : Nat := if p ≤ 1 then 0 else (p - 1).log2 + 1

/-- A bucket as an attempt starts with it. -/
def Bucket.clear (b : Bucket) : Bucket :=
  { b with ready := false, exps := [], eMax := none, summed := [], sum := [], reduced := none, staged := [], commits := [], opened := none, poisoned := false }

/-- The run of an attempt is stopped (R279). -/
def stopAttempt (t : TStep) (s : State) : State :=
  let s := match t.run with
    | some id => match s.run? id with
      | some r => dropRun r s
      | none => s
    | none => s
  onStep t.room (fun t => { t with run := none, buckets := t.buckets.map Bucket.clear }) s

/-- The gradient of the loss bucket. -/
def TStep.loss (t : TStep) : F32 :=
  match t.buckets.find? fun b => b.kind == 4 with
  | some b => match b.reduced with
    | some (x :: _) => x
    | _ => 0
  | none => 0

/-- The result header of R277. -/
def stepHeader (t : TStep) (outcome : Nat) (loss : F32) (bell : Nat) : Blob :=
  let p := t.count
  Blob.concat [fld 4 t.stepId.toNat, fld 1 t.attempt, fld 1 outcome,
    fld 2 (packBits [t.dropped, t.moved, t.published]), fld 6 bell, rsv 2, fld 3 (memberBits t.participants), fld 1 (headroom p), rsv 4,
    fld 8 (t.examples * p), fld 4 loss.toNat, fld 2 (t.nonfinite.getD 0xFFFF), fld 1 t.timeouts, rsv 1, rsv 8, fld 8 t.hostTag.toNat,
    fld 6 t.admitBell.toNat, fld 2 t.admitTick]

/-- The step ends on this drive: a head writes its result header and completes the command, a participant drops the step. -/
def endStep (t : TStep) (st : Status) (outcome bell : Nat) (s : State) : State :=
  let loss := t.loss
  let s := removeStep t.room (stopAttempt t s)
  if !(s.heads t) then s
  else
    let s := memWrite t.outNsid t.outFirst (stepHeader t outcome loss bell) s
    match t.hdr with
    | some h => finish h st s
    | none => s

/-- Every other participant is told. -/
def tellOthers (t : TStep) (m : TrainMsg) (s : State) : State :=
  (t.participants.filter (· != s.me)).foldl (fun s p => sendTo p 0 (.train m) s) s

/-- The head gives the step up: its participants discard the attempt (R282). -/
def giveUpStep (t : TStep) (st : Status) (s : State) : State :=
  endStep t st 2 0 (if s.heads t then tellOthers t (.abort t.room t.attempt) s else s)

/-! ### Attempts (R260, R280) -/

/-- The training lesson of an attempt starts once it has its engines and segments. -/
def launchAttempt (room : Nat) (s : State) : State :=
  match s.step? room, s.room? room with
  | some t, some r =>
    if t.run.isSome || t.halted || t.phase != .running then s
    else match s.lesson? room t.lesson with
      | none => s
      | some l => match startRun (t.hdr.getD ⟨0, 0, false, false, false⟩) r l [] true s with
        | some (id, s) => onStep room (fun t => { t with run := some id }) s
        | none => s
  | _, _ => s

/-- An attempt begins on this participant. -/
def beginAttempt (room n : Nat) (parts : List Nat) (s : State) : State :=
  match s.step? room with
  | none => s
  | some t =>
    launchAttempt room (onStep room (fun t => { t with
      attempt := n
      participants := parts
      phase := .running
      suspect := t.suspect && t.halted
      halted := false
      readyFrom := []
      heard := parts.map fun p => (p, s.pos)
      headHeard := s.pos }) (stopAttempt t s))

/-- The head starts an attempt everywhere. -/
def startAttempt (room n : Nat) (parts : List Nat) (s : State) : State :=
  match s.step? room with
  | none => s
  | some t => beginAttempt room n parts (tellOthers { t with participants := parts } (.attempt room n parts) s)

/-- Dies that serve an attempt on this drive are at work (R278). -/
def State.servesAttempt (s : State) (t : TStep) : Bool :=
  let ok := fun (d : Nat) => (s.die d).state == .running || (s.die d).state == .degraded
  ok 0 && (match t.run with
    | some id => match s.run? id with
      | some r => r.engines.all fun e => ok (engineDie e)
      | none => true
    | none => (match s.room? t.room with
      | some r =>
        let on3 := decide (r.mxa % 16 ≠ 0)
        let on4 := decide (16 ≤ r.mxa)
        (!on3 || ok 3 || (on4 && s.dieGone 3)) && (!on4 || ok 4 || (on3 && s.dieGone 4))
      | none => true))

/-! ### Exact reduction (R268 to R273) -/

/-- Exponent of a finite value that is not zero. -/
def expOf (x : F32) : Option Int :=
  match f32 x with
  | .fin m e => if m = 0 then none else some ((m.natAbs.log2 : Int) + e)
  | _ => none

/-- The bucket exponent of R268. -/
def bucketExp (gs : List F32) (bad : Bool) : BitVec 32 :=
  if bad || gs.any fun g => !(f32 g).isFinite then 0x7FFFFFFF#32
  else match (gs.filterMap expOf).foldl (fun (a : Option Int) e => match a with
      | none => some e
      | some x => some (max x e)) none with
    | some e => BitVec.ofInt 32 e
    | none => 0x80000000#32

def maxExp (x y : BitVec 32) : BitVec 32 := if x.toInt < y.toInt then y else x

/-- The shared scale exponent E of R270. -/
def sharedExp (p : Nat) (eMax : BitVec 32) : Int :=
  if eMax = 0x80000000#32 then 0 else 61 - (headroom p : Int) - eMax.toInt

/-- An element as FX64. -/
def toFx64 (e : Int) (g : F32) : BitVec 64 :=
  match f32 g with
  | .fin m x => BitVec.ofInt 64 (roundInt m (x + e))
  | _ => 0

/-- A sum back as FP32 (R272). -/
def fromFx64 (e : Int) (n : BitVec 64) : F32 := toF32 (.fin n.toInt (-e))

/-- The gradients of a bucket, and whether a granule of them is poisoned or lost. -/
def State.gradients (s : State) (b : Bucket) : List F32 × Bool :=
  match memSpan b.grad (b.elems * 4) with
  | some (nsid, o) =>
    let d := memRead nsid o (b.elems * 4) s
    ((List.range b.elems).map fun i => f32At d (i * 4), (s.ram nsid).poisoned o (b.elems * 4) || s.spanLost nsid o (b.elems * 4))
  | none => ([], true)

/-- Chunk c of a list cut for P participants. -/
def chunkOf {α : Type} (p elems c : Nat) (l : List α) : List α := (l.drop (c * ceilDiv elems p)).take (ceilDiv elems p)

/-- This participant's values of a chunk. -/
def State.ownChunk (s : State) (t : TStep) (b : Bucket) (c : Nat) : List (BitVec 64) :=
  (chunkOf t.count b.elems c (s.gradients b).1).map (toFx64 (sharedExp t.count (b.eMax.getD 0)))

/-! ### Optimizer and staging (R275) -/

/-- The current weights of a bucket. -/
def State.weights (s : State) (b : Bucket) : List F32 :=
  if b.kind = 0 then
    match memSpan b.weight (b.elems * b.wBytes) with
    | some (nsid, o) => readVec (memRead nsid o (b.elems * b.wBytes) s) 0 b.elems b.wFmt
    | none => []
  else match (s.idx.live.find? fun x => x.num == b.index).bind fun x => x.cent with
    | some c => if b.kind = 1 then c.cents.flatten else if b.kind = 2 then (c.fine.map List.flatten).flatten else (c.coarse.map List.flatten).flatten
    | none => []

/-- One FP32 value of a bucket's optimizer state. -/
def State.optState (s : State) (b : Bucket) (n i : Nat) : F32 :=
  match memSpan b.state (b.elems * 4 * n) with
  | some (nsid, o) => f32At (memRead nsid (o + 4 * i) 4 s) 0
  | none => 0

/-- One element: its new weight and its new state (log 26). -/
def updateElem (t : TStep) (g w : F32) (st : List F32) : F32 × List F32 :=
  if feq t.lr 0 then (w, st)
  else match t.opt with
    | 0 => (fsub w (fmul t.lr (fadd g (fmul t.decay w))), [])
    | 1 =>
      let v := fadd (fmul t.beta1 (st.getD 0 0)) (fadd g (fmul t.decay w))
      (fsub w (fmul t.lr v), [v])
    | _ =>
      let m := fadd (fmul t.beta1 (st.getD 0 0)) (fmul (fsub fOne t.beta1) g)
      let v := fadd (fmul t.beta2 (st.getD 1 0)) (fmul (fsub fOne t.beta2) (fmul g g))
      (fsub w (fmul t.lr (fadd (fdiv m (fadd (fsqrt v) t.eps)) (fmul t.decay w))), [m, v])

/-- Elements of a span whose bytes are poisoned. -/
def State.badElems (s : State) (addr n size : Nat) : List Nat :=
  match memSpan addr (n * size) with
  | some (nsid, o) => (((s.ram nsid).badBytes o (n * size)).map (· / max 1 size)).eraseDups
  | none => []

/-- The update of a bucket staged at NEXT_ADDR: the new weights, then the new state, each array of it whole. A poisoned weight or state
leaves its own results poisoned. -/
def stageBucket (t : TStep) (b : Bucket) (g : List F32) (s : State) : List F32 × State :=
  let n := stateWords t.opt
  let ws := s.weights b
  let out := (List.zip g ws).zipIdx.map fun x =>
    updateElem t x.1.1 x.1.2 ((List.range n).map fun k => s.optState b n (k * b.elems + x.2))
  let fmt := if b.wBytes = 2 then 8 else 10
  let new := out.map fun x => roundComp fmt x.1
  let sts := (List.range n).flatMap fun k => out.map fun x => x.2.getD k 0
  let raw := fun (a len : Nat) => match memSpan a len with
    | some (nsid, o) => memRead nsid o len s
    | none => Blob.zero len
  -- With LR 0 the weights and the state are staged exactly as they stand.
  let same := feq t.lr 0
  let d := (if same && b.kind == 0 then raw b.weight (b.elems * b.wBytes) else Blob.ofBytes (vecBytes fmt new)).append
    (if same && n != 0 then raw b.state (b.elems * 4 * n) else Blob.ofBytes (vecBytes 10 sts))
  let badS := (s.badElems b.state (b.elems * n) 4).map (· % b.elems)
  let bad := ((if b.kind = 0 then s.badElems b.weight b.elems b.wBytes else []) ++ badS).eraseDups
  let bytes := bad.flatMap fun i => spanList (i * b.wBytes) b.wBytes ++
    (List.range n).flatMap fun k => spanList (b.elems * b.wBytes + 4 * (k * b.elems + i)) 4
  match memSpan b.next d.len with
  | some (nsid, o) => (new, writeMarked nsid o d bytes s)
  | none => (new, s)

/-- Every commit has come in tick t: the apply bell is named (R276). -/
def nameApplyBell (room : Nat) (s : State) : State :=
  match s.step? room with
  | none => s
  | some t =>
    if s.heads t && t.phase == .running && t.buckets.all fun b => t.participants.all b.commits.contains then
      let bell := s.bell.count + (if s.bell.tick ≤ 1018 then 1 else 2)
      tellOthers t (.applyBell room t.attempt bell.toNat) (onStep room (fun t => { t with phase := .applyAt bell }) s)
    else s

/-- A commit of a participant reaches the head. -/
def takeCommit (room bucket member : Nat) (s : State) : State :=
  nameApplyBell room (onStep room (fun t => { t with heard := setKey member s.pos t.heard })
    (onBucket room bucket (fun b => { b with commits := insertSet member b.commits }) s))

/-- A bucket whose sum is whole is converted back, staged and committed. -/
def commitBucket (room bucket : Nat) (s : State) : State :=
  match s.step? room with
  | none => s
  | some t => match t.bucket? bucket with
    | none => s
    | some b =>
      let p := t.count
      if b.sum.length < p then s
      else
        let e := sharedExp p (b.eMax.getD 0)
        let total := ((List.range p).flatMap fun c => (lookupNat b.sum c).getD []).take b.elems
        let g := total.map fun n => let x := fromFx64 e n; if t.reduce = 1 then fdiv x (fOfInt p) else x
        let (staged, s) := if b.kind = 4 then ([], s) else stageBucket t b g s
        let s := onBucket room bucket (fun b => { b with reduced := some g, staged := staged }) s
        if s.heads t then takeCommit room bucket s.me s
        else sendTo t.head 0 (.train (.commit room t.attempt bucket)) s

/-- A whole chunk kept. -/
def keepChunk (room bucket c : Nat) (v : List (BitVec 64)) (s : State) : State :=
  commitBucket room bucket (onBucket room bucket (fun b => { b with sum := setKey c v b.sum }) s)

/-- The scale round of a bucket has ended here: a non-finite bucket ends the step, any other starts its sum round. -/
def afterScale (room bucket : Nat) (e : BitVec 32) (s : State) : State :=
  let s := onBucket room bucket (fun b => { b with eMax := some e }) s
  match s.step? room with
  | none => s
  | some t =>
    if e = 0x7FFFFFFF#32 then
      endStep { t with nonfinite := some (min bucket (t.nonfinite.getD bucket)) } stOk 1 0 s
    else match t.bucket? bucket with
      | none => s
      | some b =>
        let p := t.count
        let i := s.placeIn t
        let c := (i + p - 1) % max 1 p
        let own := s.ownChunk t b c
        if p ≤ 1 then keepChunk room bucket 0 own s
        else sendTo (s.nextIn t) 0 (.sum ⟨room, t.stepId, t.attempt, bucket, c, own, false, false⟩) s

/-- Lap 1 with this participant's exponent in it goes on; on a head without others the round is over. -/
def sendScale (t : TStep) (bucket : Nat) (e : BitVec 32) (s : State) : State :=
  if t.count ≤ 1 then afterScale t.room bucket e s
  else sendTo (s.nextIn t) 0 (.scale ⟨t.room, t.stepId, t.attempt, bucket, e, 1⟩) s

/-- A bucket posted ready (R265, R267). -/
def postBucket (room bucket : Nat) (s : State) : State :=
  match s.step? room with
  | none => s
  | some t =>
    if t.phase != .running || t.run.isNone then s
    else match t.bucket? bucket with
      | none => s
      | some b =>
        if b.ready then giveUpStep t stProgramFaulted s
        else
          let (gs, bad) := s.gradients b
          let e := bucketExp gs bad
          let s := onBucket room bucket (fun b => { b with ready := true, opened := some (b.opened.getD s.pos), poisoned := bad }) s
          let s := onStep room (fun t => { t with heard := setKey s.me s.pos t.heard }) s
          if s.heads t then sendScale t bucket e s
          else match b.exps with
            | x :: _ => sendScale t bucket (maxExp x.2 e) s
            | [] => s

/-- BUCKET_READY. -/
def execBucketReady (room bucket : Nat) (s : State) : Res := .next (if s.up then postBucket room bucket s else s)

/-- The step, attempt and bucket of a reduction flit; another attempt's flits are dropped and counted (R260). -/
def State.flitStep (s : State) (room : Nat) (stepId : BitVec 32) (attempt bucket : Nat) : Option (TStep × Bucket) :=
  match s.step? room with
  | some t =>
    if t.stepId == stepId && t.attempt == attempt && t.phase == .running then (t.bucket? bucket).map fun b => (t, b) else none
  | none => none

/-- A scale flit (R269, R310). -/
def takeScale (src : Nat) (r : ScaleFlit) (s : State) : State :=
  match s.flitStep r.room r.stepId r.attempt r.bucket with
  | none => stale s
  | some (t, b) =>
    let s := onStep t.room (fun t => { t with headHeard := s.pos }) s
    if r.lap = 1 then
      if s.heads t then
        afterScale t.room r.bucket r.e
          (sendTo (s.nextIn t) 0 (.scale { r with lap := 2 }) (onBucket t.room r.bucket (fun b => { b with opened := some (b.opened.getD s.pos) }) s))
      else if b.ready then
        let (gs, bad) := s.gradients b
        sendScale t r.bucket (maxExp r.e (bucketExp gs bad)) s
      else onBucket t.room r.bucket (fun b => { b with exps := [(src, r.e)] }) s
    else if s.heads t then s
    else
      let s := if s.nextIn t = t.head then s else sendTo (s.nextIn t) 0 (.scale r) s
      afterScale t.room r.bucket r.e s

/-- REDUCTION_SCALE. -/
def execReductionScale (port : Nat) (hd : FlitHdr) (r : ScaleFlit) (s : State) : Res :=
  .next (receiveFor port hd (.scale r) (takeScale hd.src.toNat r) s)

/-- A chunk of a sum round (R271, R310). -/
def takeSum (r : SumFlit) (s : State) : State :=
  match s.flitStep r.room r.stepId r.attempt r.bucket with
  | none => stale s
  | some (t, b) =>
    if b.eMax.isNone then stale s
    else
      let i := s.placeIn t
      let next := (i + 1) % max 1 t.count
      if r.whole then
        keepChunk t.room r.bucket r.chunk r.values (if next = r.chunk then s else sendTo (s.nextIn t) 0 (.sum r) s)
      else
        let v := (List.zip r.values (s.ownChunk t b r.chunk)).map fun p => p.1 + p.2
        let s := onBucket t.room r.bucket (fun b => { b with summed := insertSet r.chunk b.summed }) s
        if i = r.chunk then
          keepChunk t.room r.bucket r.chunk v (sendTo (s.nextIn t) 0 (.sum { r with values := v, whole := true }) s)
        else sendTo (s.nextIn t) 0 (.sum { r with values := v }) s

/-- REDUCTION_SUM. -/
def execReductionSum (port : Nat) (hd : FlitHdr) (r : SumFlit) (s : State) : Res :=
  .next (receiveFor port hd (.sum r) (takeSum r) s)

/-! ### Admission (R261 to R264) -/

/-- The step that a parameter block and bucket table spell, on this drive. -/
def makeStep (room head : Nat) (hdr : Option Hdr) (b table : Blob) (parts : List Nat) (s : State) : TStep where
  room := room
  hdr := hdr
  head := head
  block := b
  lesson := b.le 0 1
  scope := b.le 1 1
  opt := b.le 2 1
  reduce := b.le 3 1
  maxAttempts := if b.le 6 1 = 255 then 4 else b.le 6 1
  exKind := b.le 7 1
  examples := b.le 8 4
  stepId := BitVec.ofNat 32 (b.le 0xC 4)
  index := b.le 0x14 1
  outNsid := b.le 0x24 4
  outFirst := b.le 0x30 8
  lr := f32At b 0x40
  beta1 := f32At b 0x44
  beta2 := f32At b 0x48
  eps := f32At b 0x4C
  decay := f32At b 0x50
  hostTag := BitVec.ofNat 64 (b.le 0x60 8)
  buckets := (List.range (b.le 4 2)).map fun i => parseBucket table (i * 64)
  attempt := 0
  participants := parts
  phase := .checking
  asked := parts.filter (· != head)
  reports := []
  readyFrom := []
  abortAt := 0
  timeouts := 0
  dropped := false
  moved := false
  published := false
  nonfinite := none
  heard := []
  headHeard := s.pos
  admitBell := s.bell.count
  admitTick := s.bell.tick
  run := none
  suspect := false
  halted := false

/-- LAST_STEP of a classroom. -/
def State.lastStep (s : State) (room : Nat) : BitVec 32 := s.train.lastStep.getD room 0

/-- LESSON_ID of a slot; zero where it holds no training lesson. -/
def State.trainLesson (s : State) (room slot : Nat) : Option Lesson :=
  (s.lesson? room slot).bind fun l => if l.train && l.active && !l.quarantined then some l else none

/-- The reports are in: the first member that differs ends the command before any compute (R264); else attempt 1 starts. -/
def checkReports (room : Nat) (s : State) : State :=
  match s.step? room with
  | none => s
  | some t =>
    if t.phase != .checking || !t.asked.isEmpty then s
    else
      let id := ((s.trainLesson room t.lesson).map lessonId).getD 0
      match (sortBy (fun x y => decide (x.1 < y.1)) t.reports).find? fun r => r.2.1 != s.lastStep room || r.2.2 != id with
      | some r => match t.hdr with
        | some h => finishDw h stSequence r.1 (removeStep room s)
        | none => removeStep room s
      | none => startAttempt room 1 t.participants s

/-- EX_KIND 2: the references of the examples are in range, each with SAMPLE 0; the first that is not ends the command with its position
(R191, R262). -/
def withExamples (h : Hdr) (b : Blob) (k : State → State) (s : State) : State :=
  if b.le 7 1 = 2 then
    let n := b.le 8 4
    match sourceBytes (b.le 0x10 4) (b.le 0x18 8) (n * 32) s with
    | .error st => failProgram h st ⟨b.le 0x10 4, b.le 0x18 8, n * 32⟩ s
    | .ok d => match (List.range n).find? fun i => !(refOk s (d.slice (i * 32) 32)) || (parseRef (d.slice (i * 32) 32)).sample != 0 with
      | some i => finishDw h stInvalidField i s
      | none => k s
  else k s

/-- Train Step on its head. -/
def trainStepCore (h : Hdr) (r : Room) (b : Blob) (s : State) : State :=
  let scope := b.le 1 1
  let n := b.le 4 2
  if !(trainFieldsOk s r.room b) then finish h stInvalidField s
  else if (s.step? r.room).isSome then finish h stSequence s
  else if !r.train || (scope == 1 && !r.plain) then finish h stAccess s
  else if scope == 1 && !s.isMember then finish h stNotPresent s
  else if (s.trainLesson r.room (b.le 0 1)).isNone then finish h stInvalidField s
  else match sourceBytes (b.le 0x20 4) (b.le 0x28 8) (n * 64) s with
    | .error st => failProgram h st ⟨b.le 0x20 4, b.le 0x28 8, n * 64⟩ s
    | .ok table =>
      if b.le 7 1 = 1 && !(s.idx.live.any fun x => x.num == b.le 0x14 1) then finish h stIndexNotFound s
      else match s.tableFault r.room (b.le 2 1) scope n table with
        | some st => finish h st s
        | none => withExamples h b (fun s =>
          let parts := if scope = 1 then (List.range s.members).filter fun m => m == s.plain.member || s.isPresent m else [s.me]
          let t := makeStep r.room s.me (some h) b table parts s
          let s := onTrain (fun x => { x with steps := x.steps ++ [t] }) (begin' h .program s)
          checkReports r.room (t.asked.foldl (fun s m => sendTo m 0 (.train (.start r.room b)) s) s)) s

/-- TRAIN_STEP. -/
def execTrainStep (h : Hdr) (room : Nat) (p : ParamRef) (s : State) : Res :=
  .next (admitRoom h (.trainStep h room p) room (fun r s => withBlock h p 0x80 (trainStepCore h r) s) s)

/-- A step headed elsewhere reaches this participant: it checks the table for itself and reports. Where a check fails it reports no
lesson, which differs from the head's (log 27). -/
def takeStart (src room : Nat) (b : Blob) (s : State) : State :=
  let n := b.le 4 2
  let fault := fun (s : State) => sendTo src 0 (.train (.report room (s.lastStep room) 0)) s
  match s.room? room, s.trainLesson room (b.le 0 1), sourceBytes (b.le 0x20 4) (b.le 0x28 8) (n * 64) s with
  | some r, some l, .ok table =>
    if (s.step? room).isSome || !r.train || !r.plain || (s.tableFault room (b.le 2 1) 1 n table).isSome then fault s
    else
      let t := makeStep room src none b table [] s
      sendTo src 0 (.train (.report room (s.lastStep room) (lessonId l))) (onTrain (fun x => { x with steps := x.steps ++ [t] }) s)
  | _, _, _ => fault s

/-! ### Timeouts and restarts (R278 to R282) -/

/-- The attempt ends here. A participant answers ready once its dies are at work. -/
def abortHere (room : Nat) (s : State) : State :=
  match s.step? room with
  | none => s
  | some t => onStep room (fun t => { t with phase := .aborted, abortAt := s.pos, readyFrom := [] }) (stopAttempt t s)

/-- A participant of an aborted attempt that can start again says so. -/
def sayReady (room : Nat) (s : State) : State :=
  match s.step? room with
  | none => s
  | some t =>
    if t.phase != .aborted || !(s.servesAttempt t) || t.readyFrom.contains s.me then s
    else
      let s := onStep room (fun t => { t with readyFrom := insertSet s.me t.readyFrom }) s
      if s.heads t then s else sendTo t.head 0 (.train (.ready room t.attempt)) s

/-- BUCKET_TIMEOUT: on the head, for an open bucket that lacks a participant's contribution. -/
def execBucketTimeout (room bucket participant : Nat) (s : State) : Res :=
  .next (match s.step? room with
    | none => s
    | some t =>
      if !(s.up && s.heads t && t.phase == .running && t.participants.contains participant) then s
      else match t.bucket? bucket with
        | none => s
        | some b => match b.opened with
          | none => s
          | some o =>
            let last := (lookupNat t.heard participant).getD o
            let since := if ticksFrom o s.pos < ticksFrom last s.pos then o else last
            if b.commits.contains participant || decide (ticksFrom since s.pos < s.img.active.watch.bucketTimeout) then s
            else
              sayReady room (abortHere room (tellOthers t (.abort room t.attempt)
                (onStep room (fun t => { t with timeouts := min 255 (t.timeouts + 1) }) s))))

/-- ATTEMPT_RESTART. -/
def execAttemptRestart (room : Nat) (s : State) : Res :=
  .next (match s.step? room with
    | none => s
    | some t =>
      let all := t.participants.all t.readyFrom.contains
      if !(s.up && s.heads t && t.phase == .aborted && t.readyFrom.contains s.me) ||
          !(all || decide (s.img.active.watch.bucketTimeout ≤ ticksFrom t.abortAt s.pos)) then s
      else if t.maxAttempts ≤ t.attempt then giveUpStep t stGenDropped s
      else
        let parts := t.participants.filter t.readyFrom.contains
        let s := onStep room (fun t => { t with dropped := t.dropped || !all }) s
        if t.scope = 1 ∧ parts = [s.me] ∧ 1 < t.count then
          match s.step? room with
          | some t => giveUpStep t stNotPresent s
          | none => s
        else startAttempt room (t.attempt + 1) parts s)

/-- HEAD_SILENCE_TIMEOUT: on a participant. -/
def execHeadSilenceTimeout (room : Nat) (s : State) : Res :=
  .next (match s.step? room with
    | none => s
    | some t =>
      let waits : Bool := match t.phase with
        | .applyAt _ | .copying _ => false
        | _ => true
      if s.up && !(s.heads t) && waits && decide (s.img.active.watch.bucketTimeout ≤ ticksFrom t.headHeard s.pos) then
        removeStep room (stopAttempt t s) else s)

/-- TRAIN_PROGRESS_SEND: to the head; the head's own goes to its participants, who judge its silence by it (log 28). -/
def execTrainProgressSend (room : Nat) (s : State) : Res :=
  .next (match s.step? room with
    | none => s
    | some t =>
      if !(s.up && t.phase == .running && s.servesAttempt t) then s
      else if s.heads t then
        tellOthers t (.progress room t.attempt) (onStep room (fun t => { t with heard := setKey s.me s.pos t.heard }) s)
      else sendTo t.head 0 (.train (.progress room t.attempt)) s)

/-- A Train Step message on the control channel. -/
def takeTrain (src : Nat) (m : TrainMsg) (s : State) : State :=
  let heardHead := fun (room : Nat) (s : State) => onStep room (fun t => if t.head = src then { t with headHeard := s.pos } else t) s
  let live := fun (room attempt : Nat) (k : TStep → State → State) (s : State) =>
    match s.step? room with
    | some t => if t.attempt = attempt then k t s else stale s
    | none => stale s
  match m with
  | .start room b => takeStart src room b s
  | .report room ls id =>
    match s.step? room with
    | some t =>
      if s.heads t && t.phase == .checking && t.asked.contains src then
        checkReports room (onStep room (fun t => { t with asked := t.asked.erase src, reports := t.reports ++ [(src, ls, id)] }) s)
      else s
    | none => s
  | .progress room a => live room a (fun t s =>
      if s.heads t then onStep room (fun t => { t with heard := setKey src s.pos t.heard }) s else heardHead room s) s
  | .commit room a bucket => live room a (fun t s =>
      if s.heads t && t.phase == .running && t.participants.contains src then takeCommit room bucket src s else s) s
  | .abort room a => live room a (fun t s =>
      match t.phase with
      | .running | .aborted => if t.head = src then sayReady room (abortHere room (heardHead room s)) else s
      | _ => s) s
  | .ready room a => live room a (fun t s =>
      if s.heads t && t.phase == .aborted then onStep room (fun t => { t with readyFrom := insertSet src t.readyFrom }) s else s) s
  | .attempt room a parts =>
    match s.step? room with
    | some t =>
      if t.head != src then s
      else if parts.contains s.me then beginAttempt room a parts s
      else removeStep room (stopAttempt t s)
    | none => s
  -- A bell that has come already finds this participant without it, which discards the step.
  | .applyBell room a bell => live room a (fun t s =>
      if t.head = src ∧ t.phase = .running then
        if bellsFrom (BitVec.ofNat 48 bell) s.bell.count < 2 ^ 47 then removeStep room (stopAttempt t s)
        else onStep room (fun t => { t with phase := .applyAt (BitVec.ofNat 48 bell), headHeard := s.pos }) s
      else s) s

/-- TRAIN_STEP_MESSAGE. -/
def execTrainStepMessage (port : Nat) (hd : FlitHdr) (m : TrainMsg) (s : State) : Res :=
  .next (receiveFor port hd (.train m) (takeTrain hd.src.toNat m) s)

/-! ### Apply (R276) -/

/-- Centroid data with one part replaced by a bucket's staged values; the term tables follow. -/
def putPart (ix : Index) (b : Bucket) (c : CentData) : CentData :=
  let c := if b.kind = 1 then
      let cents := splitVec ix.centroids b.staged
      { c with cents := cents, norms := cents.map normOf }
    else if b.kind = 2 then { c with fine := (splitVec ix.m b.staged).map (splitVec 256) }
    else { c with coarse := (splitVec 16 b.staged).map (splitVec 16) }
  if b.kind ≤ 2 ∧ ix.metric = 0 then
    { c with terms := c.cents.map fun x => (List.zip (splitVec ix.m x) c.fine).flatMap fun p => p.2.map fun e => termOf p.1 e }
  else c

/-- The new centroid data of an index, in place of the old, in the index and on flash; its mirror follows. -/
def applyPart (b : Bucket) (s : State) : State :=
  match s.idx.live.find? fun x => x.num == b.index with
  | none => s
  | some ix => match ix.cent with
    | none => s
    | some c =>
      let c := putPart ix b c
      let ix := { ix with cent := some c }
      let s := staleCentroids ix.num (onIdx (fun x => { x with live := onSerial ix.serial (fun x => { x with cent := some c }) x.live }) s)
      let s := match writeIndexUnits (List.zip (((centUnits ix c).zipIdx).map fun u => (u.2 % 32, u.1)) c.lsns) s with
        | some s => s
        | none => s
      sendMirror ix (centMessage ix) (recodeWaiting ix c s)

/-- Step 6 of a boundary (R80) for one step whose apply bell has come. -/
def applyStep (t : TStep) (s : State) : State :=
  match t.phase with
  | .applyAt bell =>
    if 2 ^ 47 ≤ bellsFrom bell s.bell.count then s
    else
      let parts := t.buckets.filter fun b => decide (1 ≤ b.kind ∧ b.kind ≤ 3)
      if parts.any fun b => !(s.idx.live.any fun x => x.num == b.index && !(s.dropQueued x.serial)) then endStep t stIndexNotFound 2 0 s
      else if !parts.isEmpty && s.readOnly then endStep t stIndexReadOnly 2 0 s
      else onStep t.room (fun t => { t with phase := .copying bell, published := !parts.isEmpty }) (parts.foldl (fun s b => applyPart b s) s)
  | _ => s

def trainBoundary (s : State) : State := s.train.steps.foldl (fun s t => applyStep t s) s

/-- Bytes moved from one address to another, marks and all. -/
def copySpan (src dst len : Nat) (s : State) : State :=
  match memSpan src len, memSpan dst len with
  | some (n, o), some (m, p) => writeMarked m p (memRead n o len s) ((s.ram n).badBytes o len) s
  | _, _ => s

/-- The staged weights of KIND 0 buckets and the staged state copied over. -/
def copyBucket (opt : Nat) (b : Bucket) (s : State) : State :=
  let w := b.elems * b.wBytes
  let s := if b.kind = 0 then copySpan b.next b.weight w s else s
  if b.kind = 4 ∨ opt = 0 then s else copySpan (b.next + w) b.state (b.elems * 4 * stateWords opt) s

/-- APPLY_COPY_DONE: the copy ends once the dies concerned are at work. -/
def execApplyCopyDone (room : Nat) (s : State) : Res :=
  .next (match s.step? room with
    | none => s
    | some t => match t.phase with
      | .copying bell =>
        if !(s.up && s.dieServes 0 && s.dieServes 3 && s.dieServes 4) then s
        else
          let s := t.buckets.foldl (fun s b => copyBucket t.opt b s) s
          endStep t stOk 0 bell.toNat (onTrain (fun x => { x with lastStep := modifyAt x.lastStep room fun _ => t.stepId }) s)
      | _ => s)

/-- What runs of itself in training, when the queue is empty: a lesson that could not start is tried again, a lesson that has ended without
posting every bucket ends its step (R265), and a participant that can start again says so. -/
def trainIdle (s : State) : State :=
  s.train.steps.foldl (fun s t =>
    match t.phase with
    | .running =>
      match t.run with
      | none => launchAttempt t.room s
      | some id => if (s.run? id).isNone && t.buckets.any fun b => !b.ready then giveUpStep t stProgramFaulted s else s
    | .aborted => sayReady t.room s
    | _ => s) s

end Sys2Proof.Machine
end

