-- ==== Sys2Proof/Machine/Structure.lean ====
section
/-! DEFINITION. Loading, verifying and activating structure images, and the resident image (R50 to R61, R443). -/

namespace Sys2Proof.Machine

def onImg (f : ImgSt → ImgSt) (s : State) : State := { s with img := f s.img }

/-! ### What verification needs -/

/-- A value, or the default where it is out of its range (R342). -/
def rangedOr (lo hi d v : Nat) : Nat := if lo ≤ v ∧ v ≤ hi then v else d

/-- A media policy with every value out of the range of R41 replaced by its default (R342). -/
def Policy.mended (p : Policy) : Policy :=
  let d := Policy.default
  let low := rangedOr 4 64 d.gcLow p.gcLow
  ⟨rangedOr 1 60 d.patrolDays p.patrolDays, rangedOr 0 1 d.softRewrite p.softRewrite, rangedOr 1 7 d.softThreshold p.softThreshold,
    rangedOr 0 1 d.progfailRetire p.progfailRetire, rangedOr 1000 100000 d.readRefresh p.readRefresh,
    rangedOr 0 8 d.suspendMax p.suspendMax, rangedOr 200 2000 d.suspendGapUs p.suspendGapUs, rangedOr 0 1 d.autoRetire p.autoRetire,
    low, rangedOr 2 (low - 1) d.gcCrit p.gcCrit, rangedOr 0 1 d.compress p.compress⟩

/-- The block of KIND 86h as read (R342); the defaults of R41 where it is absent (R352). -/
def NorSt.policyRead (n : NorSt) : Policy :=
  match n.option 6 0x86 with
  | some r => parsePolicy r.payload
  | none => Policy.default

/-- The media policy that stands in for an absent section 06h (R342). -/
def NorSt.optPolicy (n : NorSt) : Policy := n.policyRead.mended

def State.env (s : State) : VerifyEnv := ⟨s.fw.minor, s.sec.ownerHash, s.nor.optPolicy⟩

/-- The ROM default structure, whose section 06h is absent (R60, R342). -/
def State.romImage (s : State) : Image := { Image.rom with policy := s.nor.optPolicy }

/-- An Activate is outstanding: its completion entry has not been posted (R57). -/
def State.activateBusy (s : State) : Bool :=
  s.img.activation.isSome || (match s.img.commit with
    | some c => c.cmd.isSome
    | none => false)

/-- The drive is a member of a plain with MEMBERS greater than 1 (R55). -/
def State.plainMember (s : State) : Bool :=
  decide (1 < s.members) && (s.plain.own == .member || s.plain.own == .leaving || s.plain.own == .isolated)

/-- Check 8: the plain lock (R55). -/
def State.lockOk (s : State) (new : Image) : Bool := !s.plainMember || plainSame s.img.active new

/-- Verification of the staged image through checks 1 to 8 (R53): the status and completion dword 0 of the first failure, or the
image and its logical stream. -/
def checkStaged (s : State) : Except (Status × Nat) (Image × Blob) :=
  match verifyStaged s.env s.img.staged with
  | .error x => .error ((1, x.1), x.2)
  | .ok x => if s.lockOk x.1 then .ok x else .error (stPlainLocked, 0)

/-! ### Structure Load (R50, R51) -/

/-- The field rules of R50. -/
def loadFieldsOk (len ofst : Nat) : Bool :=
  decide (4096 ≤ len ∧ len ≤ 2097152 ∧ len % 4096 = 0 ∧ ofst % 4096 = 0 ∧ ofst + len ≤ 16777216)

/-- The frames of a Load are checked in order and staged up to the first that fails (R51). -/
def loadCore (h : Hdr) (len ofst : Nat) (data : Blob) (s : State) : State :=
  if s.activateBusy then finish h stBusy s
  else if !(loadFieldsOk len ofst) then finish h stInvalidField s
  else
    let r := stageFrames (if ofst = 0 then [] else s.img.staged) (ofst / 4096) (framesOf (data.fit len))
    let s := onImg (fun m => { m with staged := r.1 }) s
    match r.2 with
    | none => finish h stOk s
    | some p => finishDw h stFrame p s

def execStructureLoad (h : Hdr) (len ofst : Nat) (data : Blob) (s : State) : Res := .next (admitAdmin h 0xC1 (loadCore h len ofst data) s)

/-! ### Activation (R52 to R57) -/

/-- An activation that has passed verification waits for its boundary (R56 step 2). -/
def startActivation (h : Hdr) (action source : Nat) (i : Image) (stream : Blob) (s : State) : State :=
  onImg (fun m => { m with activation := some ⟨h, action, i, stream, source, changedRooms m.active i, 0, false⟩ }) (begin' h .admin s)

/-- Structure Activate: refused while another is outstanding (R57). -/
def admitActivate (h : Hdr) (k : State → State) (s : State) : State :=
  admitAdmin h 0xC2 (fun s => if s.activateBusy then finish h stBusy s else k s) s

/-- ACTION 1 or 2: verify and activate. -/
def activateStaged (h : Hdr) (action : Nat) (s : State) : State :=
  match checkStaged s with
  | .error x => finishDw h x.1 x.2 s
  | .ok x => startActivation h action 2 x.1 x.2 s

/-- ACTION 0: nothing changes (R52). -/
def verifyCore (h : Hdr) (s : State) : State :=
  match checkStaged s with
  | .error x => finishDw h x.1 x.2 s
  | .ok _ => finish h stOk s

def execStructureVerify (h : Hdr) (s : State) : Res := .next (admitActivate h (verifyCore h) s)
def execStructureVerifyActivate (h : Hdr) (s : State) : Res := .next (admitActivate h (activateStaged h 1) s)
def execStructureActivateResidentCommit (h : Hdr) (s : State) : Res := .next (admitActivate h (activateStaged h 2) s)

/-- A replica that passes checks 1 to 7 and matches the last commit record (R59). -/
def State.goodReplica (s : State) (b : Blob) : Option (Image × Blob) :=
  match verifyReplica s.env b with
  | some i => if s.img.record == some i.digest then some (i, b) else none
  | none => none

/-- The first replica that passes, read in order 0 to 3. -/
def State.firstReplica (s : State) : Option (Image × Blob) :=
  s.img.replicas.findSome? fun r => match r with
    | some b => s.goodReplica b
    | none => none

/-- Replicas that fail are rewritten from the good one in the next recess (R59). -/
def noteReplicas (s : State) : State :=
  if s.firstReplica.isNone then s
  else
    let bad := (List.range 4).filter fun i => match s.img.replicas.getD i none with
      | some b => (s.goodReplica b).isNone
      | none => true
    onImg (fun m => { m with rewrite := insertAll bad m.rewrite }) s

/-- The replicas to rewrite are written in recess (R59). -/
def imageRecess (s : State) : State :=
  if s.img.rewrite.isEmpty || s.img.commit.isSome then s
  else match s.firstReplica with
    | some x => onImg (fun m => { m with
        replicas := m.rewrite.foldl (fun l i => modifyAt l i fun _ => some x.2) m.replicas
        rewrite := [] }) s
    | none => s

/-- The active image is the resident one. -/
def State.activeResident (s : State) : Bool := s.img.source != 0 && s.img.record == some s.img.active.digest

/-- ACTION 3 (R52). -/
def residentCore (h : Hdr) (s : State) : State :=
  if s.img.source = 0 then finish h stSequence s
  else if s.activeResident then finish h stOk s
  else if s.img.commit.isSome then hold h (.makeActiveResident h) .resource s
  else onImg (fun m => { m with commit := some ⟨m.active, m.stream, some h⟩ }) (begin' h .admin s)

/-- ACTION 4 (R52). -/
def activateResidentCore (h : Hdr) (s : State) : State :=
  match s.firstReplica with
  | none => finish h stSequence s
  | some x =>
    let s := noteReplicas s
    if s.lockOk x.1 then startActivation h 4 1 x.1 x.2 s else finish h stPlainLocked s

/-- ACTION 5 (R52, R60). -/
def activateRomCore (h : Hdr) (s : State) : State :=
  if s.lockOk s.romImage then startActivation h 5 0 s.romImage (Blob.zero 0) s else finish h stPlainLocked s

def execMakeActiveResident (h : Hdr) (s : State) : Res := .next (admitActivate h (residentCore h) s)
def execActivateResidentImage (h : Hdr) (s : State) : Res := .next (admitActivate h (activateResidentCore h) s)
def execActivateRomDefault (h : Hdr) (s : State) : Res := .next (admitActivate h (activateRomCore h) s)

/-- ACTION 6 or 7 (R52); the operand is taken modulo its field, and another value of it is refused alike. -/
def execStructureActivateReserved (h : Hdr) (_action : Nat) (s : State) : Res :=
  .next (admitActivate h (finish h stInvalidField) s)

/-! ### Taking effect (R56 steps 3 to 6) -/

/-- A built-in program or a lesson runs in a classroom (R56 step 3). -/
def State.roomRuns (s : State) (room : Nat) : Bool :=
  s.sched.runs.any (fun r => r.room == room) || s.query.scans.any (fun r => r.room == room) ||
  s.query.runs.any (fun r => r.room == room) || s.idx.waiting.any (fun w => w.room == room) ||
  s.train.steps.any (fun t => t.room == room) ||
  s.ftl.jobs.any fun j => match j.kind with
    | .embed _ r _ _ => r == room
    | _ => false

/-- The values of an image that the features of R26 take, with changes not yet in force discarded (R80 step 3, R105). -/
def restoreFeatures (i : Image) (s : State) : State :=
  { s with
      host := { s.host with
        envelopeW := i.envelopeW
        envelopeNext := none
        policy := i.policy
        policyNext := none
        queryDef := i.idx
        queryDefNext := none }
      bell := { s.bell with
        timetable := 0
        selected := none
        slots := List.replicate 8 (i.periodUs * 1000) } }

/-- Lessons of changed classrooms are unloaded, their segments freed and their shared semaphores cleared; range sets of classrooms
that the image removes are deleted (R56 step 4, R124, R252, R264). -/
def changeRooms (changed : List Nat) (i : Image) (s : State) : State :=
  let s := (s.sched.lessons.filter fun l => changed.contains l.room).foldl (fun s l => unloadLesson l s) s
  let s := onMem (fun m => { m with
    segs := m.segs.filter fun g => !(changed.contains g.room)
    sets := m.sets.filter fun r => i.rooms.any fun x => x.room == r.room }) s
  let s := onSched (fun c => { c with shared := c.shared.filter fun (x : (Nat × Nat) × Nat) => !(changed.contains x.1.1) }) s
  onTrain (fun t => { t with lastStep := changed.foldl (fun l r => modifyAt l r fun _ => 0) t.lastStep }) s

/-- An image becomes the active one. -/
def putImage (i : Image) (stream : Blob) (source : Nat) (s : State) : State :=
  restoreFeatures i (onImg (fun m => { m with active := i, stream := stream, source := source }) s)

/-- The resident commit of an activation in effect under ACTION 2 begins (R56 step 5, R58). -/
def commitActivation (a : Activation) (s : State) : State :=
  if s.img.commit.isSome then onImg (fun m => { m with activation := some { a with inEffect := true } }) s
  else onImg (fun m => { m with activation := none, commit := some ⟨a.image, a.stream, some a.hdr⟩ }) s

/-- Step 4 and step 5 of R56. -/
def takeEffect (a : Activation) (s : State) : State :=
  let sel := s.bell.selected
  let old := s.img.active.rooms
  let s := putImage a.image a.stream a.source (changeRooms a.changed a.image s)
  let s := match sel with
    | some x => match x.hdr with
      | some h => finish h stOk s
      | none => s
    | none => s
  let moved := (List.range 8).filter fun r => (old.any fun x => x.room == r) != (a.image.rooms.any fun x => x.room == r)
  let s := raiseEvent ⟨2, 0, 4⟩ { s with host := { s.host with changedNs := insertAll (moved.map (65 + ·)) s.host.changedNs } }
  if a.action = 2 then commitActivation a s
  else finish a.hdr stOk (onImg (fun m => { m with activation := none }) s)

/-- Step 3 of R80: a boundary is counted, and the activation takes effect at the first of 100 at which nothing runs in a changed
classroom. -/
def activationBoundary (s : State) : State :=
  match s.img.activation with
  | none => s
  | some a =>
    if a.inEffect || decide (100 ≤ a.boundaries) then s
    else
      let a : Activation := { a with boundaries := a.boundaries + 1 }
      if a.changed.any s.roomRuns then onImg (fun m => { m with activation := some a }) s
      else takeEffect a s

/-- The 100th boundary after verification has come with a changed classroom busy (R56 step 6). -/
def execActivateStructureBusy (s : State) : Res :=
  .next (match s.img.activation with
    | some a =>
      if !a.inEffect && decide (100 ≤ a.boundaries) then
        finish a.hdr stBusy (onImg (fun m => { m with activation := none }) s)
      else s
    | none => s)

/-! ### The resident commit (R58, R443) -/

/-- All four replicas hold the image, the commit record is in the journal, and the command completes. A commit that a reset has left
alone then clears the staging buffer (R443). -/
def endCommit (c : ResCommit) (s : State) : State :=
  let s := (norRecord 3 (Blob.concat [fld 8 c.image.imageId.toNat, Blob.ofBytes (beBytes 32 c.image.digest.toNat)]) [] s).2
  let s := onImg (fun (m : ImgSt) => { m with
    commit := none
    replicas := List.replicate 4 (some c.stream)
    record := some c.image.digest
    rewrite := []
    source := if m.active.digest = c.image.digest ∧ m.source ≠ 0 then 1 else m.source
    staged := if c.cmd.isSome then m.staged else [] }) s
  let s := match c.cmd with
    | some h => finish h stOk s
    | none => s
  match s.img.activation with
  | some a => if a.inEffect then commitActivation a s else s
  | none => s

def execResidentCommitDone (s : State) : Res :=
  .next (match s.img.commit with
    | some c => endCommit c s
    | none => s)

/-- What a Controller Level Reset leaves of an Activate (R443): one not in effect is abandoned, and a resident commit runs on. -/
def resetActivation (s : State) : State :=
  let act := match s.img.activation with
    | some a => if a.inEffect then some a else none
    | none => none
  let s := onImg (fun (m : ImgSt) => { m with
    activation := none
    commit := m.commit.map fun c => { c with cmd := none }
    staged := if m.commit.isSome then m.staged else [] }) s
  match act with
  | some a =>
    if s.img.commit.isSome then s
    else onImg (fun m => { m with commit := some ⟨a.image, a.stream, none⟩ }) s
  | none => s

/-! ### Starting on an image (R59) -/

/-- The journal's last commit record of a structure image. -/
def NorSt.imageRecord (n : NorSt) : Option (BitVec 256) :=
  (newestRec (n.journal.filter fun r => r.kind == 3)).map fun r => BitVec.ofNat 256 (r.payload.be 8 32)

/-- The image that a start activates, and its source. -/
def startImage (s : State) : State :=
  let s := onImg (fun m => { m with record := s.nor.imageRecord, rewrite := [], residentFail := 0 }) s
  match s.img.record with
  | none => putImage s.romImage (Blob.zero 0) 0 s
  | some _ =>
    let s := noteReplicas s
    let bad := s.img.replicas.map fun r => !(r.any fun b => (s.goodReplica b).isSome)
    let s := onImg (fun m => { m with residentFail := packBits (bad ++ [bad.all id]) }) s
    match s.firstReplica with
    | none => putImage s.romImage (Blob.zero 0) 0 s
    | some x =>
      if s.nor.bootFlags.getLsbD 0 then putImage x.1 x.2 1 s
      else putImage s.romImage (Blob.zero 0) 0 s

end Sys2Proof.Machine
end

