-- ==== Sys2Proof/Machine/Control.lean ====
section
/-! DEFINITION. Queues, the early end of commands by queue deletion and by a controller reset, Abort, the features and the
management commands (R86, R89, R95, R99 to R101, R105, R109, R386). -/

namespace Sys2Proof.Machine

def onHost (f : HostSt → HostSt) (s : State) : State := { s with host := f s.host }

/-! ### The early end of commands (R100, R101) -/

/-- The apply bell of a step has been sent, so that the step stands (R282). -/
def TStep.stands (t : TStep) : Bool :=
  match t.phase with
  | .applyAt _ => true
  | .copying _ => true
  | _ => false

/-- A Write, Write Zeroes or Dataset Management that has started. -/
def State.writing (s : State) (h : Hdr) : Bool :=
  s.host.outs.any fun o => o.sq == h.sq && o.cid == h.cid && o.kind == .writing

/-- Jobs of some kinds end, with their reads. -/
def closeJobs (p : JobKind → Bool) (s : State) : State :=
  (s.ftl.jobs.filter fun j => p j.kind).foldl (fun s j => closeJob j.jid s) s

/-- Reads and Memory Copies stop, and objects that a program reads are no longer wanted (R100 steps 3 and 4). -/
def stopJobs (p : Hdr → Bool) (s : State) : State :=
  let scan := fun (id : Nat) => s.query.scans.any fun r => r.id == id && p r.hdr
  let query := fun (id : Nat) => s.query.runs.any fun r => r.id == id && (match r.reply with
    | .host h _ _ _ => p h
    | .head _ _ _ _ => false)
  closeJobs (fun k => match k with
    | .nvmRead h _ _ _ => p h
    | .memCopy h _ _ _ _ _ => p h
    | .embed h _ _ _ => p h
    | .scan id _ _ => scan id
    | .piece id _ _ _ => query id
    | .examples id _ _ => query id
    | .write _ _ _ _ _ | .proxy _ _ _ _ _ _ | .move _ | .copy _ _ | .patrol _ => false) s

/-- Scans and queries stop. -/
def stopQueries (p : Hdr → Bool) (s : State) : State :=
  let s := (s.query.runs.filter fun r => match r.reply with
    | .host h _ _ _ => p h
    | .head _ _ _ _ => false).foldl (fun s r => dropQRun r.id s) s
  onQuery (fun q => { q with scans := q.scans.filter fun r => !(p r.hdr) }) s

/-- Lessons stop. -/
def stopLessons (p : Hdr → Bool) (s : State) : State :=
  (s.sched.runs.filter fun r => !r.train && p r.hdr).foldl (fun s r => dropRun r s) s

/-- Train Steps not yet applied are discarded on every member; their command is completed elsewhere (R282). -/
def stopSteps (p : Hdr → Bool) (s : State) : State :=
  (s.train.steps.filter fun t => !t.stands && t.hdr.any p).foldl (fun s t => giveUpStep { t with hdr := none } stOk s) s

/-- The work of the commands that `p` names ends, except that of started writes (R100 steps 2 to 5). Inserts not yet committed leave
the index unchanged. -/
def stopWork (p : Hdr → Bool) (s : State) : State :=
  let s := stopSteps p (stopLessons p (stopQueries p (stopJobs p s)))
  onPlain (fun n => { n with proxies := n.proxies.filter fun x => !(p x.hdr) })
    (onIdx (fun x => { x with waiting := x.waiting.filter fun w => !(p w.hdr) }) s)

/-- Commands of a queue that end with its deletion: held ones that have not started, and those in execution other than writes and steps
that stand. -/
def State.endedBy (s : State) (qid : Nat) : List (Nat × Nat) :=
  ((s.host.held.filter fun c => c.hdr.sq == qid && !(s.writing c.hdr)).map fun c => (c.hdr.sq, c.hdr.cid)) ++
  ((s.host.outs.filter fun o => o.sq == qid && o.kind != .writing &&
    !(s.train.steps.any fun t => t.stands && t.hdr.any fun h => h.sq == o.sq && h.cid == o.cid) &&
    !(s.host.held.any fun c => c.hdr.sq == o.sq && c.hdr.cid == o.cid)).map fun o => (o.sq, o.cid))

/-! ### Queues (R86, R95, R100) -/

/-- Identifiers of I/O queues. -/
def qidOk (qid : Nat) : Bool := decide (1 ≤ qid ∧ qid ≤ 512)

def State.sq? (s : State) (qid : Nat) : Option Sq := s.host.sqs.find? fun q => q.id == qid
def State.cq? (s : State) (qid : Nat) : Option Cq := s.host.cqs.find? fun q => q.id == qid

/-- Create I/O Completion Queue; `qsize` is 0-based (R108). -/
def createCq (h : Hdr) (qid qsize iv : Nat) (pc : Bool) (s : State) : State :=
  if !(qidOk qid) || (s.cq? qid).isSome then finish h stInvalidQid s
  else if qsize = 0 ∨ 65535 < qsize then finish h stInvalidQsize s
  else if !pc then finish h stInvalidField s
  else if 512 < iv then finish h stVector s
  else finish h stOk (onHost (fun t => { t with cqs := t.cqs ++ [⟨qid, iv, qsize + 1⟩] }) s)

/-- Create I/O Submission Queue. -/
def createSq (h : Hdr) (qid qsize cqid : Nat) (pc : Bool) (s : State) : State :=
  if !(qidOk qid) || (s.sq? qid).isSome then finish h stInvalidQid s
  else if qsize = 0 ∨ 65535 < qsize then finish h stInvalidQsize s
  else if !pc then finish h stInvalidField s
  else if (s.cq? cqid).isNone then finish h stInvalidCq s
  else finish h stOk (onHost (fun t => { t with sqs := t.sqs ++ [⟨qid, cqid, qsize + 1⟩] }) s)

/-- Delete I/O Completion Queue. -/
def deleteCq (h : Hdr) (qid : Nat) (s : State) : State :=
  if (s.cq? qid).isNone then finish h stInvalidQid s
  else if s.host.sqs.any fun q => q.cq == qid then finish h stQueueDeletion s
  else finish h stOk (onHost (fun t => { t with cqs := t.cqs.filter fun q => q.id != qid }) s)

/-- Delete I/O Submission Queue: steps 1 to 6 of R100. -/
def deleteSq (h : Hdr) (qid : Nat) (s : State) : State :=
  if (s.sq? qid).isNone || (s.host.deletes.any fun d => d.qid == qid) then finish h stInvalidQid s
  else
    let ended := s.endedBy qid
    let s := onHost (fun (t : HostSt) => { t with
      deletes := t.deletes ++ [⟨h, qid⟩]
      held := t.held.filter fun c => c.hdr.sq != qid || s.writing c.hdr }) (begin' h .admin s)
    let s := stopWork (fun x => x.sq == qid) s
    let s := ended.foldl (fun s x => post x.1 x.2 stSqDeleted 0 (Blob.zero 0) s) s
    let s := if s.host.deletes.any (fun d => d.qid == qid) then finishDelete s ⟨h, qid⟩ else s
    pump s

def execCreateIoCompletionQueue (h : Hdr) (qid qsize iv : Nat) (pc : Bool) (s : State) : Res :=
  .next (admitAdmin h 0x05 (createCq h qid qsize iv pc) s)
def execCreateIoSubmissionQueue (h : Hdr) (qid qsize cqid : Nat) (pc : Bool) (s : State) : Res :=
  .next (admitAdmin h 0x01 (createSq h qid qsize cqid pc) s)
def execDeleteIoCompletionQueue (h : Hdr) (qid : Nat) (s : State) : Res := .next (admitAdmin h 0x04 (deleteCq h qid) s)
def execDeleteIoSubmissionQueue (h : Hdr) (qid : Nat) (s : State) : Res := .next (admitAdmin h 0x00 (deleteSq h qid) s)

/-- Abort (R99): the command named runs on, and the Abort completes at the next tick; a fifth meets the limit of ACL. -/
def execAbort (h : Hdr) (_asq _acid : Nat) (s : State) : Res :=
  .next (admitAdmin h 0x08 (fun s =>
    if 4 ≤ s.host.aborts.length then finish h stAbortLimit s
    else onHost (fun t => { t with aborts := t.aborts ++ [h.cid] }) (begin' h .admin s)) s)

/-- The Aborts outstanding complete with "command not aborted". -/
def endAborts (s : State) : State :=
  s.host.aborts.foldl (fun s cid => post 0 cid stOk 1 (Blob.zero 0) s) (onHost (fun t => { t with aborts := [] }) s)

/-- Asynchronous Event Request: eight may be outstanding (AERL 7, R88), and one answers an event that waits. -/
def execAsynchronousEventRequest (h : Hdr) (s : State) : Res :=
  .next (admitAdmin h 0x0C (fun s =>
    if 8 ≤ s.host.aers.length then finish h stAerLimit s
    else match s.host.waiting.find? fun e => !(s.host.masked.contains e.lid) with
      | some e => finishDw h stOk (e.kind + 256 * e.info + 65536 * e.lid) (onHost (fun t => { t with
          waiting := t.waiting.erase e
          masked := e.lid :: t.masked }) s)
      | none => onHost (fun t => { t with aers := t.aers ++ [h.cid] }) (begin' h .admin s)) s)

/-- An admin opcode outside R89 and R104. -/
def execInvalidCommandOpcode (h : Hdr) (_opcode : Nat) (s : State) : Res :=
  .next (if s.fetches h && h.sq == 0 then finish h stInvalidOpcode s else s)

/-! ### Features (R95, R105, R386) -/

/-- Set Features: no feature of the drive is saveable. -/
def admitSet (h : Hdr) (sv : Bool) (k : State → State) (s : State) : State :=
  admitAdmin h 0x09 (fun s => if sv then finish h stNotSaveable s else k s) s

/-- ENVELOPE_W lies in its range, and LOCK allows it (R43). -/
def State.envelopeOk (s : State) (w : Nat) : Bool :=
  decide (80 ≤ w ∧ w ≤ 165) &&
  (s.img.active.lock == 0 || (s.img.active.lock == 1 && decide (w ≤ s.img.active.envelopeW)))

/-- A new envelope, which comes into force at the next boundary: within one bell (R105). -/
def setEnvelope (w : Nat) (s : State) : Status × State :=
  if s.envelopeOk w then (stOk, onHost (fun t => { t with envelopeNext := some w }) s) else (stInvalidField, s)

/-- The power state, at once (R386). -/
def setPower (ps : Nat) (s : State) : Status × State :=
  if ps ≤ 2 then (stOk, onHost (fun t => { t with powerState := ps }) s) else (stInvalidField, s)

def execSetPowerEnvelope (h : Hdr) (sv : Bool) (watts : Nat) (s : State) : Res :=
  .next (admitSet h sv (fun s => finish h (setEnvelope watts s).1 (setEnvelope watts s).2) s)

def execSetPowerManagement (h : Hdr) (sv : Bool) (ps : Nat) (s : State) : Res :=
  .next (admitSet h sv (fun s => finish h (setPower ps s).1 (setPower ps s).2) s)

/-- Media Policy: the buffer in the layout of section 06h, in force from the next boundary. -/
def execSetMediaPolicy (h : Hdr) (sv : Bool) (data : Blob) (s : State) : Res :=
  .next (admitSet h sv (fun s =>
    if (firstBad (checks06 2 data)).isSome then finish h stInvalidField s
    else finish h stOk (onHost (fun t => { t with policyNext := some (parsePolicy data) }) s)) s)

def execSetPlainMembership (h : Hdr) (sv : Bool) (s : State) : Res := .next (admitSet h sv (finish h stNotChangeable) s)

/-- The buffer of Query Defaults. -/
def queryDefaultsOk (b : Blob) : Bool :=
  decide (1 ≤ b.le 0 2 ∧ b.le 0 2 ≤ 4096 ∧ b.le 2 2 ≤ 4096 ∧ b.le 4 4 ≤ 65536 ∧ b.le 8 4 ≤ 1048575 ∧ b.le 12 1 ≤ 2) && b.zeroAt 13 3

def execSetQueryDefaults (h : Hdr) (sv : Bool) (data : Blob) (s : State) : Res :=
  .next (admitSet h sv (fun s =>
    if !(queryDefaultsOk data) then finish h stInvalidField s
    else finish h stOk (onHost (fun (t : HostSt) => { t with queryDefNext := some { t.queryDef with
      nprobe := data.le 0 2, k := data.le 2 2, rerank := data.le 4 4, deadline := data.le 8 4, metric := data.le 12 1 } }) s)) s)

def execSetArbitration (h : Hdr) (sv : Bool) (burst lpw mpw hpw : Nat) (s : State) : Res :=
  .next (admitSet h sv (fun s =>
    if 7 < burst ∨ 255 < lpw ∨ 255 < mpw ∨ 255 < hpw then finish h stInvalidField s
    else finish h stOk (onHost (fun t => { t with arb := (burst, lpw, mpw, hpw) }) s)) s)

/-- Number of Queues as it is reported: 511 for each, 0-based (R95). -/
def queueCounts : Nat := 511 * 65536 + 511

def execSetNumberOfQueues (h : Hdr) (sv : Bool) (_nsq _ncq : Nat) (s : State) : Res := .next (admitSet h sv (finishDw h stOk queueCounts) s)

/-- The value of Plain Membership (R105): what stands now, or what the image gives. -/
def membershipData (current : Bool) (s : State) : Blob :=
  let on := current && s.isMember
  Blob.concat [fld 8 s.img.active.plain.plainId.toNat, fld 1 (if on then s.plain.member else 0xFF), fld 1 s.members,
    fld 3 (if on then s.plain.present.toNat else 0), rsv 19]

/-- The buffer of Query Defaults, as read. -/
def queryDefaultsData (d : IdxDefaults) : Blob :=
  Blob.concat [fld 2 d.nprobe, fld 2 d.k, fld 4 d.rerank, fld 4 d.deadline, fld 1 d.metric, rsv 3]

/-- A feature's value as completion dword 0 and data; `now` is false for the default and saved values. -/
def featureValue (fid : Nat) (now : Bool) (s : State) : Option (Nat × Blob) :=
  let none' := Blob.zero 0
  match fid with
  | 0x01 =>
    let a := if now then s.host.arb else (0, 0, 0, 0)
    some (a.1 + 256 * a.2.1 + 65536 * a.2.2.1 + 16777216 * a.2.2.2, none')
  | 0x02 => some (if now then s.host.powerState else 0, none')
  | 0x07 => some (queueCounts, none')
  | 0xC0 => some (if now then s.host.envelopeW else s.img.active.envelopeW, none')
  | 0xC1 => some (if now then s.bell.timetable else 0, none')
  | 0xC2 => some (0, policyBytes (if now then s.host.policy else s.img.active.policy))
  | 0xC3 => some (0, membershipData now s)
  | 0xC4 => some (0, queryDefaultsData (if now then s.host.queryDef else s.img.active.idx))
  | _ => none

/-- Get Features: SEL 0 current, 1 default, 2 saved, 3 capabilities, of which bit 2 is "changeable". -/
def execGetFeatures (h : Hdr) (fid sel : Nat) (s : State) : Res :=
  .next (admitAdmin h 0x0A (fun s =>
    match featureValue fid (sel == 0) s with
    | none => finish h stInvalidField s
    | some v =>
      if sel = 3 then finishDw h stOk (if fid = 0xC3 then 0 else 4) s
      else if 3 < sel then finish h stInvalidField s
      else post h.sq h.cid stOk v.1 v.2 s) s)

/-! ### Management commands (R109) -/

/-- The status poll: bell state and flags, critical warnings, plain membership, controller ready, and the link. -/
def miStatus (s : State) : Blob :=
  let mode := match s.bell.mode with
    | .locked => 0
    | .freeRunning => 1
    | .following => 2
  Blob.concat [fld 1 mode, fld 1 (packBits [s.bell.lost, s.bell.offNominal, s.bell.phaseFault, s.bell.starved, s.bell.ptmValid]),
    fld 1 s.host.critWarn, fld 1 (if s.isMember then s.plain.member else 0xFF), fld 3 s.plain.present.toNat,
    fld 1 (packBits [s.host.rdy && !s.fw.recovery, s.host.link])]

/-- Opcodes of R89 and R104. -/
def adminOpcode (op : Nat) : Bool :=
  [0x00, 0x01, 0x02, 0x04, 0x05, 0x06, 0x08, 0x09, 0x0A, 0x0C, 0x0D, 0x10, 0x11, 0x14, 0x15, 0x1D, 0x1E, 0x80, 0x84,
    0xC1, 0xC2, 0xC5, 0xC6, 0xC9, 0xCA].contains op

/-- Opcodes that the management endpoint cannot send. -/
def miRefused (op : Nat) : Bool := [0xC1, 0xC2, 0xCA].contains op

/-- A management command: its status, its data and its effect. Another admin command is passed on or refused by its opcode; a reset that
is asked for follows as its own event. -/
def miCore (m : MiCmd) (s : State) : Status × Blob × State :=
  match m with
  | .status => (stOk, miStatus s, s)
  | .setEnvelope w => ((setEnvelope w s).1, Blob.zero 0, (setEnvelope w s).2)
  | .setPower ps => ((setPower ps s).1, Blob.zero 0, (setPower ps s).2)
  | .subsystemReset => (stOk, Blob.zero 0, s)
  | .admin op => (if adminOpcode op && !(miRefused op) then stOk else stInvalidOpcode, Blob.zero 0, s)

/-- NVMe-MI Send or Receive, in band. -/
def execNvmeMiSendReceive (h : Hdr) (m : MiCmd) (s : State) : Res :=
  .next (admitAdmin h 0x1D (fun s =>
    let r := miCore m s
    post h.sq h.cid r.1 0 r.2.1 r.2.2) s)

/-- A response over SMBus, MCTP or DOE. -/
def respond (b : Blob) (s : State) : State := onHost (fun t => { t with responses := t.responses ++ [b] }) s

/-- A management command over SMBus or MCTP, served whenever 3.3 V aux is present; a drive that does not run answers the poll only. -/
def execNvmeMiCommand (m : MiCmd) (s : State) : Res :=
  .next (if !s.power.mgmt then s
    else
      let r := if s.up && !s.fw.recovery then miCore m s
        else if m == .status then (stOk, miStatus s, s) else (stInternal, Blob.zero 0, s)
      respond ((Blob.concat [fld 1 r.1.1, fld 1 r.1.2]).append r.2.1) r.2.2)

/-! ### Controller Level Reset (R101, R388, R443) -/

/-- Commands that wait for something beside the queues lose their command: the work they began goes on without one. -/
def orphan (s : State) : State :=
  { s with
      plain := { s.plain with leaveHdr := none, join := s.plain.join.map fun j => { j with hdr := none } }
      bell := { s.bell with selected := s.bell.selected.map fun x => { x with hdr := none } }
      fw := { s.fw with commit := s.fw.commit.map fun c => { c with hdr := none } }
      train := { s.train with steps := s.train.steps.map fun t => { t with hdr := none } } }

/-- What every reset does with the option area (R349, R352, R401, R408): Maintenance state ends, the owner key and the boot flags are
read, and a new nonce is drawn. -/
def readOptions (s : State) : State :=
  let (n, s) := draw s
  { s with
      nor := { s.nor with maint := false }
      sec := { s.sec with ownerHash := s.nor.ownerHash, bootFlags := s.nor.bootFlags, nonce := Config.draw128 n } }

/-- Every command ends with no completion entry; started writes leave each unit old or new. Features other than the vendor's return to
their defaults. -/
def controllerReset (s : State) : State :=
  let s := stopWork (fun _ => true) s
  let s := closeJobs (fun k => match k with
    | .write _ _ _ _ _ => true
    | _ => false) s
  let s := resetActivation (orphan (onFtl (fun t => { t with writes := [] }) s))
  let s := readOptions { s with fw := { s.fw with staged := Blob.zero 0, pieces := [] } }
  onHost (fun t => { t with
    en := false
    rdy := false
    shst := 0
    sqs := []
    cqs := []
    outs := []
    held := []
    deletes := []
    aers := []
    masked := []
    aborts := []
    arb := (0, 0, 0, 0)
    powerState := 0 }) s

end Sys2Proof.Machine
end

