-- ==== Sys2Proof/Machine/Die.lean ====
section
/-! DEFINITION. Watchdogs, die resets, generation tags, replay, failed dies, and Retire Resource (R126, R364 to R375). -/

namespace Sys2Proof.Machine

/-! ### Taking a die down (R368) -/

/-- Channels of a valley die. -/
def onValleyDie (d ch : Nat) : Bool := (if ch < 16 then 1 else 2) == d

/-- Die-to-die requests of the hub for the reads that a valley die has in flight (R151). -/
def losePending (d : Nat) (s : State) : State :=
  let lost := s.ftl.reads.filter fun r => onValleyDie d (chOf r.pslot)
  lost.foldl (fun s r => { s with
    dies := { s.dies with
      nextReq := s.dies.nextReq + 1
      reqs := s.dies.reqs ++ [⟨s.dies.nextReq, 0, d, (s.die d).gen, s.pos, 0⟩] }
    ftl := { s.ftl with reads := s.ftl.reads.map fun x => if x.rid = r.rid then { x with stage := .hard, softReads := 0 } else x } }) s

/-- The classroom share of a die's SRAM reads zero; bytes of range sets on it are poisoned, and cached segments there are dropped
(R126, R442). -/
def clearShare (d : Nat) (s : State) : State :=
  let lo := dieBase d
  let n := dieShare d
  let marks := s.mem.sets.flatMap fun x => x.ranges.flatMap fun r =>
    if r.nsid = 73 ∧ r.ofst < lo + n ∧ lo < r.ofst + r.len then
      granules (max lo r.ofst) (min (lo + n) (r.ofst + r.len) - max lo r.ofst)
    else []
  memMark 73 marks (onMem (fun m => { m with
    sram := ⟨m.sram.cells.blit lo n [], m.sram.poison.filter fun g => !(decide (lo ≤ g * 64 ∧ g * 64 < lo + n))⟩
    segs := m.segs.filter fun g => !(g.tier == 0 && g.die == d && g.kind == .cached) }) s)

/-- The engines of a die lose what they hold. -/
def clearEngines (d : Nat) (s : State) : State :=
  { s with eng := { s.eng with
      mxa := s.eng.mxa.zipIdx.map fun x => if engineDie (.mxa x.2) = d then ⟨[], [], none, []⟩ else x.1
      vu := s.eng.vu.zipIdx.map fun x => if engineDie (.vu x.2) = d then ⟨[], [], ⟨[], []⟩⟩ else x.1 } }

/-- A run is on a die: an engine of its own is there. -/
def Run.on (r : Run) (d : Nat) : Bool := r.engines.any fun e => engineDie e == d

/-- A run stops where it stands, to be run again from its start. Its segments keep their places. -/
def haltRun (r : Run) (s : State) : State :=
  let s := r.engines.foldl (fun s e => if s.holder e == some r.id then setHolder e none s else s) s
  let s := endHandBack r.id s
  let room := (s.lesson? r.room r.slot).elim r.sems (·.localInit)
  let s := { s with
    eng := { s.eng with
      mxa := s.eng.mxa.map fun a => if a.drains.any (fun x => x.run == r.id) then { a with drains := a.drains.filter fun x => x.run != r.id } else a
      movers := s.eng.movers.map fun m => match m with
        | some x => if x.run = r.id then none else some x
        | none => none }
    ftl := { s.ftl with jobs := s.ftl.jobs.filter fun j => match j.kind with
      | .move n => match s.eng.movers.getD n none with
        | some x => x.run != r.id
        | none => true
      | _ => true } }
  onRun r.id (fun x => { x with
    sems := room, holds := [], raised := none, waits := [], done := 0, ready := [], wrotePoison := false, resume := [], rerun := true }) s

/-- Train Steps whose lesson runs on the die stop in this attempt (R280); `fired` is the engine of a watchdog. -/
def haltSteps (d : Nat) (fired : Option Engine) (s : State) : State :=
  s.train.steps.foldl (fun s t => match t.run with
    | some id => match s.run? id with
      | some r =>
        if r.on d then
          onStep t.room (fun t => { t with run := none, halted := true, suspect := t.suspect || fired.any r.engines.contains }) (dropRun r s)
        else s
      | none => s
    | none => s) s

/-- The hub's own share of a reset: the PCIe link and the pass ports go down, and commands end as R101 states. -/
def hubDown (s : State) : State :=
  let s := onHost (fun t => { t with link := false }) (controllerReset s)
  [0, 1, 2, 3].foldl (fun s p => dropLink p s) s

/-- Steps 1 and 2 of R368, with LAST_CAUSE. -/
def dieReset (d cause : Nat) (fired : Option Engine) (s : State) : State :=
  let s := if d = 1 ∨ d = 2 then losePending d s else s
  let s := onDie d (fun x => { x with
    state := .resetting
    gen := x.gen + 1
    resets := bump32 x.resets
    lastBell := s.bell.count
    lastCause := cause
    resetAt := s.pos }) s
  if d = 0 then clearShare 0 (hubDown s)
  else if d = 3 ∨ d = 4 then
    let s := haltSteps d fired s
    let s := (s.sched.runs.filter fun r => r.on d && !r.train).foldl (fun s r => haltRun r s) s
    clearEngines d (clearShare d s)
  else s

/-! ### Suspects (R371) -/

/-- A lesson is quarantined until its slot is loaded again, and the run completes with Program Faulted. -/
def quarantine (d id : Nat) (s : State) : State :=
  match s.run? id with
  | none => s
  | some r =>
    let s := onSched (fun c => { c with lessons := c.lessons.map fun l =>
      if l.room = r.room ∧ l.slot = r.slot then { l with quarantined := true } else l }) s
    let s := { s with dies := { s.dies with quarantines := bump32 s.dies.quarantines } }
    endRun id stProgramFaulted (onDie d (fun x => { x with quarantined := true }) s)

/-- The state of a die that serves: degraded where its spares are used up (R373). -/
def Die.serving (x : Die) : DieState := if x.degradedSpares then .degraded else .running

/-- A run starts again from its beginning. -/
def restartRun (r : Run) (s : State) : State :=
  r.engines.foldl (fun s e => makeReady r.id e s) (onRun r.id (fun x => { x with rerun := false }) s)

/-- Runs that are to be run again start once both array dies schedule normally. -/
def restartRuns (s : State) : State :=
  let busy := fun (d : Nat) => (s.die d).state == .resetting || (s.die d).state == .replaying
  if busy 3 || busy 4 then s
  else (s.sched.runs.filter fun r => r.rerun).foldl (fun s r => restartRun r s) s

/-- The first suspect that still runs is replayed, or the die resumes normal scheduling. -/
def replayNext (d : Nat) : Nat → State → State
  | 0, s => s
  | f + 1, s =>
    match (s.die d).suspects with
    | [] =>
      let s := if (s.die d).quarantined then s
        else { s with dies := { s.dies with transients := bump32 s.dies.transients } }
      restartRuns (onDie d (fun x => { x with state := x.serving, quarantined := false }) s)
    | id :: rest => match s.run? id with
      | some r => restartRun r (onDie d (fun x => { x with state := .replaying }) s)
      | none => replayNext d f (onDie d (fun x => { x with suspects := rest }) s)

/-- Replay begins or goes on, where there are suspects. -/
def resumeDie (d : Nat) (s : State) : State :=
  if (s.die d).suspects.isEmpty && !(s.die d).quarantined then restartRuns (onDie d (fun x => { x with state := x.serving }) s)
  else replayNext d ((s.die d).suspects.length + 1) s

/-- A suspect that hung in its replay is quarantined, and the next one takes its place. -/
def endHang (d : Nat) (s : State) : State :=
  if !(s.die d).replayed then s
  else match (s.die d).suspects with
    | id :: rest => quarantine d id (onDie d (fun x => { x with suspects := rest, replayed := false }) s)
    | [] => onDie d (fun x => { x with replayed := false }) s

/-- The replay of the suspect in front ends; REPLAYS counts it. -/
def countReplay (s : State) : State := { s with dies := { s.dies with replays := bump32 s.dies.replays } }

/-- The suspect in replay hangs: the die resets once more. -/
def hangAgain (d : Nat) (s : State) : State :=
  dieReset d 1 none (onDie d (fun x => { x with wdFires := bump32 x.wdFires, replayed := true }) (countReplay s))

/-- A Train Step whose replayed lesson hangs again: quarantine, and the head's command completes with Program Faulted (R280). -/
def faultStep (t : TStep) (s : State) : State :=
  let s := onSched (fun c => { c with lessons := c.lessons.map fun l =>
    if l.room = t.room ∧ l.slot = t.lesson then { l with quarantined := true } else l }) s
  let s := { s with dies := { s.dies with quarantines := bump32 s.dies.quarantines } }
  if s.heads t then giveUpStep t stProgramFaulted s else s

/-- An engine with a watchdog (R47): tile movers have none. -/
def watched : Engine → Bool
  | .mxa n | .vu n | .me n => decide (n < 8)
  | .valley n => decide (n < 32)
  | .mover _ => false

/-- A watchdog runs out (R223, R371). -/
def watchdog (e : Engine) (s : State) : State :=
  let d := engineDie e
  if !(s.up && s.dieServes d && watched e) then s
  else if (s.die d).state == .replaying then hangAgain d s
  else
    let ids := (s.sched.runs.filter fun r => !r.train && r.engines.contains e).map (·.id)
    let again := s.train.steps.filter fun t => t.suspect && (match t.run with
      | some id => (s.run? id).any fun r => r.engines.contains e
      | none => false)
    let s := dieReset d 1 (some e) (onDie d (fun x => { x with wdFires := bump32 x.wdFires }) s)
    let s := again.foldl (fun s t => faultStep t s) s
    if d = 0 then s
    else if s.img.active.watch.replay = 1 then onDie d (fun x => { x with suspects := ids }) s
    else ids.foldl (fun s id => quarantine d id s) s

def execWatchdogFire (e : Engine) (s : State) : Res := .next (watchdog e s)

/-- A control core has missed its heartbeat: the hub die resets (R374). -/
def execHeartbeatMissed (_core : Nat) (s : State) : Res :=
  .next (if s.up && s.dieServes 0 then dieReset 0 2 none s else s)

/-- The supply of a die has fallen below its reset threshold (R367). -/
def execSupplyBelowResetThreshold (die : Nat) (s : State) : Res :=
  .next (if s.up && decide (die ≤ 4) && s.dieServes die then dieReset die 3 none s else s)

/-! ### The sibling die (R372) -/

/-- Working segments that a moved run has on its old die, placed on the sibling; none where they do not fit. -/
def moveSegs (r : Run) (d : Nat) (s : State) : Option State :=
  let mine := s.mem.segs.filter fun g => g.owner == .run r.id && g.tier == 0 && g.die == d
  let s := onMem (fun m => { m with segs := m.segs.filter fun g => !(mine.contains g) }) s
  (placeAll r.room (.run r.id) (mine.map fun g => ⟨g.kind, 0, 7 - d, g.size⟩) s).map Prod.snd

/-- A run moves to the sibling die, or completes with Program Faulted where its classroom has no engines there. -/
def moveRun (d : Nat) (r : Run) (s : State) : State :=
  match s.room? r.room, s.lesson? r.room r.slot with
  | some room, some l => match s.mapOn room l (7 - d) with
    | some es => match moveSegs r d s with
      | some s =>
        onRun r.id (fun x => { x with engines := es, die := 7 - d })
          { s with dies := { s.dies with moves := bump32 s.dies.moves } }
      | none => endRun r.id stProgramFaulted s
    | none => endRun r.id stProgramFaulted s
  | _, _ => endRun r.id stProgramFaulted s

/-- Engines of a die pass to its suspects: their holders become ready again. -/
def freeEngines (d : Nat) (s : State) : State :=
  s.sched.engines.foldl (fun s x => if engineDie x.engine = d then
      match x.run with
      | some id => makeReady id x.engine (setHolder x.engine none s)
      | none => s
    else s) s

/-- The runs of an array die are mapped to its sibling, and replay runs there. Train Steps take it in their next attempt (R280). -/
def moveRuns (d : Nat) (s : State) : State :=
  let s := endHang d s
  let suspects := (s.die d).suspects
  let s := onDie d (fun x => { x with suspects := [], quarantined := false }) s
  let s := (s.sched.runs.filter fun r => r.on d && !r.train).foldl (fun s r => moveRun d r s) s
  let s := onTrain (fun t => { t with steps := t.steps.map fun x => if x.halted then { x with moved := true } else x }) s
  let sib := 7 - d
  let live := suspects.filter fun id => (s.run? id).isSome
  if live.isEmpty then restartRuns s
  else
    let s := onDie sib (fun x => { x with suspects := x.suspects ++ live }) s
    if (s.die sib).state == .running || (s.die sib).state == .degraded then replayNext sib (live.length + 1) (freeEngines sib s) else s

/-- An array die has not returned within REPLAY_WINDOW bells. -/
def execReplayWindowExpired (die : Nat) (s : State) : Res :=
  .next (if (die == 3 || die == 4) && (s.die die).state == .resetting && s.dieGone die then moveRuns die s else s)

/-! ### Return and failure (R126, R368, R369, R373) -/

/-- The share of a failed array die leaves the pool. -/
def loseShare (d : Nat) (s : State) : State :=
  onMem (fun m => { m with
    lostSpans := m.lostSpans ++ [(73, dieBase d, dieShare d)]
    segs := m.segs.filter fun g => !(g.tier == 0 && g.die == d && g.kind != .pinned) }) s

/-- Pinned tier 0 segments of a die. -/
def State.pinnedOn (s : State) (d : Nat) : List Segment := s.mem.segs.filter fun g => g.tier == 0 && g.die == d && g.kind == .pinned

/-- A pinned segment is reloaded from the image of its lesson (R126). -/
def reloadSeg (g : Segment) (s : State) : State :=
  match g.owner with
  | .lesson room slot => match s.lesson? room slot with
    | some l => loadSeg l g s
    | none => s
  | _ => s

/-- The pinned segments of a die that has returned are reloaded (R126, R368 step 4). -/
def reloadPinned (d : Nat) (s : State) : State := (s.pinnedOn d).foldl (fun s g => reloadSeg g s) s

/-- Pinned segments of a failed die are placed again on its sibling, where they fit, each in the place of the old one, and reloaded. -/
def movePinned (d : Nat) (s : State) : State :=
  (s.pinnedOn d).foldl (fun s g =>
    match placeSeg g.room g.owner ⟨.pinned, 0, 7 - d, g.size⟩ (s.mem.segs.length + 1) (dropSeg g s) with
    | some (n, t) => reloadSeg n (onMem (fun m => { m with segs :=
        (s.mem.segs.filter fun x => x == g || m.segs.contains x).map fun x => if x = g then n else x }) t)
    | none => dropSeg g s) s

/-- A die is marked failed until the next power cycle. -/
def dieFailed (d : Nat) (s : State) : State :=
  let s := onDie d (fun x => { x with state := .failed }) s
  if d = 0 then
    { s with power := { s.power with down := .hubFailed, mgmt := false } }
  else if d = 1 ∨ d = 2 then
    let lost := fun (x : FRead) => if onValleyDie d (chOf x.pslot) then { x with stage := ReadStage.recover } else x
    degradeReliability (setCritical 3 0 (onFtl (fun t => { t with reads := t.reads.map lost }) s))
  else degradeReliability (moveRuns d (movePinned d (loseShare d s)))

/-- Step 4 of R368, or the failure of the self-test. -/
def dieReturn (d : Nat) (ok : Bool) (s : State) : State :=
  if !(s.up && decide (d ≤ 4) && (s.die d).state == .resetting) then s
  else if !ok then dieFailed d s
  else resumeDie d (endHang d (reloadPinned d s))

def execDieReturn (die : Nat) (selfTestOk : Bool) (s : State) : Res := .next (dieReturn die selfTestOk s)

/-- The replay of the suspect in front ends: it hangs again, or its run has ended without a hang. -/
def execSuspectReplay (die : Nat) (hang : Bool) (s : State) : Res :=
  .next (if !(s.up && (s.die die).state == .replaying) then s
    else if hang then hangAgain die s
    else match (s.die die).suspects with
      | id :: rest =>
        if (s.run? id).isSome then s
        else replayNext die (rest.length + 1) (onDie die (fun x => { x with suspects := rest }) (countReplay s))
      | [] => replayNext die 1 s)

/-! ### Generation tags (R370) -/

/-- A request that was outstanding to a die when it reset ends REPLY_TIMEOUT ticks after its issue. Its run waits to be run again, and
completes with Generation Dropped where the die has failed. -/
def dropGeneration (x : DieReq) (s : State) : State :=
  let s := onDie x.holder (fun d => { d with genDropped := bump32 d.genDropped })
    { s with dies := { s.dies with reqs := s.dies.reqs.filter fun y => y.id != x.id } }
  if x.target = 1 ∨ x.target = 2 then s
  else match s.run? x.run with
    | none => s
    | some r =>
      if (s.die x.target).state == .failed then
        if r.train then s else endRun r.id stGenDropped s
      else if r.train then
        onTrain (fun t => { t with steps := t.steps.map fun y => if y.run = some r.id then { y with run := none, halted := true } else y }) (dropRun r s)
      else haltRun r s

def execGenerationDropped (req : Nat) (s : State) : Res :=
  .next (match s.dies.reqs.find? fun x => x.id == req with
    | some x =>
      if x.tag != (s.die x.target).gen && reached (x.issued + s.img.active.watch.replyTimeout) s.pos then dropGeneration x s else s
    | none => s)

/-- A reply with an old tag is dropped and counted on the die that it came to. -/
def execLateReplyDrop (holder source tag : Nat) (s : State) : Res :=
  .next (if s.up && decide (holder ≤ 4 ∧ source ≤ 4) && BitVec.ofNat 8 tag != (s.die source).gen then
    onDie holder (fun d => { d with lateDrops := bump32 d.lateDrops }) s else s)

/-! ### Retire Resource (R365, R366) -/

/-- The descriptors of a list: up to the first of TYPE 0, or 256. -/
def retireList (b : Blob) : List Blob :=
  ((List.range 256).map fun i => b.slice (16 * i) 16).takeWhile fun x => x.le 0 1 != 0

def resourceOf (b : Blob) : Resource := ⟨b.le 0 1, b.le 1 1, b.le 2 1, b.le 4 4⟩

/-- SRAM banks of a die. -/
def sramBanks (d : Nat) : Nat := if d = 3 ∨ d = 4 then 256 else if d = 0 then 64 else 96

/-- A descriptor in range, its reserved bytes zero. -/
def descriptorOk (b : Blob) : Bool :=
  let r := resourceOf b
  b.zeroAt 3 1 && b.zeroAt 8 8 &&
  (match r.type with
   | 1 | 2 => decide (r.unit < 16 ∧ r.sub < 16)
   | 3 => decide (r.unit < 5 ∧ r.sub < sramBanks r.unit)
   | 4 => decide (r.unit < 32 ∧ r.sub = 0 ∧ r.index < superblocks)
   | _ => false)

/-- Already out of use, alone or with its bank. -/
def State.isRetired (s : State) (r : Resource) : Bool :=
  match r.type with
  | 4 => (s.col r.index r.unit).retired
  | 1 => s.dies.retired.contains r || s.dies.retired.any fun x => x.type == 2 && x.unit == r.unit && x.sub == r.sub
  | 2 => s.dies.retired.any fun x => x.type == 2 && x.unit == r.unit && x.sub == r.sub
  | _ => s.dies.retired.contains r

/-- DRAM banks retired. -/
def banksGone (l : List Resource) : Nat := (l.filter fun x => x.type == 2).length

/-- Rows of an SRAM bank retired. -/
def rowsGone (l : List Resource) (r : Resource) : Nat := (l.filter fun x => x.type == 3 && x.unit == r.unit && x.sub == r.sub).length

/-- 240 MiB, a DRAM bank; 256 KiB, an SRAM bank. -/
def bankBytes : Nat := 0xF000000
def sramBankBytes : Nat := 0x40000

/-- Retirable, beside those before it in the list. -/
def State.retirable (s : State) (before : List Resource) (r : Resource) : Bool :=
  let gone := s.dies.retired ++ before
  !(s.isRetired r) &&
  (match r.type with
   | 2 => decide (0x600000000 + (banksGone gone + 1) * bankBytes ≤ len74)
   | 3 => r.unit == 3 || r.unit == 4 || decide (rowsGone gone r < 4)
   | _ => true)

/-- The position of the first descriptor that is not retirable. -/
def firstStanding (s : State) : Nat → List Resource → List Resource → Option Nat
  | _, _, [] => none
  | i, before, r :: l => if s.retirable before r then firstStanding s (i + 1) (if before.contains r then before else before ++ [r]) l else some i

/-- The span that a resource's retirement takes from a memory namespace: a DRAM bank from the top of the pool, an SRAM bank of an array
die, once its last spare row is used, from the top of the die's share. -/
def State.spanTaken (s : State) (r : Resource) : Option (Nat × Nat × Nat) :=
  match r.type with
  | 2 =>
    let k := banksGone s.dies.retired
    some (74, len74 - (k + 1) * bankBytes, bankBytes)
  | 3 =>
    if (r.unit = 3 ∨ r.unit = 4) ∧ rowsGone s.dies.retired r = 3 then
      let k := (s.mem.lostSpans.filter fun x => x.1 == 73 && dieOf73 x.2.1 == r.unit).length
      if k < 240 then some (73, dieBase r.unit + dieShare r.unit - (k + 1) * sramBankBytes, sramBankBytes) else none
    else none
  | _ => none

/-- Segments that lie in a span of a memory namespace. -/
def State.segsIn (s : State) (x : Nat × Nat × Nat) : List Segment :=
  s.mem.segs.filter fun g =>
    (if x.1 = 74 then g.tier == 1 else g.tier == 0) &&
    (let a := if x.1 = 74 then g.base else dieBase g.die + g.base
     decide (a < x.2.1 + x.2.2 ∧ x.2.1 < a + g.size))

/-- One resource goes out of service. -/
def retireOne (r : Resource) (s : State) : State :=
  if s.isRetired r then s
  else if r.type = 4 then
    retireColumn 9 r.index r.unit r.index (onFtl (fun t => { t with copyCols := t.copyCols ++ [colKey r.index r.unit] }) s)
  else
    let span := s.spanTaken r
    let last := decide (rowsGone s.dies.retired r = 3)
    let s := match span with
      | some x => onMem (fun m => { m with lostSpans := m.lostSpans ++ [x], segs := m.segs.filter fun g => !((s.segsIn x).contains g) }) s
      | none => s
    let s := logEvent 9 1 r { s with dies := { s.dies with retired := s.dies.retired ++ [r] } }
    if r.type = 3 then
      let s := onDie r.unit (fun d => { d with sramRows := bump32 d.sramRows }) s
      if last && decide (r.unit ≤ 2) then
        degradeReliability (onDie r.unit (fun d => { d with
          degradedSpares := true
          state := if d.state == .running then .degraded else d.state }) s)
      else s
    else s

/-- Segments in use stand in a span that the list takes: the command waits as a run does (R122, R365). -/
def State.retireWaits (s : State) (l : List Resource) : Bool :=
  (l.foldl (fun (a : Bool × State) r =>
    let hit := match a.2.spanTaken r with
      | some x => (a.2.segsIn x).any fun g => g.kind != .cached || !g.users.isEmpty
      | none => false
    (a.1 || hit, if r.type = 4 then a.2 else { a.2 with dies := { a.2.dies with retired := a.2.dies.retired ++ [r] } })) (false, s)).1

/-- Retire Resource with its buffer. -/
def retireCore (h : Hdr) (data : Blob) (s : State) : State :=
  let l := retireList data
  match (List.range l.length).find? fun i => !(descriptorOk (l.getD i (Blob.zero 16))) with
  | some i => finishDw h stInvalidField i s
  | none =>
    if l.isEmpty then finishDw h stInvalidField 0 s
    else
      let rs := l.map resourceOf
      match firstStanding s 0 [] rs with
      | some i => finishDw h stNotRetirable i s
      | none =>
        if s.retireWaits rs then hold h (.retireResource h data) .segment s
        else finish h stOk (rs.foldl (fun s r => retireOne r s) s)

def execRetireResource (h : Hdr) (data : Blob) (s : State) : Res := .next (admitAdmin h 0xC9 (retireCore h data) s)

end Sys2Proof.Machine
end

