-- ==== Sys2Proof/Machine/Reads.lean ====
section
/-! DEFINITION. Page reads as they come back: decoding, soft-sense reads, recovery, and what the readers then do (R130, R131, R308, R315,
R332, R363, R364). -/

namespace Sys2Proof.Machine

/-! ### Readers -/

/-- The command that the rest of a Write belongs to. -/
def writeCommand (h : Hdr) (nsid slba : Nat) (d : Blob) (rest : Nat) : Instr :=
  if d.cells.isEmpty then .writeZeroes h nsid slba (d.len / 4096 + rest - 1) else .nvmWrite h nsid slba (d.len / 4096 - 1) d

/-- A reader whose units have all come goes on. -/
def finishJob (j : Job) (s : State) : State :=
  match j.kind with
  | .nvmRead h nsid slba nlb => finishRead h nsid slba nlb j s
  | .write h nsid slba d rest => placeWrite h nsid slba d rest (writeCommand h nsid slba d rest) j s
  | .memCopy h nsid ofst src slba lbas => finishCopyNvm h nsid ofst src slba lbas j s
  | .proxy _ member tag nsid slba nlb => finishServed member tag nsid slba nlb j s
  | .move n => moveUnits n j s
  | .scan id _ u => absorbScan id u j s
  | .piece id v l i => absorbPiece id v l i j s
  | .embed h room b recs => finishEmbed h room b recs j s
  | .examples id slot refs => finishExamples id slot refs j s
  | .copy p st => finishCopy p st j s
  | .patrol _ => closeJob j.jid s

/-- A page read delivers its unit to its reader, and the streams of the valleys go on. -/
def deliverRead (x : FRead) (u : UnitData) (s : State) : State :=
  let s := onFtl (fun t => { t with reads := t.reads.filter fun y => y.rid != x.rid }) s
  let s := onPlain (fun p => { p with recover := p.recover.filter fun y => y.2 != x.rid }) s
  let s := onValley (chOf x.pslot) (fun v => { v with poison := v.poison + u.poison.length }) s
  let s := deliver x.job u s
  pump (match s.job? x.job with
    | some j => if j.wait.isEmpty then finishJob j s else s
    | none => s)

def State.read? (s : State) (rid : Nat) : Option FRead := s.ftl.reads.find? fun x => x.rid == rid

def onRead (rid : Nat) (f : FRead → FRead) (s : State) : State :=
  onFtl (fun t => { t with reads := t.reads.map fun x => if x.rid = rid then f x else x }) s

/-- What a slot holds. -/
def State.slotData (s : State) (p : Nat) : Blob :=
  match lookupNat s.ftl.flash p with
  | some f => f.data
  | none => Blob.zero unitBytes

/-- A page read that has decoded. -/
def decoded (x : FRead) (s : State) : State := deliverRead x ⟨x.lsn, s.slotData x.pslot, [], false⟩ s

/-- Pages that a read transfers: all four where the page tag's CRC fails (R315). -/
def State.readPages (s : State) (x : FRead) (tagOk : Bool) : Nat := if tagOk then s.readBytes x / 16384 else 4

/-- A page read returns: hard decode, then the full code (R131 step 1). -/
def readDone (x : FRead) (hardOk fullOk tagOk : Bool) (s : State) : State :=
  let n := s.readPages x tagOk
  let s := onValley (chOf x.pslot) (fun v => { v with
    pages := v.pages + n
    bytes := v.bytes + 16384 * n
    softPages := v.softPages + if hardOk then 0 else 1 }) s
  let s := if tagOk then s else onFtlStats (fun t => { t with tagCrcFails := bump32 t.tagCrcFails }) s
  if hardOk || fullOk then decoded x s else onRead x.rid (fun y => { y with stage := .soft }) s

/-- A read can come back: its valley's die serves. -/
def State.readServes (s : State) (x : FRead) : Bool := s.up && s.dieServes (if chOf x.pslot < 16 then 1 else 2)

def execFlashReadDone (rid : Nat) (hardOk fullOk tagOk : Bool) (s : State) : Res :=
  .next (match s.read? rid with
    | some x => if s.readServes x && x.stage == .hard then readDone x hardOk fullOk tagOk s else s
    | none => s)

/-- A soft-sense read returns (R131 steps 2 to 8): a page that needed SOFT_THRESHOLD of them is reported for SOFT_REWRITE, and after the
seventh the codewords go to recovery. -/
def softDone (x : FRead) (ok : Bool) (s : State) : State :=
  let n := x.softReads + 1
  let s := onValley (chOf x.pslot) (fun v => { v with softSenses := v.softSenses + 1 }) s
  let s := if n = s.host.policy.softThreshold then softRewrite x.pslot s else s
  if ok then decoded x s
  else onRead x.rid (fun y => { y with softReads := n, stage := if n < 7 then .soft else .recover }) s

def execSoftSenseReadDone (rid : Nat) (ok : Bool) (s : State) : Res :=
  .next (match s.read? rid with
    | some x => if s.readServes x && x.stage == .soft then softDone x ok s else s
    | none => s)

/-! ### Recovery (R363) -/

def onDies' (f : DieSt → DieSt) (s : State) : State := { s with dies := f s.dies }

/-- The recoveries at step 1 of a column within the window of R364. -/
def State.columnRecoveries (s : State) (p : Nat) : Nat :=
  (s.dies.log.filter fun e => e.event == 3 && decide (bellsFrom e.bell s.bell.count < 8388608) &&
    colKey (sbOf e.resource.index) (chOf e.resource.index) == colKey (sbOf p) (chOf p)).length

/-- A column that meets the threshold of R364 is retired, or is a candidate. -/
def retireWorn (p : Nat) (s : State) : State :=
  let sb := sbOf p
  let ch := chOf p
  if s.columnRecoveries p < 2 || (s.col sb ch).retired then s
  else if s.host.policy.autoRetire = 1 then
    retireColumn 1 sb ch sb (onFtl (fun t => { t with copyCols := t.copyCols ++ [colKey sb ch] }) s)
  else logEvent 1 2 ⟨4, ch, 0, sb⟩ (onDies' (fun d => { d with candidates := bump32 d.candidates }) s)

/-- A unit recovered at a step is logged, and rewritten in the next recess. -/
def noteRecovered (event : Nat) (x : FRead) (s : State) : State :=
  let s := logEvent event 0 ⟨4, chOf x.pslot, 0, x.pslot⟩ s
  if s.mapOf x.lsn == some (.phys x.pslot) then
    onFtl (fun t => { t with rewriteLsns := insertSet x.lsn t.rewriteLsns }) s
  else s

/-- The buddy's mirror holds an index's units, and is current (R309). -/
def State.mirrorServes (s : State) (lsn : Nat) : Bool :=
  s.isMember && !s.idx.behind && s.isPresent s.buddy && s.idx.live.any fun ix => s.mirrors ix && ix.slots.contains lsn

/-- The key of an own slot in its stripe, where the drive is a Member and the stripe can be rebuilt (R308). -/
def State.plainKeyOf (s : State) (lsn : Nat) : Option Nat :=
  match s.parity? with
  | some (k, m) =>
    if s.isMember then
      let key := slotKey s.members (k + m) s.plain.member lsn
      if (s.planFor s.plain.member key).isSome then some key else none
    else none
  | none => none

/-- Step 4: granules still uncorrectable are delivered poisoned. -/
def deliverPoisoned (x : FRead) (bad : List Nat) (s : State) : State :=
  let gs := insertAll (bad.filter fun g => g < 1024) []
  let s := logEvent 2 0 ⟨4, chOf x.pslot, 0, x.pslot⟩ s
  let s := countPoison (if chOf x.pslot < 16 then 1 else 2) gs.length s
  deliverRead x ⟨x.lsn, s.slotData x.pslot, gs, false⟩ s

/-- The steps of R363 for a read with uncorrectable codewords; `rowLost` slots of its row cannot be read. A stream that did not come is
asked for once more. -/
def recoverRead (x : FRead) (bad : List Nat) (rowLost : Nat) (s : State) : State :=
  let die := if chOf x.pslot < 16 then 1 else 2
  if rowLost ≤ 2 && (s.die die).state != .failed then
    let s := retireWorn x.pslot (noteRecovered 3 x (onDies' (fun d => { d with recoveredRow := bump32 d.recoveredRow }) s))
    decoded x s
  else if s.mirrorServes x.lsn then
    decoded x (noteRecovered 4 x (onDies' (fun d => { d with recoveredMirror := bump32 d.recoveredMirror }) s))
  else match s.plainKeyOf x.lsn with
    | some key =>
      let s := onPlain (fun p => { p with recover := (p.recover.filter fun y => y.2 != x.rid) ++ [(key, x.rid)] }) s
      (startStream key s).2
    | none => deliverPoisoned x bad s

def execReadRecovery (rid : Nat) (bad : List Nat) (rowLost : Nat) (s : State) : Res :=
  .next (match s.read? rid with
    | some x => if s.up && x.stage == .recover then recoverRead x bad rowLost s else s
    | none => s)

/-- A rebuild stream (R308): a slot that a page read waits for recovers it at step 3 of R363. -/
def takeStreamFlit (r : RebuildFlit) (s : State) : State :=
  let (rid, s) := passStream r s
  match rid with
  | none => s
  | some id => match s.read? id with
    | none => s
    | some x =>
      let s := if r.poison.isEmpty then noteRecovered 5 x (onDies' (fun d => { d with recoveredPlain := bump32 d.recoveredPlain }) s) else s
      deliverRead x ⟨x.lsn, r.data, r.poison, false⟩ s

def execRebuildStream (port : Nat) (hd : FlitHdr) (r : RebuildFlit) (s : State) : Res :=
  .next (receiveFor port hd (.rebuild r) (takeStreamFlit r) s)

end Sys2Proof.Machine
end

