-- ==== Sys2Proof/Machine/Bell.lean ====
section
/-! DEFINITION. The bell, its boundaries and the timetable (R63 to R80, R434). -/

namespace Sys2Proof.Machine

def onBell (f : BellSt → BellSt) (s : State) : State := { s with bell := f s.bell }

/-! ### The timetable (R74, R76, R78) -/

/-- SHIFT of R74; a standalone drive takes member number 0. -/
def State.shift (s : State) : Nat :=
  let i := s.img.active
  if i.layout = 1 then ((if s.isMember then s.plain.member else 0) * i.staggerStep) % 1024 else 0

/-- The period of a timetable that a position lies in is recess. -/
def inRecessAt (l : List Period) (pos : Nat) : Bool :=
  (l.foldl (fun (a : Bool) p => if p.start ≤ pos then p.recess else a) false)

/-- The tick that runs lies in a recess period of the timetable in force. -/
def State.recessNow (s : State) : Bool :=
  inRecessAt (s.img.active.timetables.getD s.bell.timetable []) ((s.bell.tick + 1024 - s.shift) % 1024)

/-- A recess period ends: a starvation that was flagged before it began is over (R78). -/
def endRecess (s : State) : State :=
  onBell (fun b =>
    let done := b.recessAfterStarve && b.starved
    { b with
      inRecess := false
      starved := b.starved && !done
      noRecess := if done then 0 else b.noRecess
      recessAfterStarve := false }) s

/-- Firmware replicas that failed are rewritten in recess (R395). -/
def firmwareRecess (s : State) : State :=
  if s.fw.rewrite.isEmpty || s.fw.commit.isSome then s
  else
    let good := (s.fw.replicas.zipIdx.find? fun x => x.1.isSome && !(s.fw.rewrite.contains x.2)).bind Prod.fst
    match good with
    | some _ => { s with fw := { s.fw with
        replicas := s.fw.replicas.zipIdx.map fun x => if s.fw.rewrite.contains x.2 then good else x.1
        rewrite := [] } }
    | none => s

/-- The bell is in service: the drive runs, and not on the recovery controller (R396). -/
def State.bellRuns (s : State) : Bool := s.up && !s.fw.recovery

/-- A recess period begins: background work starts (R75, R76). -/
def startRecess (s : State) : State :=
  let s := onBell (fun b => { b with inRecess := true, hadRecess := true, recessAfterStarve := b.starved }) s
  pump (firmwareRecess (imageRecess (plainRecess (indexRecess (ftlRecess s)))))

def execRecessStart (s : State) : Res :=
  .next (if s.bellRuns && !s.bell.inRecess && s.recessNow then startRecess s else s)

/-- A class period begins: background work goes on only under R77. -/
def execClassStart (s : State) : Res :=
  .next (if s.bellRuns && s.bell.inRecess && !s.recessNow then gcInClass (endRecess s) else s)

/-- 1,024 bells in a row without recess. -/
def execRecessStarved (s : State) : Res :=
  .next (if s.bellRuns && decide (1024 ≤ s.bell.noRecess) && !s.bell.starved then
    vendorEvent 0xC4 (onBell (fun b => { b with starved := true }) s) else s)

/-! ### Timetable selections (R79) -/

/-- Timetable Select on this drive. -/
def selectTimetable (h : Hdr) (tt : Nat) (s : State) : State :=
  if s.img.active.timetables.length ≤ tt then finish h stInvalidField s
  else if s.bell.selected.isSome then finish h stBusy s
  else if s.plainMember then
    let s := onBell (fun b => { b with selected := some ⟨tt, b.count + 4, b.count, s.plain.member, some h⟩ }) (begin' h .admin s)
    (s.others.filter s.isPresent).foldl (fun s m => sendTo m 0 (.timetable tt s.bell.count.toNat) s) s
  else finish h stOk (onBell (fun b => { b with selected := some ⟨tt, b.count + 1, b.count, 0xFF, none⟩ }) s)

def execTimetableSelect (h : Hdr) (sv : Bool) (tt : Nat) (s : State) : Res := .next (admitSet h sv (selectTimetable h tt) s)

/-- A selection of another member: of two in the same bell, the lower-numbered member's wins. -/
def takeSelection (m tt bell : Nat) (s : State) : State :=
  let new : Selection := ⟨tt, BitVec.ofNat 48 bell + 4, BitVec.ofNat 48 bell, m, none⟩
  if !s.plainMember || decide (s.img.active.timetables.length ≤ tt) then s
  else match s.bell.selected with
    | none => onBell (fun b => { b with selected := some new }) s
    | some x =>
      if x.bell = new.bell ∧ m < x.member then
        let s := onBell (fun b => { b with selected := some new }) s
        match x.hdr with
        | some h => finish h stBusy s
        | none => s
      else s

def execTimetableSelectionMessage (port : Nat) (hd : FlitHdr) (tt bell : Nat) (s : State) : Res :=
  .next (receiveFor port hd (.timetable tt bell) (takeSelection hd.src.toNat tt bell) s)

/-- At a boundary the switch bell of an own selection is fixed, and a selection that is due takes effect (R80 step 4). -/
def selectionBoundary (s : State) : State :=
  match s.bell.selected with
  | none => s
  | some x =>
    let s := match x.hdr with
      | some h => finish h stOk (onBell (fun b => { b with selected := some { x with hdr := none } }) s)
      | none => s
    if bellsFrom x.at' s.bell.count < 2 ^ 47 then onBell (fun b => { b with timetable := x.tt, selected := none }) s else s

/-! ### Boundaries (R65, R72, R80) -/

/-- The bell count that a boundary begins: an admitted joiner takes the plain's (R68), and a member that differs from the reference takes
the reference's and counts it (R71). -/
def nextCount (s : State) : BitVec 48 × State :=
  match s.plain.join with
  | some ⟨_, _, _, _, _, _, some (c, _, _)⟩ => (c + 1, { s with plain := { s.plain with join := none } })
  | _ =>
    let r := s.plain.reference
    let p := s.peer r
    if s.isMember && r != s.plain.member && r != 0xFF && p.nextNs.isSome && p.count != s.bell.count then
      (p.count + 1, onBell (fun b => { b with countFixes := bump32 b.countFixes }) s)
    else (s.bell.count + 1, s)

/-- Step 1: the count and the tick, with what is counted by bells. -/
def turnBell (s : State) : State :=
  let (c, s) := nextCount s
  let est := s.estimateNs
  let nom := s.img.active.periodUs * 1000
  let off := decide (nom < 20 * (if est < nom then nom - est else est - nom))
  let s := onBell (fun b => { b with
    count := c
    tick := 0
    held := 0
    earlyEdge := false
    offRun := if off then b.offRun + 1 else 0
    inRun := if off then 0 else b.inRun + 1
    noRecess := if b.hadRecess then 0 else b.noRecess + 1
    hadRecess := false
    classGc := false }) s
  let s := onFtl (fun t => { t with
    ckptAge := t.ckptAge + 1
    patrolBells := t.patrolBells + 1
    staging := t.staging.map fun r => if r.isMap then r else { r with ready := true } }) s
  { s with eng := { s.eng with idleBells := (List.range 2).map fun i =>
    if (s.sched.runs.any fun r => r.engines.any fun e => engineDie e == 3 + i) then 0 else s.eng.idleBells.getD i 0 + 1 } }

/-- Step 2: the time stamp and the bell flit. -/
def stampBell (b : Boundary) (s : State) : State :=
  let now := s.bell.boundNs + b.elapsedNs
  sendBell (onBell (fun x => { x with
    stamp := b.ptm.getD now
    ptmValid := b.ptm.isSome
    localNs := now
    boundNs := now }) s)

/-- Changes of features that take effect at the boundary (R105), unless an activation has discarded them. -/
def applyFeatures (s : State) : State :=
  onHost (fun t => { t with
    envelopeW := t.envelopeNext.getD t.envelopeW
    envelopeNext := none
    policy := t.policyNext.getD t.policy
    policyNext := none
    queryDef := t.queryDefNext.getD t.queryDef
    queryDefNext := none }) s

/-- The entry of the bell history (R83). -/
def recordBell (b : Boundary) (ticks source : Nat) (s : State) : State :=
  let phase : Int := if !s.isMember || s.plain.reference == s.plain.member || s.plain.reference == 0xFF then 0 else b.phaseNs
  onBell (fun x => { x with history := (⟨x.count, x.stamp, b.elapsedNs, phase, ticks, source, x.timetable⟩ :: x.history).take 256 }) s

/-- A drive that follows a plain without another reference member runs free, and keeps the phase it holds (R70). -/
def checkFollowing (s : State) : State :=
  if s.bell.mode == .following && (s.plain.reference == 0xFF || s.plain.reference == s.plain.member) then
    onBell (fun b => { b with mode := .freeRunning, slots := List.replicate 8 (s.img.active.periodUs * 1000) }) s
  else s

/-- The recess period at the start of a bell: one that ended with the last bell, or one that runs on (R78). -/
def carryRecess (s : State) : State :=
  if s.bell.inRecess then
    if s.recessNow then onBell (fun b => { b with hadRecess := true }) s else gcInClass (endRecess s)
  else s

/-- A bell boundary: the steps of R80 in order. -/
def boundary (source ticks : Nat) (b : Boundary) (s : State) : State :=
  let s := stampBell b (turnBell s)
  let s := selectionBoundary (applyFeatures (activationBoundary s))
  let s := countWaits (recordBell b ticks source s)
  let s := trainBoundary (publishDue (s.idx.queue.length + 1) s)
  pump (carryRecess (checkFollowing (plainBoundary s)))

/-- Ticks that the bell has run: 1,024 when it is stretched (R67, R83). -/
def State.ticksRun (s : State) : Nat := if 0 < s.bell.held then 1024 else s.bell.tick

/-! ### Edges (R64 to R66, R69 to R71, R434) -/

def glitch (s : State) : State := onBell (fun b => { b with glitches := bump32 b.glitches }) s

/-- The edge window is open (R64). -/
def State.windowOpen (s : State) : Bool := decide (512 ≤ s.bell.tick ∧ s.bell.held ≤ 64)

/-- The reference member's next boundary as predicted, for a member other than the reference. -/
def State.refNext (s : State) : Option Nat :=
  if s.isMember && s.plain.reference != s.plain.member && s.plain.reference != 0xFF then (s.peer s.plain.reference).nextNs else none

/-- One tick in ns. -/
def State.tickNs (s : State) : Nat := s.estimateNs / 1024

/-- An accepted edge in Locked: it ends the bell, unless it comes more than 2 ticks before the reference's boundary (R71). A bell between two
accepted edges gives a sample (R434). -/
def acceptEdge (b : Boundary) (s : State) : State :=
  let now := s.bell.boundNs + b.elapsedNs
  let tooEarly : Bool := match s.refNext with
    | some n => decide (now + 2 * s.tickNs < n)
    | none => false
  let s := onBell (fun x => { x with lastEdgeNs := now }) s
  if tooEarly then onBell (fun x => { x with earlyEdge := true }) s
  else
    let ticks := s.ticksRun
    let s := if s.bell.fromEdge then onBell (fun x => { x with slots := b.elapsedNs :: x.slots.take 7 }) s else s
    boundary 0 ticks b (onBell (fun x => { x with fromEdge := true, clampRun := 0 }) s)

/-- An edge that locks a free-running drive. -/
def lockEdge (b : Boundary) (s : State) : State :=
  let ticks := s.ticksRun
  let s := onBell (fun x => { x with
    mode := .locked
    lost := false
    slots := List.replicate 8 (s.img.active.periodUs * 1000)
    lastEdgeNs := x.boundNs + b.elapsedNs
    fromEdge := true
    clampRun := 0 }) s
  boundary 0 ticks b (renewReference s)

/-- An own edge while the drive follows the plain: it is held against the reference's boundary, one a bell (R70). -/
def watchEdge (b : Boundary) (s : State) : State :=
  let near := decide (b.phaseNs.natAbs ≤ s.tickNs)
  onBell (fun x => { x with
    fromEdge := true
    nearRun := if near then x.nearRun + 1 else 0
    lastEdgeNs := x.boundNs + b.elapsedNs }) s

/-- BELL_EDGE. -/
def bellEdge (highNs : Nat) (b : Boundary) (s : State) : State :=
  if highNs < 1000 then glitch s
  else match s.bell.mode with
    | .locked => if s.windowOpen && !s.bell.earlyEdge then acceptEdge b s else glitch s
    | .freeRunning => lockEdge b s
    | .following => watchEdge b s

def execBellEdge (highNs : Nat) (b : Boundary) (s : State) : Res := .next (if s.bellRuns then bellEdge highNs b s else s)

/-- The edge window closes with no accepted edge (R66). -/
def execMissedEdge (b : Boundary) (s : State) : Res :=
  .next (if s.bellRuns && s.bell.mode == .locked && decide (65 ≤ s.bell.held) then
      boundary 1 1024 b (onBell (fun x => { x with fromEdge := false, clampRun := 0, missed := bump32 x.missed }) s)
    else s)

/-- A boundary of the drive's own clock (R69). -/
def execFreeRunningBoundary (b : Boundary) (s : State) : Res :=
  .next (if s.bellRuns && s.bell.mode == .freeRunning then
      boundary 2 1024 b (onBell (fun x => { x with fromEdge := false }) s)
    else s)

/-- A boundary at the reference's (R69). A bell without an own edge breaks the run that R70 asks for. -/
def execFollowingPlainBoundary (b : Boundary) (s : State) : Res :=
  .next (if s.bellRuns && s.bell.mode == .following then
      boundary 3 1024 b (onBell (fun x => { x with fromEdge := false, nearRun := if x.fromEdge then x.nearRun else 0 }) s)
    else s)

/-- Three nominal periods with no accepted edge (R70). -/
def State.edgeLate (s : State) : Bool := decide (s.bell.lastEdgeNs + 3000 * s.img.active.periodUs ≤ s.bell.localNs)

/-- BELL_LOST becomes set; a Locked drive runs free, or follows the reference member where one is present. -/
def loseBell (s : State) : State :=
  let other := s.isMember && s.plain.reference != 0xFF
  let s := if s.bell.lost then s
    else vendorEvent 0xC4 (onBell (fun b => { b with lost := true, lossEvents := bump32 b.lossEvents }) s)
  if s.bell.mode != .locked then s
  else
    let s := renewReference (onBell (fun b => { b with mode := .following, fromEdge := false, nearRun := 0 }) s)
    if other && s.plain.reference != s.plain.member then s
    else onBell (fun b => { b with mode := .freeRunning, slots := List.replicate 8 (s.img.active.periodUs * 1000) }) s

def execBellLost (s : State) : Res :=
  .next (if s.bellRuns && s.edgeLate && (s.bell.mode == .locked || (s.bell.mode == .freeRunning && !s.bell.lost)) then loseBell s else s)

/-- A member makes its boundary itself: 2 ticks before the reference's for an edge that came too early, or 2 ticks after it (R71). -/
def clampDue (b : Boundary) (s : State) : Bool :=
  let now := s.bell.boundNs + b.elapsedNs
  match s.refNext with
  | some n => (s.bell.earlyEdge && decide (n ≤ now + 2 * s.tickNs)) || decide (n + 2 * s.tickNs ≤ now)
  | none => false

def execPhaseClamp (b : Boundary) (s : State) : Res :=
  .next (if s.bellRuns && s.bell.mode == .locked && clampDue b s then
      boundary 1 s.ticksRun b (onBell (fun x => { x with
        fromEdge := false, phaseClamps := bump32 x.phaseClamps, clampRun := x.clampRun + 1 }) s)
    else s)

/-- Clamps in 3 bells in a row: the member follows the reference (R70, R71). -/
def execPhaseFault (s : State) : Res :=
  .next (if s.bellRuns && s.bell.mode == .locked && decide (3 ≤ s.bell.clampRun) then
      let s := onBell (fun b => { b with
        mode := .following
        phaseFault := true
        phaseFaults := if b.phaseFault then b.phaseFaults else bump32 b.phaseFaults
        clampRun := 0
        fromEdge := false
        nearRun := 0 }) (if s.bell.phaseFault then s else vendorEvent 0xC4 s)
      renewReference s
    else s)

/-- Own edges near the reference's boundary in 8 bells in a row (R70). -/
def execRelockFromFollowing (s : State) : Res :=
  .next (if s.bellRuns && s.bell.mode == .following && decide (8 ≤ s.bell.nearRun) then
      renewReference (onBell (fun b => { b with
        mode := .locked
        lost := false
        phaseFault := false
        slots := List.replicate 8 (s.img.active.periodUs * 1000)
        fromEdge := false
        clampRun := 0
        nearRun := 0 }) s)
    else s)

/-- The estimate has been off nominal, or within 5 % of it, for 8 bells (R73). -/
def execOffNominal (s : State) : Res :=
  .next (if !s.bellRuns then s
    else if decide (8 ≤ s.bell.offRun) && !s.bell.offNominal then vendorEvent 0xC4 (onBell (fun b => { b with offNominal := true }) s)
    else if decide (8 ≤ s.bell.inRun) && s.bell.offNominal then onBell (fun b => { b with offNominal := false }) s
    else s)

end Sys2Proof.Machine
end

