-- ==== Sys2Proof/Machine/Security.lean ====
section
/-! DEFINITION. Firmware updates, Maintenance Unlock, SPDM, FRU data, Device Self-test, Format NVM and Sanitize (R89, R394, R398 to R408,
R417). -/

namespace Sys2Proof.Machine

/-! ### Firmware (R14, R394, R395) -/

/-- ASCII bytes of a string. -/
def ascii (t : String) : Blob := Blob.ofBytes (t.toList.map fun c => BitVec.ofNat 8 c.toNat)

/-- Two decimal digits. -/
def digits2 (n : Nat) : List Byte := [BitVec.ofNat 8 (48 + n / 10 % 10), BitVec.ofNat 8 (48 + n % 10)]

/-- FR: `VQ2.mm.pp` cut to the eight bytes of its field, or `RECOVERY` (R396). -/
def State.fr (s : State) : Blob :=
  if s.fw.recovery then ascii "RECOVERY"
  else ((ascii "VQ2.").append (Blob.ofBytes (digits2 s.fw.minor ++ 0x2E#8 :: digits2 s.fw.patch))).fit 8

/-- The model number (R2). -/
def modelNumber : Blob := if Config.isL240 then ascii "Harnos VQA-240-L" else ascii "Harnos VQA-120-L"

/-- DIGEST of a firmware image. -/
def FwImage.digest (i : FwImage) : BitVec 256 := (Config.fwParse i.bytes).2.2.2.2.2

/-- A firmware image as the drive reads its bytes. -/
def fwImageOf (b : Blob) : FwImage :=
  let x := Config.fwParse b
  ⟨b, x.1, x.2.1, x.2.2.1⟩

/-- The Harnos signature verifies (R399), and the major version is that of R14 (R15). -/
def FwImage.verifies (i : FwImage) : Bool :=
  let x := Config.fwParse i.bytes
  ecdsaOk Config.harnosKey.1 Config.harnosKey.2 x.2.2.2.1 x.2.2.2.2.1 i.digest && i.major == 2

/-- The newest firmware commit record: its SEQ and DIGEST (R356). -/
def NorSt.fwRecord (n : NorSt) : Option (BitVec 256) :=
  (newestRec (n.journal.filter fun r => r.kind == 4)).map fun r => BitVec.ofNat 256 (r.payload.be 4 32)

/-- Bytes that may be staged. -/
def fwLimit : Nat := 67108864

/-- Firmware Image Download: a piece of whole 4 KiB units, at an offset in bytes. -/
def downloadCore (h : Hdr) (ofst : Nat) (data : Blob) (s : State) : State :=
  if s.fw.commit.isSome then finish h stSequence s
  else if data.len = 0 ∨ data.len % 4096 ≠ 0 ∨ ofst % 4096 ≠ 0 ∨ fwLimit < ofst + data.len then finish h stInvalidField s
  else
    let old := s.fw.staged
    let image := (old.fit (max old.len (ofst + data.len))).overlaid ofst data
    finish h stOk { s with fw := { s.fw with
      staged := image
      pieces := insertAll (spanList (ofst / 4096) (data.len / 4096)) s.fw.pieces } }

def execFirmwareImageDownload (h : Hdr) (ofst : Nat) (data : Blob) (s : State) : Res :=
  .next (admitAdmin h 0x11 (downloadCore h ofst data) s)

/-- Firmware Commit: refused while one runs; FS 0 and 1 name slot 1. -/
def admitCommit (h : Hdr) (fs : Nat) (k : State → State) (s : State) : State :=
  admitAdmin h 0x10 (fun s =>
    if s.fw.commit.isSome then finish h stSequence s
    else if 1 < fs then finish h stFwSlot s
    else k s) s

/-- The staged image is whole, and verifies. -/
def State.stagedFirmware (s : State) : Option FwImage :=
  let i := fwImageOf s.fw.staged
  if decide (0 < s.fw.staged.len) && s.fw.pieces.length * 4096 == s.fw.staged.len && i.verifies then some i else none

/-- CA 000b and 001b. -/
def replaceCore (h : Hdr) (ca : Nat) (s : State) : State :=
  match s.stagedFirmware with
  | none => finish h stFwImage s
  | some i => begin' h .admin { s with fw := { s.fw with commit := some ⟨some h, ca, i⟩ } }

def execFirmwareCommitReplace (h : Hdr) (ca fs : Nat) (s : State) : Res := .next (admitCommit h fs (replaceCore h ca) s)

/-- CA 010b. -/
def execFirmwareCommitNoAction (h : Hdr) (fs : Nat) (s : State) : Res := .next (admitCommit h fs (finish h stFwSubsystemReset) s)

/-- CA 011b to 111b. -/
def execFirmwareCommitRefused (h : Hdr) (_ca fs : Nat) (s : State) : Res := .next (admitCommit h fs (finish h stInvalidField) s)

/-- VERSION of a commit record: major, minor and patch, from the lowest byte up. -/
def FwImage.version (i : FwImage) : Nat := i.patch % 256 + 256 * (i.minor % 256) + 65536 * (i.major % 256)

/-- A firmware commit record (KIND 04h). -/
def recordFirmware (i : FwImage) (s : State) : State :=
  (norRecord 4 (Blob.concat [fld 4 i.version, Blob.ofBytes (beBytes 32 i.digest.toNat)]) [] s).2

/-- The four replicas and the record are programmed; the command completes. -/
def endFirmwareCommit (c : FwCommit) (s : State) : State :=
  let s := recordFirmware c.image { s with fw := { s.fw with
    replicas := List.replicate 4 (some c.image)
    commit := none
    rewrite := [] } }
  match c.hdr with
  | some h => finish h (if c.ca = 1 ∧ !s.fw.recovery then stFwSubsystemReset else stOk) s
  | none => s

/-! ### Maintenance Unlock (R349, R400, R401) -/

/-- The reason to reject a token, by the order of R401; none where it passes. -/
def State.tokenFault (s : State) (t : Blob) : Option Nat :=
  let x := t.be 0x30 32
  let y := t.be 0x50 32
  if !(decide (s.sec.rejects < 8) || decide (1024 ≤ bellsFrom s.sec.lastRejectBell s.bell.count)) then some 6
  else if !(t.take 0 4 == [0x56#8, 0x51#8, 0x4D#8, 0x55#8] && t.le 4 2 == 1 && t.zeroAt 6 2 && t.zeroAt 0x1C 4 && t.zeroAt 0xB0 3920) then some 1
  else if t.take 8 20 != Config.serial then some 2
  else if BitVec.ofNat 128 (t.le 0x20 16) != s.sec.nonce then some 3
  else if s.sec.ownerHash != BitVec.allOnes 256 && keyHash x y != s.sec.ownerHash then some 4
  else if !(ecdsaOk x y (t.be 0x70 32) (t.be 0x90 32) (sha256 (t.take 0 0x30))) then some 5
  else none

/-- The new nonce that every Maintenance Unlock leaves. -/
def newNonce (s : State) : State :=
  let (n, s) := draw s
  { s with sec := { s.sec with nonce := Config.draw128 n } }

def unlockCore (h : Hdr) (data : Blob) (s : State) : State :=
  match s.tokenFault (data.fit 4096) with
  | some r =>
    finishDw h stTokenRejected r (newNonce { s with sec := { s.sec with
      rejects := min 255 (s.sec.rejects + 1)
      lastReject := r
      lastRejectBell := s.bell.count } })
  | none => finish h stOk (newNonce (onNor (fun n => { n with maint := true }) s))

def execMaintenanceUnlock (h : Hdr) (data : Blob) (s : State) : Res := .next (admitAdmin h 0xCA (unlockCore h data) s)

/-! ### SPDM (R398, R402, R403) -/

/-- Sectors 0 to 2 can be read (R352). -/
def NorSt.readable (n : NorSt) (k : Nat) : Bool := (n.sector k).state == .confirmed || (n.sector k).state == .opened

/-- SPDM is reached over DOE or MCTP while the drive runs. -/
def State.spdmServed (s : State) : Bool := s.up && (s.power.mgmt || s.host.link)

/-- An SPDM message of version 1.2. -/
def spdmMsg (code p1 p2 : Nat) (body : Blob) : Blob := (Blob.ofBytes [0x12#8, BitVec.ofNat 8 code, BitVec.ofNat 8 p1, BitVec.ofNat 8 p2]).append body

/-- A request and its response, which both enter the transcript. -/
def spdmAnswer (req resp : Blob) (s : State) : State :=
  respond resp { s with sec := { s.sec with transcript := (s.sec.transcript.append req).append resp } }

/-- ERROR, which leaves the transcript alone. -/
def spdmError (code data : Nat) (s : State) : State := respond (spdmMsg 0x7F code data (Blob.zero 0)) s

/-- A request that asks for a phase of the connection. -/
def spdmIn (p : SpdmPhase) (k : State → State) (s : State) : State :=
  if !s.spdmServed then s
  else if s.sec.spdm == p then k s
  else spdmError 4 0 s

/-- GET_VERSION starts the connection anew; it answers with version 1.2 alone. -/
def execGetVersion (s : State) : Res :=
  .next (if !s.spdmServed then s
    else
      let resp := Blob.ofBytes [0x10#8, 0x04#8, 0#8, 0#8, 0#8, 1#8, 0#8, 0x12#8]
      spdmAnswer (Blob.ofBytes [0x10#8, 0x84#8, 0#8, 0#8]) resp
        { s with sec := { s.sec with spdm := .versioned, transcript := Blob.zero 0 } })

/-- CERT_CAP, CHAL_CAP, and MEAS_CAP with signatures. -/
def spdmCaps : Nat := 0x16

def execGetCapabilities (s : State) : Res :=
  .next (spdmIn .versioned (fun s =>
    let l := Config.spdmLimits
    spdmAnswer (spdmMsg 0xE1 0 0 (Blob.zero 0))
      (spdmMsg 0x61 0 0 (Blob.concat [rsv 1, fld 1 l.1, rsv 2, fld 4 spdmCaps, fld 4 l.2.1, fld 4 l.2.2]))
      { s with sec := { s.sec with spdm := .capable } }) s)

/-- NEGOTIATE_ALGORITHMS: P-256 and SHA-256 where the requester offers them. -/
def execNegotiateAlgorithms (asym hash : List SpdmAlg) (s : State) : Res :=
  .next (spdmIn .capable (fun s =>
    let a := asym.contains .ecdsaP256
    let b := hash.contains .sha256
    let sel := Blob.concat [fld 4 (if a then 0x10 else 0), fld 4 (if b then 1 else 0)]
    spdmAnswer (spdmMsg 0xE3 0 0 sel)
      (spdmMsg 0x63 0 0 (Blob.concat [fld 2 36, fld 1 1, rsv 1, fld 4 2, sel, rsv 16]))
      (if a && b then { s with sec := { s.sec with spdm := .negotiated } } else s)) s)

/-- SHA-256 of the certificate chain of slot 0. -/
def chainDigest : Blob := digestBytes (sha256 Config.certChain.bytes)

def execGetDigests (s : State) : Res :=
  .next (spdmIn .negotiated (fun s =>
    if !(s.nor.readable 0) then spdmError 5 0 s
    else spdmAnswer (spdmMsg 0x81 0 0 (Blob.zero 0)) (spdmMsg 0x01 0 1 chainDigest) s) s)

/-- GET_CERTIFICATE: slots 1 to 7 are empty. -/
def execGetCertificate (slot ofst len : Nat) (s : State) : Res :=
  .next (spdmIn .negotiated (fun s =>
    if !(s.nor.readable 0) then spdmError 5 0 (degradeReliability s)
    else if slot ≠ 0 ∨ Config.certChain.len ≤ ofst then spdmError 1 0 s
    else
      let n := min len (Config.certChain.len - ofst)
      spdmAnswer (spdmMsg 0x82 slot 0 (Blob.concat [fld 2 ofst, fld 2 len]))
        (spdmMsg 0x02 slot 0 (Blob.concat [fld 2 n, fld 2 (Config.certChain.len - ofst - n), Config.certChain.slice ofst n])) s) s)

/-- A nonce of the drive's own: 32 bytes. -/
def spdmNonce (s : State) : Blob × State :=
  let (a, s) := draw s
  let (b, s) := draw s
  (Blob.concat [fld 16 (Config.draw128 a).toNat, fld 16 (Config.draw128 b).toNat], s)

/-- A response with the identity key's signature over the transcript, the request and the response so far. -/
def spdmSigned (req resp : Blob) (s : State) : State :=
  spdmAnswer req (resp.append ((Config.identitySign ((s.sec.transcript.append req).append resp)).fit 64)) s

def execChallenge (slot : Nat) (nonce : BitVec 256) (s : State) : Res :=
  .next (spdmIn .negotiated (fun s =>
    if !(s.nor.readable 0) then spdmError 5 0 (degradeReliability s)
    else if slot ≠ 0 then spdmError 1 0 s
    else
      let (own, s) := spdmNonce s
      spdmSigned (spdmMsg 0x83 slot 0 (fld 32 nonce.toNat)) (spdmMsg 0x03 slot 1 (Blob.concat [chainDigest, own, fld 2 0])) s) s)

/-- DIGEST of the running firmware: that of the newest commit record, or of the shipped image; zero in recovery. -/
def State.fwDigest (s : State) : BitVec 256 :=
  if s.fw.recovery then 0 else s.nor.fwRecord.getD FwImage.shipped.digest

/-- Measurement 7: classroom, slot and trailer DIGEST of every loaded lesson, in ascending order. -/
def State.lessonsDigest (s : State) : BitVec 256 :=
  let l := sortBy (fun (x y : Lesson) => decide (x.room < y.room ∨ (x.room = y.room ∧ x.slot < y.slot))) s.sched.lessons
  sha256 (Blob.concat (l.map fun x => Blob.concat [fld 1 x.room, fld 1 x.slot, digestBytes x.digest])).bytes

/-- The contents of a measurement block, digest first (R403), with its SPDM value type. -/
def State.measurement (s : State) (i : Nat) : Nat × Blob :=
  let on := s.isMember
  match i with
  | 1 => (0, digestBytes Config.romDigest)
  | 2 => (0x82, (Blob.concat (List.replicate 5 (ascii "B0"))).append (fld 4 Config.fuseState.toNat))
  | 3 => (1, (digestBytes s.fwDigest).append s.fr)
  | 4 => (3, Blob.concat [digestBytes s.img.active.digest, fld 8 s.img.active.imageId.toNat, fld 4 s.img.active.sequence.toNat, fld 1 s.img.source])
  | 5 => (0x83, digestBytes s.sec.ownerHash)
  | 6 => (0x83, Blob.concat [fld 8 s.sec.bootFlags.toNat, fld 1 (bit s.nor.maint)])
  | 7 => (1, digestBytes s.lessonsDigest)
  | _ => (0x83, if on then Blob.concat [fld 8 s.img.active.plain.plainId.toNat, fld 1 s.plain.member, fld 1 s.members]
      else Blob.ofBytes (List.replicate 10 0xFF#8))

/-- A measurement block in the DMTF form. -/
def State.measurementBlock (s : State) (i : Nat) : Blob :=
  let m := s.measurement i
  Blob.concat [fld 1 i, fld 1 1, fld 2 (m.2.len + 3), fld 1 m.1, fld 2 m.2.len, m.2]

/-- The measurement record of a request; none where the index does not exist. -/
def State.measurements (s : State) (block : Nat) : Option (Nat × Nat × Blob) :=
  if block = 0 then some (8, 0, Blob.zero 0)
  else if block = 0xFF then some (0, 8, Blob.concat ((spanList 1 8).map s.measurementBlock))
  else if block ≤ 8 then some (0, 1, s.measurementBlock block)
  else none

def execGetMeasurements (block : Nat) (signed : Bool) (nonce : BitVec 256) (s : State) : Res :=
  .next (spdmIn .negotiated (fun s =>
    match s.measurements block with
    | none => spdmError 1 0 s
    | some m =>
      let (own, s) := spdmNonce s
      let req := spdmMsg 0xE0 (bit signed) block (if signed then fld 32 nonce.toNat else Blob.zero 0)
      let resp := spdmMsg 0x60 m.1 0 (Blob.concat [fld 1 m.2.1, fld 3 m.2.2.len, m.2.2, own, fld 2 0])
      if signed then spdmSigned req resp s else spdmAnswer req resp s) s)

/-- KEY_EXCHANGE, sessions, SET_CERTIFICATE: ERROR (UnsupportedRequest). -/
def execSpdmUnsupportedRequest (code : Nat) (s : State) : Res := .next (if s.spdmServed then spdmError 7 code s else s)

/-! ### FRU data (R417) -/

/-- A field of the FRU format in 8-bit ASCII. -/
def fruField (b : Blob) : Blob := (fld 1 (0xC0 + b.len)).append b

/-- The byte that brings a sum of bytes to zero. -/
def zeroSum (l : List Byte) : Byte := 0#8 - l.foldl (· + ·) 0#8

/-- The 256 bytes: a common header, and a product area with part number, firmware revision and serial number. -/
def State.fruData (s : State) : Blob :=
  let head := [1#8, 0#8, 0#8, 0#8, 1#8, 0#8, 0#8]
  let area := (Blob.concat [fld 1 1, fld 1 8, fld 1 0, fruField (ascii "Harnos"), fruField (Blob.zero 0), fruField (modelNumber.fit 16),
    fruField s.fr, fruField ((Blob.ofBytes Config.serial).fit 20), fruField (Blob.zero 0), fruField (Blob.zero 0), fld 1 0xC1]).fit 63
  (Blob.concat [Blob.ofBytes (head ++ [zeroSum head]), area, Blob.ofBytes [zeroSum area.bytes]]).fit 256

def execFruRead (ofst len : Nat) (s : State) : Res :=
  .next (if s.power.mgmt then respond (s.fruData.slice ofst (min len (256 - ofst))) s else s)

/-! ### Device Self-test (R89) -/

/-- A self-test runs at once; its result is open, since the manual states none (log 7). -/
def selfTestCore (h : Hdr) (stc : Nat) (s : State) : State :=
  if stc = 1 ∨ stc = 2 then
    let r := (Config.freeByte s.free).toNat % 16
    finish h stOk (onHost (fun (t : HostSt) => { t with selfTests := ((stc, r) :: t.selfTests).take 20 }) { s with free := s.free + 1 })
  else if stc = 15 then finish h stOk s
  else finish h stInvalidField s

def execDeviceSelfTest (h : Hdr) (stc : Nat) (s : State) : Res := .next (admitAdmin h 0x14 (selfTestCore h stc) s)

/-! ### Format NVM (R407) -/

/-- One namespace formatted: its units unmapped, and with a crypto erase a new key pair. -/
def formatNs (crypto : Bool) (n : Ns) (s : State) : State :=
  let s := markStaleSegs n.nsid 0 n.lbas (dropDefers n.nsid (unmapNs n s))
  if crypto then newKey n.nsid s else s

def formatCore (h : Hdr) (nsid ses : Nat) (s : State) : State :=
  if 2 < ses then finish h stInvalidField s
  else
    let l := if nsid = 0xFFFFFFFF then s.ns.list else s.ns.list.filter fun n => n.nsid == nsid
    if l.isEmpty && nsid != 0xFFFFFFFF then finish h (if 65 ≤ nsid ∧ nsid ≤ 74 then stInvalidField else stInvalidNs) s
    else finish h stOk (sendTable (l.foldl (fun s n => formatNs (ses != 0) n s) s))

def execFormatNvm (h : Hdr) (nsid ses : Nat) (s : State) : Res := .next (admitAdmin h 0x80 (formatCore h nsid ses) s)

/-! ### Sanitize (R406) -/

/-- Commands of I/O queues that have not completed. -/
def State.ioOuts (s : State) : List (Nat × Nat) :=
  (((s.host.outs.filter fun o => o.sq != 0).map fun o => (o.sq, o.cid)) ++
   ((s.host.held.filter fun c => c.hdr.sq != 0).map fun c => (c.hdr.sq, c.hdr.cid))).eraseDups

/-- Every I/O command ends with Sanitize In Progress. -/
def endForSanitize (s : State) : State :=
  let ended := s.ioOuts
  let s := stopWork (fun h => h.sq != 0) s
  let s := closeJobs (fun k => match k with
    | .write _ _ _ _ _ | .copy _ _ | .patrol _ => true
    | _ => false) s
  let s := onHost (fun (t : HostSt) => { t with held := t.held.filter fun c => c.hdr.sq == 0 }) (onFtl (fun t => { t with writes := [] }) s)
  ended.foldl (fun s x => post x.1 x.2 stSanitizing 0 (Blob.zero 0) s) s

/-- A crypto erase of the drive: keys, map, indexes and deferred ranges. -/
def cryptoErase (s : State) : State :=
  let s := s.ns.list.foldl (fun s n => newKey n.nsid (dropDefers n.nsid s)) { s with sec := { s.sec with nsKeys := [], idxKeys := [] } }
  let s := s.ftl.defers.foldl (fun s d => (norRecord 6 (fld 6 d.record) [] s).2) s
  let s := onFtl (fun t => { t with
    map := [], buf := [], staging := [], ring := [], defers := [], deferOverflow := false
    copyCols := [], refreshCols := [], rewriteLsns := [] }) s
  let s := onIdx (fun x => { x with live := [], queue := [], waiting := [], dropped := [], building := [] }) s
  writeCheckpoint (onMem (fun m => { m with segs := m.segs.filter fun g => g.kind != .cached }) s)

/-- A sanitize begins, or begins again: the crypto erase is made, and the end is awaited. -/
def beginSanitize (block : Bool) (bell : BitVec 48) (record : Nat) (s : State) : State :=
  cryptoErase { s with sec := { s.sec with sanitize := some ⟨block, bell, record⟩ } }

def sanitizeCore (h : Hdr) (block : Bool) (s : State) : State :=
  if s.plain.own != .standalone || s.activateBusy || s.fw.commit.isSome || !s.train.steps.isEmpty then finish h stSequence s
  else
    let (q, s) := norBlock 5 0x88 (Blob.concat [fld 1 (if block then 2 else 4), rsv 1, fld 6 s.bell.count.toNat]) s
    beginSanitize block s.bell.count q (finish h stOk (endForSanitize s))

def execSanitizeCryptoErase (h : Hdr) (s : State) : Res := .next (admitAdmin h 0x84 (sanitizeCore h false) s)
def execSanitizeBlockErase (h : Hdr) (s : State) : Res := .next (admitAdmin h 0x84 (sanitizeCore h true) s)

/-- Every column that is not retired is erased. -/
def blockErase (s : State) : State :=
  let s := onFtl (fun (t : FtlSt) => { t with
    flash := t.flash.filter fun x => (s.col (sbOf x.1) (chOf x.1)).retired
    sbs := t.sbs.filter fun x => x.2.retired
    opens := []
    progs := []
    reads := []
    jobs := []
    baseErases := t.baseErases + 1
    cols := t.cols.map fun x => if x.2.retired then x
      else (x.1, ⟨x.2.erases + 1, false, false, 0, none, false⟩) }) s
  if s.ftl.exhausted && !(s.freeAtMost s.host.policy.gcLow) then
    let s := onFtl (fun t => { t with exhausted := false }) s
    if (s.die 1).state == .failed || (s.die 2).state == .failed then s else clearCritical 3 s
  else s

/-- The action ends: DONE is set, and commands are served again; after a start, the controller becomes ready. -/
def execSanitizeDone (s : State) : Res :=
  .next (match s.sec.sanitize with
    | none => s
    | some z =>
      if !s.up then s
      else
        let s := writeCheckpoint (if z.block then blockErase s else s)
        let s := norFlag z.record 1 { s with sec := { s.sec with sanitize := none } }
        let s := if s.ftl.exhausted then (norBlock 5 0x87 (Blob.zero 0) s).2 else s
        onHost (fun t => { t with rdy := t.en }) s)

end Sys2Proof.Machine
end

