-- ==== Sys2Proof/Machine/Power.lean ====
section
/-! DEFINITION. Supplies, the hold-up flush, whole-drive resets and start-up, controller resets and shutdown, the throttle and the
temperatures (R43, R84, R87, R354, R377 to R396, R413, R418 to R422). -/

namespace Sys2Proof.Machine

def onPower (f : PowerSt → PowerSt) (s : State) : State := { s with power := f s.power }

/-! ### The flush (R382, R390) -/

/-- Program operations under way end. -/
def endPrograms (s : State) : State := s.ftl.progs.foldl (fun s p => endGroup p.pid [] s) s

/-- Steps 3 to 6 in full: every exposed unit and change unit is programmed, the journal is programmed, and the flush mark closes it. -/
def flushAll (s : State) : State :=
  let s := endPrograms s
  let s := endPrograms (s.ftl.opens.foldl (fun s o => startAll o.sb 768 s) s)
  let s := programJournal (onFtl (fun t => { t with staging := t.staging.map fun r => { r with ready := true } }) s)
  onFtl (fun t => { t with flushMark := true }) s

/-- A flush that does not end: the journal is programmed, each exposed unit and each change that is not published is programmed or not,
which is a free value (log 7), and there is no flush mark. Columns whose group did not commit are closed (R329). -/
def flushPart (s : State) : State :=
  let s := endPrograms s
  let us := s.ftl.buf.filter fun u => !u.committed
  let s := us.zipIdx.foldl (fun s x =>
    if (Config.freeByte (s.free + x.2)).getLsbD 0 then commitUnit x.1 s
    else onCol (sbOf x.1.pslot) (chOf x.1.pslot) (fun c => { c with closed := true }) s) s
  let base := s.free + us.length
  let s := onIdx (fun (x : IdxSt) => { x with queue := (x.queue.zipIdx.filter fun p => (Config.freeByte (base + p.2)).getLsbD 0).map Prod.fst }) s
  onFtl (fun t => { t with ring := t.ring ++ t.staging, staging := [], flushMark := false })
    { s with free := base + s.idx.queue.length }

/-- Step 7: a host program already accepted ends first, and the records that are due are written (R347). -/
def flushNor (s : State) : State :=
  let s := match s.nor.hostOp with
    | some (.word _ _) | some (.flag _ _) => optDone true s
    | _ => s
  onNor (fun n =>
    let n := n.interrupted
    n.later.foldl (fun n w => if n.engineBusy then { n with later := n.later ++ [w] } else n.doWrite w) { n with later := [] }) s

/-- Steps 3 to 7. -/
def flushContent (complete : Bool) (s : State) : State := flushNor (if complete then flushAll s else flushPart s)

/-! ### What a reset of the whole drive leaves (R388) -/

/-- A resident commit that is cut short: how far it came is a free value (R58, log 7). -/
def cutResident (s : State) : State :=
  match s.img.commit with
  | none => s
  | some c =>
    let k := (Config.freeByte s.free).toNat % 6
    let put := fun (i : Nat) (old : Option Blob) =>
      if (i = 0 ∧ 2 ≤ k) ∨ (i = 1 ∧ 3 ≤ k) ∨ (i = 2 ∧ 5 ≤ k) then some c.stream
      else if (i = 0 ∧ k = 1) ∨ (i = 1 ∧ k = 2) ∨ (i = 2 ∧ k = 4) ∨ (i = 3 ∧ k = 5) then none
      else old
    let s := onImg (fun m => { m with commit := none, replicas := m.replicas.zipIdx.map fun x => put x.2 x.1 }) { s with free := s.free + 1 }
    if 4 ≤ k then
      (norRecord 3 (Blob.concat [fld 8 c.image.imageId.toNat, Blob.ofBytes (beBytes 32 c.image.digest.toNat)]) [] s).2
    else s

/-- A Firmware Commit that is cut short in step 1 of R394, likewise. -/
def cutFirmware (s : State) : State :=
  match s.fw.commit with
  | none => s
  | some c =>
    let k := (Config.freeByte s.free).toNat % 9
    { s with
        free := s.free + 1
        fw := { s.fw with
          commit := none
          replicas := s.fw.replicas.zipIdx.map fun x =>
            if x.2 < k / 2 then some c.image else if x.2 = k / 2 ∧ k % 2 = 1 then none else x.1 } }

/-- What DRAM held of flash translation is gone; what flash, checkpoints and the journal hold stays. -/
def coldFtl (t : FtlSt) : FtlSt :=
  { t with
      buf := [], progs := [], jobs := [], reads := [], writes := []
      staging := []
      stats := { FtlStats.reset with retiredColumns := t.stats.retiredColumns, retiredSbs := t.stats.retiredSbs } }

/-- The plain as a drive that starts holds it: Standalone, with parity slots, the stale map, the deltas not acknowledged and the copies of
the others' tables and indexes. -/
def coldPlain (p : PlainSt) : PlainSt :=
  { PlainSt.reset with
      peers := p.peers.map fun x => { Peer.reset with table := x.table, mirror := x.mirror, mirrorBehind := x.mirrorBehind }
      stale := p.stale
      deltas := p.deltas.map fun d => { d with sent := false, recess := true }
      parity := p.parity
      plainKey := p.plainKey
      blocks := p.blocks }

/-- A die at a start. Spare rows used stay used; a failed die stays failed until the next power cycle (R373). In an NVM Subsystem Reset
every die resets with its supply up, so that its generation tag rises (R368, R388, log 31). -/
def coldDie (cycle : Bool) (d : Die) : Die :=
  let x : Die := { Die.reset with degradedSpares := d.degradedSpares, state := if d.degradedSpares then .degraded else .running }
  if cycle then x
  else if d.state == .failed then { x with state := .failed, gen := d.gen }
  else { x with gen := d.gen + 1 }

/-- Spans that retirements have taken from the memory namespaces; those of failed dies are found again at the start. -/
def coldSpans (l : List (Nat × Nat × Nat)) : List (Nat × Nat × Nat) :=
  l.filter fun x => !(x == (73, dieBase 3, dieShare 3) || x == (73, dieBase 4, dieShare 4))

/-- Every die resets. `cycle` is a power cycle; else the supply has stayed. -/
def wholeReset (cycle : Bool) (s : State) : State :=
  let s := cutFirmware (cutResident s)
  let now := if cycle then 0 else s.bell.localNs
  let bell := { BellSt.reset s.img.active.periodUs with localNs := now, boundNs := now, lastEdgeNs := now }
  { s with
      host := { HostSt.reset with
        link := false, perst := s.host.perst, gts := s.host.gts, width := s.host.width
        posted := s.host.posted, msix := s.host.msix, responses := s.host.responses
        errors := s.host.errors, errorCount := s.host.errorCount, selfTests := s.host.selfTests }
      bell := bell
      img := { s.img with staged := [], activation := none, rewrite := [] }
      fw := { s.fw with staged := Blob.zero 0, pieces := [], rewrite := [], recovery := false }
      sec := { s.sec with
        rejects := if cycle then 0 else s.sec.rejects
        lastReject := if cycle then 0 else s.sec.lastReject
        lastRejectBell := 0
        sanitize := none, spdm := .start, transcript := Blob.zero 0 }
      ftl := coldFtl s.ftl
      mem := { MemSt.reset with lostSpans := coldSpans s.mem.lostSpans }
      sched := { SchedSt.reset with sends := s.sched.sends }
      eng := { EngSt.reset with hostWrites := s.eng.hostWrites }
      dies := { DieSt.reset with
        dies := s.dies.dies.map (coldDie cycle)
        nextReq := s.dies.nextReq, log := s.dies.log, logSeq := s.dies.logSeq, logOverflow := s.dies.logOverflow, retired := s.dies.retired }
      power := { PowerSt.reset with
        down := s.power.down, vinMv := s.power.vinMv, vauxMv := s.power.vauxMv, mated := s.power.mated, pwrdis := s.power.pwrdis
        mgmt := s.power.mgmt, strapGnd := s.power.strapGnd, auxSag := s.power.auxSag, bankHot := s.power.bankHot
        holdupMj := s.power.holdupMj, powerLosses := s.power.powerLosses, incompleteFlushes := s.power.incompleteFlushes
        lastFlushUs := s.power.lastFlushUs, lastFlushMj := s.power.lastFlushMj, temps := s.power.temps
        tmtCounts := s.power.tmtCounts, tmtNs := s.power.tmtNs }
      idx := { s.idx with
        queue := s.idx.queue.map fun p => { p with at' := 0 }
        waiting := [], building := [] }
      query := QuerySt.reset
      train := TrainSt.reset
      plain := coldPlain s.plain }

/-! ### Start-up (R389) -/

/-- A sector erased again, with its count raised and its erase records closed (R354). -/
def NorSt.eraseAgain (n : NorSt) (k : Nat) : NorSt :=
  let count := (n.sector k).erases + 1
  let open' := n.journal.filter fun r => r.kind == 2 && r.payload.le 0 1 == k && !(r.has 2)
  let n := open'.foldl (fun n r => n.program (r.blk * 8) (flagValue [2])) n
  let seq := n.nextSeq
  let n := { n with nextSeq := seq + 1 }.append 2 seq (Blob.concat [fld 1 k, fld 3 count]) [1, 2]
  (n.erase k).confirm k count

/-- An unconfirmed sector at start; one of the option area that sector 7 stands for has its rewrite finished (R353). -/
def NorSt.mendSector (n : NorSt) (k : Nat) : NorSt :=
  if n.readFrom k = 7 ∧ k ≠ 7 then
    (((n.eraseAgain k).openSector k 0xFF).copyBlocks k (n.recs 7)).eraseAgain 7
  else n.eraseAgain k

/-- Every unconfirmed sector. -/
def NorSt.restart (n : NorSt) : NorSt :=
  ((n.sectors.filter fun x => x.2.state == .unconfirmed).map Prod.fst).foldl (fun n k =>
    if (n.sector k).state == .unconfirmed then n.mendSector k else n) n.interrupted

/-- Step 3: the option area. -/
def startOptions (s : State) : State :=
  let s := readOptions (onNor NorSt.restart s)
  let s := if s.nor.optPolicy == s.nor.policyRead then s else logEvent 12 0 ⟨0, 0, 0, 6⟩ s
  if s.nor.readable 0 && s.nor.readable 1 && s.nor.readable 2 then s
  else degradeReliability (onPower (fun p => { p with safeTrims := true }) s)

/-- Step 4: the first replica that matches the newest commit record, else the first of major version 2, which is recorded; else the
recovery controller (R395, R396). Replicas hold images that have been verified. -/
def startFirmware (s : State) : State :=
  let hit := fun (i : FwImage) => s.nor.fwRecord == some i.digest
  let run := fun (i : FwImage) (s : State) => { s with fw := { s.fw with
    minor := i.minor
    patch := i.patch
    recovery := false
    rewrite := (s.fw.replicas.zipIdx.filter fun x => !(x.1.any fun y => y.digest == i.digest)).map Prod.snd } }
  match (s.fw.replicas.filterMap id).find? hit with
  | some i => run i s
  | none => match (s.fw.replicas.filterMap id).find? fun i => i.major == 2 with
    | some i => recordFirmware i (run i s)
    | none => { s with fw := { s.fw with recovery := true } }

/-- The bank's usable energy measured (R385, R421). -/
def measureBank (mj : Nat) (s : State) : State :=
  let s := onPower (fun p => { p with holdupMj := mj }) s
  if mj < 1500 then setCritical 4 0 (onPower (fun p => { p with through := true }) s)
  else if s.power.bankHot then s
  else clearCritical 4 (onPower (fun p => { p with through := false }) s)

/-- The EXHAUSTED marker stands: no later block erase has been completed (R334, R351). -/
def NorSt.exhaustedMark (n : NorSt) : Bool :=
  let l := n.recs (n.readFrom 5)
  l.any fun r => r.kind == 0x87 && !(l.any fun q => q.kind == 0x88 && q.has 1 && q.payload.le 0 1 == 2 && r.seq < q.seq)

/-- Half-erased columns are erased again before any superblock opens (R327). -/
def eraseHalf (s : State) : State :=
  (s.ftl.cols.filter fun x => x.2.erasing.isSome).foldl (fun s x =>
    let sb := x.1 / 32
    let ch := x.1 % 32
    let s := match x.2.erasing with
      | some e => norFlag e.record 2 s
      | none => s
    let n := x.2.erases + 2
    let s := (norRecord 1 (Blob.concat [fld 1 (sb % 16), fld 1 ch, fld 2 (1 + sb / 16), fld 4 n]) [1, 2] s).2
    freeSb sb (onFtl (fun t => { t with
      flash := t.flash.filter fun y => !(sbOf y.1 == sb && chOf y.1 == ch)
      stats := { t.stats with halfErased := bump32 t.stats.halfErased } })
      (onCol sb ch (fun c => { c with erases := n, erasing := none, erased := true, reads := 0, closed := false }) s))) s

/-- A map entry whose slot carries it no longer (R383). -/
def State.unheld (s : State) (x : Nat × MapEnt) : Bool :=
  match x.2 with
  | .phys p => match lookupNat s.ftl.flash p with
    | some f => !(f.lsn == x.1 && f.wcount == s.wcountOf x.1)
    | none => true
  | .lost => false

/-- An incomplete flush is found: the ranges lost, LAST_FLUSH_INCOMPLETE, and the read counters raised (R331, R383). -/
def findFlush (s : State) : State :=
  if s.ftl.flushMark then s
  else
    let lost := (s.ftl.map.filter s.unheld).map Prod.fst
    let s := lost.foldl (fun s l => setMap l (some .lost) (s.wcountOf l) true s) s
    let s := recordLosses 3 lost s
    let half := s.host.policy.readRefresh / 2
    let priv := (s.ftl.sbs.filter fun x => x.2.stream == .index).map Prod.fst
    let s := priv.foldl (fun s sb => (List.range 32).foldl (fun s ch => onCol sb ch (fun c => { c with reads := max c.reads half }) s) s) s
    onPower (fun p => { p with lastFlushIncomplete := true, incompleteFlushes := bump32 p.incompleteFlushes }) s

/-- Step 7 for the indexes: every committed change is in force, and versions that nothing uses are given up. -/
def startIndexes (s : State) : State :=
  let old := s.idx.dropped.flatMap Index.slots
  let s := publishDue (s.idx.queue.length + 1) (onIdx (fun x => { x with dropped := [] }) s)
  let gone := s.idx.dropped.flatMap Index.slots
  releaseSlots (old ++ gone) (onIdx (fun x => { x with dropped := [] }) s)

/-- A sanitize that was cut short runs again (R406). -/
def restartSanitize (s : State) : State :=
  match s.nor.sanitizing with
  | some (act, bell, q) => beginSanitize (act == 2) (BitVec.ofNat 48 bell) q s
  | none => s

/-- Steps 3 to 8, with the dies that fail their self-test and the bank's measured energy. -/
def coldStart (failed : List Nat) (mj : Option Nat) (s : State) : State :=
  let s := startFirmware (startOptions (onPower (fun p => { p with down := .up }) s))
  let s := match mj with
    | some e => measureBank e s
    | none => measureBank s.power.holdupMj s
  let again := (List.range 5).filter fun d => (s.die d).state == .failed || failed.contains d
  let s := again.foldl (fun s d => dieFailed d s) s
  let s := if (List.range 5).any fun d => (s.die d).degradedSpares then degradeReliability s else s
  let s := if s.nor.exhaustedMark then setCritical 3 0 (onFtl (fun t => { t with exhausted := true }) s)
    else onFtl (fun t => { t with exhausted := false }) s
  if !s.up then s
  else
    let s := startIndexes (findFlush (eraseHalf s))
    if s.fw.recovery then putImage s.romImage (Blob.zero 0) 0 s
    else restartSanitize (startImage s)

/-- POWER_ON: 12 V has qualified on a mated drive with PWRDIS low. PERST# is still asserted (R392). -/
def execPowerOn (mv holdupMj : Nat) (failedDies : List Nat) (s : State) : Res :=
  .next (if s.power.down == .noPower && s.power.mated && !s.power.pwrdis && decide (11200 < mv ∧ mv ≤ 14500) then
      let s := onPower (fun p => { p with vinMv := mv }) s
      coldStart failedDies (some holdupMj) { s with host := { s.host with perst := true } }
    else s)

/-! ### Losing power (R377, R379, R382 to R384, R392, R393, R413) -/

/-- The flush of R382, and the reset of its step 8. A drive that is held down has nothing to flush. -/
def powerLoss (f : FlushCost) (s : State) : State :=
  match s.power.down with
  | .noPower => s
  | .hot => onPower (fun p => { p with down := .noPower }) (wholeReset true s)
  | .hubFailed => onPower (fun p => { p with down := .noPower, mgmt := decide (3050 ≤ p.vauxMv) }) (wholeReset true s)
  | .up =>
    let s := flushContent f.complete (controllerReset s)
    onPower (fun p => { p with
      down := .noPower
      powerLosses := bump32 p.powerLosses
      lastFlushUs := f.us
      lastFlushMj := f.mj }) (wholeReset true s)

/-- POWER_LOSS. -/
def execPowerLoss (mv : Nat) (f : FlushCost) (s : State) : Res :=
  .next (if mv < 9600 then powerLoss f (onPower (fun p => { p with vinMv := mv }) s) else s)

/-- REMOVAL: MATE_DET open for 1 µs. -/
def execRemoval (openNs : Nat) (f : FlushCost) (s : State) : Res :=
  .next (if s.power.mated && decide (1000 ≤ openNs) then powerLoss f (onPower (fun p => { p with mated := false }) s) else s)

/-- PWRDIS_RAISED. -/
def execPwrdisRaised (f : FlushCost) (s : State) : Res := .next (powerLoss f (onPower (fun p => { p with pwrdis := true }) s))

/-- PWRDIS_LOWERED; start-up follows as POWER_ON. -/
def execPwrdisLowered (s : State) : Res := .next (onPower (fun p => { p with pwrdis := false }) s)

/-- MATE_DETECT_CLOSE; start-up follows as POWER_ON. -/
def execMateDetectClose (s : State) : Res := .next (onPower (fun p => { p with mated := true }) s)

/-- INPUT_OVERVOLTAGE: the hot-swap controller opens the input. -/
def execInputOvervoltage (mv : Nat) (f : FlushCost) (s : State) : Res :=
  .next (if 14500 < mv then powerLoss f (onPower (fun p => { p with vinMv := mv }) s) else s)

/-! ### Sag and 3.3 V aux (R379, R380, R417) -/

/-- Deepest step of each stage (R387): 5 % of the array clock to ARRAY_FLOOR, 10 % of the media clock to 25 %, 10 % of channel time
to 50 %. -/
def State.floors (s : State) : List Nat := [ceilDiv (100 - s.img.active.arrayFloor) 5, 8, 5]

/-- The array clock at its floor. -/
def arrayToFloor (s : State) : State := onPower (fun p => { p with powerSteps := modifyAt p.powerSteps 0 fun _ => s.floors.getD 0 0 }) s

/-- SAG_WARNING. -/
def execSagWarning (mv : Nat) (s : State) : Res :=
  .next (if s.up && decide (mv < 10800) then
      let s := onPower (fun p => { p with vinMv := mv, supplySag := true, sagEvents := bump32 p.sagEvents }) s
      arrayToFloor (vendorEvent 0xC0 { s with host := { s.host with msix := s.host.msix ++ [0] } })
    else s)

/-- SAG_CLEAR. -/
def execSagClear (mv : Nat) (s : State) : Res :=
  .next (if s.up && s.power.supplySag && decide (11200 ≤ mv) then onPower (fun p => { p with vinMv := mv, supplySag := false }) s else s)

/-- AUX_WARNING. -/
def execAuxWarning (mv : Nat) (s : State) : Res :=
  .next (if mv < 3050 then
      let new := s.up && !s.power.auxSag
      let s := onPower (fun p => { p with vauxMv := mv, auxSag := true }) s
      if new then vendorEvent 0xC0 s else s
    else s)

/-- AUX_RESET. -/
def execAuxReset (mv : Nat) (s : State) : Res :=
  .next (if mv < 2900 then onPower (fun p => { p with vauxMv := mv, mgmt := false }) s else s)

/-- AUX_RETURN; a drive whose hub has failed keeps SMBus released (R373). -/
def execAuxReturn (mv : Nat) (strapGnd : Bool) (s : State) : Res :=
  .next (if 3050 ≤ mv then onPower (fun p => { p with vauxMv := mv, auxSag := false, mgmt := p.down != .hubFailed, strapGnd := strapGnd }) s
    else s)

/-! ### The envelope and the throttle (R386, R387) -/

/-- The cap in force, W. -/
def State.capW (s : State) : Nat :=
  match s.host.powerState with
  | 0 => s.host.envelopeW
  | 1 => min 100 s.host.envelopeW
  | _ => 80

/-- The mean input power of the last 10 ms, in 0.1 W. -/
def State.meanDw (s : State) : Nat := s.power.samples.foldl (· + ·) 0 / max 1 s.power.samples.length

/-- POWER_SAMPLE: one in 10 µs, so that 1,000 make the mean, and a sample in 0.1 W is as many µJ. -/
def execPowerSample (dw : Nat) (s : State) : Res :=
  .next (if !s.up then s
    else
      let s := onPower (fun p => { p with samples := (dw :: p.samples).take 1000, energyUj := p.energyUj + dw }) s
      let below := decide (s.meanDw + 50 < 10 * s.capW)
      let s := onPower (fun p => { p with belowRun := if below then p.belowRun + 1 else 0 }) s
      if 1650 < dw then arrayToFloor (onPower (fun p => { p with peakLimits := bump32 p.peakLimits }) s) else s)

/-- One step down in an order of stages; none where every stage is at its floor. -/
def stepDown (floors depths order : List Nat) : Option (List Nat) :=
  (order.find? fun i => decide (depths.getD i 0 < floors.getD i 0)).map fun i => modifyAt depths i (· + 1)

/-- One step undone, in reverse order. -/
def stepUp (depths order : List Nat) : List Nat :=
  match order.reverse.find? fun i => decide (0 < depths.getD i 0) with
  | some i => modifyAt depths i (· - 1)
  | none => depths

/-- The power throttle. -/
def powerStep (s : State) : State :=
  if 10 * s.capW < s.meanDw then
    match stepDown s.floors s.power.powerSteps [0, 1, 2] with
    | some d => onPower (fun p => { p with powerSteps := d }) s
    | none =>
      if s.power.envelopeExceeded then s
      else vendorEvent 0xC0 (onPower (fun p => { p with envelopeExceeded := true }) s)
  else
    let s := onPower (fun p => { p with envelopeExceeded := false }) s
    if decide (1000 ≤ s.power.belowRun) && !s.power.supplySag then
      onPower (fun p => { p with powerSteps := stepUp p.powerSteps [0, 1, 2] }) s
    else s

/-! ### Temperatures (R420 to R422) -/

/-- Throttle, heavy and critical point of a sensor; none for the bank. -/
def sensorPoints : Sensor → Option (Nat × Nat × Nat)
  | .die _ => some (100, 105, 115)
  | .nand _ => some (70, 75, 85)
  | .dram _ => some (90, 95, 105)
  | .bank => none

/-- Some sensor's reading and points meet a test. -/
def anySensor (l : List (Sensor × Nat)) (f : Sensor → Nat → Nat × Nat × Nat → Bool) : Bool :=
  l.any fun x => match sensorPoints x.1 with
    | some p => f x.1 x.2 p
    | none => false

/-- At or above a throttle point; at or above a heavy point. -/
def lightHot (l : List (Sensor × Nat)) : Bool := anySensor l fun _ t p => decide (p.1 ≤ t)
def heavyHot (l : List (Sensor × Nat)) : Bool := anySensor l fun _ t p => decide (p.2.1 ≤ t)

/-- The thermal throttle: NAND sensors alone take stage 3 first. -/
def thermalStep (s : State) : State :=
  let l := s.power.temps
  if lightHot l then
    let other := anySensor l fun n t p => decide (p.1 ≤ t) && (match n with
      | .nand _ => false
      | _ => true)
    match stepDown s.floors s.power.thermalSteps (if other then [0, 1, 2] else [2, 0, 1]) with
    | some d => onPower (fun p => { p with thermalSteps := d }) s
    | none => s
  else if anySensor l fun _ t p => decide (p.1 < t + 2) then s
  else onPower (fun p => { p with thermalSteps := stepUp p.thermalSteps [0, 1, 2] }) s

/-- THROTTLE_STEP, every 100 µs. -/
def execThrottleStep (s : State) : Res := .next (if s.up then thermalStep (powerStep s) else s)

/-- The deeper of the two throttles at each stage. -/
def State.depths (s : State) : List Nat := [0, 1, 2].map fun i => max (s.power.powerSteps.getD i 0) (s.power.thermalSteps.getD i 0)

/-- Array and media clocks and the flash share, %. -/
def State.arrayClock (s : State) : Nat :=
  if s.power.safeTrims then s.img.active.arrayFloor else max s.img.active.arrayFloor (100 - 5 * s.depths.getD 0 0)
def State.mediaClock (s : State) : Nat := max 25 (100 - 10 * s.depths.getD 1 0)
def State.flashShare (s : State) : Nat := max 50 (100 - 10 * s.depths.getD 2 0)

/-- The deepest stage that acts; 0 none. -/
def State.stage (s : State) : Nat := ([1, 2, 3].filter fun i => decide (0 < s.depths.getD (i - 1) 0)).foldl max 0

/-- Steps 2 to 7 of R382 on main power, and a reset in which the drive stays until it has cooled. -/
def overheat (f : FlushCost) (s : State) : State :=
  onPower (fun p => { p with down := .hot }) (wholeReset true (flushContent f.complete (controllerReset s)))

/-- Every sensor lies 15 °C below its critical point. -/
def cooled (l : List (Sensor × Nat)) : Bool := !(anySensor l fun _ t p => decide (p.2.2 < t + 15))

/-- A reading of the hold-up bank. -/
def bankReading (deg : Nat) (s : State) : State :=
  if 70 < deg then setCritical 4 0 (onPower (fun p => { p with bankHot := true, through := true }) s)
  else if deg < 65 then onPower (fun p => { p with bankHot := false }) s
  else s

/-- A reading of another sensor while the drive runs. -/
def dieReading (old : List (Sensor × Nat)) (f : FlushCost) (s : State) : State :=
  let l := s.power.temps
  let s := onPower (fun p => { p with tmtCounts :=
    [p.tmtCounts.getD 0 0 + bit (lightHot l && !(lightHot old)), p.tmtCounts.getD 1 0 + bit (heavyHot l && !(heavyHot old))] }) s
  if anySensor l fun _ t p => decide (p.2.2 ≤ t) then overheat f s
  else if heavyHot l then setCritical 1 1 (onPower (fun p => { p with thermalSteps := s.floors }) s)
  else clearCritical 1 s

/-- TEMPERATURE_SAMPLE. -/
def execTemperatureSample (sn : Sensor) (deg : Nat) (f : FlushCost) (s : State) : Res :=
  .next (
    let old := s.power.temps
    let s := onPower (fun p => { p with temps := (p.temps.filter fun x => x.1 != sn) ++ [(sn, deg)] }) s
    match s.power.down with
    | .up => if sn == .bank then bankReading deg s else dieReading old f s
    | .hot => if cooled s.power.temps then coldStart [] none s else s
    | _ => s)

/-- HOLDUP_MEASUREMENT. -/
def execHoldupMeasurement (mj : Nat) (s : State) : Res := .next (if s.up then measureBank mj s else s)

/-- ARRAY_IDLE_GATE: IDLE_GATE bells without array work; 0 never. -/
def execArrayIdleGate (die : Nat) (s : State) : Res :=
  .next (if s.up && (die == 3 || die == 4) && s.img.active.idleGate != 0 && decide (s.img.active.idleGate ≤ s.eng.idleBells.getD (die - 3) 0) &&
      s.dieServes die && !(s.eng.gated.contains die) then { s with eng := { s.eng with gated := s.eng.gated ++ [die] } }
    else s)

/-! ### Resets and shutdown (R87, R101, R388 to R390) -/

/-- NSSR as its write spells "NVMe". -/
def nssrKey : BitVec 32 := 0x4E564D65

/-- NVM_SUBSYSTEM_RESET: steps 2 to 7 of R382 on main power, then every die resets and start-up runs. -/
def execNvmSubsystemReset (viaMi : Bool) (value : BitVec 32) (f : FlushCost) (s : State) : Res :=
  .next (if s.up && (if viaMi then s.power.mgmt else s.host.link && value == nssrKey) then
      coldStart [] none (wholeReset false (flushContent f.complete (controllerReset s)))
    else s)

/-- CONTROLLER_ENABLE: start-up has ended whenever the drive runs, but for a sanitize that has been started again (R406). -/
def execControllerEnable (s : State) : Res :=
  .next (if s.up && s.host.link && !s.host.perst then onHost (fun t => { t with en := true, rdy := s.sec.sanitize.isNone }) s else s)

/-- CONTROLLER_LEVEL_RESET. AQA, ASQ and ACQ survive a reset by CC.EN (NVM Express Base). -/
def execControllerLevelReset (cause : ClrCause) (s : State) : Res :=
  .next (if !s.up then s
    else
      let en := s.host.en
      match cause with
      | .ccEn => if en then controllerReset s else s
      | .flr | .hotReset => onHost (fun t => { t with regs := [] }) (controllerReset s)
      | .linkDown => onHost (fun t => { t with regs := [], link := false }) (controllerReset s)
      | .perst => onHost (fun t => { t with regs := [], link := false, perst := true }) (controllerReset s))

/-- SURPRISE_LINK_DOWN. -/
def execSurpriseLinkDown (s : State) : Res :=
  .next (if s.up && s.host.link then onHost (fun t => { t with regs := [], link := false }) (controllerReset s) else s)

/-- PERST_DEASSERTED, and every training of the PCIe link: it comes up at 8 GT/s and x4 or better (R84). -/
def execPerstDeasserted (gts width : Nat) (s : State) : Res :=
  .next (onHost (fun t => { t with
    perst := false
    link := s.up && s.dieServes 0 && decide (8 ≤ gts ∧ 4 ≤ width)
    gts := gts
    width := width }) s)

/-- A normal shutdown ends once no command is outstanding but event requests: exposed content is programmed and the flush mark
written. -/
def tryShutdown (s : State) : State :=
  if s.host.shst = 1 && s.host.held.isEmpty && s.host.outs.all fun o => o.sq == 0 && s.host.aers.contains o.cid then
    onHost (fun t => { t with shst := 2 }) (flushAll s)
  else s

/-- SHUTDOWN_NORMAL. -/
def execShutdownNormal (s : State) : Res :=
  .next (if s.serving && s.host.shst = 0 then tryShutdown (onHost (fun t => { t with shst := 1 }) s) else s)

/-- SHUTDOWN_ABRUPT: steps 3 to 7 of R382; nothing resets, so that operations on the option flash go on. -/
def execShutdownAbrupt (f : FlushCost) (s : State) : Res :=
  .next (if s.serving then onHost (fun t => { t with shst := 2 }) (if f.complete then flushAll s else endPrograms s) else s)

/-- FIRMWARE_COMMIT_DONE; the recovery controller then restarts the drive from the mask ROM (R396). -/
def execFirmwareCommitDone (s : State) : Res :=
  .next (match s.fw.commit with
    | none => s
    | some c =>
      if !s.up then s
      else if s.fw.recovery then coldStart [] none (wholeReset false (controllerReset (endFirmwareCommit c s)))
      else endFirmwareCommit c s)

end Sys2Proof.Machine
end

