-- ==== Sys2Proof/Machine/Logs.lean ====
section
/-! DEFINITION. What the drive reports: Identify, the log pages, the drive status block, the option aperture as it is read, the pins and
the LED (R2, R83, R88, R90, R91, R103, R127, R153, R186, R258, R312, R337, R343 to R345, R375, R376, R391, R397, R408, R418, R422,
R424 to R431). -/

namespace Sys2Proof.Machine

/-! ### Fields -/

/-- A counter, which stops at the maximum of its field. -/
def cnt (n v : Nat) : Blob := fld n (min v (256 ^ n - 1))

/-- A flag byte. -/
def flagByte (l : List Bool) : Blob := fld 1 (packBits l)

/-- Open bytes of a page: their values are not given (log 7). -/
def State.openBytes (s : State) (n : Nat) : Blob := Blob.ofBytes ((List.range n).map fun i => Config.freeByte (s.free + i))

/-! ### Statistics of the health extension page -/

/-- Sizes of segments, in KiB. -/
def State.segKib (s : State) (tier : Nat) (k : SegKind) : Nat :=
  (s.mem.segs.filter fun g => g.tier == tier && g.kind == k).foldl (fun a g => a + g.size) 0 / 1024

/-- Range sets in a memory namespace, in KiB. -/
def State.rangeKib (s : State) (nsid : Nat) : Nat :=
  s.mem.sets.foldl (fun a r => a + (r.ranges.filter fun x => x.nsid == nsid).foldl (fun b x => b + x.len) 0) 0 / 1024

/-- A memory namespace less its lost spans, in KiB. -/
def State.poolKib (s : State) (nsid : Nat) : Nat :=
  (memLen nsid - (s.mem.lostSpans.filter fun x => x.1 == nsid).foldl (fun a x => a + x.2.2) 0) / 1024

/-- A classroom's entry of R127. -/
def State.classTier (s : State) (r : Nat) : Blob :=
  Blob.concat [cnt 8 (s.heldBy r 1 / 1024), cnt 4 (s.heldBy r 0 / 1024),
    cnt 4 ((s.mem.segs.filter fun g => g.room == r && g.tier == 1 && g.kind == .pinned).foldl (fun a g => a + g.size) 0 / 1024),
    cnt 8 (s.mem.stats.classWait.getD r 0), cnt 2 (s.mem.stats.windowsMax.getD r 0), cnt 2 (s.waitingRuns r), rsv 4]

/-- The tier pool statistics (R127). -/
def State.tierPage (s : State) : Blob :=
  let t := s.mem.stats
  Blob.concat ([fld 1 s.img.active.poolMode, rsv 1, fld 2 s.img.active.evictAge, cnt 4 (s.poolKib 73), cnt 8 (s.poolKib 74),
    cnt 8 (s.segKib 1 .pinned), cnt 8 (s.segKib 1 .working), cnt 8 (s.segKib 1 .cached), cnt 8 (s.rangeKib 74), cnt 4 (s.segKib 0 .pinned),
    cnt 4 (s.segKib 0 .working), cnt 4 (s.segKib 0 .cached), cnt 4 (s.rangeKib 73), cnt 8 t.evictions, cnt 8 t.staleFrees, cnt 8 t.waitBells,
    cnt 4 t.failT1, cnt 4 t.failT2, cnt 4 t.failT3, cnt 4 t.denied, rsv 152] ++ (List.range 8).map s.classTier)

/-- A sum over the valleys. -/
def State.valleySum (s : State) (f : ValleyStats → Nat) : Nat := s.query.valleys.foldl (fun a v => a + f v) 0

/-- The valley statistics (R153). -/
def State.valleyPage (s : State) : Blob :=
  Blob.concat ([cnt 8 (s.valleySum (·.bytes)), cnt 8 (s.valleySum (·.softPages)), cnt 8 (s.valleySum (·.poison)), cnt 8 (s.valleySum (·.refused)),
    cnt 8 s.query.decompErrors, cnt 8 s.query.tieTruncations, rsv 16] ++ (List.range 32).map fun i =>
      let v := s.query.valleys.getD i ⟨0, 0, 0, 0, 0, 0⟩
      Blob.concat [cnt 8 v.bytes, cnt 8 v.pages, cnt 4 v.softPages, cnt 4 v.softSenses, cnt 4 v.poison, cnt 4 v.refused])

/-- The scheduler statistics (R258). The windows of R257 depend on time that the model leaves out, so that their counters are open. -/
def State.schedPage (s : State) : Blob :=
  let c := s.sched
  Blob.concat ([cnt 8 c.runsStarted, cnt 8 c.preemptions, cnt 8 c.handbacks, cnt 4 c.starveGrants, cnt 4 c.longWaits, rsv 32] ++
    (List.range 8).map fun i =>
      let r := c.rooms.getD i ⟨0, 0, 0, 0⟩
      Blob.concat [cnt 8 r.runs, cnt 4 r.preempted, cnt 4 r.handbacks, cnt 4 r.starve, s.openBytes 12])

/-- Mean erase count of the usable columns times 100, and the highest. -/
def State.eraseCounts (s : State) : Nat × Nat :=
  let n := superblocks * 32
  let live := s.ftl.cols.filter fun x => !x.2.retired
  let sum := s.ftl.baseErases * (n - s.ftl.cols.length) + live.foldl (fun a x => a + x.2.erases) 0
  (sum * 100 / max 1 (n - (s.ftl.cols.length - live.length)), live.foldl (fun a x => max a x.2.erases) s.ftl.baseErases)

/-- The flash management statistics (R337). -/
def State.flashPage (s : State) : Blob :=
  let t := s.ftl.stats
  let e := s.eraseCounts
  Blob.concat [cnt 4 (superblocks - s.ftl.sbs.length), cnt 4 t.retiredColumns, cnt 4 t.retiredSbs, fld 1 (bit s.ftl.exhausted), rsv 3,
    cnt 8 t.hostUnits, cnt 8 t.unitsProgrammed, cnt 8 t.gcCopies, cnt 8 t.gcDiscarded, cnt 4 e.1, cnt 4 e.2, cnt 4 t.programFails,
    cnt 4 t.eraseFails, cnt 4 t.halfErased, cnt 4 t.softRewrites, cnt 4 t.refreshes, cnt 4 t.lostUnits, cnt 4 t.suspends, cnt 4 t.suspendWaits,
    cnt 4 t.tagCrcFails, cnt 2 t.patrolProgress, cnt 2 t.patrolOverrun, rsv 32]

/-- FLAGS of R397. -/
def State.powerFlags (s : State) : Blob :=
  flagByte [s.power.supplySag, s.power.auxSag, s.depths.any fun d => decide (0 < d), s.power.envelopeExceeded, s.power.through,
    s.power.lastFlushIncomplete]

/-- The power statistics (R397). -/
def State.powerPage (s : State) : Blob :=
  let p := s.power
  Blob.concat [cnt 2 p.vinMv, cnt 2 p.vauxMv, cnt 2 s.meanDw, cnt 1 s.capW, fld 1 s.host.powerState, s.powerFlags, fld 1 s.stage,
    cnt 1 s.arrayClock, cnt 1 s.mediaClock, cnt 4 p.holdupMj, cnt 4 p.sagEvents, cnt 4 p.powerLosses, cnt 4 p.incompleteFlushes,
    cnt 4 p.lastFlushUs, cnt 4 p.lastFlushMj, cnt 4 p.peakLimits, cnt 8 (p.energyUj / 1000000), rsv 16]

/-- The security state (R408). -/
def State.securityPage (s : State) : Blob :=
  Blob.concat [fld 16 s.sec.nonce.toNat, flagByte [s.sec.ownerHash != BitVec.allOnes 256, s.nor.maint, s.plain.plainKey, s.sec.sanitize.isSome],
    cnt 1 s.sec.rejects, fld 1 s.sec.lastReject, rsv 1, cnt 4 s.sec.nsKeys.length, cnt 4 s.sec.idxKeys.length, rsv 4, digestBytes s.sec.ownerHash]

/-- C0h, the health extension (R431). -/
def State.pageC0 (s : State) : Blob :=
  let i := s.img.active
  Blob.concat [fld 8 i.imageId.toNat, fld 4 i.sequence.toNat, fld 1 s.img.source, fld 1 s.img.residentFail, rsv 2, s.fr, rsv 1000,
    s.tierPage, s.valleyPage, rsv 448, s.schedPage, rsv 192, s.flashPage, rsv 384, s.powerPage, s.securityPage]

/-! ### Other vendor pages -/

/-- STATE of R375. -/
def dieCode : DieState → Nat
  | .running => 0
  | .resetting => 1
  | .replaying => 2
  | .degraded => 3
  | .failed => 4

/-- An array die is failed (R373). -/
def State.reducedRate (s : State) : Bool := (s.die 3).state == .failed || (s.die 4).state == .failed

/-- A die's entry of R375; every die is of stepping B0 (R14). -/
def State.dieEntry (s : State) (n : Nat) : Blob :=
  let d := s.die n
  Blob.concat [fld 1 (dieCode d.state), fld 1 d.gen.toNat, ascii "B0", cnt 4 d.resets, cnt 4 d.wdFires, cnt 4 d.lateDrops, cnt 4 d.genDropped,
    cnt 4 d.corrected, cnt 4 d.poisonCreated, cnt 4 d.convertInvalid, cnt 4 d.outlierOverflow, cnt 4 d.semOverflows, cnt 4 d.sramRows,
    fld 6 d.lastBell.toNat, fld 1 d.lastCause, rsv 13]

/-- C1h, die status (R375). -/
def State.pageC1 (s : State) : Blob :=
  Blob.concat ([flagByte [s.host.critWarn.testBit 2, s.reducedRate], rsv 3, cnt 4 s.dies.replays, cnt 4 s.dies.transients, cnt 4 s.dies.quarantines,
    cnt 4 s.dies.moves, rsv 44] ++ (List.range 5).map s.dieEntry)

def State.retiredOf (s : State) (k : Nat) : Nat := (s.dies.retired.filter fun r => r.type == k).length

/-- An entry of C2h. -/
def errEntry (e : ErrEntry) : Blob :=
  Blob.concat [fld 8 e.sequence, fld 6 e.bell.toNat, fld 1 e.event, fld 1 e.state, fld 1 e.resource.type, fld 1 e.resource.unit, fld 1 e.resource.sub,
    rsv 1, fld 4 e.resource.index, rsv 8]

/-- C2h, errors, poison and retirement (R376). -/
def State.pageC2 (s : State) : Blob :=
  let d := s.dies
  (Blob.concat ([fld 2 d.log.length, flagByte [s.host.policy.autoRetire == 1, d.logOverflow], rsv 5, cnt 8 d.correctedDram, cnt 8 d.poisonDelivered,
    cnt 4 (s.retiredOf 1), cnt 4 (s.retiredOf 2), cnt 4 d.recoveredRow, cnt 4 d.recoveredMirror, cnt 4 d.recoveredPlain,
    cnt 4 (d.lostEntries + s.idx.lostEntries), cnt 4 d.candidates, rsv 12] ++ d.log.map errEntry)).fit 8224

/-- STATE of R284, and of R297 for the drive and its peers. -/
def portCode : PortState → Nat
  | .down => 0
  | .detect => 1
  | .train => 2
  | .align => 3
  | .identify => 4
  | .up => 5
  | .miswired => 6
def ownCode : OwnState → Nat
  | .standalone => 0
  | .joining => 1
  | .member => 2
  | .leaving => 3
  | .isolated => 4
def peerCode : PeerState → Nat
  | .none => 0
  | .present => 1
  | .silent => 2
  | .absent => 3
  | .rejoining => 4
  | .left => 5

/-- The member whose indexes this drive mirrors (R42). -/
def State.mirrorOwner (s : State) : Nat :=
  let n := max 1 s.members
  (s.plain.member + n - s.img.active.plain.buddyOffset % n) % n

/-- MIRROR_STATE of R312. -/
def State.mirrorState (s : State) : Nat :=
  let p := s.peer s.mirrorOwner
  if !s.isMember || p.mirror.isEmpty then 0
  else if p.state == .absent then 3
  else if p.mirrorBehind then 2
  else 1

/-- A port's entry. The longest hop latency is a measure of time that the model leaves out. -/
def State.portEntry (s : State) (n : Nat) : Blob :=
  let p := s.port n
  Blob.concat [fld 1 (portCode p.state), flagByte [p.oneLane, p.cableLong], fld 1 p.neighbour, rsv 1, cnt 2 p.rtt, cnt 2 p.rate, cnt 4 p.fecCorrected,
    cnt 4 p.replays, cnt 4 p.linkLosses, cnt 4 p.trainFails, cnt 4 p.creditFixes, s.openBytes 2, rsv 2]

/-- A member's entry. -/
def State.peerEntry (s : State) (m : Nat) : Blob :=
  let p := s.peer m
  Blob.concat [fld 1 (peerCode p.state), fld 1 ((s.route m).elim 0 Prod.snd), rsv 2, fld 6 p.absentBell.toNat, rsv 2, cnt 4 p.absentCount,
    cnt 8 (s.plain.stale.filter fun x => x.2.2 == m).length, rsv 8]

/-- PLAIN_ID: 0 with MEMBERS 1. -/
def State.plainId (s : State) : Nat := if s.members ≤ 1 then 0 else s.img.active.plain.plainId.toNat

/-- Own member number, FFh standalone. -/
def State.ownMember (s : State) : Nat := if s.plain.own == .standalone || s.plain.own == .joining then 0xFF else s.plain.member

/-- C3h, plain status (R312). -/
def State.pageC3 (s : State) : Blob :=
  let p := s.plain
  Blob.concat ([fld 8 s.plainId, fld 1 s.ownMember, fld 1 s.members, fld 1 (ownCode p.own), fld 1 p.reference, fld 3 p.present.toNat,
    fld 1 s.mirrorState, fld 1 s.img.active.plain.parityK, fld 1 s.img.active.plain.parityM, fld 1 p.joinRefusal, rsv 5,
    cnt 8 p.stale.length, cnt 8 p.rebuildLeft, cnt 8 p.rebuiltReads, cnt 8 p.unrecoverable, rsv 8] ++
    (List.range 4).map s.portEntry ++ (List.range 24).map s.peerEntry)

/-- STATE of R69. -/
def modeCode : BellMode → Nat
  | .locked => 0
  | .freeRunning => 1
  | .following => 2

/-- An entry of C4h. -/
def histEntry (e : HistEntry) : Blob :=
  Blob.concat [fld 8 e.count.toNat, fld 8 e.stamp, cnt 4 e.periodNs, fld 4 (BitVec.ofInt 32 e.phaseNs).toNat, fld 2 e.ticksRun, fld 1 e.source,
    fld 1 e.timetable, rsv 4]

/-- C4h, bell and timetable history (R83). -/
def State.pageC4 (s : State) : Blob :=
  let b := s.bell
  (Blob.concat ([fld 8 b.count.toNat, fld 2 b.tick, fld 1 (modeCode b.mode), flagByte [b.lost, b.offNominal, b.phaseFault, b.starved, b.ptmValid],
    fld 4 s.img.active.periodUs, cnt 4 s.estimateNs, fld 1 b.timetable, fld 1 s.img.active.layout, fld 2 s.shift, fld 1 s.plain.reference, rsv 7,
    cnt 4 b.glitches, cnt 4 b.missed, cnt 4 b.lossEvents, cnt 4 b.phaseFaults, cnt 4 b.classGcBells, cnt 4 b.classRefreshes,
    fld 2 b.history.length, cnt 4 b.phaseClamps, rsv 2] ++ b.history.map histEntry)).fit 8256

/-- STATE of R186. -/
def idxCode : IdxState → Nat
  | .untrained => 1
  | .trained => 2
  | .retraining => 3
  | .dropping => 4

/-- An index's entry of C5h; an index that is being dropped shows as such while a query uses it. -/
def indexEntry (x : Index) : Blob :=
  let dead := x.lists.foldl (fun a l => a + l.2.dead.length) 0 + (x.pending.filter (·.dead)).length
  let all := x.lists.foldl (fun a l => a + l.2.entries.length) 0 + x.pending.length
  let bare := if x.coarse then (insertAll ((x.lists.filter fun l => !l.2.coarse).map Prod.fst) x.noCoarse).length else x.centroids
  Blob.concat [cnt 8 (all - dead), fld 4 x.centroids, fld 4 bare, cnt 4 dead, cnt 4 x.pending.length, fld 1 (idxCode x.state), fld 1 x.metric,
    fld 2 x.dim, fld 1 x.m, fld 1 x.full, rsv 2]

/-- C5h, query statistics (R186). -/
def State.pageC5 (s : State) : Blob :=
  let q := s.query.stats
  Blob.concat ([cnt 8 q.queries, cnt 8 q.queriesHead, cnt 8 q.sharesServed, cnt 8 q.shortFilter, cnt 8 q.shortIndex, cnt 8 q.shortDeadline,
    cnt 8 q.shortPoison, cnt 8 q.shortMember, cnt 8 q.listsFlash, cnt 8 q.listsCoarse, cnt 8 q.listsSkipped, cnt 8 q.piecesSkipped,
    cnt 8 q.mirrorShares, cnt 8 q.late, cnt 4 q.deadlineRejects, rsv 4, cnt 8 q.reranked] ++
    (List.range 16).map fun i => match (s.idx.live ++ s.idx.dropped).find? fun x => x.num == i with
      | some x => indexEntry x
      | none => rsv 32)

/-- An entry of C6h. -/
def deferEntry (d : Defer) : Blob :=
  Blob.concat [fld 8 d.sequence, fld 8 d.slba, fld 4 d.nsid, fld 4 d.count, fld 6 d.bell.toNat, fld 1 d.cause, flagByte [d.reported, !d.mended.isEmpty]]

/-- PENDING of R103. -/
def State.deferPending (s : State) : Nat := (s.ftl.defers.filter fun d => !d.reported).length

/-- C6h, deferred errors (R103). -/
def State.pageC6 (s : State) : Blob :=
  (Blob.concat ([fld 2 s.ftl.defers.length, fld 2 s.deferPending, flagByte [s.ftl.deferOverflow], rsv 3, cnt 8 s.ftl.deferTotal, rsv 48] ++
    s.ftl.defers.map deferEntry)).fit 8224

/-! ### Standard pages (NVM Express Base, log 29) -/

/-- Composite Temperature (R422): the largest reading less its throttle point, plus 353 K; 0 before any reading. -/
def State.composite (s : State) : Nat :=
  s.power.temps.foldl (fun a x => match sensorPoints x.1 with
    | some p => max a (353 + x.2 - p.1)
    | none => a) 0

/-- Bytes placed over a page. -/
def overlay (page : Blob) (l : List (Nat × Blob)) : Blob := l.foldl (fun b x => b.overlaid x.1 x.2) page

/-- 01h, Error Information (R362). -/
def State.page01 (s : State) : Blob :=
  (Blob.concat (s.host.errors.map fun e => Blob.concat [fld 8 e.count, fld 2 e.sq, fld 2 e.cid, fld 2 (2 * e.status), fld 2 0xFFFF, fld 8 e.lba,
    fld 4 e.nsid, rsv 36])).fit 16384

/-- 02h, SMART / Health Information: what this drive's manual gives, the rest open. -/
def State.page02 (s : State) : Blob :=
  let sec := fun (i : Nat) => s.power.tmtNs.getD i 0 / 1000000000
  overlay (s.openBytes 512) [(0, fld 1 s.host.critWarn), (1, fld 2 s.composite), (6, fld 1 (s.host.critWarn &&& 0x0D)), (7, rsv 25),
    (160, cnt 16 s.host.unrecovered), (176, cnt 16 s.host.errorCount), (192, cnt 4 (sec 0 / 60)), (196, cnt 4 (sec 1 / 60)), (200, rsv 16),
    (216, cnt 4 (s.power.tmtCounts.getD 0 0)), (220, cnt 4 (s.power.tmtCounts.getD 1 0)), (224, cnt 4 (sec 0)), (228, cnt 4 (sec 1)),
    (232, rsv 280)]

/-- 03h, Firmware Slot Information: slot 1 holds the image of the replicas. -/
def State.page03 (s : State) : Blob :=
  let rev := match (s.fw.replicas.filterMap id).head? with
    | some i => ((ascii "VQ2.").append (Blob.ofBytes (digits2 i.minor ++ 0x2E#8 :: digits2 i.patch))).fit 8
    | none => s.fr
  let next := !((s.fw.replicas.filterMap id).head?.any fun i => i.digest == s.fwDigest && i.minor == s.fw.minor && i.patch == s.fw.patch)
  (Blob.concat [fld 1 (1 + 16 * bit next), rsv 7, rev]).fit 512

/-- 04h, Changed Attached Namespace List. -/
def State.page04 (s : State) : Blob := (Blob.concat (s.host.changedNs.map (fld 4))).fit 4096

/-- 06h, Device Self-test: no operation under way, results newest first. -/
def State.page06 (s : State) : Blob :=
  Blob.concat (rsv 4 :: (List.range 20).map fun i => match s.host.selfTests[i]? with
    | some x => (fld 1 (16 * x.1 + x.2)).fit 28
    | none => (fld 1 0x0F).fit 28)

/-- 09h, Endurance Group Information: the critical warning (R107), the rest open. -/
def State.page09 (s : State) : Blob := overlay (s.openBytes 512) [(0, fld 1 (s.host.critWarn &&& 0x0D)), (1, rsv 2)]

/-- 81h, Sanitize Status (R406). -/
def State.page81 (s : State) : Blob :=
  let last := s.nor.option 5 0x88
  let act := match last with
    | some r => r.payload.le 0 1
    | none => 0
  let stat := if s.sec.sanitize.isSome then 2 else if last.isSome then 1 else 0
  let prog := if s.sec.sanitize.isSome then s.openBytes 2 else fld 2 0xFFFF
  (Blob.concat [prog, fld 2 stat, fld 4 act, fld 4 0xFFFFFFFF, fld 4 60, fld 4 2, fld 4 0xFFFFFFFF, fld 4 0xFFFFFFFF, fld 4 0xFFFFFFFF]).fit 512

/-- Log pages of the drive. -/
def logIds : List Nat := [0x00, 0x01, 0x02, 0x03, 0x04, 0x06, 0x09, 0x81, 0xC0, 0xC1, 0xC2, 0xC3, 0xC4, 0xC5, 0xC6]

/-- 00h, Supported Log Pages. -/
def page00 : Blob := Blob.concat ((List.range 256).map fun i => fld 4 (bit (logIds.contains i)))

/-- A log page as of this moment. -/
def State.logPage (s : State) (lid : Nat) : Option Blob :=
  match lid with
  | 0x00 => some page00
  | 0x01 => some s.page01
  | 0x02 => some s.page02
  | 0x03 => some s.page03
  | 0x04 => some s.page04
  | 0x06 => some s.page06
  | 0x09 => some s.page09
  | 0x81 => some s.page81
  | 0xC0 => some s.pageC0
  | 0xC1 => some s.pageC1
  | 0xC2 => some s.pageC2
  | 0xC3 => some s.pageC3
  | 0xC4 => some s.pageC4
  | 0xC5 => some s.pageC5
  | 0xC6 => some s.pageC6
  | _ => none

/-- A page read with RAE clear: its events may be posted again (R430). -/
def rearm (lid : Nat) (s : State) : State :=
  { s with host := { s.host with
      masked := s.host.masked.filter (· != lid)
      waiting := s.host.waiting.filter fun e => e.lid != lid
      changedNs := if lid = 4 then [] else s.host.changedNs } }

/-- Get Log Page: `numd` dwords, 0-based, from dword `lpo`; bytes past the end are zero. -/
def logCore (h : Hdr) (lid numd lpo : Nat) (rae : Bool) (s : State) : State :=
  match s.logPage lid with
  | none => finish h stLogPage s
  | some p =>
    if 524288 ≤ numd then finish h stInvalidField s
    else
      let d := p.slice (4 * lpo) (4 * (numd + 1))
      finishData h d { (if rae then s else rearm lid s) with free := s.free + p.len }

def execGetLogPage (h : Hdr) (lid numd lpo : Nat) (rae : Bool) (s : State) : Res :=
  .next (admitAdmin h 0x02 (logCore h lid numd lpo rae) s)

/-! ### Identify (R88 to R91, log 29) -/

/-- User capacity in bytes (R91), and what is left of it. -/
def State.capacity (s : State) : Nat := s.poolSlots * unitBytes
def State.capacityLeft (s : State) : Nat := s.freeSlots * unitBytes

/-- A power state descriptor (R386). -/
def powerDesc (w : Nat) : Blob := (Blob.concat [fld 2 (100 * w), rsv 2, fld 4 1000, fld 4 1000]).fit 32

/-- ASCII padded with spaces. -/
def padded (n : Nat) (b : Blob) : Blob := Blob.ofBytes ((b.bytes ++ List.replicate n 0x20#8).take n)

/-- Identify Controller. -/
def State.idController (s : State) : Blob :=
  let ids := Config.pcieIds
  overlay (Blob.zero 4096) [(0, fld 2 ids.1), (2, fld 2 ids.2.1), (4, padded 20 (Blob.ofBytes Config.serial)), (24, padded 40 modelNumber), (64, s.fr),
    (73, fld 3 ids.2.2), (77, fld 1 9), (80, fld 4 0x00020000), (84, fld 4 25000000), (88, fld 4 1000000), (256, fld 2 0x005E), (258, fld 1 3),
    (259, fld 1 7), (260, fld 1 2), (262, fld 1 255), (263, fld 1 2), (266, fld 2 353), (268, fld 2 358),
    (280, fld 16 (if s.fw.recovery then 0 else s.capacity)), (296, fld 16 (if s.fw.recovery then 0 else s.capacityLeft)), (319, fld 1 1),
    (328, fld 4 3), (512, fld 1 0x66), (513, fld 1 0x44), (516, fld 4 (if s.fw.recovery then 0 else 74)), (520, fld 2 0x001C),
    (526, fld 2 15), (528, fld 2 15), (2048, powerDesc 165), (2080, powerDesc 100), (2112, powerDesc 80)]

/-- Identify Namespace of an NVM namespace. -/
def State.idNs (s : State) (n : Ns) : Blob :=
  let used := (s.mappedOf n).length * 16
  overlay (Blob.zero 4096) [(0, fld 8 n.lbas), (8, fld 8 n.lbas), (16, fld 8 used), (24, fld 1 0x10), (48, fld 16 (n.lbas * 4096)),
    (64, fld 2 15), (66, fld 2 15), (68, fld 2 15), (70, fld 2 15), (72, fld 2 15), (130, fld 1 12)]

/-- Active namespaces in ascending order (R90); none under the recovery controller. -/
def State.activeNs (s : State) : List Nat :=
  if s.fw.recovery then []
  else ((spanList 1 64).filter fun i => (s.attached? i).isSome) ++ ((List.range 8).filter fun r => (s.room? r).isSome).map (65 + ·) ++ [73, 74]

/-- The CSI of a namespace's command set: NVM 0, Subsystem Local Memory 3, Computational Programs 4. -/
def csiOf (nsid : Nat) : Nat := if nsid ≤ 64 then 0 else if nsid ≤ 72 then 4 else 3

/-- A list of identifiers above one. -/
def idList (l : List Nat) (above : Nat) : Blob := (Blob.concat (((l.filter fun i => decide (above < i)).take 1024).map (fld 4))).fit 4096

/-- An Identify data structure; none where the CNS value is not supported, or where its namespace is invalid. -/
def State.identifyData (s : State) (cns nsid : Nat) : Except Status Blob :=
  let named := decide (1 ≤ nsid ∧ nsid ≤ 74)
  match cns with
  | 0x00 => if nsid = 0xFFFFFFFF then .ok (overlay (Blob.zero 4096) [(130, fld 1 12)])
      else if !named then .error stInvalidNs
      else .ok ((s.attached? nsid).elim (Blob.zero 4096) s.idNs)
  | 0x01 => .ok s.idController
  | 0x02 | 0x07 => if 0xFFFFFFFE ≤ nsid then .error stInvalidNs
      else .ok (idList (if cns = 2 then s.activeNs else s.activeNs.filter fun i => decide (i ≤ 64)) nsid)
  | 0x03 => if s.activeNs.contains nsid then .ok ((Blob.concat [fld 1 4, fld 1 1, rsv 2, fld 1 (csiOf nsid)]).fit 4096) else .error stInvalidNs
  | 0x05 => if named then .ok (Blob.zero 4096) else .error stInvalidNs
  | 0x06 => .ok (Blob.zero 4096)
  | 0x10 => if 0xFFFFFFFE ≤ nsid then .error stInvalidNs else .ok (idList ((spanList 1 64).filter fun i => (s.ns? i).isSome) nsid)
  | 0x11 => if !named then .error stInvalidNs else .ok ((s.ns? nsid).elim (Blob.zero 4096) s.idNs)
  | 0x12 => if !named then .error stInvalidNs
      else .ok ((if s.activeNs.contains nsid then Blob.concat [fld 2 1, fld 2 0] else Blob.zero 2).fit 4096)
  | 0x13 => .ok ((Blob.concat [fld 2 1, fld 2 0]).fit 4096)
  | 0x1C => .ok ((fld 8 0x19).fit 4096)
  | _ => .error stInvalidField

def identifyCore (h : Hdr) (cns nsid : Nat) (s : State) : State :=
  match s.identifyData cns nsid with
  | .ok d => finishData h d s
  | .error st => finish h st s

def execIdentify (h : Hdr) (cns nsid : Nat) (s : State) : Res := .next (admitAdmin h 0x06 (identifyCore h cns nsid) s)

/-! ### The drive status block (R425 to R429) -/

/-- The period of the timetable in force, and whether it is recess. -/
def State.periodNow (s : State) : Nat × Bool :=
  let l := s.img.active.timetables.getD s.bell.timetable []
  ((l.filter fun p => decide (p.start ≤ (s.bell.tick + 1024 - s.shift) % 1024)).length - 1, s.recessNow)

/-- Bit fields of a register, from bit 0 up: width and value. -/
def packed : List (Nat × Nat) → Nat
  | [] => 0
  | (w, v) :: r => v % 2 ^ w + 2 ^ w * packed r

/-- BELL_PHASE. -/
def State.bellPhase (s : State) : Nat :=
  let b := s.bell
  packed [(10, b.tick), (4, 0), (2, modeCode b.mode), (1, bit b.lost), (1, bit b.offNominal), (1, bit b.phaseFault), (1, bit b.starved),
    (1, bit b.ptmValid), (3, 0), (8, s.plain.reference)]

/-- TT_STATUS. -/
def State.ttStatus (s : State) : Nat :=
  packed [(2, s.bell.timetable), (1, s.img.active.layout), (4, 0), (1, bit s.periodNow.2), (4, s.periodNow.1), (4, 0), (10, s.shift)]

/-- PLAIN_STATUS. -/
def State.plainStatus (s : State) : Nat :=
  packed [(2, 0), (2, s.mirrorState), (4, packBits ((List.range 4).map fun p => (s.port p).state == .up)), (3, ownCode s.plain.own), (5, 0),
    (8, s.members), (8, s.ownMember)]

/-- DRIVE_FLAGS. -/
def State.driveFlags (s : State) : Nat :=
  packed [(8, s.host.critWarn), (1, bit s.host.rdy), (1, bit s.fw.recovery), (1, bit s.reducedRate), (1, bit s.ftl.exhausted), (1, bit s.power.through),
    (1, bit s.nor.maint), (1, bit s.sec.sanitize.isSome)]

/-- A die's entry (R428). -/
def State.dieStatus (s : State) (n : Nat) : Blob :=
  let d := s.die n
  Blob.concat [fld 4 (packed [(3, dieCode d.state), (5, 0), (8, d.gen.toNat), (16, 0x3042)]), cnt 4 d.resets,
    fld 8 (packed [(48, d.lastBell.toNat), (8, d.lastCause)])]

/-- The block; the recovery controller serves part of it (R429). -/
def State.statusBlock (s : State) : Blob :=
  let i := s.img.active
  let on := fun (b : Blob) => if s.fw.recovery then Blob.zero b.len else b
  Blob.concat ([fld 4 0x00010400, fld 4 (2 * Config.dsbUpdates s.free), fld 8 s.bell.count.toNat, fld 4 s.bellPhase,
    on (Blob.concat [fld 4 s.ttStatus, fld 8 s.bell.stamp, cnt 4 s.estimateNs, fld 4 i.periodUs, fld 8 i.imageId.toNat, fld 4 i.sequence.toNat,
      fld 4 (s.img.source + 256 * s.fw.minor), rsv 8, fld 8 s.plainId, fld 4 s.plainStatus, fld 4 s.plain.present.toNat, cnt 8 s.plain.stale.length,
      cnt 8 s.plain.rebuildLeft]),
    fld 4 s.driveFlags, rsv 28, fld 4 (packed [(16, s.power.vauxMv), (16, s.power.vinMv)]),
    Blob.concat [s.powerFlags, cnt 1 s.capW, cnt 2 s.meanDw],
    fld 4 (packed [(2, s.host.powerState), (2, 0), (4, s.stage), (8, s.mediaClock), (8, s.arrayClock)]),
    fld 4 s.composite, cnt 8 (s.power.energyUj / 1000000), rsv 104] ++ (List.range 5).map s.dieStatus ++
    [rsv 48, on (Blob.concat [cnt 8 s.dies.poisonDelivered, cnt 8 (s.dies.dies.foldl (fun a d => a + d.poisonCreated) 0), cnt 8 s.host.unrecovered,
      cnt 4 s.deferPending, rsv 100])])

/-- BAR4/5 as read: zero from 200h on (R425). -/
def State.bar4Byte (s : State) (ofst : Nat) : Byte := s.statusBlock.byte ofst

/-! ### The option aperture as read (R343 to R345) -/

/-- STATE of OPT_SECTOR_INFO. -/
def sectorCode : SectorState → Nat
  | .confirmed => 0
  | .opened => 1
  | .unconfirmed => 2
  | .failed => 3

/-- The registers of the aperture, from 90_0000h. -/
def NorSt.registers (n : NorSt) : Blob :=
  let x := n.sector n.sectorSel
  Blob.concat [fld 4 (packed [(1, bit n.uncorr), (1, bit n.hostBusy), (1, bit n.fwBusy), (1, bit n.maint), (2, n.seq), (1, bit n.done),
      (1, bit n.errValid), (4, n.err), (12, 0), (8, n.errSector)]),
    fld 4 (n.target % 2 ^ 23), fld 4 n.sectorSel, fld 4 (packed [(24, x.erases), (6, 0), (2, sectorCode x.state)]), cnt 4 n.corrected]

/-- A byte of BAR2/3. -/
def NorSt.aperByte (n : NorSt) (ofst : Nat) : Byte :=
  if ofst < 0x800000 then BitVec.ofNat 8 ((n.word (ofst / 8)).toNat / 256 ^ (ofst % 8))
  else if ofst < 0x900000 then
    let w := ofst - 0x800000
    if isFlagWord w then 0xFF#8 else Config.checkByte (n.word w)
  else n.registers.byte (ofst - 0x900000)

/-! ### Controller registers (R88) -/

/-- CAP, VS, CC and CSTS as read; other offsets of BAR0/1 read what was written to them. -/
def State.bar0Byte (s : State) (ofst : Nat) : Byte :=
  let cap := packed [(16, 0xFFFF), (1, 1), (2, 1), (5, 0), (8, 60), (4, 0), (1, 1), (8, 0x40), (3, 0), (4, 0), (4, 0)]
  let cc := bit s.host.en
  let csts := packed [(1, bit s.host.rdy), (1, 0), (2, s.host.shst)]
  if ofst < 8 then (fld 8 cap).byte ofst
  else if ofst < 0xC then (fld 4 0x00020000).byte (ofst - 8)
  else if ofst = 0x14 then s.host.regs.get ofst ||| BitVec.ofNat 8 cc
  else if 0x1C ≤ ofst ∧ ofst < 0x20 then (fld 4 csts).byte (ofst - 0x1C)
  else s.host.regs.get ofst

/-! ### Pins and the LED (R391, R418) -/

/-- What an output pin or group does. -/
inductive PinLevel where
  | highImpedance | grounded | electricalIdle | driven | released | low
  deriving DecidableEq, Repr

/-- The PCIe transmit lanes. -/
def State.pcieTx (s : State) : PinLevel :=
  if s.power.down == .noPower then .highImpedance
  else if !s.up || s.host.perst || !s.host.link then .electricalIdle
  else .driven

/-- The SMBus pins. -/
def State.smbus (s : State) : PinLevel := if s.power.mgmt then .driven else .released

/-- The pass lanes. -/
def State.passTx (s : State) : PinLevel := if s.up && !s.fw.recovery then .driven else .electricalIdle

/-- What the LED shows: off, on, or blinking at a rate in Hz. -/
inductive LedShow where
  | off | on | blink (hz : Nat)
  deriving DecidableEq, Repr

/-- Something counts as activity of the last 100 ms. -/
def State.recentlyActive (s : State) : Bool :=
  s.host.outs.any (fun o => !(o.sq == 0 && s.host.aers.contains o.cid)) || !s.sched.runs.isEmpty ||
  (s.plain.rebuild.isSome && decide (0 < s.plain.rebuildLeft)) ||
  s.power.activeNs.any fun t => decide (s.bell.localNs ≤ t + 100000000)

/-- The first row of R418 that holds. A drive in a whole-drive reset shows nothing. -/
def State.led (s : State) : LedShow :=
  if !s.up then .off
  else if s.fw.recovery || s.host.critWarn != 0 then .blink 1
  else if s.recentlyActive then .blink 4
  else if s.host.rdy then .on
  else .off

/-! ### Register writes (R8, R343, R424, R425) -/

/-- Bits of BAR0/1 that a write sets (NVM Express Base, PCI Express): CC but EN and SHN, AQA, ASQ, ACQ, and the MSI-X table. -/
def bar0Mask (ofst : Nat) : Byte :=
  if 0x4000 ≤ ofst ∧ ofst < 0x6010 then
    match ofst % 16 with
    | 0 => 0xFC#8
    | 12 => 0x01#8
    | 13 | 14 | 15 => 0x00#8
    | _ => 0xFF#8
  else match ofst with
    | 0x14 => 0xF0#8
    | 0x15 => 0x3F#8
    | 0x16 => 0xFF#8
    | 0x24 | 0x26 => 0xFF#8
    | 0x25 | 0x27 => 0x0F#8
    | 0x28 | 0x30 => 0x00#8
    | 0x29 | 0x31 => 0xF0#8
    | _ => if (0x2A ≤ ofst ∧ ofst < 0x30) ∨ (0x32 ≤ ofst ∧ ofst < 0x38) then 0xFF#8 else 0x00#8

/-- One byte written to BAR0/1. -/
def writeBar0 (ofst : Nat) (v : Byte) (r : Cells) : Cells :=
  let m := bar0Mask ofst
  if m = 0#8 then r else r.set ofst ((r.get ofst &&& ~~~m) ||| (v &&& m))

/-- REGISTER_WRITE. Writes to BAR4/5 are ignored. -/
def execRegisterWrite (bar ofst width : Nat) (value : BitVec 64) (s : State) : Res :=
  .next (if bar = 2 then aperWrite ofst width value.toNat s
    else if bar = 0 ∧ s.up ∧ s.host.link ∧ !s.host.perst then
      onHost (fun t => { t with regs := (List.range (min width 8)).foldl (fun r i =>
        writeBar0 (ofst + i) (BitVec.ofNat 8 (value.toNat / 256 ^ i)) r) t.regs }) s
    else s)

end Sys2Proof.Machine
end

