-- ==== Sys2Proof/Machine/Dispatch.lean ====
section
/-! DEFINITION. One arm for each command: its meaning. -/

namespace Sys2Proof.Machine

/-- The effect of a command on everything but the queue. -/
def exec (i : Instr) (s : State) : Host.Outcome State Fault Refusal :=
  match i with
  | .structureLoad h len ofst data => Sys2Proof.Machine.execStructureLoad h len ofst data s
  | .structureVerify h => Sys2Proof.Machine.execStructureVerify h s
  | .structureVerifyActivate h => Sys2Proof.Machine.execStructureVerifyActivate h s
  | .structureActivateResidentCommit h => Sys2Proof.Machine.execStructureActivateResidentCommit h s
  | .makeActiveResident h => Sys2Proof.Machine.execMakeActiveResident h s
  | .activateResidentImage h => Sys2Proof.Machine.execActivateResidentImage h s
  | .activateRomDefault h => Sys2Proof.Machine.execActivateRomDefault h s
  | .structureActivateReserved h action => Sys2Proof.Machine.execStructureActivateReserved h action s
  | .activateStructureBusy => Sys2Proof.Machine.execActivateStructureBusy s
  | .residentCommitDone => Sys2Proof.Machine.execResidentCommitDone s
  | .plainJoin h data => Sys2Proof.Machine.execPlainJoin h data s
  | .joinWaitExpired => Sys2Proof.Machine.execJoinWaitExpired s
  | .autoJoin => Sys2Proof.Machine.execAutoJoin s
  | .plainLeave h => Sys2Proof.Machine.execPlainLeave h s
  | .retireResource h data => Sys2Proof.Machine.execRetireResource h data s
  | .maintenanceUnlock h data => Sys2Proof.Machine.execMaintenanceUnlock h data s
  | .createIoSubmissionQueue h qid qsize cqid pc => Sys2Proof.Machine.execCreateIoSubmissionQueue h qid qsize cqid pc s
  | .createIoCompletionQueue h qid qsize iv pc => Sys2Proof.Machine.execCreateIoCompletionQueue h qid qsize iv pc s
  | .deleteIoSubmissionQueue h qid => Sys2Proof.Machine.execDeleteIoSubmissionQueue h qid s
  | .deleteIoCompletionQueue h qid => Sys2Proof.Machine.execDeleteIoCompletionQueue h qid s
  | .getLogPage h lid numd lpo rae => Sys2Proof.Machine.execGetLogPage h lid numd lpo rae s
  | .identify h cns nsid => Sys2Proof.Machine.execIdentify h cns nsid s
  | .abort h asq acid => Sys2Proof.Machine.execAbort h asq acid s
  | .setPowerEnvelope h sv watts => Sys2Proof.Machine.execSetPowerEnvelope h sv watts s
  | .timetableSelect h sv tt => Sys2Proof.Machine.execTimetableSelect h sv tt s
  | .setMediaPolicy h sv data => Sys2Proof.Machine.execSetMediaPolicy h sv data s
  | .setPlainMembership h sv => Sys2Proof.Machine.execSetPlainMembership h sv s
  | .setQueryDefaults h sv data => Sys2Proof.Machine.execSetQueryDefaults h sv data s
  | .setPowerManagement h sv ps => Sys2Proof.Machine.execSetPowerManagement h sv ps s
  | .setArbitration h sv burst lpw mpw hpw => Sys2Proof.Machine.execSetArbitration h sv burst lpw mpw hpw s
  | .setNumberOfQueues h sv nsq ncq => Sys2Proof.Machine.execSetNumberOfQueues h sv nsq ncq s
  | .getFeatures h fid sel => Sys2Proof.Machine.execGetFeatures h fid sel s
  | .asynchronousEventRequest h => Sys2Proof.Machine.execAsynchronousEventRequest h s
  | .namespaceManagement h op => Sys2Proof.Machine.execNamespaceManagement h op s
  | .namespaceAttachment h nsid attach => Sys2Proof.Machine.execNamespaceAttachment h nsid attach s
  | .firmwareImageDownload h ofst data => Sys2Proof.Machine.execFirmwareImageDownload h ofst data s
  | .firmwareCommitReplace h ca fs => Sys2Proof.Machine.execFirmwareCommitReplace h ca fs s
  | .firmwareCommitNoAction h fs => Sys2Proof.Machine.execFirmwareCommitNoAction h fs s
  | .firmwareCommitRefused h ca fs => Sys2Proof.Machine.execFirmwareCommitRefused h ca fs s
  | .deviceSelfTest h stc => Sys2Proof.Machine.execDeviceSelfTest h stc s
  | .nvmeMiSendReceive h m => Sys2Proof.Machine.execNvmeMiSendReceive h m s
  | .formatNvm h nsid ses => Sys2Proof.Machine.execFormatNvm h nsid ses s
  | .sanitizeCryptoErase h => Sys2Proof.Machine.execSanitizeCryptoErase h s
  | .sanitizeBlockErase h => Sys2Proof.Machine.execSanitizeBlockErase h s
  | .sanitizeDone => Sys2Proof.Machine.execSanitizeDone s
  | .nvmRead h nsid slba nlb => Sys2Proof.Machine.execNvmRead h nsid slba nlb s
  | .readWithProxy h nsid slba nlb target => Sys2Proof.Machine.execReadWithProxy h nsid slba nlb target s
  | .nvmWrite h nsid slba nlb data => Sys2Proof.Machine.execNvmWrite h nsid slba nlb data s
  | .writeZeroes h nsid slba nlb => Sys2Proof.Machine.execWriteZeroes h nsid slba nlb s
  | .datasetManagementDeallocate h nsid ad ranges => Sys2Proof.Machine.execDatasetManagementDeallocate h nsid ad ranges s
  | .flush h nsid => Sys2Proof.Machine.execFlush h nsid s
  | .memoryRead h nsid ofst len => Sys2Proof.Machine.execMemoryRead h nsid ofst len s
  | .memoryWrite h nsid ofst data => Sys2Proof.Machine.execMemoryWrite h nsid ofst data s
  | .memoryCopy h nsid ofst len src => Sys2Proof.Machine.execMemoryCopy h nsid ofst len src s
  | .memoryRangeSetCreate h room ranges => Sys2Proof.Machine.execMemoryRangeSetCreate h room ranges s
  | .memoryRangeSetDelete h room rsid => Sys2Proof.Machine.execMemoryRangeSetDelete h room rsid s
  | .loadProgram h room pind image => Sys2Proof.Machine.execLoadProgram h room pind image s
  | .programActivationManagement h room pind activate => Sys2Proof.Machine.execProgramActivationManagement h room pind activate s
  | .executeLesson h room pind p => Sys2Proof.Machine.execExecuteLesson h room pind p s
  | .filteredScan h room p => Sys2Proof.Machine.execFilteredScan h room p s
  | .vectorQuery h room p => Sys2Proof.Machine.execVectorQuery h room p s
  | .indexInsert h room p => Sys2Proof.Machine.execIndexInsert h room p s
  | .embedAndInsert h room p => Sys2Proof.Machine.execEmbedAndInsert h room p s
  | .indexDelete h room p => Sys2Proof.Machine.execIndexDelete h room p s
  | .indexTrain h room p => Sys2Proof.Machine.execIndexTrain h room p s
  | .trainStep h room p => Sys2Proof.Machine.execTrainStep h room p s
  | .indexCreate h room p => Sys2Proof.Machine.execIndexCreate h room p s
  | .indexDrop h room p => Sys2Proof.Machine.execIndexDrop h room p s
  | .insertCommit wid => Sys2Proof.Machine.execInsertCommit wid s
  | .indexSpaceFreed serial => Sys2Proof.Machine.execIndexSpaceFreed serial s
  | .listFold index list => Sys2Proof.Machine.execListFold index list s
  | .queryFlashCutoff run => Sys2Proof.Machine.execQueryFlashCutoff run s
  | .queryCoarseCutoff run covered => Sys2Proof.Machine.execQueryCoarseCutoff run covered s
  | .queryRerankCutoff run ranked => Sys2Proof.Machine.execQueryRerankCutoff run ranked s
  | .scanDeadlineEnd run => Sys2Proof.Machine.execScanDeadlineEnd run s
  | .valleyShareEnd run valley => Sys2Proof.Machine.execValleyShareEnd run valley s
  | .fill run mxa d => Sys2Proof.Machine.execFill run mxa d s
  | .fillDrainDone mxa => Sys2Proof.Machine.execFillDrainDone mxa s
  | .move run mover d => Sys2Proof.Machine.execMove run mover d s
  | .moveDone mover => Sys2Proof.Machine.execMoveDone mover s
  | .vuArithmetic run vu op ty dst a b c => Sys2Proof.Machine.execVuArithmetic run vu op ty dst a b c s
  | .vuFusedMultiplyAdd run vu dst a b c => Sys2Proof.Machine.execVuFusedMultiplyAdd run vu dst a b c s
  | .vuIntegerLogic run vu op dst a b => Sys2Proof.Machine.execVuIntegerLogic run vu op dst a b s
  | .vuFormatConversion run vu store ty fmt reg addr scale lanes => Sys2Proof.Machine.execVuFormatConversion run vu store ty fmt reg addr scale lanes s
  | .vuDivideSqrt run vu op dst a b => Sys2Proof.Machine.execVuDivideSqrt run vu op dst a b s
  | .vuTranscendental run vu op dst a => Sys2Proof.Machine.execVuTranscendental run vu op dst a s
  | .vuReduction run vu op ty dst first count => Sys2Proof.Machine.execVuReduction run vu op ty dst first count s
  | .vuTableLookup run vu dst idx wide width base => Sys2Proof.Machine.execVuTableLookup run vu dst idx wide width base s
  | .vuScatterAdd run vu ty val idx base lanes => Sys2Proof.Machine.execVuScatterAdd run vu ty val idx base lanes s
  | .semaphoreWait run e sem => Sys2Proof.Machine.execSemaphoreWait run e sem s
  | .semaphorePost run sem => Sys2Proof.Machine.execSemaphorePost run sem s
  | .longSemWait run e => Sys2Proof.Machine.execLongSemWait run e s
  | .bucketReady room bucket => Sys2Proof.Machine.execBucketReady room bucket s
  | .safePoint e => Sys2Proof.Machine.execSafePoint e s
  | .sliceEnd e => Sys2Proof.Machine.execSliceEnd e s
  | .starveGrant e run => Sys2Proof.Machine.execStarveGrant e run s
  | .watchdogFire e => Sys2Proof.Machine.execWatchdogFire e s
  | .heartbeatMissed core => Sys2Proof.Machine.execHeartbeatMissed core s
  | .dieReturn die selfTestOk => Sys2Proof.Machine.execDieReturn die selfTestOk s
  | .suspectReplay die hang => Sys2Proof.Machine.execSuspectReplay die hang s
  | .replayWindowExpired die => Sys2Proof.Machine.execReplayWindowExpired die s
  | .generationDropped req => Sys2Proof.Machine.execGenerationDropped req s
  | .lateReplyDrop holder source tag => Sys2Proof.Machine.execLateReplyDrop holder source tag s
  | .tier3ReadFailed run => Sys2Proof.Machine.execTier3ReadFailed run s
  | .flashReadDone rid hardOk fullOk tagOk => Sys2Proof.Machine.execFlashReadDone rid hardOk fullOk tagOk s
  | .softSenseReadDone rid ok => Sys2Proof.Machine.execSoftSenseReadDone rid ok s
  | .readRecovery rid bad rowLost => Sys2Proof.Machine.execReadRecovery rid bad rowLost s
  | .groupProgramStart stream => Sys2Proof.Machine.execGroupProgramStart stream s
  | .groupProgramDone pid failed => Sys2Proof.Machine.execGroupProgramDone pid failed s
  | .eraseDone sb ch ok => Sys2Proof.Machine.execEraseDone sb ch ok s
  | .readRefreshDue sb ch => Sys2Proof.Machine.execReadRefreshDue sb ch s
  | .journalGroupProgram => Sys2Proof.Machine.execJournalGroupProgram s
  | .mapCheckpoint => Sys2Proof.Machine.execMapCheckpoint s
  | .bellEdge highNs b => Sys2Proof.Machine.execBellEdge highNs b s
  | .missedEdge b => Sys2Proof.Machine.execMissedEdge b s
  | .freeRunningBoundary b => Sys2Proof.Machine.execFreeRunningBoundary b s
  | .bellLost => Sys2Proof.Machine.execBellLost s
  | .phaseClamp b => Sys2Proof.Machine.execPhaseClamp b s
  | .phaseFault => Sys2Proof.Machine.execPhaseFault s
  | .relockFromFollowing => Sys2Proof.Machine.execRelockFromFollowing s
  | .offNominal => Sys2Proof.Machine.execOffNominal s
  | .recessStarved => Sys2Proof.Machine.execRecessStarved s
  | .applyCopyDone room => Sys2Proof.Machine.execApplyCopyDone room s
  | .recessStart => Sys2Proof.Machine.execRecessStart s
  | .classStart => Sys2Proof.Machine.execClassStart s
  | .bucketTimeout room bucket participant => Sys2Proof.Machine.execBucketTimeout room bucket participant s
  | .attemptRestart room => Sys2Proof.Machine.execAttemptRestart room s
  | .headSilenceTimeout room => Sys2Proof.Machine.execHeadSilenceTimeout room s
  | .trainProgressSend room => Sys2Proof.Machine.execTrainProgressSend room s
  | .portLinkLoss port => Sys2Proof.Machine.execPortLinkLoss port s
  | .portDetect port => Sys2Proof.Machine.execPortDetect port s
  | .portTrainDone port lanes => Sys2Proof.Machine.execPortTrainDone port lanes s
  | .portIdentify port far echoes => Sys2Proof.Machine.execPortIdentify port far echoes s
  | .portRetry port => Sys2Proof.Machine.execPortRetry port s
  | .bellFlitReceived port hd f => Sys2Proof.Machine.execBellFlitReceived port hd f s
  | .joinRequest port hd j => Sys2Proof.Machine.execJoinRequest port hd j s
  | .joinAdmit port hd a => Sys2Proof.Machine.execJoinAdmit port hd a s
  | .leaveMessage port hd => Sys2Proof.Machine.execLeaveMessage port hd s
  | .flowSetup port hd e => Sys2Proof.Machine.execFlowSetup port hd e s
  | .nak port seq => Sys2Proof.Machine.execNak port seq s
  | .creditResync port hd counts => Sys2Proof.Machine.execCreditResync port hd counts s
  | .parityAcknowledgement port hd a => Sys2Proof.Machine.execParityAcknowledgement port hd a s
  | .trainStepMessage port hd m => Sys2Proof.Machine.execTrainStepMessage port hd m s
  | .timetableSelectionMessage port hd tt bell => Sys2Proof.Machine.execTimetableSelectionMessage port hd tt bell s
  | .namespaceTableMessage port hd t => Sys2Proof.Machine.execNamespaceTableMessage port hd t s
  | .plainWideQuery port hd q => Sys2Proof.Machine.execPlainWideQuery port hd q s
  | .memberAnswer port hd a => Sys2Proof.Machine.execMemberAnswer port hd a s
  | .parityDelta port hd d => Sys2Proof.Machine.execParityDelta port hd d s
  | .rebuildStream port hd r => Sys2Proof.Machine.execRebuildStream port hd r s
  | .proxyReadRequest port hd q => Sys2Proof.Machine.execProxyReadRequest port hd q s
  | .proxyReadData port hd d => Sys2Proof.Machine.execProxyReadData port hd d s
  | .mirrorUpkeep port hd m => Sys2Proof.Machine.execMirrorUpkeep port hd m s
  | .reductionScale port hd r => Sys2Proof.Machine.execReductionScale port hd r s
  | .reductionSum port hd r => Sys2Proof.Machine.execReductionSum port hd r s
  | .reductionGather port hd g => Sys2Proof.Machine.execReductionGather port hd g s
  | .sagWarning mv => Sys2Proof.Machine.execSagWarning mv s
  | .sagClear mv => Sys2Proof.Machine.execSagClear mv s
  | .powerLoss mv f => Sys2Proof.Machine.execPowerLoss mv f s
  | .removal openNs f => Sys2Proof.Machine.execRemoval openNs f s
  | .pwrdisRaised f => Sys2Proof.Machine.execPwrdisRaised f s
  | .powerOn mv holdupMj failedDies => Sys2Proof.Machine.execPowerOn mv holdupMj failedDies s
  | .mateDetectClose => Sys2Proof.Machine.execMateDetectClose s
  | .auxWarning mv => Sys2Proof.Machine.execAuxWarning mv s
  | .auxReset mv => Sys2Proof.Machine.execAuxReset mv s
  | .auxReturn mv strapGnd => Sys2Proof.Machine.execAuxReturn mv strapGnd s
  | .powerSample dw => Sys2Proof.Machine.execPowerSample dw s
  | .throttleStep => Sys2Proof.Machine.execThrottleStep s
  | .temperatureSample sn deg f => Sys2Proof.Machine.execTemperatureSample sn deg f s
  | .holdupMeasurement mj => Sys2Proof.Machine.execHoldupMeasurement mj s
  | .arrayIdleGate die => Sys2Proof.Machine.execArrayIdleGate die s
  | .nvmSubsystemReset viaMi value f => Sys2Proof.Machine.execNvmSubsystemReset viaMi value f s
  | .controllerEnable => Sys2Proof.Machine.execControllerEnable s
  | .controllerLevelReset cause => Sys2Proof.Machine.execControllerLevelReset cause s
  | .surpriseLinkDown => Sys2Proof.Machine.execSurpriseLinkDown s
  | .shutdownNormal => Sys2Proof.Machine.execShutdownNormal s
  | .shutdownAbrupt f => Sys2Proof.Machine.execShutdownAbrupt f s
  | .registerWrite bar ofst width value => Sys2Proof.Machine.execRegisterWrite bar ofst width value s
  | .optKey1 value => Sys2Proof.Machine.execOptKey1 value s
  | .optKey2 value => Sys2Proof.Machine.execOptKey2 value s
  | .wordProgram ofst width value => Sys2Proof.Machine.execWordProgram ofst width value s
  | .flagProgram ofst width value => Sys2Proof.Machine.execFlagProgram ofst width value s
  | .sectorErase ofst width value => Sys2Proof.Machine.execSectorErase ofst width value s
  | .optReset => Sys2Proof.Machine.execOptReset s
  | .optOperationDone verified => Sys2Proof.Machine.execOptOperationDone verified s
  | .nvmeMiCommand m => Sys2Proof.Machine.execNvmeMiCommand m s
  | .getVersion => Sys2Proof.Machine.execGetVersion s
  | .getCapabilities => Sys2Proof.Machine.execGetCapabilities s
  | .negotiateAlgorithms asym hash => Sys2Proof.Machine.execNegotiateAlgorithms asym hash s
  | .getDigests => Sys2Proof.Machine.execGetDigests s
  | .getCertificate slot ofst len => Sys2Proof.Machine.execGetCertificate slot ofst len s
  | .challenge slot nonce => Sys2Proof.Machine.execChallenge slot nonce s
  | .getMeasurements block signed nonce => Sys2Proof.Machine.execGetMeasurements block signed nonce s
  | .spdmUnsupportedRequest code => Sys2Proof.Machine.execSpdmUnsupportedRequest code s
  | .fruRead ofst len => Sys2Proof.Machine.execFruRead ofst len s
  | .followingPlainBoundary b => Sys2Proof.Machine.execFollowingPlainBoundary b s
  | .electricalPresence port => Sys2Proof.Machine.execElectricalPresence port s
  | .perstDeasserted gts width => Sys2Proof.Machine.execPerstDeasserted gts width s
  | .pwrdisLowered => Sys2Proof.Machine.execPwrdisLowered s
  | .inputOvervoltage mv f => Sys2Proof.Machine.execInputOvervoltage mv f s
  | .idleFlit port hd => Sys2Proof.Machine.execIdleFlit port hd s
  | .norEraseDone verified => Sys2Proof.Machine.execNorEraseDone verified s
  | .firmwareCommitDone => Sys2Proof.Machine.execFirmwareCommitDone s
  | .supplyBelowResetThreshold die => Sys2Proof.Machine.execSupplyBelowResetThreshold die s
  | .invalidCommandOpcode h opcode => Sys2Proof.Machine.execInvalidCommandOpcode h opcode s
  | .sendBlock run port vc flits => Sys2Proof.Machine.execSendBlock run port vc flits s

end Sys2Proof.Machine
end

