-- ==== Sys2Proof/Machine/Idle.lean ====
section
/-! DEFINITION. What the block does on an empty queue (log 4): a command that waits inside the drive and may now start is started; where
there is none, a tick passes, and what the drive does of itself is done. -/

namespace Sys2Proof.Machine

/-- A command that waits is tried with only those before it in place, so that it is held only for what stood in its way. Answers the state
where it did something, and what it then waits for where it did not. A write of a queue that is being deleted goes on (R100). -/
def tryHeld (s : State) (i : Nat) (c : Held) : Except Why State :=
  let only := { s with host := { s.host with held := s.host.held.take i, deletes := [] } }
  match exec c.cmd only with
  | .next t =>
    let again := t.host.held.drop i
    match again with
    | [d] => if d.cmd == c.cmd then .error d.why else .ok (putBack t again)
    | _ => .ok (putBack t again)
  | _ => .error c.why
where
  /-- The commands that came later wait as before, and queue deletions see what has ended. -/
  putBack (t : State) (again : List Held) : State :=
    s.host.deletes.foldl finishDelete { t with host := { t.host with
      held := t.host.held.take i ++ again ++ s.host.held.drop (i + 1)
      deletes := s.host.deletes } }

/-- Commands that wait, each with its place, in the order in which they may start: runs that wait for a segment by PRIORITY of their
classroom, then by arrival (R122); the others by arrival. -/
def State.heldOrder (s : State) : List (Nat × Held) :=
  let l := (List.range s.host.held.length).zip s.host.held
  let waits := fun (x : Nat × Held) => x.2.why == .segment && (lessonRoom x.2.cmd).isSome
  let prio := fun (x : Nat × Held) => (lessonRoom x.2.cmd).elim 0 s.priorityOf
  l.filter (fun x => !(waits x)) ++ sortBy (fun x y => decide (prio y < prio x)) (l.filter waits)

/-- The first command that may start is started; a command that now waits for something else is marked so. Answers none where every
command still waits. -/
def releaseFrom : List (Nat × Held) → State → State × Bool
  | [], s => (s, false)
  | (i, c) :: r, s =>
    match tryHeld s i c with
    | .ok t => (t, true)
    | .error w =>
      releaseFrom r { s with host := { s.host with held := modifyAt s.host.held i fun x => { x with why := w } } }

/-- The position moves on by one tick (R63), held after tick 1,023 (R66); time passes (R72, R418, R422). -/
def passTick (s : State) : State :=
  let ns := s.tickNs
  let b := s.bell
  let light := lightHot s.power.temps
  let heavy := heavyHot s.power.temps
  let busy := s.host.outs.any (fun o => !(o.sq == 0 && s.host.aers.contains o.cid)) || !s.sched.runs.isEmpty ||
    (s.plain.rebuild.isSome && decide (0 < s.plain.rebuildLeft))
  { s with
      bell := { b with
        tick := if b.tick < 1023 then b.tick + 1 else b.tick
        held := if b.tick < 1023 then b.held else min 65 (b.held + 1)
        localNs := b.localNs + ns }
      power := { s.power with
        tmtNs := [s.power.tmtNs.getD 0 0 + (if light then ns else 0), s.power.tmtNs.getD 1 0 + (if heavy then ns else 0)]
        activeNs := if busy then some (b.localNs + ns) else s.power.activeNs } }

/-- What the drive does of itself within a tick. -/
def ofItself (s : State) : State := tryShutdown (tryLeave (trainIdle (endAborts s)))

/-- A step of an idle block. A drive in a whole-drive reset does nothing. -/
def idle (s : State) : State :=
  if !s.up then s
  else
    let r := if s.serving then releaseFrom s.heldOrder s else (s, false)
    if r.2 then r.1 else passTick (ofItself r.1)

end Sys2Proof.Machine
end

