-- ==== Sys2Proof/Safety.lean ====
section
/-! DEFINITION. What counts as a good state of the drive, in the terms that the statements use. -/

namespace Sys2Proof.Machine

/-- A bell has 1,024 ticks, 0 to 1,023 (R63). -/
def State.tickLegal (s : State) : Prop := s.bell.tick ≤ 1023

/-- Both memory namespaces are in canonical form: cells by rising address, none that holds zero. -/
def State.memoryCanonical (s : State) : Prop := s.mem.sram.wf = true ∧ s.mem.dram.wf = true

/-- The tables of fixed size have their sizes: five dies, eight matrix arrays and vector units, four tile movers, four pass ports, 24 members
and 32 valleys (R11, R12, R283, R297). -/
def State.shaped (s : State) : Prop :=
  s.dies.dies.length = 5 ∧ s.eng.mxa.length = 8 ∧ s.eng.vu.length = 8 ∧ s.eng.movers.length = 4 ∧ s.plain.ports.length = 4 ∧
  s.plain.peers.length = 24 ∧ s.query.valleys.length = 32

/-- Nothing but the bell itself has work at a boundary: the drive is alone, with no port Up, no activation, selection, publish, step, scan,
query or recess under way. -/
def State.boundaryQuiet (s : State) : Bool :=
  s.plain.own == .standalone && s.plain.join.isNone && s.plain.reference == 0xFF && s.upPorts.isEmpty && s.img.activation.isNone &&
    s.bell.selected.isNone && s.idx.queue.isEmpty && s.train.steps.isEmpty && s.query.scans.isEmpty && s.query.runs.isEmpty &&
    !s.bell.inRecess

/-! ### Messages between drives -/

/-- A flit is in order on a port that is Up: its header is intact and its SEQ is the one expected (R287). -/
def State.hears (s : State) (port : Nat) (hd : FlitHdr) : Bool :=
  s.up && (s.port port).state == .up && hdrIntact hd && hd.seq.toNat == (s.port port).rxSeq

/-- The rows for a message to one member, with their port, header and payload: each is passed on to any other member (R296). -/
def relayed (c : Instr) : Option (Nat × FlitHdr × Payload) :=
  match c with
  | .flowSetup p h e => some (p, h, .flowSetup e)
  | .parityAcknowledgement p h a => some (p, h, .parityAck a)
  | .trainStepMessage p h m => some (p, h, .train m)
  | .timetableSelectionMessage p h tt b => some (p, h, .timetable tt b)
  | .namespaceTableMessage p h t => some (p, h, .nsTable t)
  | .plainWideQuery p h q => some (p, h, .query q)
  | .memberAnswer p h a => some (p, h, .answer a)
  | .parityDelta p h d => some (p, h, .delta d)
  | .rebuildStream p h r => some (p, h, .rebuild r)
  | .proxyReadRequest p h q => some (p, h, .proxyRead q)
  | .proxyReadData p h d => some (p, h, .proxyData d)
  | .mirrorUpkeep p h m => some (p, h, .mirror m)
  | .reductionScale p h r => some (p, h, .scale r)
  | .reductionSum p h r => some (p, h, .sum r)
  | _ => none

/-- Every row for a flit that arrives, with its port and header. -/
def flitOf (c : Instr) : Option (Nat × FlitHdr) :=
  match relayed c with
  | some (p, h, _) => some (p, h)
  | none => match c with
    | .bellFlitReceived p h _ => some (p, h)
    | .joinRequest p h _ => some (p, h)
    | .joinAdmit p h _ => some (p, h)
    | .leaveMessage p h => some (p, h)
    | .creditResync p h _ => some (p, h)
    | .reductionGather p h _ => some (p, h)
    | .idleFlit p h => some (p, h)
    | _ => none

/-! ### Which queue a command comes by -/

/-- Every admin command of the table, with its header and opcode (R89, R91). -/
def adminOf (c : Instr) : Option (Hdr × Nat) :=
  match c with
  | .structureLoad h _ _ _ => some (h, 0xC1)
  | .structureVerify h => some (h, 0xC2)
  | .structureVerifyActivate h => some (h, 0xC2)
  | .structureActivateResidentCommit h => some (h, 0xC2)
  | .makeActiveResident h => some (h, 0xC2)
  | .activateResidentImage h => some (h, 0xC2)
  | .activateRomDefault h => some (h, 0xC2)
  | .structureActivateReserved h _ => some (h, 0xC2)
  | .plainJoin h _ => some (h, 0xC5)
  | .plainLeave h => some (h, 0xC6)
  | .retireResource h _ => some (h, 0xC9)
  | .maintenanceUnlock h _ => some (h, 0xCA)
  | .deleteIoSubmissionQueue h _ => some (h, 0x00)
  | .createIoSubmissionQueue h _ _ _ _ => some (h, 0x01)
  | .getLogPage h _ _ _ _ => some (h, 0x02)
  | .deleteIoCompletionQueue h _ => some (h, 0x04)
  | .createIoCompletionQueue h _ _ _ _ => some (h, 0x05)
  | .identify h _ _ => some (h, 0x06)
  | .abort h _ _ => some (h, 0x08)
  | .setPowerEnvelope h _ _ => some (h, 0x09)
  | .timetableSelect h _ _ => some (h, 0x09)
  | .setMediaPolicy h _ _ => some (h, 0x09)
  | .setPlainMembership h _ => some (h, 0x09)
  | .setQueryDefaults h _ _ => some (h, 0x09)
  | .setPowerManagement h _ _ => some (h, 0x09)
  | .setArbitration h _ _ _ _ _ => some (h, 0x09)
  | .setNumberOfQueues h _ _ _ => some (h, 0x09)
  | .getFeatures h _ _ => some (h, 0x0A)
  | .asynchronousEventRequest h => some (h, 0x0C)
  | .namespaceManagement h _ => some (h, 0x0D)
  | .firmwareCommitReplace h _ _ => some (h, 0x10)
  | .firmwareCommitNoAction h _ => some (h, 0x10)
  | .firmwareCommitRefused h _ _ => some (h, 0x10)
  | .firmwareImageDownload h _ _ => some (h, 0x11)
  | .deviceSelfTest h _ => some (h, 0x14)
  | .namespaceAttachment h _ _ => some (h, 0x15)
  | .nvmeMiSendReceive h _ => some (h, 0x1D)
  | .formatNvm h _ _ => some (h, 0x80)
  | .sanitizeCryptoErase h => some (h, 0x84)
  | .sanitizeBlockErase h => some (h, 0x84)
  | _ => none

/-- Every command to a compute namespace, with its header and classroom. -/
def roomOf (c : Instr) : Option (Hdr × Nat) :=
  match c with
  | .memoryRangeSetCreate h room _ => some (h, room)
  | .memoryRangeSetDelete h room _ => some (h, room)
  | .loadProgram h room _ _ => some (h, room)
  | .programActivationManagement h room _ _ => some (h, room)
  | .executeLesson h room _ _ => some (h, room)
  | .filteredScan h room _ => some (h, room)
  | .vectorQuery h room _ => some (h, room)
  | .indexInsert h room _ => some (h, room)
  | .embedAndInsert h room _ => some (h, room)
  | .indexDelete h room _ => some (h, room)
  | .indexTrain h room _ => some (h, room)
  | .trainStep h room _ => some (h, room)
  | .indexCreate h room _ => some (h, room)
  | .indexDrop h room _ => some (h, room)
  | _ => none

/-- Every I/O command of the table, with its header and whether PROXY may be set in it: in a Read alone (R307). -/
def ioOf (c : Instr) : Option (Hdr × Bool) :=
  match roomOf c with
  | some (h, _) => some (h, false)
  | none => match c with
    | .nvmRead h _ _ _ => some (h, false)
    | .readWithProxy h _ _ _ _ => some (h, true)
    | .nvmWrite h _ _ _ _ => some (h, false)
    | .writeZeroes h _ _ _ => some (h, false)
    | .datasetManagementDeallocate h _ _ _ => some (h, false)
    | .flush h _ => some (h, false)
    | .memoryRead h _ _ _ => some (h, false)
    | .memoryWrite h _ _ _ => some (h, false)
    | .memoryCopy h _ _ _ _ => some (h, false)
    | _ => none

/-! ### When a command is taken up -/

/-- An admin command of an opcode passes admission: its queue is served and it is the admin queue, no recovery or sanitize stands in its
way, and no reserved field or flag that an admin command does not carry is set (R9, R97, R307, R396, R406). -/
def State.accepts (s : State) (h : Hdr) (op : Nat) : Bool :=
  s.fetches h && h.sq == 0 && (!s.fw.recovery || recoveryAnswers op) && !(h.rsvd || h.ord || h.proxy) &&
    (s.sec.sanitize.isNone || sanitizePermits op)

/-- An I/O command passes admission: its queue is served, no ORD command holds it, the limit of outstanding commands leaves room, no
reserved field or misplaced PROXY is set and no sanitize is under way (R9, R95, R97, R307, R406). -/
def State.acceptsIo (s : State) (h : Hdr) (proxyOk : Bool) : Bool :=
  s.fetches h && h.sq != 0 && !s.mustOrder h && decide (s.host.outs.length < 65536) && !(h.rsvd || (h.proxy && !proxyOk)) &&
    s.sec.sanitize.isNone

/-- A command to a compute namespace passes admission: also, the classroom is mapped, no Activate changes it and no copy of a Train Step
holds its runs (R34, R56, R276). -/
def State.acceptsRoom (s : State) (h : Hdr) (room : Nat) : Bool :=
  s.acceptsIo h false && (s.room? room).isSome && !s.activateHolds room && !s.copyHolds room

/-- Nothing is in progress: no command waits in the drive, no queue is being deleted, no read, scan, query, lesson, insert, training step
or proxy read runs, and no write waits for its groups. -/
def State.calm (s : State) : Bool :=
  s.host.held.isEmpty && s.host.deletes.isEmpty && s.ftl.jobs.isEmpty && s.ftl.reads.isEmpty && s.ftl.writes.isEmpty &&
    s.query.scans.isEmpty && s.query.runs.isEmpty && s.sched.runs.isEmpty && s.idx.waiting.isEmpty && s.train.steps.isEmpty &&
    s.plain.proxies.isEmpty

/-- Memory without what notes the reads of cached segments: their ages and the runs that use them (R118, R121). -/
def MemSt.agesAside (m : MemSt) : MemSt := { m with segs := m.segs.map fun g => { g with lastRead := 0, users := [] } }

/-- A vector operation of a run on a unit: it takes the unit, lane `i` of the destination holds `f i` with poison `p i`, every other
register and everything else but the engines stays, and the operation counts as ended (R219, R222). -/
def VuWrites (run vu dst : Nat) (f : Nat → BitVec 32) (p : Nat → Bool) (s : State) (r : Res) : Prop :=
  ∃ t, r = .next (opDone run t) ∧
    (∀ i, i < 64 → (t.vu vu).lane dst i = f i ∧ (t.vu vu).bad dst i = p i) ∧
    (∀ q i, q ≠ dst → i < 64 → (t.vu vu).lane q i = (s.vu vu).lane q i ∧ (t.vu vu).bad q i = (s.vu vu).bad q i) ∧
    (∀ n, n ≠ vu → t.vu n = s.vu n) ∧ t.eng.mxa = s.eng.mxa ∧ t.eng.movers = s.eng.movers ∧
    t = { claim (.vu vu) run s with eng := t.eng }

/-- The drive has answered an SPDM message with a response of a code and stands in a phase; nothing else has changed but the transcript and
the fresh numbers taken. -/
def State.answered (s t : State) (code : Nat) (p : SpdmPhase) : Prop :=
  ∃ r : Blob, t.host = { s.host with responses := s.host.responses ++ [r] } ∧ r.byte 1 = BitVec.ofNat 8 code ∧
    t.sec = { s.sec with spdm := p, transcript := t.sec.transcript } ∧ t = { s with host := t.host, sec := t.sec, free := t.free }

/-- What every reset of the whole drive leaves (R68, R70, R388): the link down and the controller disabled with no queue and no command; the
bell Free-running at bell 0, tick 0; memory namespaces empty; no lesson, run, query, step or write in progress; own plain state
Standalone. -/
def State.cleared (s : State) : Prop :=
  s.host.link = false ∧ s.host.en = false ∧ s.host.rdy = false ∧ s.host.sqs = [] ∧ s.host.cqs = [] ∧ s.host.outs = [] ∧ s.host.held = [] ∧
  s.host.aers = [] ∧ s.bell.count = 0 ∧ s.bell.tick = 0 ∧ s.bell.mode = .freeRunning ∧
  s.mem.sram = ⟨[], []⟩ ∧ s.mem.dram = ⟨[], []⟩ ∧ s.mem.sets = [] ∧ s.mem.segs = [] ∧ s.sched.lessons = [] ∧ s.sched.runs = [] ∧
  s.query.scans = [] ∧ s.query.runs = [] ∧ s.train.steps = [] ∧ s.ftl.buf = [] ∧ s.ftl.jobs = [] ∧ s.ftl.writes = [] ∧
  s.plain.own = .standalone ∧ s.img.staged = [] ∧ s.img.activation = none ∧ s.nor.maint = false

end Sys2Proof.Machine
end

