-- ==== Sys2Proof/Certificates/Slice0/Obligations.lean ====
section
/-! DEFINITION. The statements about the model, one definition for each. Where a statement rests on a choice of the model, its docstring names the
log entry. -/

open Sys2Proof Sys2Proof.Machine

/-- A step takes the command at the front of the queue and runs it on the state with the queue's rest; with no command waiting, a tick passes
(the model's choice, log 4). Every command has an effect, be it that nothing changes: none ends in a fault or a refusal. -/
def Obligations.StepRunsFrontCommand : Prop :=
  (∀ (c : Instr) (rest : List Instr) (s : State), s.pending = c :: rest → step s = exec c { s with pending := rest }) ∧
  (∀ s : State, s.pending = [] → step s = .next (idle s)) ∧
  (∀ (c : Instr) (s : State), ∃ t, exec c s = .next t)

/-- Admission (R9, R34, R56, R89, R95, R97, R307, R396, R406). A command whose queue is not served, or that comes by the wrong kind of queue, is
not taken up: nothing changes. An admin command completes with Invalid Command Opcode in recovery, with Invalid Field for a reserved field,
with Sanitize In Progress during a sanitize. An I/O command first waits for an ORD command or for room among the outstanding commands; a
command to a compute namespace whose classroom is not mapped completes with Invalid Namespace or Format, and one whose classroom an Activate
changes waits, as does a run while a Train Step of its classroom is being copied (R276). A completion that no queue deletion waits for posts
one entry and one message of its vector, ends its command and changes nothing else but the time of the last activity. That the drive keeps a
time of the last activity for itself, and that a wait inside the drive counts as outstanding, is the model's way (logs 47 and 108); which
programs are runs of a classroom is its reading (log 112). -/
def Obligations.CommandsAreAdmittedInOrder : Prop :=
  (∀ (c : Instr) (h : Hdr) (op : Nat) (s : State), adminOf c = some (h, op) →
    (s.fetches h = false ∨ h.sq ≠ 0 → exec c s = .next s) ∧
    (s.fetches h = true → h.sq = 0 →
      (s.fw.recovery = true → recoveryAnswers op = false → exec c s = .next (finish h stInvalidOpcode s)) ∧
      (s.fw.recovery = false ∨ recoveryAnswers op = true →
        ((h.rsvd || h.ord || h.proxy) = true → exec c s = .next (finish h stInvalidField s)) ∧
        ((h.rsvd || h.ord || h.proxy) = false → s.sec.sanitize.isSome = true → sanitizePermits op = false →
          exec c s = .next (finish h stSanitizing s))))) ∧
  (∀ (h : Hdr) (op : Nat) (s : State),
    (s.fetches h = true → h.sq = 0 → exec (.invalidCommandOpcode h op) s = .next (finish h stInvalidOpcode s)) ∧
    (s.fetches h = false ∨ h.sq ≠ 0 → exec (.invalidCommandOpcode h op) s = .next s)) ∧
  (∀ (c : Instr) (h : Hdr) (proxyOk : Bool) (s : State), ioOf c = some (h, proxyOk) →
    (s.fetches h = false ∨ h.sq = 0 → exec c s = .next s) ∧
    (s.fetches h = true → h.sq ≠ 0 →
      (s.mustOrder h = true → exec c s = .next (hold h c .order s)) ∧
      (s.mustOrder h = false →
        (65536 ≤ s.host.outs.length → exec c s = .next (hold h c .resource s)) ∧
        (s.host.outs.length < 65536 →
          ((h.rsvd || (h.proxy && !proxyOk)) = true → exec c s = .next (finish h stInvalidField s)) ∧
          ((h.rsvd || (h.proxy && !proxyOk)) = false → s.sec.sanitize.isSome = true → exec c s = .next (finish h stSanitizing s)))))) ∧
  (∀ (c : Instr) (h : Hdr) (room : Nat) (s : State), roomOf c = some (h, room) → s.acceptsIo h false = true →
    (s.room? room = none → exec c s = .next (finish h stInvalidNs s)) ∧
    (∀ r, s.room? room = some r → s.activateHolds room = true → exec c s = .next (hold h c (.activate room) s)) ∧
    (∀ r, s.room? room = some r → s.activateHolds room = false → startsRun c = true → s.copyHolds room = true →
      exec c s = .next (hold h c .resource s))) ∧
  (∀ (h : Hdr) (st : Status) (s : State), s.host.deletes = [] → ∃ t, finish h st s = { s with
      host := t
      power := { s.power with activeNs := some s.bell.localNs } } ∧
    t.posted = s.host.posted ++ [⟨h.sq, h.cid, st.1, st.2, 0, Blob.zero 0⟩] ∧ t.msix = s.host.msix ++ [s.vectorOf h.sq] ∧
    (∀ o, o ∈ t.outs ↔ o ∈ s.host.outs ∧ ¬(o.sq = h.sq ∧ o.cid = h.cid)) ∧
    t = { s.host with
      outs := t.outs
      posted := t.posted
      msix := t.msix })

/-- Every step, be it a command or a tick, takes one command from the queue at most and puts none into it, keeps the tick of the bell within 0
to 1,023 (R65), keeps the tables of the machine at their sizes, and keeps both memory namespaces in the one form in which equal contents are
equal data. The queue and the canonical form are the model's (logs 4 and 109). -/
def Obligations.StepsKeepTheInvariant : Prop :=
  ∀ s t : State, step s = .next t →
    t.pending = s.pending.tail ∧
    (s.tickLegal → t.tickLegal) ∧ (s.shaped → t.shaped) ∧ (s.memoryCanonical → t.memoryCanonical)

/-- The state right after reset has the invariant that every step keeps, and the values that the spec gives it (R59, R60, R68, R70, R83, R127,
R153, R186, R258, R297, R345, R427, R442): bell 0, tick 0, Free-running, timetable 0; the ROM default structure in force with nothing
staged; no byte of the memory namespaces written; Standalone with member number and reference FFh; every counter 0; the option registers 0.
That reset is a drive as manufactured, after step 8 of R389, is the model's choice (log 1). -/
def Obligations.ResetLeavesTheSpecsValues : Prop :=
  State.reset.tickLegal ∧ State.reset.shaped ∧ State.reset.memoryCanonical ∧ State.reset.pending = [] ∧
  State.reset.bell.count = 0 ∧ State.reset.bell.tick = 0 ∧ State.reset.bell.mode = .freeRunning ∧ State.reset.bell.timetable = 0 ∧
  State.reset.img.active = Image.rom ∧ State.reset.img.source = 0 ∧ State.reset.img.record = none ∧ State.reset.img.residentFail = 0 ∧
  State.reset.bell.slots = List.replicate 8 (Image.rom.periodUs * 1000) ∧
  (∀ nsid a, (State.reset.ram nsid).cells.get a = 0) ∧
  State.reset.plain.own = .standalone ∧ State.reset.plain.member = 0xFF ∧ State.reset.plain.reference = 0xFF ∧
  State.reset.plain.present = 0 ∧ (∀ p, (State.reset.port p).state = .down) ∧
  (State.reset.bell.lost || State.reset.bell.offNominal || State.reset.bell.phaseFault || State.reset.bell.starved ||
    State.reset.bell.ptmValid) = false ∧
  State.reset.bell.glitches = 0 ∧ State.reset.bell.missed = 0 ∧ State.reset.bell.lossEvents = 0 ∧ State.reset.bell.phaseFaults = 0 ∧
  State.reset.bell.classGcBells = 0 ∧ State.reset.bell.classRefreshes = 0 ∧ State.reset.bell.phaseClamps = 0 ∧
  State.reset.nor.err = 0 ∧ State.reset.nor.errValid = false ∧ State.reset.nor.done = false ∧ State.reset.nor.seq = 0 ∧
  State.reset.nor.maint = false ∧ State.reset.nor.fwBusy = false ∧ State.reset.nor.hostBusy = false ∧ State.reset.nor.uncorr = false ∧
  (∀ room, State.reset.train.lastStep.getD room 0 = 0) ∧
  State.reset.sched.runsStarted = 0 ∧ State.reset.sched.preemptions = 0 ∧ State.reset.host.critWarn = 0 ∧
  (∀ lsn, State.reset.mapOf lsn = none)

/-- Structure Load (R50, R51): frames are staged in order up to the first that fails, whose position is completion dword 0; a Load at offset 0
starts a fresh image; a Load while an Activate is outstanding and one with a bad length or offset change nothing. -/
def Obligations.StructureLoadStagesFrames : Prop :=
  (∀ (h : Hdr) (len ofst : Nat) (data : Blob) (s : State), s.accepts h 0xC1 = true →
    (s.activateBusy = true → exec (.structureLoad h len ofst data) s = .next (finish h stBusy s)) ∧
    (s.activateBusy = false → ¬(4096 ≤ len ∧ len ≤ 2097152 ∧ len % 4096 = 0 ∧ ofst % 4096 = 0 ∧ ofst + len ≤ 16777216) →
      exec (.structureLoad h len ofst data) s = .next (finish h stInvalidField s)) ∧
    (∀ staged, s.activateBusy = false → 4096 ≤ len → len ≤ 2097152 → len % 4096 = 0 → ofst % 4096 = 0 → ofst + len ≤ 16777216 →
      stageFrames (if ofst = 0 then [] else s.img.staged) (ofst / 4096) (framesOf (data.fit len)) = (staged, none) →
      exec (.structureLoad h len ofst data) s = .next (finish h stOk { s with img := { s.img with staged := staged } })) ∧
    (∀ staged p, s.activateBusy = false → 4096 ≤ len → len ≤ 2097152 → len % 4096 = 0 → ofst % 4096 = 0 → ofst + len ≤ 16777216 →
      stageFrames (if ofst = 0 then [] else s.img.staged) (ofst / 4096) (framesOf (data.fit len)) = (staged, some p) →
      exec (.structureLoad h len ofst data) s = .next (finishDw h stFrame p { s with img := { s.img with staged := staged } }))) ∧
  (∀ (staged : List (Nat × Blob)) (pos : Nat) (fs : List Blob),
    ∃ n, n ≤ fs.length ∧
      (stageFrames staged pos fs).1 = (List.range n).foldl (fun l i => setKey (pos + i) (fs.getD i (Blob.zero 0)) l) staged ∧
      ((stageFrames staged pos fs).2 = none ↔ n = fs.length) ∧
      (n < fs.length → (stageFrames staged pos fs).2 = some (pos + n) ∧
        frameOk (stageFrames staged pos fs).1 (pos + n) (fs.getD n (Blob.zero 0)) = false))

/-- Structure Activate (R52, R56, R57, R60): ACTION 0 changes nothing; 1, 2, 4 and 5 put an activation outstanding that waits for a quiet
boundary; 3 starts a resident commit; 6 and 7 are refused; and each is refused with Structure Busy while another is outstanding. On a member
of a plain of more than one, an image whose sections 03h or 07h differ from those in force is refused with Plain Section Locked (R55). -/
def Obligations.StructureActivateActions : Prop :=
  ∀ (h : Hdr) (s : State), s.accepts h 0xC2 = true →
    (s.activateBusy = true → ∀ c ∈ [Instr.structureVerify h, .structureVerifyActivate h, .structureActivateResidentCommit h,
        .makeActiveResident h, .activateResidentImage h, .activateRomDefault h, .structureActivateReserved h 6,
        .structureActivateReserved h 7], exec c s = .next (finish h stBusy s)) ∧
    (s.activateBusy = false →
      (∀ a, exec (.structureActivateReserved h a) s = .next (finish h stInvalidField s)) ∧
      (∀ st dw0, checkStaged s = .error (st, dw0) →
        ∀ c ∈ [Instr.structureVerify h, .structureVerifyActivate h, .structureActivateResidentCommit h],
          exec c s = .next (finishDw h st dw0 s)) ∧
      (∀ i stream, checkStaged s = .ok (i, stream) →
        exec (.structureVerify h) s = .next (finish h stOk s) ∧
        exec (.structureVerifyActivate h) s = .next { begin' h .admin s with img := { s.img with
          activation := some ⟨h, 1, i, stream, 2, changedRooms s.img.active i, 0, false⟩ } } ∧
        exec (.structureActivateResidentCommit h) s = .next { begin' h .admin s with img := { s.img with
          activation := some ⟨h, 2, i, stream, 2, changedRooms s.img.active i, 0, false⟩ } }) ∧
      (∀ i stream, verifyStaged s.env s.img.staged = .ok (i, stream) → s.plainMember = true → plainSame s.img.active i = false →
        ∀ c ∈ [Instr.structureVerify h, .structureVerifyActivate h, .structureActivateResidentCommit h],
          exec c s = .next (finish h stPlainLocked s)) ∧
      (∀ i stream, s.firstReplica = some (i, stream) → s.plainMember = true → plainSame s.img.active i = false →
        exec (.activateResidentImage h) s = .next (finish h stPlainLocked (noteReplicas s))) ∧
      (s.img.source = 0 → exec (.makeActiveResident h) s = .next (finish h stSequence s)) ∧
      (s.activeResident = true → exec (.makeActiveResident h) s = .next (finish h stOk s)) ∧
      (s.img.source ≠ 0 → s.activeResident = false → s.img.commit = none →
        exec (.makeActiveResident h) s = .next { begin' h .admin s with img := { s.img with
          commit := some ⟨s.img.active, s.img.stream, some h⟩ } }) ∧
      (s.firstReplica = none → exec (.activateResidentImage h) s = .next (finish h stSequence s)) ∧
      (∀ i stream, s.firstReplica = some (i, stream) → s.lockOk i = true →
        ∃ t, exec (.activateResidentImage h) s = .next t ∧
          t.img.activation = some ⟨h, 4, i, stream, 1, changedRooms s.img.active i, 0, false⟩ ∧
          t = { begin' h .admin s with img := { s.img with activation := t.img.activation, rewrite := t.img.rewrite } }) ∧
      (s.lockOk s.romImage = true → exec (.activateRomDefault h) s = .next { begin' h .admin s with img := { s.img with
          activation := some ⟨h, 5, s.romImage, Blob.zero 0, 0, changedRooms s.img.active s.romImage, 0, false⟩ } }) ∧
      (s.lockOk s.romImage = false → exec (.activateRomDefault h) s = .next (finish h stPlainLocked s)))

/-- The end of an Activate (R56 step 6, R58): at the 100th boundary a classroom still busy ends it with Structure Busy, and a resident commit
that has been programmed makes the image resident and completes its command. -/
def Obligations.ActivateEnds : Prop :=
  (∀ (a : Activation) (s : State), s.img.activation = some a → a.inEffect = false → 100 ≤ a.boundaries →
    exec .activateStructureBusy s = .next (finish a.hdr stBusy { s with img := { s.img with activation := none } })) ∧
  (∀ (s : State), (∀ a, s.img.activation = some a → a.inEffect = true ∨ a.boundaries < 100) → exec .activateStructureBusy s = .next s) ∧
  (∀ (s : State), s.img.commit = none → exec .residentCommitDone s = .next s) ∧
  (∀ (c : ResCommit) (h : Hdr) (s : State), s.img.commit = some c → c.cmd = some h → s.img.activation = none →
    ∃ t, exec .residentCommitDone s = .next (finish h stOk t) ∧
      t.img.commit = none ∧ t.img.replicas = List.replicate 4 (some c.stream) ∧ t.img.record = some c.image.digest ∧
      t.img.active = s.img.active ∧ t.img.staged = s.img.staged ∧
      t = { s with img := t.img, nor := t.nor })

/-- I/O queues (R86, R95, R100): what creates one, and each reason to refuse; the deletion of an idle submission queue completes at once, and
that of a completion queue is refused while a submission queue uses it. That a deletion takes no time is the model's choice (log 75). -/
def Obligations.QueuesAreCreatedAndDeleted : Prop :=
  (∀ (h : Hdr) (qid qsize iv : Nat) (s : State), s.accepts h 0x05 = true →
    (1 ≤ qid → qid ≤ 512 → (∀ q ∈ s.host.cqs, q.id ≠ qid) → 1 ≤ qsize → qsize ≤ 65535 → iv ≤ 512 →
      exec (.createIoCompletionQueue h qid qsize iv true) s =
        .next (finish h stOk { s with host := { s.host with cqs := s.host.cqs ++ [⟨qid, iv, qsize + 1⟩] } })) ∧
    (∀ pc, (qid = 0 ∨ 512 < qid ∨ (∃ q ∈ s.host.cqs, q.id = qid)) →
      exec (.createIoCompletionQueue h qid qsize iv pc) s = .next (finish h stInvalidQid s)) ∧
    (1 ≤ qid → qid ≤ 512 → (∀ q ∈ s.host.cqs, q.id ≠ qid) → 1 ≤ qsize → qsize ≤ 65535 → 512 < iv →
      exec (.createIoCompletionQueue h qid qsize iv true) s = .next (finish h stVector s))) ∧
  (∀ (h : Hdr) (qid qsize cqid : Nat) (s : State), s.accepts h 0x01 = true →
    (1 ≤ qid → qid ≤ 512 → (∀ q ∈ s.host.sqs, q.id ≠ qid) → 1 ≤ qsize → qsize ≤ 65535 → (∃ q ∈ s.host.cqs, q.id = cqid) →
      exec (.createIoSubmissionQueue h qid qsize cqid true) s =
        .next (finish h stOk { s with host := { s.host with sqs := s.host.sqs ++ [⟨qid, cqid, qsize + 1⟩] } })) ∧
    (∀ pc, (qid = 0 ∨ 512 < qid ∨ (∃ q ∈ s.host.sqs, q.id = qid)) →
      exec (.createIoSubmissionQueue h qid qsize cqid pc) s = .next (finish h stInvalidQid s)) ∧
    (1 ≤ qid → qid ≤ 512 → (∀ q ∈ s.host.sqs, q.id ≠ qid) → 1 ≤ qsize → qsize ≤ 65535 → (∀ q ∈ s.host.cqs, q.id ≠ cqid) →
      exec (.createIoSubmissionQueue h qid qsize cqid true) s = .next (finish h stInvalidCq s))) ∧
  (∀ (h : Hdr) (qid : Nat) (s : State), s.accepts h 0x04 = true →
    ((∀ q ∈ s.host.cqs, q.id ≠ qid) → exec (.deleteIoCompletionQueue h qid) s = .next (finish h stInvalidQid s)) ∧
    ((∃ q ∈ s.host.cqs, q.id = qid) → (∃ q ∈ s.host.sqs, q.cq = qid) →
      exec (.deleteIoCompletionQueue h qid) s = .next (finish h stQueueDeletion s)) ∧
    ((∃ q ∈ s.host.cqs, q.id = qid) → (∀ q ∈ s.host.sqs, q.cq ≠ qid) →
      exec (.deleteIoCompletionQueue h qid) s =
        .next (finish h stOk { s with host := { s.host with cqs := s.host.cqs.filter fun q => q.id != qid } }))) ∧
  (∀ (h : Hdr) (qid : Nat) (s : State), s.accepts h 0x00 = true →
    ((∀ q ∈ s.host.sqs, q.id ≠ qid) → exec (.deleteIoSubmissionQueue h qid) s = .next (finish h stInvalidQid s)) ∧
    ((∃ q ∈ s.host.sqs, q.id = qid) → qid ≠ 0 → s.calm = true → (∀ o ∈ s.host.outs, o.sq ≠ qid) →
      exec (.deleteIoSubmissionQueue h qid) s =
        .next { post1 h.sq h.cid stOk 0 (Blob.zero 0) s with
          host := { (post1 h.sq h.cid stOk 0 (Blob.zero 0) s).host with sqs := s.host.sqs.filter fun q => q.id != qid } }))

/-- Abort (R99): the command named is left as it is; up to four Aborts are outstanding until the next tick, and a fifth is refused. Its end at a
tick is the model's choice (log 46). -/
def Obligations.AbortLeavesTheCommandRunning : Prop :=
  ∀ (h : Hdr) (asq acid : Nat) (s : State), s.accepts h 0x08 = true →
    (s.host.aborts.length < 4 → exec (.abort h asq acid) s = .next { begin' h .admin s with
      host := { (begin' h .admin s).host with aborts := s.host.aborts ++ [h.cid] } }) ∧
    (4 ≤ s.host.aborts.length → exec (.abort h asq acid) s = .next (finish h stAbortLimit s))

/-- Events (R102, R430): a request is answered at once by an event that waits and whose log page may report again, and is outstanding otherwise,
eight at most; an event is posted on the oldest request, and is not posted again until its log page has been read. The order of events and
requests is that of NVM Express Base (log 50). -/
def Obligations.EventsMeetRequests : Prop :=
  (∀ (h : Hdr) (s : State), s.accepts h 0x0C = true →
    (8 ≤ s.host.aers.length → exec (.asynchronousEventRequest h) s = .next (finish h stAerLimit s)) ∧
    (s.host.aers.length < 8 → (∀ e ∈ s.host.waiting, e.lid ∈ s.host.masked) →
      exec (.asynchronousEventRequest h) s = .next { begin' h .admin s with
        host := { (begin' h .admin s).host with aers := s.host.aers ++ [h.cid] } }) ∧
    (∀ e w, s.host.aers.length < 8 → s.host.waiting = e :: w → e.lid ∉ s.host.masked →
      exec (.asynchronousEventRequest h) s = .next (finishDw h stOk (e.kind + 256 * e.info + 65536 * e.lid)
        { s with host := { s.host with waiting := w, masked := e.lid :: s.host.masked } }))) ∧
  (∀ (e : Event) (s : State),
    (e.lid ∈ s.host.masked → raiseEvent e s = s) ∧
    (e.lid ∉ s.host.masked → s.host.aers = [] → e ∉ s.host.waiting →
      raiseEvent e s = { s with host := { s.host with waiting := s.host.waiting ++ [e] } }) ∧
    (∀ cid r, e.lid ∉ s.host.masked → s.host.aers = cid :: r →
      raiseEvent e s = post 0 cid stOk (e.kind + 256 * e.info + 65536 * e.lid) (Blob.zero 0)
        { s with host := { s.host with aers := r, masked := e.lid :: s.host.masked } }))

/-- Set Features (R43, R95, R105, R386): the values taken, those that wait for the next boundary, and the refusals. -/
def Obligations.SetFeaturesTakesOrRefuses : Prop :=
  ∀ (h : Hdr) (s : State), s.accepts h 0x09 = true →
    (∀ w d n, ∀ c ∈ [Instr.setPowerEnvelope h true w, .timetableSelect h true n, .setMediaPolicy h true d, .setPlainMembership h true,
        .setQueryDefaults h true d, .setPowerManagement h true n, .setArbitration h true n n n n, .setNumberOfQueues h true n n],
      exec c s = .next (finish h stNotSaveable s)) ∧
    (∀ w, s.img.active.lock = 0 → 80 ≤ w → w ≤ 165 →
      exec (.setPowerEnvelope h false w) s = .next (finish h stOk { s with host := { s.host with envelopeNext := some w } })) ∧
    (∀ w, s.img.active.lock = 1 → 80 ≤ w → w ≤ 165 → w ≤ s.img.active.envelopeW →
      exec (.setPowerEnvelope h false w) s = .next (finish h stOk { s with host := { s.host with envelopeNext := some w } })) ∧
    (∀ w, (w < 80 ∨ 165 < w ∨ (s.img.active.lock = 1 ∧ s.img.active.envelopeW < w) ∨ 1 < s.img.active.lock) →
      exec (.setPowerEnvelope h false w) s = .next (finish h stInvalidField s)) ∧
    (∀ d, firstBad (checks06 2 d) = none →
      exec (.setMediaPolicy h false d) s = .next (finish h stOk { s with host := { s.host with policyNext := some (parsePolicy d) } })) ∧
    (∀ d, (firstBad (checks06 2 d)).isSome = true → exec (.setMediaPolicy h false d) s = .next (finish h stInvalidField s)) ∧
    exec (.setPlainMembership h false) s = .next (finish h stNotChangeable s) ∧
    (∀ d, queryDefaultsOk d = true → exec (.setQueryDefaults h false d) s = .next (finish h stOk { s with host := { s.host with
      queryDefNext := some ⟨s.host.queryDef.centroids, s.host.queryDef.subspaces, s.host.queryDef.coarse, d.le 0 2, d.le 2 2, d.le 4 4,
        d.le 8 4, d.le 12 1⟩ } })) ∧
    (∀ d, queryDefaultsOk d = false → exec (.setQueryDefaults h false d) s = .next (finish h stInvalidField s)) ∧
    (∀ ps, ps ≤ 2 → exec (.setPowerManagement h false ps) s =
      .next (finish h stOk { s with host := { s.host with powerState := ps } })) ∧
    (∀ ps, 2 < ps → exec (.setPowerManagement h false ps) s = .next (finish h stInvalidField s)) ∧
    (∀ burst lpw mpw hpw, burst ≤ 7 → lpw ≤ 255 → mpw ≤ 255 → hpw ≤ 255 → exec (.setArbitration h false burst lpw mpw hpw) s =
      .next (finish h stOk { s with host := { s.host with arb := (burst, lpw, mpw, hpw) } })) ∧
    (∀ nsq ncq, exec (.setNumberOfQueues h false nsq ncq) s = .next (finishDw h stOk 0x01FF01FF s))

/-- Get Features (R105, R95, R386): the value in force with SEL 0, that of the image with SEL 1 and 2, and with SEL 3 whether the feature is
changeable. The values of a standalone drive are read by inference (log 80). -/
def Obligations.GetFeaturesReadsTheFeature : Prop :=
  ∀ (h : Hdr) (s : State), s.accepts h 0x0A = true →
    exec (.getFeatures h 0x01 0) s = .next (finishDw h stOk
      (s.host.arb.1 + 256 * s.host.arb.2.1 + 65536 * s.host.arb.2.2.1 + 16777216 * s.host.arb.2.2.2) s) ∧
    exec (.getFeatures h 0x02 0) s = .next (finishDw h stOk s.host.powerState s) ∧
    exec (.getFeatures h 0x07 0) s = .next (finishDw h stOk 0x01FF01FF s) ∧
    exec (.getFeatures h 0xC0 0) s = .next (finishDw h stOk s.host.envelopeW s) ∧
    exec (.getFeatures h 0xC1 0) s = .next (finishDw h stOk s.bell.timetable s) ∧
    exec (.getFeatures h 0xC2 0) s = .next (finishData h (policyBytes s.host.policy) s) ∧
    exec (.getFeatures h 0xC3 0) s = .next (finishData h (membershipData true s) s) ∧
    exec (.getFeatures h 0xC4 0) s = .next (finishData h (queryDefaultsData s.host.queryDef) s) ∧
    (∀ sel, sel = 1 ∨ sel = 2 →
      exec (.getFeatures h 0xC0 sel) s = .next (finishDw h stOk s.img.active.envelopeW s) ∧
      exec (.getFeatures h 0xC1 sel) s = .next (finishDw h stOk 0 s) ∧
      exec (.getFeatures h 0xC2 sel) s = .next (finishData h (policyBytes s.img.active.policy) s) ∧
      exec (.getFeatures h 0xC4 sel) s = .next (finishData h (queryDefaultsData s.img.active.idx) s)) ∧
    (∀ fid ∈ [0x01, 0x02, 0x07, 0xC0, 0xC1, 0xC2, 0xC4], exec (.getFeatures h fid 3) s = .next (finishDw h stOk 4 s)) ∧
    exec (.getFeatures h 0xC3 3) s = .next (finishDw h stOk 0 s) ∧
    (∀ fid sel, fid ∉ [0x01, 0x02, 0x07, 0xC0, 0xC1, 0xC2, 0xC3, 0xC4] → exec (.getFeatures h fid sel) s = .next (finish h stInvalidField s))

/-- Management commands (R109): in band through an admin command, or over SMBus while 3.3 V aux is present; the opcodes of R89 and R104 that an
endpoint may not send, and opcodes outside them, answer Invalid Command Opcode. An admin opcode outside R89 and R104 is refused. FRU data
(R417) are 256 bytes, answered while the endpoint serves SMBus from the offset asked for, as many as asked for and exist. That an endpoint
judges a carried admin command by its opcode alone, the layout of a response and that of the FRU data are the model's choices (logs 79 and
90). -/
def Obligations.ManagementCommandsAndOpcodes : Prop :=
  (∀ (h : Hdr) (s : State), s.accepts h 0x1D = true →
    exec (.nvmeMiSendReceive h .status) s = .next (finishData h (miStatus s) s) ∧
    exec (.nvmeMiSendReceive h .subsystemReset) s = .next (finish h stOk s) ∧
    (∀ ps, ps ≤ 2 → exec (.nvmeMiSendReceive h (.setPower ps)) s =
      .next (finish h stOk { s with host := { s.host with powerState := ps } })) ∧
    (∀ w, s.envelopeOk w = true → exec (.nvmeMiSendReceive h (.setEnvelope w)) s =
      .next (finish h stOk { s with host := { s.host with envelopeNext := some w } })) ∧
    (∀ op, op ∈ [0xC1, 0xC2, 0xCA] → exec (.nvmeMiSendReceive h (.admin op)) s = .next (finish h stInvalidOpcode s)) ∧
    (∀ op, adminOpcode op = false → exec (.nvmeMiSendReceive h (.admin op)) s = .next (finish h stInvalidOpcode s))) ∧
  (∀ (m : MiCmd) (s : State), s.power.mgmt = false → exec (.nvmeMiCommand m) s = .next s) ∧
  (∀ (s : State), s.power.mgmt = true → exec (.nvmeMiCommand .status) s = .next { s with host := { s.host with
    responses := s.host.responses ++ [(Blob.concat [fld 1 0, fld 1 0]).append (miStatus s)] } }) ∧
  (∀ (ps : Nat) (s : State), s.power.mgmt = true → s.up = true → s.fw.recovery = false → ps ≤ 2 →
    exec (.nvmeMiCommand (.setPower ps)) s = .next { s with host := { s.host with
      powerState := ps
      responses := s.host.responses ++ [(Blob.concat [fld 1 0, fld 1 0]).append (Blob.zero 0)] } }) ∧
  (∀ (h : Hdr) (op : Nat) (s : State), s.fetches h = true → h.sq = 0 →
    exec (.invalidCommandOpcode h op) s = .next (finish h stInvalidOpcode s)) ∧
  (∀ (ofst len : Nat) (s : State), s.fruData.len = 256 ∧
    (s.power.mgmt = true → ∃ t r, exec (.fruRead ofst len) s = .next t ∧ r.len = min len (256 - ofst) ∧
      (∀ i, i < r.len → r.byte i = s.fruData.byte (ofst + i)) ∧
      t = { s with host := { s.host with responses := s.host.responses ++ [r] } }) ∧
    (s.power.mgmt = false → exec (.fruRead ofst len) s = .next s))

/-- Get Log Page and Identify (R88, R430): the page as of the moment of the command, cut to the dwords asked for, whose events may be posted
again where RAE is clear; an unknown page or structure is refused. The pages, structures and cuts that the manual does not print are those
of NVM Express Base (logs 29 and 92). -/
def Obligations.LogPagesAndIdentify : Prop :=
  (∀ (h : Hdr) (lid numd lpo : Nat) (s : State), s.accepts h 0x02 = true →
    (∀ p, s.logPage lid = some p → numd < 524288 →
      exec (.getLogPage h lid numd lpo true) s =
        .next (finishData h (p.slice (4 * lpo) (4 * (numd + 1))) { s with free := s.free + p.len }) ∧
      exec (.getLogPage h lid numd lpo false) s =
        .next (finishData h (p.slice (4 * lpo) (4 * (numd + 1))) { s with
          free := s.free + p.len
          host := { s.host with
            masked := s.host.masked.filter (· != lid)
            waiting := s.host.waiting.filter fun e => e.lid != lid
            changedNs := if lid = 4 then [] else s.host.changedNs } })) ∧
    (∀ rae, s.logPage lid = none → exec (.getLogPage h lid numd lpo rae) s = .next (finish h stLogPage s)) ∧
    ((s.logPage lid).isSome = true ↔ lid ∈ [0x00, 0x01, 0x02, 0x03, 0x04, 0x06, 0x09, 0x81, 0xC0, 0xC1, 0xC2, 0xC3, 0xC4, 0xC5, 0xC6])) ∧
  (∀ (h : Hdr) (cns nsid : Nat) (s : State), s.accepts h 0x06 = true →
    (∀ d, s.identifyData cns nsid = .ok d → exec (.identify h cns nsid) s = .next (finishData h d s)) ∧
    (∀ st, s.identifyData cns nsid = .error st → exec (.identify h cns nsid) s = .next (finish h st s)))

/-- Namespaces (R90, R91, R303, R404): a creation takes the lowest free NSID and the slots of its size and draws a key pair; a deletion takes
the namespace and its key away; NSIDs 65 to 74 are refused; attachment changes one flag. The place of a namespace is the model's choice
(logs 39 and 40). -/
def Obligations.NamespacesAreManaged : Prop :=
  (∀ (h : Hdr) (nsze nsid base : Nat) (s : State), s.accepts h 0x0D = true →
    0 < nsze → nsze % 16 = 0 → (spanList 1 64).find? (fun i => (s.ns? i).isNone) = some nsid → nsze / 16 ≤ s.freeSlots →
    gapFor (s.slotLimit (nsze / 16)) (nsze / 16) 0 s.usedSpans = some base →
    exec (.namespaceManagement h (.create nsze nsze 0 0)) s = .next (finishDw h stOk nsid (sendTable { s with
      ns := ⟨s.ns.list ++ [⟨nsid, base, nsze / 16, false⟩]⟩
      sec := { s.sec with nsKeys := setKey nsid s.free s.sec.nsKeys }
      free := s.free + 1 }))) ∧
  (∀ (h : Hdr) (nsze : Nat) (s : State), s.accepts h 0x0D = true → 0 < nsze → nsze % 16 = 0 →
    (spanList 1 64).any (fun i => (s.ns? i).isNone) = true → s.freeSlots < nsze / 16 →
    exec (.namespaceManagement h (.create nsze nsze 0 0)) s = .next (finish h stNsCapacity s)) ∧
  (∀ (h : Hdr) (nsze ncap : Nat) (s : State), s.accepts h 0x0D = true → nsze ≠ ncap ∨ nsze = 0 ∨ nsze % 16 ≠ 0 →
    exec (.namespaceManagement h (.create nsze ncap 0 0)) s = .next (finish h stInvalidField s)) ∧
  (∀ (h : Hdr) (nsid : Nat) (s : State), s.accepts h 0x0D = true → 65 ≤ nsid → nsid ≤ 74 →
    exec (.namespaceManagement h (.delete nsid)) s = .next (finish h stInvalidField s)) ∧
  (∀ (h : Hdr) (nsid : Nat) (n : Ns) (s : State), s.accepts h 0x0D = true → s.ns? nsid = some n → ¬(65 ≤ nsid ∧ nsid ≤ 74) →
    nsid ≠ 0xFFFFFFFF → ∃ t, exec (.namespaceManagement h (.delete nsid)) s = .next (finish h stOk (sendTable t)) ∧
      t.ns.list = s.ns.list.filter (fun x => x.nsid != nsid) ∧ t.sec.nsKeys = dropKey nsid s.sec.nsKeys ∧
      t.host = s.host ∧ t.bell = s.bell ∧ t.img = s.img ∧ t.idx = s.idx ∧ t.power = s.power) ∧
  (∀ (h : Hdr) (nsid : Nat) (s : State), s.accepts h 0x15 = true →
    (65 ≤ nsid → nsid ≤ 74 → ∀ a, exec (.namespaceAttachment h nsid a) s = .next (finish h stInvalidField s)) ∧
    (¬(65 ≤ nsid ∧ nsid ≤ 74) → s.ns? nsid = none → ∀ a, exec (.namespaceAttachment h nsid a) s = .next (finish h stInvalidNs s)) ∧
    (∀ n, ¬(65 ≤ nsid ∧ nsid ≤ 74) → s.ns? nsid = some n →
      exec (.namespaceAttachment h nsid n.attached) s = .next (finish h (if n.attached then stNsAttached else stNsNotAttached) s) ∧
      exec (.namespaceAttachment h nsid (!n.attached)) s = .next (finish h stOk { s with
        ns := ⟨s.ns.list.map fun x => if x.nsid = nsid then { x with attached := !n.attached } else x⟩ })))

/-- Firmware updates (R394, R395): pieces are staged by offset; a commit of a whole image that verifies is put under way and ends with four
replicas; CA 010b changes nothing; the others are refused; and while a commit runs, a download or commit is refused. The pieces, and the
commit of a replica, are read by inference (log 88). -/
def Obligations.FirmwareIsStagedAndCommitted : Prop :=
  (∀ (h : Hdr) (ofst : Nat) (data : Blob) (s : State), s.accepts h 0x11 = true →
    (s.fw.commit.isSome = true → exec (.firmwareImageDownload h ofst data) s = .next (finish h stSequence s)) ∧
    (s.fw.commit = none → data.len ≠ 0 → data.len % 4096 = 0 → ofst % 4096 = 0 → ofst + data.len ≤ 67108864 →
      exec (.firmwareImageDownload h ofst data) s = .next (finish h stOk { s with fw := { s.fw with
        staged := (s.fw.staged.fit (max s.fw.staged.len (ofst + data.len))).overlaid ofst data
        pieces := insertAll (spanList (ofst / 4096) (data.len / 4096)) s.fw.pieces } })) ∧
    (s.fw.commit = none → data.len = 0 ∨ data.len % 4096 ≠ 0 ∨ ofst % 4096 ≠ 0 ∨ 67108864 < ofst + data.len →
      exec (.firmwareImageDownload h ofst data) s = .next (finish h stInvalidField s))) ∧
  (∀ (h : Hdr) (ca fs : Nat) (s : State), s.accepts h 0x10 = true →
    (s.fw.commit.isSome = true → ∀ c ∈ [Instr.firmwareCommitReplace h ca fs, .firmwareCommitNoAction h fs, .firmwareCommitRefused h ca fs],
      exec c s = .next (finish h stSequence s)) ∧
    (s.fw.commit = none → 1 < fs → ∀ c ∈ [Instr.firmwareCommitReplace h ca fs, .firmwareCommitNoAction h fs,
      .firmwareCommitRefused h ca fs], exec c s = .next (finish h stFwSlot s)) ∧
    (s.fw.commit = none → fs ≤ 1 →
      exec (.firmwareCommitNoAction h fs) s = .next (finish h stFwSubsystemReset s) ∧
      exec (.firmwareCommitRefused h ca fs) s = .next (finish h stInvalidField s) ∧
      (s.stagedFirmware = none → exec (.firmwareCommitReplace h ca fs) s = .next (finish h stFwImage s)) ∧
      (∀ i, s.stagedFirmware = some i → exec (.firmwareCommitReplace h ca fs) s =
        .next { begin' h .admin s with fw := { s.fw with commit := some ⟨some h, ca, i⟩ } }))) ∧
  (∀ (h : Hdr) (ca : Nat) (i : FwImage) (s : State), s.up = true → s.fw.recovery = false → s.fw.commit = some ⟨some h, ca, i⟩ →
    ∃ n, exec .firmwareCommitDone s = .next (finish h (if ca = 1 then stFwSubsystemReset else stOk) { s with
      nor := n
      fw := { s.fw with replicas := List.replicate 4 (some i), commit := none, rewrite := [] } }))

/-- Maintenance Unlock (R349, R401): a token that passes enters Maintenance state; one that fails is counted, with its reason in completion
dword 0; either way a new nonce is drawn. The nonce is a free value (log 8). -/
def Obligations.MaintenanceUnlockChecksTheToken : Prop :=
  ∀ (h : Hdr) (data : Blob) (s : State), s.accepts h 0xCA = true →
    (s.tokenFault (data.fit 4096) = none → exec (.maintenanceUnlock h data) s = .next (finish h stOk { s with
      nor := { s.nor with maint := true }
      sec := { s.sec with nonce := Config.draw128 s.free }
      free := s.free + 1 })) ∧
    (∀ r, s.tokenFault (data.fit 4096) = some r → exec (.maintenanceUnlock h data) s = .next (finishDw h stTokenRejected r { s with
      sec := { s.sec with
        rejects := min 255 (s.sec.rejects + 1)
        lastReject := r
        lastRejectBell := s.bell.count
        nonce := Config.draw128 s.free }
      free := s.free + 1 })) ∧
    (8 ≤ s.sec.rejects → bellsFrom s.sec.lastRejectBell s.bell.count < 1024 → s.tokenFault (data.fit 4096) = some 6) ∧
    (s.sec.rejects < 8 ∨ 1024 ≤ bellsFrom s.sec.lastRejectBell s.bell.count → ∀ t : Blob, t = data.fit 4096 →
      (¬(t.take 0 4 = [0x56#8, 0x51#8, 0x4D#8, 0x55#8] ∧ t.le 4 2 = 1 ∧ t.zeroAt 6 2 = true ∧ t.zeroAt 0x1C 4 = true ∧
        t.zeroAt 0xB0 3920 = true) → s.tokenFault t = some 1) ∧
      (t.take 0 4 = [0x56#8, 0x51#8, 0x4D#8, 0x55#8] → t.le 4 2 = 1 → t.zeroAt 6 2 = true → t.zeroAt 0x1C 4 = true →
        t.zeroAt 0xB0 3920 = true →
        (t.take 8 20 ≠ Config.serial → s.tokenFault t = some 2) ∧
        (t.take 8 20 = Config.serial →
          (BitVec.ofNat 128 (t.le 0x20 16) ≠ s.sec.nonce → s.tokenFault t = some 3) ∧
          (BitVec.ofNat 128 (t.le 0x20 16) = s.sec.nonce →
            (s.sec.ownerHash ≠ BitVec.allOnes 256 → keyHash (t.be 0x30 32) (t.be 0x50 32) ≠ s.sec.ownerHash → s.tokenFault t = some 4) ∧
            (s.sec.ownerHash = BitVec.allOnes 256 ∨ keyHash (t.be 0x30 32) (t.be 0x50 32) = s.sec.ownerHash →
              s.tokenFault t = if ecdsaOk (t.be 0x30 32) (t.be 0x50 32) (t.be 0x70 32) (t.be 0x90 32) (sha256 (t.take 0 0x30))
                then none else some 5)))))

/-- Retire Resource (R365, R366, R376): a bad descriptor is named and nothing changes; a good list is retired in order; a DRAM row goes into the
list of retired resources and the error log, and nothing else changes. The order of the checks is read by inference (log 81). -/
def Obligations.RetireResourceTakesRowsOut : Prop :=
  (∀ (h : Hdr) (data : Blob) (s : State), s.accepts h 0xC9 = true →
    (∀ i, (List.range (retireList data).length).find? (fun i => !(descriptorOk ((retireList data).getD i (Blob.zero 16)))) = some i →
      exec (.retireResource h data) s = .next (finishDw h stInvalidField i s)) ∧
    ((retireList data).all descriptorOk = true → retireList data ≠ [] → s.retireWaits ((retireList data).map resourceOf) = false →
      firstStanding s 0 [] ((retireList data).map resourceOf) = none →
      exec (.retireResource h data) s =
        .next (finish h stOk (((retireList data).map resourceOf).foldl (fun s r => retireOne r s) s)))) ∧
  (∀ (r : Resource) (s : State), r.type = 1 → s.isRetired r = false → s.spanTaken r = none →
    retireOne r s = logEvent 9 1 r { s with dies := { s.dies with retired := s.dies.retired ++ [r] } })

/-- Device Self-test, Format NVM and Sanitize (R89, R406, R407): a self-test records a result that the spec leaves open; a format unmaps and,
with SES 1h or 2h, draws new keys; a sanitize is refused in a plain and otherwise destroys keys, map and indexes, holds off other commands
until its end, and then serves them again. The time of a self-test, SES 0h and the moment at which keys go are the model's choices (logs 49,
48 and 91). -/
def Obligations.SelfTestFormatAndSanitize : Prop :=
  (∀ (h : Hdr) (s : State), s.accepts h 0x14 = true →
    (∀ stc, stc = 1 ∨ stc = 2 → ∃ r, exec (.deviceSelfTest h stc) s = .next (finish h stOk { s with
      host := { s.host with selfTests := ((stc, r) :: s.host.selfTests).take 20 }
      free := s.free + 1 })) ∧
    exec (.deviceSelfTest h 15) s = .next (finish h stOk s) ∧
    (∀ stc, stc ≠ 1 → stc ≠ 2 → stc ≠ 15 → exec (.deviceSelfTest h stc) s = .next (finish h stInvalidField s))) ∧
  (∀ (h : Hdr) (nsid ses : Nat) (s : State), s.accepts h 0x80 = true →
    (2 < ses → exec (.formatNvm h nsid ses) s = .next (finish h stInvalidField s)) ∧
    (∀ n, ses ≤ 2 → nsid ≠ 0xFFFFFFFF → s.ns.list.filter (fun x => x.nsid == nsid) = [n] →
      ∃ t, exec (.formatNvm h nsid ses) s = .next (finish h stOk (sendTable t)) ∧ t.ns = s.ns ∧ t.host = s.host ∧ t.bell = s.bell ∧
        t.idx = s.idx ∧ (ses ≠ 0 → t.sec.nsKeys = setKey nsid s.free s.sec.nsKeys) ∧ (ses = 0 → t.sec = s.sec))) ∧
  (∀ (h : Hdr) (s : State), s.accepts h 0x84 = true →
    (s.plain.own ≠ .standalone → exec (.sanitizeCryptoErase h) s = .next (finish h stSequence s) ∧
      exec (.sanitizeBlockErase h) s = .next (finish h stSequence s)) ∧
    (s.plain.own = .standalone → s.activateBusy = false → s.fw.commit = none → s.train.steps = [] →
      (∃ t, exec (.sanitizeCryptoErase h) s = .next t ∧ t.sec.sanitize = some ⟨false, s.bell.count, s.nor.nextSeq⟩ ∧
        t.ftl.map = [] ∧ t.ftl.buf = [] ∧ t.ftl.defers = [] ∧ t.idx.live = [] ∧ t.sec.idxKeys = [] ∧ t.bell = s.bell) ∧
      (∃ t, exec (.sanitizeBlockErase h) s = .next t ∧ t.sec.sanitize = some ⟨true, s.bell.count, s.nor.nextSeq⟩ ∧
        t.ftl.map = [] ∧ t.ftl.buf = [] ∧ t.ftl.defers = [] ∧ t.idx.live = [] ∧ t.sec.idxKeys = [] ∧ t.bell = s.bell))) ∧
  (∀ (z : Sanitize) (s : State), s.sec.sanitize = some z → s.up = true → ∃ t, exec .sanitizeDone s = .next t ∧
    t.sec = { s.sec with sanitize := none } ∧ t.host.rdy = s.host.en ∧ t.bell = s.bell ∧ t.idx = s.idx ∧
    (z.block = true → t.ftl.opens = [] ∧ t.ftl.progs = [] ∧ t.ftl.reads = [] ∧ t.ftl.jobs = [] ∧
      t.ftl.baseErases = s.ftl.baseErases + 1)) ∧
  (∀ (s : State), s.sec.sanitize = none → exec .sanitizeDone s = .next s)

/-- NVM Read of one LBA (R318, R362): from the write buffer it completes at once with the unit's bytes; from flash, a page read is put in
flight; of a lost unit it completes with Unrecovered Read Error; of an unmapped unit with bytes that the spec leaves open. Nothing is read
of a namespace that is not attached, or beyond its size. A Read with Proxy without PROXY set is an ordinary Read. Bytes left open are free
values (log 7). -/
def Obligations.ReadsComeFromBufferOrFlash : Prop :=
  ∀ (h : Hdr) (nsid slba : Nat) (s : State), s.acceptsIo h false = true →
    (∀ nlb, s.attached? nsid = none → exec (.nvmRead h nsid slba nlb) s = .next (finish h stInvalidNs s)) ∧
    (∀ nlb target, h.proxy = false → exec (.readWithProxy h nsid slba nlb target) s = exec (.nvmRead h nsid slba nlb) s) ∧
    (∀ n nlb, s.attached? nsid = some n → nlb < 512 → n.slots * 16 < slba + nlb + 1 →
      exec (.nvmRead h nsid slba nlb) s = .next (finish h stLbaRange s)) ∧
    (∀ n, s.attached? nsid = some n → slba < n.slots * 16 → (∀ j ∈ s.ftl.jobs, j.jid < s.ftl.nextId) →
      (∀ r ∈ s.ftl.reads, r.job < s.ftl.nextId) →
      (∀ p u, s.mapOf (s.slotOf n slba) = some (.phys p) → s.buffered p = some u → u.poison = [] → s.deferredLba n.nsid slba = false →
        exec (.nvmRead h nsid slba 0) s = .next (finishData h (u.data.slice (slba % 16 * 4096) 4096)
          (countDelivered 0 { begin' h .reading s with ftl := { s.ftl with nextId := s.ftl.nextId + 1 } }))) ∧
      (∀ p f, s.mapOf (s.slotOf n slba) = some (.phys p) → s.buffered p = none → lookupNat s.ftl.flash p = some f →
        (s.col (sbOf p) (chOf p)).erasing = none → s.erasingBeside (sbOf p) (chOf p) = none →
        (s.die (if chOf p < 16 then 1 else 2)).state ≠ .failed →
        ∃ t, exec (.nvmRead h nsid slba 0) s = .next t ∧
          t.ftl.reads = s.ftl.reads ++ [⟨s.ftl.nextId + 1, s.ftl.nextId, s.slotOf n slba, p, .hard, 0⟩] ∧
          t.ftl.jobs = s.ftl.jobs ++ [⟨s.ftl.nextId, .nvmRead h nsid slba 0, [s.slotOf n slba], []⟩] ∧
          t.ftl.map = s.ftl.map ∧ t.ftl.buf = s.ftl.buf ∧ t.ftl.flash = s.ftl.flash ∧
          t = { begin' h .reading s with ftl := t.ftl }) ∧
      (s.mapOf (s.slotOf n slba) = some .lost →
        ∃ d t, exec (.nvmRead h nsid slba 0) s = .next (finishUnrecovered h d nsid slba t) ∧ t.ftl.map = s.ftl.map ∧ t.mem = s.mem) ∧
      (s.mapOf (s.slotOf n slba) = none → s.deferredLba n.nsid slba = false →
        ∃ d t, exec (.nvmRead h nsid slba 0) s = .next (finishData h d t) ∧ t.ftl.map = s.ftl.map ∧ t.mem = s.mem))

/-- A Write, and a Write Zeroes, of one whole unit (R92, R318, R325): a slot of the host stream is taken, the buffer holds the new bytes, the
map entry of the unit names the slot, no other map entry changes, and the command completes. A Write to a read-only group or beyond the
namespace is refused. Which slot is taken is the model's choice (log 39). -/
def Obligations.WritesTakeASlotAndSetTheMap : Prop :=
  ∀ (h : Hdr) (nsid unit : Nat) (data : Blob) (n : Ns) (s : State), s.acceptsIo h false = true → s.attached? nsid = some n →
    n.nsid = nsid →
    (s.readOnly = true → s.reportDue nsid = false → unit < n.slots →
      exec (.nvmWrite h nsid (unit * 16) 15 data) s = .next (finish h stCapacity s) ∧
      exec (.writeZeroes h nsid (unit * 16) 15) s = .next (finish h stCapacity s)) ∧
    (n.slots ≤ unit → exec (.nvmWrite h nsid (unit * 16) 15 data) s = .next (finish h stLbaRange s) ∧
      exec (.writeZeroes h nsid (unit * 16) 15) s = .next (finish h stLbaRange s)) ∧
    (65536 ≤ data.len → unit < n.slots → s.readOnly = false → s.reportDue nsid = false → s.power.through = false → 0 < s.bufferRoom →
      (∀ j ∈ s.ftl.jobs, j.jid < s.ftl.nextId) → s.ns? nsid = some n →
      (∃ o, (s.ftl.opens.find? fun o => o.stream == .host) = some o ∧ ∃ ch ∈ s.live o.sb, o.row ch < 3072) →
      (∃ t p u, exec (.nvmWrite h nsid (unit * 16) 15 data) s = .next (finish h stOk t) ∧
        t.mapOf (s.lsnOf (n.base + unit)) = some (.phys p) ∧ (∀ l, l ≠ s.lsnOf (n.base + unit) → t.mapOf l = s.mapOf l) ∧
        u ∈ t.ftl.buf ∧ u.pslot = p ∧ u.lsn = s.lsnOf (n.base + unit) ∧ u.committed = false ∧
        (∀ i, i < 65536 → u.data.byte i = data.byte i) ∧
        t.mem.sram = s.mem.sram ∧ t.mem.dram = s.mem.dram ∧ t.bell = s.bell ∧ t.ns = s.ns ∧ t.idx = s.idx) ∧
      (∃ t p u, exec (.writeZeroes h nsid (unit * 16) 15) s = .next (finish h stOk t) ∧
        t.mapOf (s.lsnOf (n.base + unit)) = some (.phys p) ∧ (∀ l, l ≠ s.lsnOf (n.base + unit) → t.mapOf l = s.mapOf l) ∧
        u ∈ t.ftl.buf ∧ u.pslot = p ∧ u.lsn = s.lsnOf (n.base + unit) ∧ u.committed = false ∧
        (∀ i, i < 65536 → u.data.byte i = 0) ∧
        t.mem.sram = s.mem.sram ∧ t.mem.dram = s.mem.dram ∧ t.bell = s.bell ∧ t.ns = s.ns ∧ t.idx = s.idx))

/-- Dataset Management and Flush (R102, R107, R325): a range that covers one unit whole unmaps that unit and no other; without the deallocate
attribute nothing changes; a Flush does nothing to media and completes, or reports a deferred write error that is due. That a deferred error
comes before the read-only state is read by inference (log 38). -/
def Obligations.DeallocateUnmapsAndFlushReports : Prop :=
  (∀ (h : Hdr) (nsid unit : Nat) (n : Ns) (s : State), s.acceptsIo h false = true → s.attached? nsid = some n → unit < n.slots →
    exec (.datasetManagementDeallocate h nsid false [⟨unit * 16, 16⟩]) s = .next (finish h stOk s) ∧
    (s.readOnly = false →
      ∃ t, exec (.datasetManagementDeallocate h nsid true [⟨unit * 16, 16⟩]) s = .next (finish h stOk t) ∧
        t.mapOf (s.lsnOf (n.base + unit)) = none ∧ (∀ l, l ≠ s.lsnOf (n.base + unit) → t.mapOf l = s.mapOf l) ∧
        t.mem.sram = s.mem.sram ∧ t.mem.dram = s.mem.dram ∧ t.host = s.host ∧ t.bell = s.bell ∧ t.ftl.buf = s.ftl.buf ∧
        t.ftl.flash = s.ftl.flash) ∧
    (s.readOnly = true → exec (.datasetManagementDeallocate h nsid true [⟨unit * 16, 16⟩]) s = .next (finish h stCapacity s))) ∧
  (∀ (h : Hdr) (nsid : Nat) (s : State), s.acceptsIo h false = true →
    (nsid ≠ 0xFFFFFFFF → s.attached? nsid = none → exec (.flush h nsid) s = .next (finish h stInvalidNs s)) ∧
    ((s.attached? nsid).isSome = true ∨ nsid = 0xFFFFFFFF →
      (s.reportDue nsid = false → exec (.flush h nsid) s = .next (finish h stOk s)) ∧
      (s.reportDue nsid = true → ∃ t, exec (.flush h nsid) s = .next (finish h stDeferred t) ∧ t.reportDue nsid = false ∧
        t.host = s.host ∧ t.mem = s.mem ∧ t.ftl.map = s.ftl.map)))

/-- Read with Proxy (R307): in no plain, and of a member that does not exist, it is refused; of this member it is an ordinary Read; of another
Present member it is sent there and waits. -/
def Obligations.ProxyReadsGoToTheirMember : Prop :=
  ∀ (h : Hdr) (nsid slba nlb target : Nat) (s : State), s.acceptsIo h true = true → h.proxy = true →
    (s.members ≤ target → exec (.readWithProxy h nsid slba nlb target) s = .next (finish h stInvalidField s)) ∧
    (target < s.members → s.isMember = false → exec (.readWithProxy h nsid slba nlb target) s = .next (finish h stNotPresent s)) ∧
    (∀ e, target < s.members → s.isMember = true → target ≠ s.plain.member → s.tableEntry target nsid = some e → nlb < 512 →
      slba + nlb + 1 ≤ e.slots * 16 → (s.peer target).state ≠ .absent → (s.peer target).state ≠ .left →
      exec (.readWithProxy h nsid slba nlb target) s = .next (sendTo target 0 (.proxyRead ⟨s.plain.nextTag, nsid, slba, nlb⟩)
        { begin' h .reading s with plain := { s.plain with
            nextTag := s.plain.nextTag + 1
            proxies := s.plain.proxies ++ [⟨s.plain.nextTag, h, target, nsid, slba, nlb, [], []⟩] } }))

/-- Memory Write (R94, R120, R126, R361): the bytes of the span take the data and every other byte of both memory namespaces keeps its value; a
granule covered whole loses its poison mark and every other keeps it; nothing else changes but the completion. Each refusal changes nothing. -/
def Obligations.MemoryWriteStoresItsBytes : Prop :=
  ∀ (h : Hdr) (nsid ofst : Nat) (data : Blob) (s : State), s.acceptsIo h false = true →
    (nsid ≠ 73 → nsid ≠ 74 → exec (.memoryWrite h nsid ofst data) s = .next (finish h stInvalidNs s)) ∧
    (nsid = 73 ∨ nsid = 74 →
      (2097152 < data.len → exec (.memoryWrite h nsid ofst data) s = .next (finish h stInvalidField s)) ∧
      (data.len ≤ 2097152 → memLen nsid < ofst + data.len → exec (.memoryWrite h nsid ofst data) s = .next (finish h stLbaRange s)) ∧
      (data.len ≤ 2097152 → ofst + data.len ≤ memLen nsid → data.len ≠ 0 → s.inRange none nsid ofst data.len = false →
        exec (.memoryWrite h nsid ofst data) s = .next (finish h stInvalidField s)) ∧
      (data.len ≤ 2097152 → ofst + data.len ≤ memLen nsid → data.len ≠ 0 → s.inRange none nsid ofst data.len = true →
        s.spanLost nsid ofst data.len = true → exec (.memoryWrite h nsid ofst data) s = .next (finish h stAccess s)) ∧
      (data.len ≤ 2097152 → ofst + data.len ≤ memLen nsid → data.len ≠ 0 → s.inRange none nsid ofst data.len = true →
        s.spanLost nsid ofst data.len = false →
        ∃ t, exec (.memoryWrite h nsid ofst data) s = .next (finish h stOk t) ∧
          (∀ a, (t.ram nsid).cells.get a =
            if ofst ≤ a ∧ a < ofst + data.len then data.cells.get (a - ofst) else (s.ram nsid).cells.get a) ∧
          t.ram (147 - nsid) = s.ram (147 - nsid) ∧
          (t.ram nsid).poison = (s.ram nsid).poison.filter (fun g => !decide (ofst ≤ g * 64 ∧ g * 64 + 64 ≤ ofst + data.len)) ∧
          t = { s with mem := { s.mem with sram := t.mem.sram, dram := t.mem.dram } }))

/-- Memory Read (R94, R126, R362): the bytes of the span, unless a granule of it is poisoned or lost, in which case the command completes with
Unrecovered Read Error and the bytes of sound granules. No byte of memory changes. -/
def Obligations.MemoryReadReturnsTheBytes : Prop :=
  ∀ (h : Hdr) (nsid ofst len : Nat) (s : State), s.acceptsIo h false = true →
    (nsid ≠ 73 → nsid ≠ 74 → exec (.memoryRead h nsid ofst len) s = .next (finish h stInvalidNs s)) ∧
    (nsid = 73 ∨ nsid = 74 →
      (2097152 < len → exec (.memoryRead h nsid ofst len) s = .next (finish h stInvalidField s)) ∧
      (len ≤ 2097152 → memLen nsid < ofst + len → exec (.memoryRead h nsid ofst len) s = .next (finish h stLbaRange s)) ∧
      (len ≤ 2097152 → ofst + len ≤ memLen nsid → len ≠ 0 → s.spanLost nsid ofst len = false → (s.ram nsid).badBytes ofst len = [] →
        exec (.memoryRead h nsid ofst len) s = .next (finishData h ⟨len, (s.ram nsid).cells.slice ofst len⟩ s)) ∧
      (∀ b r, len ≤ 2097152 → ofst + len ≤ memLen nsid → s.spanLost nsid ofst len = false → (s.ram nsid).badBytes ofst len = b :: r →
        ∃ d t, exec (.memoryRead h nsid ofst len) s = .next (finishUnrecovered h d nsid (ofst + b) t) ∧ d.len = len ∧
          (∀ i, i < len → i ∉ (s.ram nsid).badBytes ofst len → d.byte i = (s.ram nsid).cells.get (ofst + i)) ∧
          t.mem = s.mem ∧ t.host = s.host ∧ t.ftl = s.ftl))

/-- Memory Copy (R94, R120, R362): between memory namespaces the destination takes the source's bytes as they were, and from an LBA that is
whole in the write buffer the unit's; every other byte keeps its value. A destination outside the range sets is refused. -/
def Obligations.MemoryCopyMovesTheBytes : Prop :=
  ∀ (h : Hdr) (nsid ofst : Nat) (s : State), s.acceptsIo h false = true → nsid = 73 ∨ nsid = 74 →
    (∀ ns o len, ns = 73 ∨ ns = 74 → len ≠ 0 → ofst + len ≤ memLen nsid → o + len ≤ memLen ns → s.inRange none nsid ofst len = false →
      exec (.memoryCopy h nsid ofst len (.mem ns o)) s = .next (finish h stInvalidField s)) ∧
    (∀ ns o len, ns = 73 ∨ ns = 74 → len ≠ 0 → ofst + len ≤ memLen nsid → o + len ≤ memLen ns → s.inRange none nsid ofst len = true →
      s.spanLost nsid ofst len = false → s.spanLost ns o len = false → (s.ram ns).badBytes o len = [] →
      ∃ t, exec (.memoryCopy h nsid ofst len (.mem ns o)) s = .next (finish h stOk t) ∧
        (∀ a, (t.ram nsid).cells.get a =
          if ofst ≤ a ∧ a < ofst + len then (s.ram ns).cells.get (o + (a - ofst)) else (s.ram nsid).cells.get a) ∧
        t.ram (147 - nsid) = s.ram (147 - nsid) ∧ t = { s with mem := { s.mem with sram := t.mem.sram, dram := t.mem.dram } }) ∧
    (∀ src n lba p u, s.attached? src = some n → s.ns? src = some n → lba < n.slots * 16 → ofst + 4096 ≤ memLen nsid →
      s.inRange none nsid ofst 4096 = true → s.spanLost nsid ofst 4096 = false →
      (∀ j ∈ s.ftl.jobs, j.jid < s.ftl.nextId) → s.mapOf (s.slotOf n lba) = some (.phys p) → s.buffered p = some u → u.poison = [] →
      s.deferredLba n.nsid lba = false →
      ∃ t, exec (.memoryCopy h nsid ofst 4096 (.nvm src lba 1)) s = .next (finish h stOk t) ∧
        (∀ a, (t.ram nsid).cells.get a =
          if ofst ≤ a ∧ a < ofst + 4096 then u.data.cells.get (lba % 16 * 4096 + (a - ofst)) else (s.ram nsid).cells.get a) ∧
        t.ram (147 - nsid) = s.ram (147 - nsid) ∧ t.ftl.map = s.ftl.map ∧ t.bell = s.bell)

/-- Memory Range Set Management (R120): a set whose ranges are valid and overlap nothing gets the lowest free identifier, which is completion
dword 0 (log 30); another is refused; a set is deleted by its classroom and identifier. -/
def Obligations.RangeSetsAreCreatedAndDeleted : Prop :=
  ∀ (h : Hdr) (room : Nat) (s : State), s.acceptsRoom h room = true →
    (∀ l, l ≠ [] → l.all memRangeOk = true → s.rangesClear l = true → s.quotaMode = false →
      exec (.memoryRangeSetCreate h room l) s = .next (finishDw h stOk s.freeRsid { s with mem := { s.mem with
        sets := s.mem.sets ++ [⟨room, s.freeRsid, l⟩] } })) ∧
    (∀ l, l = [] ∨ l.all memRangeOk = false ∨ s.rangesClear l = false →
      exec (.memoryRangeSetCreate h room l) s = .next (finish h stInvalidField s)) ∧
    (1 ≤ s.freeRsid ∧ ∀ r ∈ s.mem.sets, r.id ≠ s.freeRsid) ∧
    (∀ rsid, (∃ r ∈ s.mem.sets, r.room = room ∧ r.id = rsid) →
      exec (.memoryRangeSetDelete h room rsid) s = .next (finish h stOk { s with mem := { s.mem with
        sets := s.mem.sets.filter fun r => !(r.room == room && r.id == rsid) } })) ∧
    (∀ rsid, (∀ r ∈ s.mem.sets, ¬(r.room = room ∧ r.id = rsid)) →
      exec (.memoryRangeSetDelete h room rsid) s = .next (finish h stInvalidField s))

/-- Load Program (R93, R118, R244, R252): the checks in order, each with its status; an image that passes them is put into its slot, inactive,
in place of what stood there; an image of no bytes unloads the slot and frees its pinned segments (log 18). -/
def Obligations.ProgramsAreLoadedAndUnloaded : Prop :=
  ∀ (h : Hdr) (room pind : Nat) (image : Blob) (r : Room) (s : State), s.acceptsRoom h room = true → s.room? room = some r →
    (pind < 0x40 ∨ 0x40 + r.slots ≤ pind → exec (.loadProgram h room pind image) s = .next (finish h stInvalidField s)) ∧
    (∀ slot, pind = 0x40 + slot → slot < r.slots →
      (s.runsOf r.room slot ≠ [] → exec (.loadProgram h room pind image) s = .next (finish h stSequence s)) ∧
      (s.runsOf r.room slot = [] →
        (∀ l, image.len = 0 → s.lesson? r.room slot = some l →
          exec (.loadProgram h room pind image) s = .next (finish h stOk (unloadLesson l s)) ∧
          (unloadLesson l s).lesson? r.room slot = none ∧
          (∀ g ∈ (unloadLesson l s).mem.segs, g.owner ≠ .lesson r.room slot)) ∧
        (image.len ≠ 0 → lessonHeaderOk image = false ∨ lessonTrailerOk s.sec.ownerHash image = false →
          exec (.loadProgram h room pind image) s = .next (finish h stInvalidField s)) ∧
        (image.len ≠ 0 → lessonHeaderOk image = true → lessonTrailerOk s.sec.ownerHash image = true →
          lessonGranted s r (parseLesson r.room slot image) = false →
          exec (.loadProgram h room pind image) s = .next (finish h stNotGranted s)) ∧
        (∀ u, image.len ≠ 0 → lessonHeaderOk image = true → lessonTrailerOk s.sec.ownerHash image = true →
          lessonGranted s r (parseLesson r.room slot image) = true → lessonDescsOk (parseLesson r.room slot image) = true →
          semsAgree s (parseLesson r.room slot image) = true →
          placePinned r (parseLesson r.room slot image) ((s.lesson? r.room slot).elim s fun old => unloadLesson old s) = some u →
          exec (.loadProgram h room pind image) s = .next (finish h stOk (declareSems (parseLesson r.room slot image) u)) ∧
          (declareSems (parseLesson r.room slot image) u).lesson? r.room slot = some (parseLesson r.room slot image) ∧
          (parseLesson r.room slot image).active = false)))

/-- Program Activation Management and Execute Program (R93, R118, R243, R245, R372): activation marks the lesson; a run of an active lesson that
finds its engines and segments is admitted under the next number with the local semaphores of its image; a quarantined lesson answers
Program Faulted, and one that is missing or not active Invalid Field in Command. That an activation and its undoing only mark the lesson
follows the Computational Programs Command Set (log 18); the mapping to a die is the model's reading (log 53), the parameter block log 17. -/
def Obligations.LessonsAreActivatedAndRun : Prop :=
  (∀ (h : Hdr) (room slot : Nat) (a : Bool) (r : Room) (s : State), s.acceptsRoom h room = true → s.room? room = some r → slot < r.slots →
    (s.lesson? r.room slot = none →
      exec (.programActivationManagement h room (0x40 + slot) a) s = .next (finish h stInvalidField s)) ∧
    ((s.lesson? r.room slot).isSome = true →
      exec (.programActivationManagement h room (0x40 + slot) a) s = .next (finish h stOk { s with sched := { s.sched with
        lessons := s.sched.lessons.map fun l => if l.room = r.room ∧ l.slot = slot then { l with active := a } else l } }))) ∧
  (∀ (h : Hdr) (room slot : Nat) (p : ParamRef) (r : Room) (s : State), s.acceptsRoom h room = true → s.room? room = some r →
    slot < r.slots →
    (s.lesson? r.room slot = none → exec (.executeLesson h room (0x40 + slot) p) s = .next (finish h stInvalidField s)) ∧
    (∀ l, s.lesson? r.room slot = some l →
      (l.quarantined = true → exec (.executeLesson h room (0x40 + slot) p) s = .next (finish h stProgramFaulted s)) ∧
      (l.quarantined = false → l.active = false → exec (.executeLesson h room (0x40 + slot) p) s = .next (finish h stInvalidField s)) ∧
      (∀ b w die es, l.quarantined = false → l.active = true → paramBlock p s = .ok b → parseWindows b = some w →
        w.length ≤ s.windowLimit r.room → s.mapRun r l = some (die, es) → (∀ d ∈ l.segs, d.kind ≠ .working) →
        ∃ t run, exec (.executeLesson h room (0x40 + slot) p) s = .next (settle s.sched.nextRun t) ∧ run ∈ t.sched.runs ∧
          run.id = s.sched.nextRun ∧ run.hdr = h ∧ run.room = r.room ∧ run.slot = l.slot ∧ run.pri = l.pri ∧ run.die = die ∧
          run.engines = es ∧ run.sems = l.localInit ∧ run.windows = w ∧ run.done = 0 ∧ t.sched.nextRun = s.sched.nextRun + 1 ∧
          t.host = (begin' h .program s).host ∧ t.bell = s.bell ∧ t.mem.sram = s.mem.sram ∧ t.mem.dram = s.mem.dram)))

/-- Index programs (R106, R144, R154 to R168, R196, R197): a create, drop, train or delete that passes its checks commits one change, which is
published at the boundary of R81, and completes; an insert waits with its entries until INSERT_COMMIT commits them; Embed and Insert reads
its objects first; a fold makes a new version of its list; a dropped index that no query uses gives its space back. No published index
changes before its boundary. Each refusal names its status. That a training and a retrain take no time, and the samples that Embed counts,
are the model's choices (logs 56 and 62), and that every commit after that of a drop ends with Index Not Found is its reading (log 112). -/
def Obligations.IndexesAreBuiltAndChanged : Prop :=
  (∀ (h : Hdr) (room : Nat) (p : ParamRef) (s : State) (c : Instr), s.acceptsRoom h room = true →
    c = .indexCreate h room p ∨ c = .indexDrop h room p ∨ c = .indexTrain h room p ∨ c = .indexInsert h room p ∨ c = .indexDelete h room p →
    (∀ st, paramBlock p s = .error st → exec c s = .next (failProgram h st p s)) ∧
    (∀ b, paramBlock p s = .ok b → b.len < 0x20 → exec c s = .next (finish h stInvalidField s))) ∧
  (∀ (h : Hdr) (room : Nat) (p : ParamRef) (b : Blob) (s : State) (c : Instr), s.acceptsRoom h room = true → paramBlock p s = .ok b →
    0x20 ≤ b.len → c = .indexCreate h room p ∨ c = .indexDrop h room p →
    (1 < b.le 0 1 → exec c s = .next (finish h stInvalidField s)) ∧
    (∀ co, b.le 0 1 = 0 → co = orDefault 1 (b.le 9 1) s.host.queryDef.coarse →
      (s.createFieldsOk b = false → exec c s = .next (finish h stInvalidField s)) ∧
      (s.createFieldsOk b = true → (s.index? (b.le 1 1)).isSome = true → exec c s = .next (finish h stSequence s)) ∧
      (s.createFieldsOk b = true → s.index? (b.le 1 1) = none → 16 ≤ s.working.length → exec c s = .next (finish h stIndexLimit s)) ∧
      (s.createFieldsOk b = true → s.index? (b.le 1 1) = none → s.working.length < 16 → co = 1 → b.le 0x10 4 ≠ 0xFFFFFFFF →
        s.coarseFree < b.le 0x10 4 → exec c s = .next (finish h stNsCapacity s)) ∧
      (s.createFieldsOk b = true → s.index? (b.le 1 1) = none → s.working.length < 16 →
        co = 0 ∨ b.le 0x10 4 = 0xFFFFFFFF ∨ b.le 0x10 4 ≤ s.coarseFree →
        ∃ t ix, exec c s = .next (finish h stOk t) ∧ t.idx.queue = s.idx.queue ++ [⟨s.publishAt, .create ix⟩] ∧ t.idx.live = s.idx.live ∧
          ix.num = b.le 1 1 ∧ ix.dim = b.le 2 2 ∧ ix.m = orDefault 1 (b.le 8 1) s.host.queryDef.subspaces ∧
          ix.centroids = orDefault 4 (b.le 4 4) s.host.queryDef.centroids ∧ ix.metric = orDefault 1 (b.le 0xA 1) s.host.queryDef.metric ∧
          ix.attrLen = b.le 0xB 1 ∧ ix.full = b.le 0xC 1 ∧
          ix.state = .untrained ∧ ix.cent = none ∧ ix.lists = [] ∧ ix.pending = [] ∧
          ix.reserve = (if co = 0 then 0 else if b.le 0x10 4 = 0xFFFFFFFF then s.coarseFree else b.le 0x10 4) ∧
          t.ftl = s.ftl ∧ t.mem = s.mem)) ∧
    (b.le 0 1 = 1 →
      (15 < b.le 1 1 ∨ b.zeroAt 2 30 = false → exec c s = .next (finish h stInvalidField s)) ∧
      (b.le 1 1 ≤ 15 → b.zeroAt 2 30 = true →
        (s.index? (b.le 1 1) = none → exec c s = .next (finish h stIndexNotFound s)) ∧
        (∀ ix, s.index? (b.le 1 1) = some ix →
          (s.dropQueued ix.serial = true → exec c s = .next (finish h stOk s)) ∧
          (s.dropQueued ix.serial = false → ∃ t, exec c s = .next (finish h stOk t) ∧
            t.idx.queue = s.idx.queue ++ [⟨s.publishAt, .drop ix.serial⟩] ∧ t.idx.live = s.idx.live ∧ t.ftl = s.ftl ∧ t.mem = s.mem))))) ∧
  (∀ (h : Hdr) (room : Nat) (p : ParamRef) (b : Blob) (s : State), s.acceptsRoom h room = true → paramBlock p s = .ok b → 0x20 ≤ b.len →
    (indexTrainFieldsOk b = false → exec (.indexTrain h room p) s = .next (finish h stInvalidField s)) ∧
    (indexTrainFieldsOk b = true →
      (s.index? (b.le 0 1) = none → exec (.indexTrain h room p) s = .next (finish h stIndexNotFound s)) ∧
      (∀ ix, s.index? (b.le 0 1) = some ix →
        (s.readOnly = true → exec (.indexTrain h room p) s = .next (finish h stIndexReadOnly s)) ∧
        (s.readOnly = false → b.le 4 4 < ix.centroids ∨ b.le 4 4 < 256 ∨ 16777216 < b.le 4 4 →
          exec (.indexTrain h room p) s = .next (finish h stInvalidField s)) ∧
        (s.readOnly = false → ix.centroids ≤ b.le 4 4 → 256 ≤ b.le 4 4 → b.le 4 4 ≤ 16777216 →
          s.retraining ix.serial = true ∨ s.stepUses ix.num = true ∨ (b.le 1 1 = 0 ∧ 0 < ix.entryCount) ∨
            (b.le 1 1 = 1 ∧ ix.full ≠ 0 ∧ ix.state = .untrained) →
          exec (.indexTrain h room p) s = .next (finish h stSequence s)) ∧
        (∀ d xs it, s.readOnly = false → ix.centroids ≤ b.le 4 4 → 256 ≤ b.le 4 4 → b.le 4 4 ≤ 16777216 → s.retraining ix.serial = false →
          s.stepUses ix.num = false → b.le 1 1 = 0 → ix.entryCount = 0 →
          sourceBytes (b.le 8 4) (b.le 0x10 8) (b.le 4 4 * (ix.dim * compBytes (b.le 2 1))) s = .ok d →
          xs = (List.range (b.le 4 4)).map (fun i => readVec d (i * (ix.dim * compBytes (b.le 2 1))) ix.dim (b.le 2 1)) →
          it = (if b.le 3 1 = 255 then 20 else b.le 3 1) →
          (∀ x i, ((xs.zipIdx).find? fun x => vecBad ix.metric x.1) = some (x, i) →
            exec (.indexTrain h room p) s = .next (finishDw h stInvalidField i s)) ∧
          (xs.all (fun x => !(vecBad ix.metric x)) = true →
            (s.dropQueued ix.serial = true → exec (.indexTrain h room p) s = .next (finish h stIndexNotFound s)) ∧
            (s.dropQueued ix.serial = false → placeCents ix (trainData ix (BitVec.ofNat 64 (b.le 0x18 8)) it xs) s = none →
              exec (.indexTrain h room p) s = .next (finish h stNsCapacity s)) ∧
            (s.dropQueued ix.serial = false → (placeCents ix (trainData ix (BitVec.ofNat 64 (b.le 0x18 8)) it xs) s).isSome = true →
              ∃ t k, exec (.indexTrain h room p) s = .next (finish h stOk t) ∧
                t.idx.queue = s.idx.queue ++ [⟨s.publishAt, .train ix.serial k⟩] ∧ t.idx.live = s.idx.live ∧
                { k with lsns := [] } = trainData ix (BitVec.ofNat 64 (b.le 0x18 8)) it xs))) ∧
        (∀ n, s.readOnly = false → ix.centroids ≤ b.le 4 4 → 256 ≤ b.le 4 4 → b.le 4 4 ≤ 16777216 → s.retraining ix.serial = false →
          s.stepUses ix.num = false → b.le 1 1 = 1 →
          n = (ix.lists.flatMap fun l => (l.2.entries.zipIdx).filter fun e => !l.2.dead.contains e.2).length +
            (ix.pending.filter fun p => !p.dead).length →
          (ix.full = 0 ∨ (ix.state ≠ .untrained ∧ n < b.le 4 4) → exec (.indexTrain h room p) s = .next (finish h stInvalidField s)) ∧
          (ix.full ≠ 0 → ix.state ≠ .untrained → b.le 4 4 ≤ n → s.dropQueued ix.serial = true →
            exec (.indexTrain h room p) s = .next (finish h stIndexNotFound s)) ∧
          (ix.full ≠ 0 → ix.state ≠ .untrained → b.le 4 4 ≤ n → s.dropQueued ix.serial = false →
            exec (.indexTrain h room p) s = .next (finish h stNsCapacity s) ∨
            ∃ t k vs mv, exec (.indexTrain h room p) s = .next (finish h stOk t) ∧
              t.idx.queue = s.idx.queue ++ [⟨s.publishAt, .retrain ix.serial k vs mv⟩] ∧ t.idx.live = s.idx.live))))) ∧
  (∀ (h : Hdr) (room : Nat) (p : ParamRef) (b : Blob) (s : State), s.acceptsRoom h room = true → paramBlock p s = .ok b → 0x20 ≤ b.len →
    (insertFieldsOk b = false → exec (.indexInsert h room p) s = .next (finish h stInvalidField s)) ∧
    (insertFieldsOk b = true → b.le 4 4 = 0 → exec (.indexInsert h room p) s = .next (finish h stOk s)) ∧
    (insertFieldsOk b = true → b.le 4 4 ≠ 0 →
      (s.index? (b.le 0 1) = none → exec (.indexInsert h room p) s = .next (finish h stIndexNotFound s)) ∧
      (∀ ix, s.index? (b.le 0 1) = some ix →
        (s.readOnly = true → exec (.indexInsert h room p) s = .next (finish h stIndexReadOnly s)) ∧
        (s.readOnly = false → ix.cent = none → exec (.indexInsert h room p) s = .next (finish h stSequence s)) ∧
        (s.readOnly = false → ix.cent.isSome = true → 268435456 < b.le 4 4 * ix.pendBytes →
          exec (.indexInsert h room p) s = .next (finish h stInvalidField s)) ∧
        (∀ d, s.readOnly = false → ix.cent.isSome = true → b.le 4 4 * ix.pendBytes ≤ 268435456 →
          sourceBytes (b.le 8 4) (b.le 0x10 8) (b.le 4 4 * recordBytes ix (b.le 1 1)) s = .ok d →
          (∀ i, ((List.range (b.le 4 4)).find? fun i =>
              vecBad ix.metric (readVec d (i * recordBytes ix (b.le 1 1) + 8 + ix.attrLen) ix.dim (b.le 1 1))) = some i →
            exec (.indexInsert h room p) s = .next (finishDw h stInvalidField i s)) ∧
          ((List.range (b.le 4 4)).all (fun i =>
              !(vecBad ix.metric (readVec d (i * recordBytes ix (b.le 1 1) + 8 + ix.attrLen) ix.dim (b.le 1 1)))) = true →
            (4000000000 < s.entriesNow + b.le 4 4 → exec (.indexInsert h room p) s = .next (finish h stIndexLimit s)) ∧
            (s.entriesNow + b.le 4 4 ≤ 4000000000 →
              ∃ t w, exec (.indexInsert h room p) s = .next t ∧ t.idx.waiting = s.idx.waiting ++ [w] ∧ w.hdr = h ∧ w.serial = ix.serial ∧
                w.ents.length = b.le 4 4 ∧ w.rest = [] ∧
                (∀ i e, w.ents[i]? = some e → e.entry.id = BitVec.ofNat 64 (d.le (i * recordBytes ix (b.le 1 1)) 8) ∧
                  e.entry.attr = d.slice (i * recordBytes ix (b.le 1 1) + 8) ix.attrLen) ∧
                t.idx.live = s.idx.live ∧ t.idx.queue = s.idx.queue ∧ t.mem = s.mem ∧ t.ftl = s.ftl ∧
                t.host = (begin' h .program s).host)))))) ∧
  (∀ (wid : Nat) (s : State) (w : Waiting), s.up = true →
    ((∀ x ∈ s.idx.waiting, x.wid ≠ wid) → exec (.insertCommit wid) s = .next s) ∧
    ((s.idx.waiting.find? fun x => x.wid == wid) = some w →
      ((s.working.find? fun x => x.serial == w.serial) = none ∨ s.dropQueued w.serial = true → ∃ t, exec (.insertCommit wid) s = .next (finish w.hdr stIndexNotFound t) ∧
        t.idx.waiting = s.idx.waiting.filter (fun y => y.wid != wid) ∧ t.idx.queue = s.idx.queue) ∧
      (∀ ix, (s.working.find? fun x => x.serial == w.serial) = some ix → s.dropQueued w.serial = false →
        (536870912 < s.pendingUsed + w.ents.length * ix.pendBytes ∨ s.changeFits (w.ents.length * ix.pendBytes) = false ∨
            (w.confirmed = false ∧ s.mirrors ix = true) ∨ s.stepHolds ix.num = true →
          exec (.insertCommit wid) s = .next s) ∧
        (s.pendingUsed + w.ents.length * ix.pendBytes ≤ 536870912 → s.changeFits (w.ents.length * ix.pendBytes) = true →
          w.confirmed = true ∨ s.mirrors ix = false → s.stepHolds ix.num = false →
          (w.embed.isSome = true → 4000000000 < s.entriesNow + w.ents.length → ∃ t, exec (.insertCommit wid) s =
            .next (finish w.hdr stIndexLimit t) ∧ t.idx.waiting = s.idx.waiting.filter (fun y => y.wid != wid) ∧ t.idx.queue = s.idx.queue) ∧
          (w.embed = none ∨ s.entriesNow + w.ents.length ≤ 4000000000 → ∃ t es,
            t.idx.queue = s.idx.queue ++ [⟨s.publishAt, .insert ix.serial es⟩] ∧ es.map (·.num) = w.ents.map (·.num) ∧
            es.map (·.entry.id) = w.ents.map (·.entry.id) ∧ (∀ e ∈ es, e.bell = s.bell.count.toNat) ∧ t.idx.live = s.idx.live ∧
            (w.embed = none → t.mem = s.mem) ∧
            (w.rest = [] → exec (.insertCommit wid) s = .next (finish w.hdr stOk t) ∧
              t.idx.waiting = s.idx.waiting.filter (fun y => y.wid != wid)) ∧
            (w.rest ≠ [] → exec (.insertCommit wid) s = .next t ∧ t.host = s.host ∧
              ∃ x ∈ t.idx.waiting, x.wid = wid ∧ x.ents = w.rest.take 4096 ∧ x.rest = w.rest.drop 4096)))))) ∧
  (∀ (h : Hdr) (room : Nat) (p : ParamRef) (b : Blob) (s : State), s.acceptsRoom h room = true → paramBlock p s = .ok b → 0x20 ≤ b.len →
    (deleteFieldsOk b = false → exec (.indexDelete h room p) s = .next (finish h stInvalidField s)) ∧
    (deleteFieldsOk b = true → b.le 4 4 = 0 → exec (.indexDelete h room p) s = .next (finish h stOk s)) ∧
    (deleteFieldsOk b = true → b.le 4 4 ≠ 0 →
      (s.index? (b.le 0 1) = none → exec (.indexDelete h room p) s = .next (finish h stIndexNotFound s)) ∧
      (∀ ix d, s.index? (b.le 0 1) = some ix → sourceBytes (b.le 8 4) (b.le 0x10 8) (b.le 4 4 * 16) s = .ok d →
        (∀ i, ((List.range (b.le 4 4)).find? fun i => !(d.zeroAt (i * 16 + 12) 4) ||
            !(d.le (i * 16 + 8) 4 == 0xFFFFFFFF || decide (d.le (i * 16 + 8) 4 < ix.centroids))) = some i →
          exec (.indexDelete h room p) s = .next (finishDw h stInvalidField i s)) ∧
        ((List.range (b.le 4 4)).all (fun i => d.zeroAt (i * 16 + 12) 4 &&
            (d.le (i * 16 + 8) 4 == 0xFFFFFFFF || decide (d.le (i * 16 + 8) 4 < ix.centroids))) = true →
          (s.dropQueued ix.serial = true → exec (.indexDelete h room p) s = .next (finish h stIndexNotFound s)) ∧
          (s.dropQueued ix.serial = false → s.changeFits (b.le 4 4 * 16) = false →
            exec (.indexDelete h room p) s = .next (hold h (.indexDelete h room p) (.room 1) s)) ∧
          (s.dropQueued ix.serial = false → s.changeFits (b.le 4 4 * 16) = true →
            ∃ t m k, exec (.indexDelete h room p) s = .next (finishDw h stOk (min 0xFFFFFFFF (m.length + k.length)) t) ∧
              t.idx.queue = s.idx.queue ++ [⟨s.publishAt, .delete ix.serial m k⟩] ∧ t.idx.live = s.idx.live ∧ t.mem = s.mem ∧
              (∀ x ∈ m, ∃ v e, (x.1, v) ∈ ix.lists ∧ v.entries[x.2]? = some e ∧
                ∃ i, i < b.le 4 4 ∧ e.id = BitVec.ofNat 64 (d.le (i * 16) 8)) ∧
              (∀ x ∈ k, ∃ e ∈ ix.pending, e.num = x ∧ ∃ i, i < b.le 4 4 ∧ e.entry.id = BitVec.ofNat 64 (d.le (i * 16) 8))))))) ∧
  (∀ (serial : Nat) (s : State), ((∀ x ∈ s.idx.dropped, x.serial ≠ serial) ∨ s.indexUsed serial = true →
      exec (.indexSpaceFreed serial) s = .next s) ∧
    (∀ ix ∈ s.idx.dropped, ix.serial = serial → s.indexUsed serial = false → ∃ t, exec (.indexSpaceFreed serial) s = .next t ∧
      t.idx.dropped = s.idx.dropped.filter (fun y => y.serial != serial) ∧ t.idx.live = s.idx.live ∧
      t.sec.idxKeys = dropKey serial s.sec.idxKeys ∧ t.host = s.host ∧ t.mem = s.mem)) ∧
  (∀ (index l : Nat) (s : State), s.up = true →
    ((∀ x ∈ s.idx.live, x.num ≠ index) → exec (.listFold index l) s = .next s) ∧
    (∀ ix, (s.idx.live.find? fun x => x.num == index) = some ix →
      (s.readOnly = true ∨ s.ftl.exhausted = true ∨ s.stepHolds ix.num = true ∨ s.folding ix.serial l = true ∨ s.dropQueued ix.serial = true ∨
          ((ix.pending.filter fun p => p.list == l).length < 1024 ∧
            ∀ p ∈ ix.pending, p.list = l → s.bell.count.toNat < p.bell + 64) →
        exec (.listFold index l) s = .next s) ∧
      (∀ es q, s.readOnly = false → s.ftl.exhausted = false → s.stepHolds ix.num = false → s.folding ix.serial l = false →
        s.dropQueued ix.serial = false →
        1024 ≤ (ix.pending.filter fun p => p.list == l).length ∨ (∃ p ∈ ix.pending, p.list = l ∧ p.bell + 64 ≤ s.bell.count.toNat) →
        es = (ix.list l).entries ++ ((ix.pending.filter fun p => p.list == l && !p.dead).map (·.entry)) →
        ix.unitsFor es.length ≤ s.bufferRoom → (∃ co, placeList ix l ((ix.list l).version + 1) es (ix.list l).dead co [] s = some q ∧
          co = (ix.carries l && (ix.pending.filter fun p => p.list == l).all fun p => p.dead || p.hasCoarse)) → s.mirrors ix = false →
        ∃ t v mv, exec (.listFold index l) s = .next t ∧ t.idx.queue = s.idx.queue ++ [⟨s.publishAt, .fold ix.serial l v mv⟩] ∧
          v.version = (ix.list l).version + 1 ∧ v.entries = es ∧ v.dead = (ix.list l).dead ∧ t.idx.live = s.idx.live ∧ t.host = s.host))) ∧
  (∀ (h : Hdr) (room : Nat) (p : ParamRef) (r : Room) (s : State), s.acceptsRoom h room = true → s.room? room = some r →
    (r.valley = false ∨ r.me = 0 → exec (.embedAndInsert h room p) s = .next (finish h stAccess s)) ∧
    (r.valley = true → r.me ≠ 0 → s.power.supplySag = true →
      exec (.embedAndInsert h room p) s = .next (hold h (.embedAndInsert h room p) .resource s)) ∧
    (∀ b, r.valley = true → r.me ≠ 0 → s.power.supplySag = false → paramBlock p s = .ok b →
      (b.len < 0x40 ∨ s.embedFieldsOk room b = false → exec (.embedAndInsert h room p) s = .next (finish h stInvalidField s)) ∧
      (0x40 ≤ b.len → s.embedFieldsOk room b = true → b.le 4 4 = 0 → exec (.embedAndInsert h room p) s = .next (finish h stOk s)) ∧
      (0x40 ≤ b.len → s.embedFieldsOk room b = true → b.le 4 4 ≠ 0 →
        (s.index? (b.le 0 1) = none → exec (.embedAndInsert h room p) s = .next (finish h stIndexNotFound s)) ∧
        (∀ ix, s.index? (b.le 0 1) = some ix →
          (s.readOnly = true → exec (.embedAndInsert h room p) s = .next (finish h stIndexReadOnly s)) ∧
          (s.readOnly = false → ix.cent = none → exec (.embedAndInsert h room p) s = .next (finish h stSequence s)) ∧
          (∀ l recs refs jid u j, s.readOnly = false → ix.cent.isSome = true → b.le 0xC 2 = 0xFFFF ∨ b.le 0xC 2 + 4 ≤ ix.attrLen →
            s.lesson? room (b.le 1 1) = some l → l.quarantined = false → encoderOk l ix = true →
            sourceBytes (b.le 8 4) (b.le 0x10 8) (b.le 4 4 * embedRecord ix) s = .ok recs →
            refs = (List.range (b.le 4 4)).map (fun i => recs.slice (i * embedRecord ix) 32) →
            (∀ x i, ((refs.zipIdx).find? fun x => !(refOk s x.1)) = some (x, i) →
              exec (.embedAndInsert h room p) s = .next (finishDw h stInvalidField i s)) ∧
            (refs.all (refOk s) = true → refs.all (fun x => refSuits l (parseRef x)) = true →
              openJob (.embed h room b recs) ((refs.flatMap fun x => s.refSlots (parseRef x)).eraseDups) (begin' h .program s) = (jid, u) →
              u.job? jid = some j →
              (j.wait ≠ [] → exec (.embedAndInsert h room p) s = .next u) ∧
              (j.wait = [] → exec (.embedAndInsert h room p) s = .next (finishEmbed h room b recs j u))))))))

/-- Filtered Scan and Vector Query (R142 to R151, R169 to R186): a program that a check refuses completes with its status; a scan evaluates the
units of its range and ends with its header and records; each cut-off, once it is due, changes its run and before that does nothing; the
last share of a valley ends the query; a query of an index without centroids answers with no record; answers keep the order of the merge;
members serve their shard and the head takes their answers. The classroom in which a member serves a shard, the head's cut-offs and reads of
pieces are the model's readings (logs 64 and 65). -/
def Obligations.ScansAndQueriesRun : Prop :=
  (∀ (h : Hdr) (room : Nat) (p : ParamRef) (r : Room) (s : State) (c : Instr), s.acceptsRoom h room = true → s.room? room = some r →
    c = .filteredScan h room p ∨ c = .vectorQuery h room p →
    (r.valley = false → exec c s = .next (finish h stAccess s)) ∧
    (r.valley = true → (∀ st, paramBlock p s = .error st → exec c s = .next (failProgram h st p s)) ∧
      (∀ b, paramBlock p s = .ok b → b.len < 0x40 → exec c s = .next (finish h stInvalidField s)))) ∧
  (∀ (h : Hdr) (room : Nat) (p : ParamRef) (r : Room) (b : Blob) (s : State), s.acceptsRoom h room = true → s.room? room = some r →
    r.valley = true → paramBlock p s = .ok b → 0x40 ≤ b.len →
    (parseScan h room b s = none → exec (.filteredScan h room p) s = .next (finish h stInvalidField s)) ∧
    (∀ x, parseScan h room b s = some x → s.query.scans = [] → s.query.runs = [] → s.ftl.jobs = [] → s.ftl.reads = [] →
      (x.todo = [] → ∃ t, exec (.filteredScan h room p) s = .next (finish h stOk (memWrite x.outNsid x.outFirst
            (x.header.append (Blob.concat (x.recs.map ScanRec.blob))) t)) ∧
        t.query.scans = [] ∧ t.mem = s.mem ∧ t.ftl = s.ftl) ∧
      (∀ u n q d, x.todo = [u] → s.ns? x.nsid = some n → s.mapOf (s.slotOf n (u * 16)) = some (.phys q) → s.buffered q = some d →
        (∀ p, x.stop = some p → reached p s.pos = false) →
        ∃ t y, exec (.filteredScan h room p) s = .next (finish h stOk (memWrite x.outNsid x.outFirst
            (y.header.append (Blob.concat (y.recs.map ScanRec.blob))) t)) ∧
          y = scanUnit u ⟨s.slotOf n (u * 16), d.data, d.poison, false⟩ x ∧ t.query.scans = [] ∧ t.mem = s.mem ∧
          t.ftl.map = s.ftl.map))) ∧
  (∀ (r : ScanRun) (unit : Nat) (u : UnitData), r.matched = 0 → r.scanned = 0 → r.poisoned = 0 → r.recs = [] → u.lost = false → u.poison = [] →
    (scanUnit unit u r).scanned = r.perUnit ∧
    (scanUnit unit u r).matched = ((List.range r.perUnit).filter fun i => predsMatch r.preds (u.data.slice (i * 2 ^ r.shift) (2 ^ r.shift))).length ∧
    (r.mode = 1 → (scanUnit unit u r).recs.map (·.record) =
      (((List.range r.perUnit).filter fun i => predsMatch r.preds (u.data.slice (i * 2 ^ r.shift) (2 ^ r.shift))).take r.cap))) ∧
  (∀ (run : Nat) (s : State) (r : ScanRun),
    ((∀ x ∈ s.query.scans, x.id ≠ run) → exec (.scanDeadlineEnd run) s = .next s) ∧
    (s.query.scans = [r] → s.query.runs = [] → r.id = run →
      (r.stop = none ∨ (∃ p, r.stop = some p ∧ reached p s.pos = false) → exec (.scanDeadlineEnd run) s = .next s) ∧
      (∀ p, r.stop = some p → reached p s.pos = true →
        (r.busy = [] → ∃ t y, exec (.scanDeadlineEnd run) s = .next (finish r.hdr stOk (memWrite r.outNsid r.outFirst
            (y.header.append (Blob.concat (y.recs.map ScanRec.blob))) t)) ∧
          y = { r with skipped := r.skipped + r.todo.length, todo := [] } ∧ t.query.scans = [] ∧ t.mem = s.mem) ∧
        (r.busy ≠ [] → ∃ t y, exec (.scanDeadlineEnd run) s = .next t ∧ t.query.scans = [y] ∧ y.skipped = r.skipped + r.todo.length ∧
          y.todo = [] ∧ y.busy = r.busy ∧ y.recs = r.recs ∧ t = { s with query := t.query })))) ∧
  (∀ (h : Hdr) (room : Nat) (p : ParamRef) (r : Room) (b : Blob) (s : State), s.acceptsRoom h room = true → s.room? room = some r →
    r.valley = true → paramBlock p s = .ok b → 0x40 ≤ b.len →
    (queryFieldsOk b s = false → exec (.vectorQuery h room p) s = .next (finish h stInvalidField s)) ∧
    (queryFieldsOk b s = true → b.le 3 1 = 255 → r.me = 0 → exec (.vectorQuery h room p) s = .next (finish h stAccess s)) ∧
    (queryFieldsOk b s = true → b.le 3 1 ≠ 255 ∨ r.me ≠ 0 →
      (b.le 1 1 = 1 → s.isMember = false → exec (.vectorQuery h room p) s = .next (finish h stNotPresent s)) ∧
      (b.le 1 1 = 0 ∨ s.isMember = true →
        ((∀ x ∈ s.idx.live, x.num ≠ b.le 0 1) → exec (.vectorQuery h room p) s = .next (finish h stIndexNotFound s)) ∧
        (∀ ix k rr, (s.idx.live.find? fun x => x.num == b.le 0 1) = some ix → k = (queryParams b s).1 → rr = (queryParams b s).2.2.1 →
          (((rr ≠ 0 ∨ b.le 2 1 = 2) ∧ ix.full = 0) ∨ (b.le 0xA 1 ≠ 0 ∧ ix.attrLen = 0) →
            exec (.vectorQuery h room p) s = .next (finish h stInvalidField s)) ∧
          (∀ src vs, b.le 1 1 = 0 → b.le 3 1 ≠ 255 → b.le 0xA 1 = 0 → (rr = 0 ∧ b.le 2 1 ≠ 2) ∨ ix.full ≠ 0 → b.le 0x10 4 = 0 →
            b.le 4 2 * (64 + 32 * k) ≤ b.le 0x20 8 + 1 - b.le 0x18 8 →
            s.outputOk room (b.le 0x14 4) (b.le 0x18 8) (b.le 0x20 8 + 1 - b.le 0x18 8) = true →
            sourceBytes (b.le 0x30 4) (b.le 0x38 8) (b.le 4 2 * ix.dim * compBytes (b.le 3 1)) s = .ok src →
            (queryVectors ix.metric ix.dim (b.le 3 1) (b.le 4 2) src = none →
              exec (.vectorQuery h room p) s = .next (finish h stInvalidField s)) ∧
            (queryVectors ix.metric ix.dim (b.le 3 1) (b.le 4 2) src = some vs → ix.cent = none → 0 < k → s.query.runs = [] →
              s.query.scans = [] →
              ∃ t u, exec (.vectorQuery h room p) s = .next t ∧ t.host = (finish h stOk u).host ∧ u.host = (begin' h .program s).host ∧
                t.query.runs = [] ∧ (∀ i, i < b.le 4 2 → (t.ram (b.le 0x14 4)).cells.get (b.le 0x18 8 + i * (64 + 32 * k)) = 1 ∧
                  (t.ram (b.le 0x14 4)).cells.get (b.le 0x18 8 + i * (64 + 32 * k) + 4) = 0 ∧
                  (t.ram (b.le 0x14 4)).cells.get (b.le 0x18 8 + i * (64 + 32 * k) + 5) = 0) ∧
                t.idx.live = s.idx.live ∧ t.ftl.map = s.ftl.map)))))) ∧
  (∀ (s : State) (r : QRun) (i : Nat) (cs : List Cand) (k : QCounters), (answerAll s r)[i]? = some (cs, k) →
    cs.length ≤ r.k ∧ cs.Pairwise fun x y => mergeBefore y x = false) ∧
  (∀ (run : Nat) (s : State) (r : QRun),
    ((∀ x ∈ s.query.runs, x.id ≠ run) → (∀ n, exec (.queryFlashCutoff run) s = .next s ∧ exec (.queryCoarseCutoff run n) s = .next s ∧
      exec (.queryRerankCutoff run n) s = .next s) ∧ ∀ v, exec (.valleyShareEnd run v) s = .next s) ∧
    (s.qrun? run = some r →
      (r.cuts = none → ∀ n, exec (.queryFlashCutoff run) s = .next s ∧ exec (.queryCoarseCutoff run n) s = .next s ∧
        exec (.queryRerankCutoff run n) s = .next s) ∧
      (r.own = true → ∀ n, exec (.queryFlashCutoff run) s = .next s ∧ exec (.queryCoarseCutoff run n) s = .next s) ∧
      (r.cuts.isSome = true → r.own = false → ∃ t x, exec (.queryFlashCutoff run) s = .next t ∧ t = { s with query := t.query } ∧
        t.qrun? run = some x ∧ x.one.length = r.one.length ∧
        (∀ (i : Nat) (q : QOne), r.one[i]? = some q → (reached q.cf s.pos = false → x.one[i]? = some q) ∧
          (reached q.cf s.pos = true → ∃ y, x.one[i]? = some y ∧ y.cut = true ∧
            (q.cut = false → (∀ sh ∈ r.shares, ∀ z ∈ sh.pieces, z.users.Nodup) →
              ∀ sh ∈ x.shares, ∀ z ∈ sh.pieces, z.stage = 0 → i ∉ z.users)))) ∧
      (∀ cc rc e n, r.cuts = some (cc, rc, e) →
        (reached cc s.pos = false → exec (.queryCoarseCutoff run n) s = .next s) ∧
        (reached cc s.pos = true → r.own = false → ∃ t x, exec (.queryCoarseCutoff run n) s = .next t ∧ t.qrun? run = some x ∧
          x.coarseCut = some (r.coarseCut.getD n) ∧ (∀ q ∈ x.one, q.cut = true) ∧ x.own = false) ∧
        (reached rc s.pos = false → exec (.queryRerankCutoff run n) s = .next s) ∧
        (reached rc s.pos = true → s.query.runs = [r] →
          (r.own = false → ∃ t, exec (.queryRerankCutoff run n) s = .next t ∧ t = { s with query := t.query } ∧
            t.query.runs = [{ r with
              asked := []
              rerankCut := if r.rerank = 0 ∨ r.exhaustive = 2 then r.rerankCut else some (r.rerankCut.getD n) }]) ∧
          (∀ h a o g, r.own = true → r.reply = .host h a o g → ∃ t u, exec (.queryRerankCutoff run n) s = .next t ∧
            t.host = (finish h stOk u).host ∧ u.host = s.host ∧ t.query.runs = []))))) ∧
  (∀ (run v : Nat) (s : State) (r : QRun) (sh : QShare), s.up = true → s.query.runs = [r] → s.query.scans = [] → r.id = run → r.own = false →
    r.view.cent.isSome = true →
    ((∀ x ∈ r.shares, x.valley ≠ v ∨ x.ended = true ∨ ∃ p ∈ x.pieces, p.stage < 2) → exec (.valleyShareEnd run v) s = .next s) ∧
    (∀ h a o g, r.shares = [sh] → sh.valley = v → sh.ended = false → (∀ p ∈ sh.pieces, 2 ≤ p.stage) → r.asked = [] → r.reply = .host h a o g →
      ∃ t u, exec (.valleyShareEnd run v) s = .next t ∧ t.host = (finish h stOk u).host ∧ u.host = s.host ∧ t.query.runs = []) ∧
    (sh ∈ r.shares → sh.valley = v → sh.ended = false → (∀ p ∈ sh.pieces, 2 ≤ p.stage) →
      (∃ x ∈ r.shares, x.valley ≠ v ∧ x.ended = false) →
      ∃ t x, exec (.valleyShareEnd run v) s = .next t ∧ t.qrun? run = some x ∧ (∀ z ∈ x.shares, z.valley = v → z.ended = true))) ∧
  (∀ (port : Nat) (hd : FlitHdr) (s u : State), s.hears port hd = true → u = takeHeader port hd s →
    hd.dst.toNat = s.plain.member ∨ hd.dst = 0xFF#8 →
    (∀ q : PlainQuery, q.owner = s.plain.member → hd.src.toNat ≠ s.plain.member → (∀ x ∈ s.idx.live, x.num ≠ q.index) →
      exec (.plainWideQuery port hd q) s = .next (giveCredit port hd
        (sendTo hd.src.toNat 0 (.answer ⟨q.qid, q.owner, false, false, [], []⟩) u))) ∧
    (∀ (q : PlainQuery) ix, q.owner = s.plain.member → hd.src.toNat ≠ s.plain.member →
      (s.idx.live.find? fun x => x.num == q.index) = some ix →
      (ix.dim ≠ q.dim ∨ ix.m ≠ q.subspaces ∨ ix.metric ≠ q.metric → exec (.plainWideQuery port hd q) s = .next (giveCredit port hd
        (sendTo hd.src.toNat 0 (.answer ⟨q.qid, q.owner, false, false, [], []⟩) u))) ∧
      (ix.dim = q.dim → ix.m = q.subspaces → ix.metric = q.metric → ix.cent = none → s.query.runs = [] → s.query.scans = [] →
        ∃ v a, exec (.plainWideQuery port hd q) s = .next (giveCredit port hd v) ∧
          v.plain = (sendTo hd.src.toNat 0 (.answer a) u).plain ∧ a.qid = q.qid ∧ a.owner = q.owner ∧ a.answered = true ∧
          a.cands = q.vectors.map (fun _ => []) ∧ v.query.runs = [] ∧
          v.query.stats.sharesServed = bump64 s.query.stats.sharesServed ∧ v.host = s.host)) ∧
    (∀ a : MemberAnswer, (∀ r ∈ s.query.runs, r.id ≠ a.qid ∧ (r.own = false ∨ r.asked ≠ [])) →
      exec (.memberAnswer port hd a) s = .next (giveCredit port hd u)) ∧
    (∀ (a : MemberAnswer) (r : QRun), s.query.runs = [r] → r.id = a.qid → r.wide = true → a.owner ∈ r.asked →
      (r.own = false ∨ r.asked.erase a.owner ≠ [] → ∃ v, exec (.memberAnswer port hd a) s = .next (giveCredit port hd v) ∧
        v = { u with query := v.query } ∧ v.query.runs = [{ r with asked := r.asked.erase a.owner, answers := r.answers ++ [a] }]) ∧
      (∀ h n o g, r.own = true → r.asked.erase a.owner = [] → r.reply = .host h n o g → ∃ v w,
        exec (.memberAnswer port hd a) s = .next (giveCredit port hd v) ∧ v.host = (finish h stOk w).host ∧ w.host = s.host ∧
        v.query.runs = [])))

/-- Train Step (R191, R260 to R265, R276 to R282): its checks come in their order and each names its status; an admitted step starts its first
attempt, or first asks the other members; a bucket posted twice ends it with Program Faulted; a silent participant aborts the attempt, which
is then tried again with those that are ready or given up; a participant drops a step whose head is silent; at the end of the apply's copy
the staged weights stand in their place, the result header is written, LAST_STEP is the step's and the command completes. The order of the
checks, the refusal of a participant and the flits by which a head is heard are the model's readings (logs 74, 27 and 28). -/
def Obligations.TrainStepsRunByAttempts : Prop :=
  (∀ (h : Hdr) (room : Nat) (p : ParamRef) (r : Room) (s : State), s.acceptsRoom h room = true → s.room? room = some r →
    (∀ st, paramBlock p s = .error st → exec (.trainStep h room p) s = .next (failProgram h st p s)) ∧
    (∀ b, paramBlock p s = .ok b →
      (b.len < 0x80 ∨ trainFieldsOk s room b = false → exec (.trainStep h room p) s = .next (finish h stInvalidField s)) ∧
      (0x80 ≤ b.len → trainFieldsOk s room b = true →
        ((s.step? room).isSome = true → exec (.trainStep h room p) s = .next (finish h stSequence s)) ∧
        (s.step? room = none → r.train = false ∨ (b.le 1 1 = 1 ∧ r.plain = false) →
          exec (.trainStep h room p) s = .next (finish h stAccess s)) ∧
        (s.step? room = none → r.train = true → b.le 1 1 = 1 → r.plain = true → s.isMember = false →
          exec (.trainStep h room p) s = .next (finish h stNotPresent s)) ∧
        (s.step? room = none → r.train = true → (b.le 1 1 = 1 → r.plain = true ∧ s.isMember = true) →
          ((s.trainLesson room (b.le 0 1)).isSome = false → exec (.trainStep h room p) s = .next (finish h stInvalidField s)) ∧
          (∀ tb l, s.trainLesson room (b.le 0 1) = some l → sourceBytes (b.le 0x20 4) (b.le 0x28 8) (b.le 4 2 * 64) s = .ok tb →
            (b.le 7 1 = 1 → (∀ x ∈ s.idx.live, x.num ≠ b.le 0x14 1) →
              exec (.trainStep h room p) s = .next (finish h stIndexNotFound s)) ∧
            (∀ st, (b.le 7 1 = 1 → ∃ x ∈ s.idx.live, x.num = b.le 0x14 1) → s.tableFault room (b.le 2 1) (b.le 1 1) (b.le 4 2) tb = some st →
              exec (.trainStep h room p) s = .next (finish h st s)) ∧
            (∀ d i, s.tableFault room (b.le 2 1) (b.le 1 1) (b.le 4 2) tb = none → b.le 7 1 = 2 →
              sourceBytes (b.le 0x10 4) (b.le 0x18 8) (b.le 8 4 * 32) s = .ok d →
              ((List.range (b.le 8 4)).find? fun i => !(refOk s (d.slice (i * 32) 32)) || (parseRef (d.slice (i * 32) 32)).sample != 0) = some i →
              exec (.trainStep h room p) s = .next (finishDw h stInvalidField i s)) ∧
            (s.tableFault room (b.le 2 1) (b.le 1 1) (b.le 4 2) tb = none → (b.le 7 1 = 1 → ∃ x ∈ s.idx.live, x.num = b.le 0x14 1) →
              (b.le 7 1 = 2 → ∃ d, sourceBytes (b.le 0x10 4) (b.le 0x18 8) (b.le 8 4 * 32) s = .ok d ∧
                ∀ i, i < b.le 8 4 → refOk s (d.slice (i * 32) 32) = true ∧ (parseRef (d.slice (i * 32) 32)).sample = 0) →
              ∃ t x, exec (.trainStep h room p) s = .next t ∧ t.step? room = some x ∧ x.hdr = some h ∧ x.head = s.me ∧
                x.stepId.toNat = b.le 0xC 4 ∧ x.admitBell = s.bell.count ∧ x.admitTick = s.bell.tick ∧
                (∀ q, q ≠ room → t.step? q = s.step? q) ∧ t.train.lastStep = s.train.lastStep ∧ t.ns = s.ns ∧ t.bell = s.bell ∧
                (b.le 1 1 = 0 → x.phase = .running ∧ x.attempt = 1 ∧ x.participants = [s.me]) ∧
                (b.le 1 1 = 1 → s.plain.member = s.me → (∃ m, m ≠ s.me ∧ m < s.members ∧ s.isPresent m = true) →
                  x.phase = .checking ∧ x.attempt = 0 ∧
                    ∀ m, m ∈ x.asked ↔ (m ≠ s.me ∧ m < s.members ∧ s.isPresent m = true)))))))) ∧
  (∀ (room bucket : Nat) (s : State) (t : TStep) (b : Bucket), s.up = true → s.step? room = some t → t.bucket? bucket = some b →
    (t.phase ≠ .running ∨ t.run = none → exec (.bucketReady room bucket) s = .next s) ∧
    (t.phase = .running → t.run.isSome = true → b.ready = true →
      (∀ h, s.heads t = true → t.hdr = some h → ∃ v, exec (.bucketReady room bucket) s = .next (finish h stProgramFaulted
          (memWrite t.outNsid t.outFirst (stepHeader t 2 t.loss 0) v)) ∧ v.step? room = none ∧ v.train.lastStep = s.train.lastStep) ∧
      (s.heads t = false → ∃ v, exec (.bucketReady room bucket) s = .next v ∧ v.step? room = none ∧ v.host = s.host))) ∧
  (∀ (room : Nat) (s : State) (t : TStep), s.step? room = some t → s.up = true →
    ((∀ c, t.phase ≠ .copying c) ∨ s.dieServes 0 = false ∨ s.dieServes 3 = false ∨ s.dieServes 4 = false →
      exec (.applyCopyDone room) s = .next s) ∧
    (∀ c h, t.phase = .copying c → s.dieServes 0 = true → s.dieServes 3 = true → s.dieServes 4 = true → s.heads t = true → t.hdr = some h →
      ∃ v, exec (.applyCopyDone room) s = .next (finish h stOk (memWrite t.outNsid t.outFirst (stepHeader t 0 t.loss c.toNat) v)) ∧
        v.step? room = none ∧ v.train.lastStep = modifyAt s.train.lastStep room (fun _ => t.stepId) ∧
        (∀ b n o m q, t.buckets = [b] → b.kind = 0 → t.opt = 0 → memSpan b.next (b.elems * b.wBytes) = some (n, o) →
          memSpan b.weight (b.elems * b.wBytes) = some (m, q) → ∀ i, i < b.elems * b.wBytes →
            (v.ram m).cells.get (q + i) = (s.ram n).cells.get (o + i)))) ∧
  (∀ (room bucket p : Nat) (s : State) (t : TStep) (b : Bucket) (o l : Nat), s.up = true → s.step? room = some t → s.heads t = true →
    t.phase = .running → p ∈ t.participants → t.bucket? bucket = some b → b.opened = some o → lookupNat t.heard p = some l →
    (p ∈ b.commits ∨ min (ticksFrom o s.pos) (ticksFrom l s.pos) < s.img.active.watch.bucketTimeout →
      exec (.bucketTimeout room bucket p) s = .next s) ∧
    (p ∉ b.commits → s.img.active.watch.bucketTimeout ≤ min (ticksFrom o s.pos) (ticksFrom l s.pos) →
      ∃ v x, exec (.bucketTimeout room bucket p) s = .next v ∧ v.step? room = some x ∧ x.phase = .aborted ∧ x.abortAt = s.pos ∧
        x.run = none ∧ x.timeouts = min 255 (t.timeouts + 1) ∧ x.attempt = t.attempt ∧
        (∀ y ∈ x.buckets, y.ready = false ∧ y.reduced = none ∧ y.commits = []) ∧ v.train.lastStep = s.train.lastStep)) ∧
  (∀ (room : Nat) (s : State) (t : TStep) (h : Hdr), s.up = true → s.step? room = some t → s.heads t = true → t.phase = .aborted →
    t.hdr = some h → s.me ∈ t.readyFrom →
    ((∃ p ∈ t.participants, p ∉ t.readyFrom) → ticksFrom t.abortAt s.pos < s.img.active.watch.bucketTimeout →
      exec (.attemptRestart room) s = .next s) ∧
    ((∀ p ∈ t.participants, p ∈ t.readyFrom) ∨ s.img.active.watch.bucketTimeout ≤ ticksFrom t.abortAt s.pos →
      (t.maxAttempts ≤ t.attempt → ∃ v, exec (.attemptRestart room) s = .next (finish h stGenDropped
          (memWrite t.outNsid t.outFirst (stepHeader t 2 t.loss 0) v)) ∧ v.step? room = none ∧ v.train.lastStep = s.train.lastStep) ∧
      (t.attempt < t.maxAttempts → t.scope = 1 → 1 < t.count → t.participants.filter t.readyFrom.contains = [s.me] →
        ∃ v, exec (.attemptRestart room) s = .next (finish h stNotPresent v) ∧ v.step? room = none ∧
          v.train.lastStep = s.train.lastStep) ∧
      (t.attempt < t.maxAttempts → t.scope = 0 ∨ t.count ≤ 1 ∨ t.participants.filter t.readyFrom.contains ≠ [s.me] →
        ∃ v x, exec (.attemptRestart room) s = .next v ∧ v.step? room = some x ∧ x.phase = .running ∧ x.attempt = t.attempt + 1 ∧
          x.participants = t.participants.filter t.readyFrom.contains ∧
          x.dropped = (t.dropped || t.participants.any fun p => !t.readyFrom.contains p) ∧ v.train.lastStep = s.train.lastStep))) ∧
  (∀ (room : Nat) (s : State) (t : TStep), s.up = true → s.step? room = some t → s.heads t = false →
    (s.img.active.watch.bucketTimeout ≤ ticksFrom t.headHeard s.pos → (∀ c, t.phase ≠ .applyAt c ∧ t.phase ≠ .copying c) →
      ∃ v, exec (.headSilenceTimeout room) s = .next v ∧ v.step? room = none ∧ (∀ q, q ≠ room → v.step? q = s.step? q) ∧
        v.train.lastStep = s.train.lastStep ∧ v.host = s.host) ∧
    (ticksFrom t.headHeard s.pos < s.img.active.watch.bucketTimeout ∨ (∃ c, t.phase = .applyAt c ∨ t.phase = .copying c) →
      exec (.headSilenceTimeout room) s = .next s) ∧
    (t.phase = .running → s.servesAttempt t = true →
      exec (.trainProgressSend room) s = .next (sendTo t.head 0 (.train (.progress room t.attempt)) s)) ∧
    (t.phase ≠ .running ∨ s.servesAttempt t = false → exec (.trainProgressSend room) s = .next s))

/-- The reduction of gradient buckets (R260, R267 to R272, R310): no sum of up to 24 participants' integers overflows, so the sum is exact and
does not depend on the order of its terms; flits of another attempt are dropped and counted; a scale flit is raised by this participant's
exponent and sent on, or kept until the bucket is ready; a chunk still being summed takes this participant's values and goes on; control
messages act on the attempt that they name, and an apply bell that has come already discards the step. The path of the flits around the
participants is the model's reading (log 73). -/
def Obligations.BucketsAreReducedExactly : Prop :=
  (∀ (p : Nat) (e : BitVec 32) (l : List F32), l.length ≤ p → p ≤ 24 → (∀ g ∈ l, ∀ x, expOf g = some x → x ≤ e.toInt) →
    (l.foldl (fun a g => a + toFx64 (sharedExp p e) g) 0).toInt = l.foldl (fun a g => a + (toFx64 (sharedExp p e) g).toInt) 0) ∧
  (∀ (e : Int) (k l : List F32), k.Perm l →
    k.foldl (fun a g => a + toFx64 e g) 0 = l.foldl (fun a g => a + toFx64 e g) 0) ∧
  (∀ (port : Nat) (hd : FlitHdr) (s u : State), s.hears port hd = true → u = takeHeader port hd s →
    hd.dst.toNat = s.plain.member ∨ hd.dst = 0xFF#8 →
    (∀ f : ScaleFlit, u.flitStep f.room f.stepId f.attempt f.bucket = none →
      exec (.reductionScale port hd f) s = .next (giveCredit port hd (stale u))) ∧
    (∀ f : SumFlit, u.flitStep f.room f.stepId f.attempt f.bucket = none →
      exec (.reductionSum port hd f) s = .next (giveCredit port hd (stale u))) ∧
    (∀ (f : ScaleFlit) (t : TStep) (b : Bucket), u.flitStep f.room f.stepId f.attempt f.bucket = some (t, b) → f.lap = 1 → s.heads t = false →
      1 < t.count →
      (b.ready = true → ∃ v, exec (.reductionScale port hd f) s = .next (giveCredit port hd (sendTo (s.nextIn t) 0 (.scale
          { f with e := maxExp f.e (bucketExp (s.gradients b).1 (s.gradients b).2), room := t.room }) v)) ∧ v.mem = s.mem ∧ v.plain = u.plain) ∧
      (b.ready = false → ∃ v x y, exec (.reductionScale port hd f) s = .next (giveCredit port hd v) ∧ v.step? f.room = some x ∧
          x.bucket? f.bucket = some y ∧ y.exps = [(hd.src.toNat, f.e)] ∧ y.eMax = b.eMax ∧ v.mem = s.mem)) ∧
    (∀ (f : SumFlit) (t : TStep) (b : Bucket), u.flitStep f.room f.stepId f.attempt f.bucket = some (t, b) → f.whole = false →
      b.eMax.isSome = true → s.placeIn t ≠ f.chunk →
      ∃ v, exec (.reductionSum port hd f) s = .next (giveCredit port hd (sendTo (s.nextIn t) 0 (.sum
          { f with values := (f.values.zip (s.ownChunk t b f.chunk)).map fun x => x.1 + x.2, whole := false }) v)) ∧
        v.mem = s.mem ∧ v.plain = u.plain) ∧
    (∀ (room a k : Nat), (∀ t, s.step? room = some t → t.attempt ≠ a) →
      exec (.trainStepMessage port hd (.progress room a)) s = .next (giveCredit port hd (stale u)) ∧
      exec (.trainStepMessage port hd (.commit room a k)) s = .next (giveCredit port hd (stale u)) ∧
      exec (.trainStepMessage port hd (.abort room a)) s = .next (giveCredit port hd (stale u)) ∧
      exec (.trainStepMessage port hd (.ready room a)) s = .next (giveCredit port hd (stale u)) ∧
      exec (.trainStepMessage port hd (.applyBell room a k)) s = .next (giveCredit port hd (stale u))) ∧
    (∀ (room : Nat) (t : TStep), s.step? room = some t →
      (s.heads t = true → ∃ v x, exec (.trainStepMessage port hd (.progress room t.attempt)) s = .next (giveCredit port hd v) ∧
        v.step? room = some x ∧ lookupNat x.heard hd.src.toNat = some s.pos ∧ x.phase = t.phase ∧ v.mem = s.mem) ∧
      (s.heads t = true → t.phase = .aborted → ∃ v x, exec (.trainStepMessage port hd (.ready room t.attempt)) s = .next (giveCredit port hd v) ∧
        v.step? room = some x ∧ hd.src.toNat ∈ x.readyFrom ∧ (∀ m ∈ t.readyFrom, m ∈ x.readyFrom) ∧ v.mem = s.mem) ∧
      (t.head = hd.src.toNat → t.phase = .running → (∀ n, 2 ^ 47 ≤ bellsFrom (BitVec.ofNat 48 n) s.bell.count → ∃ v x,
          exec (.trainStepMessage port hd (.applyBell room t.attempt n)) s = .next (giveCredit port hd v) ∧ v.step? room = some x ∧
          x.phase = .applyAt (BitVec.ofNat 48 n) ∧ v.mem = s.mem) ∧
        (∀ n, bellsFrom (BitVec.ofNat 48 n) s.bell.count < 2 ^ 47 → ∃ v,
          exec (.trainStepMessage port hd (.applyBell room t.attempt n)) s = .next (giveCredit port hd v) ∧ v.step? room = none ∧
          v.train.lastStep = s.train.lastStep) ∧
        (∃ v x, exec (.trainStepMessage port hd (.abort room t.attempt)) s = .next (giveCredit port hd v) ∧ v.step? room = some x ∧
          x.phase = .aborted ∧ x.run = none ∧ v.train.lastStep = s.train.lastStep)) ∧
      (∀ n l, t.head = hd.src.toNat → s.heads t = false → s.me ∉ l →
        ∃ v, exec (.trainStepMessage port hd (.attempt room n l)) s = .next (giveCredit port hd v) ∧ v.step? room = none)))

/-- Vector operations by lane (R219, R222, R228, R230): each lane of the destination takes the operation's result on the same lanes of its
sources, poisoned where one of them is; every other register stays. An operation that the run may not issue changes nothing. Results of
INT32 lanes are exact where the format holds them; bitwise operations, shifts below 32 places, minima and maxima are what their names say.
Results that the spec does not state are free values (log 58). -/
def Obligations.VectorOperationsWorkByLane : Prop :=
  (∀ (run vu dst a b c : Nat) (s : State),
     (s.mayIssue run (.vu vu) = false →
       (∀ op ty, exec (.vuArithmetic run vu op ty dst a b c) s = .next s) ∧ exec (.vuFusedMultiplyAdd run vu dst a b c) s = .next s ∧
       (∀ op, exec (.vuIntegerLogic run vu op dst a b) s = .next s) ∧ (∀ op, exec (.vuDivideSqrt run vu op dst a b) s = .next s) ∧
       (∀ op, exec (.vuTranscendental run vu op dst a) s = .next s)) ∧
     (s.mayIssue run (.vu vu) = true → vu < s.eng.vu.length →
       (∀ op ty, op ≠ .select → op ≠ .abs →
         VuWrites run vu dst (fun i => laneArith op ty ((s.vu vu).lane a i) ((s.vu vu).lane b i) 0)
           (fun i => (s.vu vu).bad a i || (s.vu vu).bad b i) s (exec (.vuArithmetic run vu op ty dst a b c) s)) ∧
       (∀ ty, VuWrites run vu dst (fun i => if Config.selects ((s.vu vu).lane c i) then (s.vu vu).lane a i else (s.vu vu).lane b i)
           (fun i => (s.vu vu).bad a i || ((s.vu vu).bad b i || (s.vu vu).bad c i)) s (exec (.vuArithmetic run vu .select ty dst a b c) s)) ∧
       (∀ ty, VuWrites run vu dst (fun i => laneArith .abs ty ((s.vu vu).lane a i) 0 0) (fun i => (s.vu vu).bad a i) s
           (exec (.vuArithmetic run vu .abs ty dst a b c) s)) ∧
       VuWrites run vu dst (fun i => ffma ((s.vu vu).lane a i) ((s.vu vu).lane b i) ((s.vu vu).lane c i))
         (fun i => (s.vu vu).bad a i || ((s.vu vu).bad b i || (s.vu vu).bad c i)) s (exec (.vuFusedMultiplyAdd run vu dst a b c) s) ∧
       (∀ op, VuWrites run vu dst (fun i => laneLogic op ((s.vu vu).lane a i) ((s.vu vu).lane b i))
         (fun i => (s.vu vu).bad a i || (s.vu vu).bad b i) s (exec (.vuIntegerLogic run vu op dst a b) s)) ∧
       VuWrites run vu dst (fun i => laneDiv .div ((s.vu vu).lane a i) ((s.vu vu).lane b i))
         (fun i => (s.vu vu).bad a i || (s.vu vu).bad b i) s (exec (.vuDivideSqrt run vu .div dst a b) s) ∧
       (∀ op, op ≠ .div → VuWrites run vu dst (fun i => laneDiv op ((s.vu vu).lane a i) 0) (fun i => (s.vu vu).bad a i) s
         (exec (.vuDivideSqrt run vu op dst a b) s)) ∧
       (∀ op, VuWrites run vu dst (fun i => transF32 op ((s.vu vu).lane a i)) (fun i => (s.vu vu).bad a i) s
         (exec (.vuTranscendental run vu op dst a) s)))) ∧
  (∀ (x y z : BitVec 32),
     (-2147483648 ≤ x.toInt + y.toInt → x.toInt + y.toInt ≤ 2147483647 → laneArith .add .int32 x y z = x + y) ∧
     (-2147483648 ≤ x.toInt - y.toInt → x.toInt - y.toInt ≤ 2147483647 → laneArith .sub .int32 x y z = x - y) ∧
     (-2147483648 ≤ x.toInt * y.toInt → x.toInt * y.toInt ≤ 2147483647 → laneArith .mul .int32 x y z = x * y) ∧
     (laneArith .min .int32 x y z).toInt = min x.toInt y.toInt ∧ (laneArith .max .int32 x y z).toInt = max x.toInt y.toInt ∧
     (x ≠ BitVec.intMin 32 → (laneArith .abs .int32 x y z).toInt = x.toInt.natAbs) ∧
     laneLogic .and x y = x &&& y ∧ laneLogic .or x y = x ||| y ∧ laneLogic .xor x y = x ^^^ y ∧
     (y.toNat < 32 → laneLogic .shl x y = x <<< y.toNat ∧ laneLogic .shr x y = x >>> y.toNat ∧
       (laneLogic .sar x y).toInt = x.toInt / 2 ^ y.toNat))

/-- Loads and stores, reductions, table lookups and scatter-adds (R219, R220, R222, R227, R234): a load puts converted elements into lanes, a
store their bytes into tier 0 with their poison, a reduction its result into lane 0 (log 16), a lookup the table entry of each lane, a
scatter-add adds at its address; a load changes nothing else of memory but the age of a cached segment that it reads; a load or store
outside the classroom's segments ends the run with Access Denied and counts it. -/
def Obligations.VectorLoadsStoresAndReductions : Prop :=
  ∀ (run vu : Nat) (r : Run) (s : State), s.mayIssue run (.vu vu) = true → vu < s.eng.vu.length → s.run? run = some r →
    (∀ ty fmt f reg addr lanes ns o, Fmt.ofCode fmt = some f → f ≠ .fx64 → 0 < lanes → lanes ≤ 64 →
      memSpan addr.toNat (fmtBytes fmt lanes) = some (ns, o) → onDie0 (engineDie (.vu vu)) addr.toNat false = true →
      (∀ x, (claim (.vu vu) run s).run? run = some x →
        (claim (.vu vu) run s).accessOk x addr.toNat (fmtBytes fmt lanes) false = true) →
      ∃ t, exec (.vuFormatConversion run vu false ty fmt reg addr none lanes) s = .next (opDone run t) ∧
        (∀ i, i < lanes → (t.vu vu).lane reg i = loadLane f ty 0 (rowCode f (memRead ns o (fmtBytes fmt lanes) s) i)) ∧
        (∀ q i, q ≠ reg → i < 64 → (t.vu vu).lane q i = (s.vu vu).lane q i) ∧
        t.mem.agesAside = s.mem.agesAside ∧ t.host = s.host ∧ t.bell = s.bell) ∧
    (∀ ty fmt f reg addr lanes ns o, Fmt.ofCode fmt = some f → f ≠ .int4 → f ≠ .fx64 → 0 < lanes → lanes ≤ 64 →
      memSpan addr.toNat (fmtBytes fmt lanes) = some (ns, o) → onDie0 (engineDie (.vu vu)) addr.toNat false = true →
      (∀ x, (claim (.vu vu) run s).run? run = some x →
        (claim (.vu vu) run s).accessOk x addr.toNat (fmtBytes fmt lanes) true = true) →
      (∀ i, i < lanes → (s.vu vu).bad reg i = false) →
      ∃ t, exec (.vuFormatConversion run vu true ty fmt reg addr none lanes) s = .next (opDone run t) ∧
        t.mem = (memWrite ns o (packRow f ((List.range lanes).map fun i => storeLane f ty 0 ((s.vu vu).lane reg i))) s).mem ∧
        t.eng = s.eng ∧ t.host = s.host ∧ t.bell = s.bell) ∧
    (∀ store ty fmt f reg addr scale lanes ns o x, Fmt.ofCode fmt = some f → memSpan addr.toNat (fmtBytes fmt (min lanes 64)) = some (ns, o) →
      (claim (.vu vu) run s).run? run = some x →
      (claim (.vu vu) run s).accessOk x addr.toNat (fmtBytes fmt (min lanes 64)) store = false →
      exec (.vuFormatConversion run vu store ty fmt reg addr scale lanes) s = .next (denyRun run (claim (.vu vu) run s)) ∧
        (denyRun run (claim (.vu vu) run s)).mem.stats.denied = bump32 s.mem.stats.denied) ∧
    (∀ op ty dst first count, VuWrites run vu dst
      (fun i => if i = 0 then reduceOut op (reduceAll op ty (((spanList first count).filter (· < 32)).flatMap fun q =>
        (List.range 64).map fun j => (s.vu vu).lane q j)) else (s.vu vu).lane dst i)
      (fun i => if i = 0 then ((spanList first count).filter (· < 32)).any fun q => (List.range 64).any fun j => (s.vu vu).bad q j
        else (s.vu vu).bad dst i) s (exec (.vuReduction run vu op ty dst first count) s)) ∧
    (∀ dst idx wide width base, VuWrites run vu dst
      (fun i => BitVec.ofNat 32 (leNat ((spanList ((base + ((s.vu vu).lane idx i).toNat % (if wide then 65536 else 256) * width) % 65536)
        (min width 4)).map fun a => gatherAt (s.vu vu) run vu (a % 65536))))
      (fun i => (s.vu vu).bad idx i || (s.vu vu).gather.poisoned
        ((base + ((s.vu vu).lane idx i).toNat % (if wide then 65536 else 256) * width) % 65536) width) s
      (exec (.vuTableLookup run vu dst idx wide width base) s)) ∧
    (∀ ty val idx base ns o, memSpan (scatterAddr base.toNat ((s.vu vu).lane idx 0)) 4 = some (ns, o) →
      onDie0 (engineDie (.vu vu)) (scatterAddr base.toNat ((s.vu vu).lane idx 0)) false = true →
      (∀ x, (claim (.vu vu) run s).run? run = some x →
        (claim (.vu vu) run s).accessOk x (scatterAddr base.toNat ((s.vu vu).lane idx 0)) 4 true = true) →
      (s.vu vu).bad val 0 = false → (s.vu vu).bad idx 0 = false → (s.ram ns).badBytes o 4 = [] →
      ∃ t, exec (.vuScatterAdd run vu ty val idx base 1) s = .next (opDone run t) ∧
        t.mem = (memWrite ns o (fld 4 (laneAdd ty (BitVec.ofNat 32 ((memRead ns o 4 s).le 0 4)) ((s.vu vu).lane val 0)).toNat) s).mem ∧
        t.eng = s.eng ∧ t.host = s.host ∧ t.bell = s.bell)

/-- Fills (R204, R207, R214): a fill whose accesses are allowed puts its sums on the array and a drain behind the others; the end of the oldest
drain takes it off and ends its operation. -/
def Obligations.FillsAndDrains : Prop :=
  (∀ (run mxa : Nat) (d : Blob) (r : Run) (s : State), s.mayIssue run (.mxa mxa) = true → s.run? run = some r → mxa < s.eng.mxa.length →
    fillFieldsOk (engineDie (.mxa mxa)) d (parseFill d) = true → fillFollows (s.mxa mxa) (parseFill d) = true →
    (parseFill d).waitSem = 255 → (∀ (x : Run) (t : State), t.mem = s.mem → t.img = s.img → t.ns = s.ns → x.room = r.room → x.windows = r.windows →
      fillAllowed t x (parseFill d) = true) →
    ∃ t, exec (.fill run mxa d) s = .next t ∧
      (t.mxa mxa).acc = (if (parseFill d).drain then [] else (fillResult s (s.mxa mxa) (parseFill d)).1) ∧
      (t.mxa mxa).drains = (s.mxa mxa).drains ++ [⟨run, d,
        if (parseFill d).drain then (fillResult s (s.mxa mxa) (parseFill d)).1 else [],
        if (parseFill d).drain then (fillResult s (s.mxa mxa) (parseFill d)).2.1 else [], (parseFill d).float⟩] ∧
      t.mem.agesAside = s.mem.agesAside ∧ t.host = s.host ∧ t.bell = s.bell ∧ t.eng.vu = s.eng.vu) ∧
  (∀ (mxa : Nat) (x : Drain) (l : List Drain) (s : State), s.up = true → s.dieServes (engineDie (.mxa mxa)) = true →
    mxa < s.eng.mxa.length → (s.mxa mxa).drains = x :: l → (parseFill x.desc).drain = false → (parseFill x.desc).postSem = 255 →
    ∃ t, exec (.fillDrainDone mxa) s = .next (opDone x.run t) ∧ (t.mxa mxa).drains = l ∧ (t.mxa mxa).acc = (s.mxa mxa).acc ∧
      t = { s with eng := t.eng }) ∧
  (∀ (mxa : Nat) (x : Drain) (l : List Drain) (s : State), s.up = true → s.dieServes (engineDie (.mxa mxa)) = true →
    (s.mxa mxa).drains = x :: l → ∃ t, writeDrain mxa s = some (x.run, (parseFill x.desc).postSem, t) ∧
      exec (.fillDrainDone mxa) s = .next (endOp x.run (parseFill x.desc).postSem t))

/-- Moves (R218, R234): an allowed move of one row of tier 1 takes the row in, converted; its end writes the rows of a move and frees the mover.
What a move finds in host memory is a free value (log 44). -/
def Obligations.MovesReadThenWrite : Prop :=
  (∀ (run mover : Nat) (d : Blob) (r : Run) (s : State), s.mayIssue run (.mover mover) = true → s.run? run = some r →
    moveFieldsOk (engineDie (.mover mover)) d (parseMove d) = true → mover < s.eng.movers.length →
    s.eng.movers.getD mover none = none → (parseMove d).waitSem = 255 → (parseMove d).rows = 1 →
    (∃ o, placeOf (parseMove d).srcAddr = some (.dram o) ∧ o + (parseMove d).srcBytes ≤ len74) →
    (∀ (x : Run) (t : State), t.mem.agesAside = s.mem.agesAside → t.img = s.img → t.ns = s.ns → x.room = r.room → x.windows = r.windows →
      t.accessOk x (parseMove d).srcAddr (parseMove d).srcBytes false = true ∧
      t.accessOk x (parseMove d).dstAddr (parseMove d).dstBytes true = true) →
    ∃ t m, exec (.move run mover d) s = .next t ∧ t.eng.movers.getD mover none = some m ∧ m.run = run ∧ m.desc = d ∧ m.job = none ∧
      m.req = none ∧ (∀ o, placeOf (parseMove d).srcAddr = some (.dram o) →
        m.rows = [(convertRow (parseMove d) (memRead 74 o (parseMove d).srcBytes s) (s.mem.dram.badBytes o (parseMove d).srcBytes)).1]) ∧
      t.mem.agesAside = s.mem.agesAside ∧ t.host = s.host ∧ t.bell = s.bell) ∧
  (∀ (mover : Nat) (m : Moving) (s : State), s.up = true → s.dieServes (engineDie (.mover mover)) = true →
    s.eng.movers.getD mover none = some m → m.job = none → m.rows ≠ [] → m.req = none →
    exec (.moveDone mover) s = .next (endOp m.run (parseMove m.desc).postSem (setMover mover none (writeMove m s))))

/-- Semaphores (R250, R251, R253): a wait takes a unit where there is one and else blocks its engine; a post that nobody waits for raises the
count by one; a wait of 1,024 bells is counted once. -/
def Obligations.SemaphoresCountAndBlock : Prop :=
  (∀ (run : Nat) (e : Engine) (sem : Nat) (r : Run) (s : State), s.mayIssue run e = true → s.run? run = some r →
    (0 < s.semCount r sem → 32 ≤ sem → ∃ t, exec (.semaphoreWait run e sem) s = .next t ∧ t.semCount r sem = s.semCount r sem - 1 ∧
      (∃ x, t.run? run = some x ∧ x.holds = r.holds ++ [sem] ∧ x.waits = r.waits) ∧ t.host = s.host ∧ t.mem = s.mem ∧ t.bell = s.bell) ∧
    (0 < s.semCount r sem → sem < 32 → sem < r.sems.length → ∃ t x, exec (.semaphoreWait run e sem) s = .next t ∧ t.run? run = some x ∧
      x.sems.getD sem 0 = r.sems.getD sem 0 - 1 ∧ x.holds = r.holds ∧ t.host = s.host ∧ t.mem = s.mem ∧ t.bell = s.bell) ∧
    (s.semCount r sem = 0 → sem < 32 → ∃ t x, exec (.semaphoreWait run e sem) s = .next t ∧ t.run? run = some x ∧
      x.waits = r.waits ++ [⟨e, sem, s.bell.count.toNat, false, none⟩] ∧ t.holder e ≠ some run ∧ t.host = s.host ∧ t.mem = s.mem)) ∧
  (∀ (run sem : Nat) (r : Run) (s : State), s.run? run = some r → s.up = true → r.rerun = false → s.dieServes r.die = true →
    32 ≤ sem → s.semCount r sem < 65535 → (∀ x ∈ s.sched.runs, x.waits = []) →
    ∃ t, exec (.semaphorePost run sem) s = .next t ∧ t.semCount r sem = s.semCount r sem + 1 ∧
      (∃ x, t.run? run = some x ∧ x.holds = r.holds.erase sem) ∧ t.host = s.host ∧ t.mem = s.mem ∧ t.bell = s.bell) ∧
  (∀ (run : Nat) (e : Engine) (r : Run) (w : Wait) (s : State), s.run? run = some r →
    (r.waits.find? fun w => w.engine == e && !w.counted && decide (w.since + 1024 ≤ s.bell.count.toNat)) = some w →
    ∃ t, exec (.longSemWait run e) s = .next t ∧ t.sched.longWaits = min (s.sched.longWaits + 1) 4294967295 ∧ t = { s with sched := t.sched })

/-- Who holds an engine (R247, R248, R249): at a safe point a ready run of higher priority takes it and the pre-emption is counted; an idle
engine goes to the ready run of the highest key; a run ready for 16 bells takes it whoever holds it, and keeps it for one slice whatever the
key of the others. -/
def Obligations.EnginesPassOnAtSafePoints : Prop :=
  (∀ (e : Engine) (s : State), s.atSafePoint e = false → exec (.safePoint e) s = .next s) ∧
  (∀ (e : Engine) (x : Run) (s : State), s.atSafePoint e = true → s.slot? e = none → s.topRun (s.readyOn e) = some x →
    exec (.safePoint e) s = .next (takeAndResume e x.id s)) ∧
  (∀ (e : Engine) (id stop : Nat) (r x : Run) (s : State), s.atSafePoint e = true → s.slot? e = some ⟨e, some id, stop, false⟩ →
    s.run? id = some r → s.topRun ((s.readyOn e).filter fun y => s.outranks y r && s.rank y != s.rank r) = some x →
    ∃ t, exec (.safePoint e) s = .next (takeAndResume e x.id t) ∧ t.sched.preemptions = min (s.sched.preemptions + 1) 18446744073709551615 ∧
      t = { s with sched := t.sched }) ∧
  (∀ (e : Engine) (id stop : Nat) (r x : Run) (s : State), s.atSafePoint e = true → s.slot? e = some ⟨e, some id, stop, false⟩ →
    s.run? id = some r → reached stop s.pos = true →
    s.topRun ((s.readyOn e).filter fun y => s.outranks y r && s.rank y != s.rank r) = none → s.nextEqual e r = some x →
    exec (.sliceEnd e) s = .next (takeAndResume e x.id (makeReady id e s))) ∧
  (∀ (e : Engine) (run since : Nat) (r : Run) (s : State), s.run? run = some r → s.atSafePoint e = true → r.rerun = false →
    (e, since) ∈ r.ready → since + 16 ≤ s.bell.count.toNat → r.resume = [] →
    ∃ t, exec (.starveGrant e run) s = .next t ∧
      t.slot? e = some ⟨e, some run, s.pos + (s.room? r.room).elim 0 Room.slice, true⟩ ∧
      t.sched.starveGrants = min (s.sched.starveGrants + 1) 4294967295 ∧ t = { s with sched := t.sched }) ∧
  (∀ (e : Engine) (run stop : Nat) (r : Run) (s : State), s.slot? e = some ⟨e, some run, stop, true⟩ → s.run? run = some r →
    reached stop s.pos = false →
    exec (.safePoint e) s = .next s)

/-- Send blocks and failed reads of host memory (R125, R255): a block of a lesson that may send is recorded and its flits go out on the port; a
run that may read a window ends with Data Transfer Error, which is counted. -/
def Obligations.SendsAndTier3Failures : Prop :=
  (∀ (run port vc flits : Nat) (r : Run) (l : Lesson) (m : Room) (s : State), s.run? run = some r → s.lesson? r.room r.slot = some l →
    s.up = true → l.sends = true → r.rerun = false → s.room? r.room = some m → m.plain = true → vc = 1 ∨ vc = 3 → 1 ≤ flits →
    flits ≤ 192 → (s.port port).state = .up →
    exec (.sendBlock run port vc flits) s = .next (opDone run (sendMany port vc flits
      { s with sched := { s.sched with sends := s.sched.sends ++ [(port, vc, flits)] } }))) ∧
  (∀ (run : Nat) (r : Run) (w : Window) (s : State), s.run? run = some r → s.up = true → w ∈ r.windows → w.access.testBit 0 = true →
    exec (.tier3ReadFailed run) s = .next (endRun run stDataTransfer { s with mem := { s.mem with stats := { s.mem.stats with
      failT3 := min (s.mem.stats.failT3 + 1) 4294967295 } } }))

/-- A die reset (R12, R222, R223, R368, R371, R374, R442): a watchdog, a missed heartbeat and a supply below its threshold put a serving die
into reset, with its tag raised, its count, cause and bell kept; the classroom share of its SRAM reads zero and, on an array die, its
engines hold nothing; the hub's reset takes the link and the controller down. A die that does not serve stays as it is. That the semaphores
of a halted run are not given back is the model's reading (log 84). -/
def Obligations.DieResetsAreCountedAndCleared : Prop :=
  (∀ (s : State) (d cause : Nat) (c : Instr), s.shaped → s.up = true → s.dieServes d = true → d < 5 →
    ((∃ core, c = .heartbeatMissed core) ∧ d = 0 ∧ cause = 2) ∨ (c = .supplyBelowResetThreshold d ∧ cause = 3) ∨
      (∃ e, c = .watchdogFire e ∧ watched e = true ∧ engineDie e = d ∧ (s.die d).state ≠ .replaying ∧ cause = 1) →
    ∃ t, exec c s = .next t ∧ (t.die d).state = .resetting ∧ (t.die d).gen = (s.die d).gen + 1 ∧
      (t.die d).resets = bump32 (s.die d).resets ∧ (t.die d).lastCause = cause ∧ (t.die d).lastBell = s.bell.count ∧
      (t.die d).resetAt = s.pos ∧ (t.die d).wdFires = (if cause = 1 then bump32 (s.die d).wdFires else (s.die d).wdFires) ∧
      (d = 0 ∨ d = 3 ∨ d = 4 → ∀ a, dieBase d ≤ a → a < dieBase d + dieShare d → t.mem.sram.cells.get a = 0) ∧
      (d = 0 → t.host.link = false ∧ t.host.en = false ∧ t.host.outs = []) ∧
      t.ns = s.ns ∧ t.img.active = s.img.active ∧ t.bell.count = s.bell.count ∧ t.bell.tick = s.bell.tick) ∧
  (∀ (s : State) (d : Nat), s.up = false ∨ s.dieServes d = false →
    exec (.supplyBelowResetThreshold d) s = .next s ∧ (∀ core, d = 0 → exec (.heartbeatMissed core) s = .next s) ∧
    (∀ e, engineDie e = d → exec (.watchdogFire e) s = .next s))

/-- After a die reset (R126, R368 to R373): a die that returns has its pinned segments loaded again from their lesson's image and serves,
degraded where its spares are used up, or first replays its suspects; one that fails its self-test is failed, with read-only for a valley
die and its share lost for an array die; a suspect that hangs resets its die again, one that ended without a hang ends the replay; a run of
a die that does not return moves to the sibling; requests of an old generation end and late replies are counted. What a move to a die that
has no room ends with is the model's reading (log 82). -/
def Obligations.DiesReturnReplayOrFail : Prop :=
  (∀ (s : State) (d : Nat), s.shaped → s.up = true → d < 5 → (s.die d).state = .resetting →
    (s.sched.runs = [] → (s.die d).suspects = [] → (s.die d).replayed = false → (s.die d).quarantined = false →
      (s.pinnedOn d = [] →
        exec (.dieReturn d true) s = .next (onDie d (fun x => { x with state := if x.degradedSpares then .degraded else .running }) s)) ∧
      (∀ g room slot l, s.pinnedOn d = [g] → g.owner = .lesson room slot → s.lesson? room slot = some l →
        exec (.dieReturn d true) s = .next (onDie d (fun x => { x with state := if x.degradedSpares then .degraded else .running })
          (memWrite 73 g.start ((Config.lessonPinned l.image (pinnedEntry l g s)).fit g.size) s)))) ∧
    (∀ id r, (s.die d).suspects = [id] → (s.die d).replayed = false → s.run? id = some r →
      ∃ t, exec (.dieReturn d true) s = .next t ∧ (t.die d).state = .replaying ∧ (t.die d).suspects = [id]) ∧
    (d = 0 → ∃ t, exec (.dieReturn d false) s = .next t ∧ (t.die d).state = .failed ∧ t.power.down = .hubFailed ∧ t.power.mgmt = false) ∧
    (d = 1 ∨ d = 2 → ∃ t, exec (.dieReturn d false) s = .next t ∧ (t.die d).state = .failed ∧ t.readOnly = true ∧
      t.host.critWarn.testBit 2 = true) ∧
    (d = 3 ∨ d = 4 → s.sched.runs = [] → ∃ t, exec (.dieReturn d false) s = .next t ∧ (t.die d).state = .failed ∧
      t.host.critWarn.testBit 2 = true ∧ (73, dieBase d, dieShare d) ∈ t.mem.lostSpans)) ∧
  (∀ (s : State) (d : Nat) (ok : Bool), s.up = false ∨ (s.die d).state ≠ .resetting → exec (.dieReturn d ok) s = .next s) ∧
  (∀ (s : State) (d id : Nat), s.shaped → s.up = true → d = 3 ∨ d = 4 → (s.die d).state = .replaying → (s.die d).suspects = [id] →
    (∃ t, exec (.suspectReplay d true) s = .next t ∧ (t.die d).state = .resetting ∧ (t.die d).gen = (s.die d).gen + 1 ∧
      (t.die d).lastCause = 1 ∧ t.dies.replays = bump32 s.dies.replays ∧ (t.die d).replayed = true) ∧
    ((s.run? id).isSome = true → exec (.suspectReplay d false) s = .next s) ∧
    (s.sched.runs = [] → ∃ t, exec (.suspectReplay d false) s = .next t ∧
      (t.die d).state = (if (s.die d).degradedSpares then .degraded else .running) ∧ (t.die d).suspects = [] ∧
      t.dies.replays = bump32 s.dies.replays ∧
      t.dies.transients = (if (s.die d).quarantined then s.dies.transients else bump32 s.dies.transients))) ∧
  (∀ (s : State) (d : Nat), s.shaped → d = 3 ∨ d = 4 → (s.die d).state = .resetting → (s.die d).suspects = [] →
    (s.die d).replayed = false →
    (s.dieGone d = false → exec (.replayWindowExpired d) s = .next s) ∧
    (∀ r rm l es, s.dieGone d = true → s.sched.runs = [r] → r.on d = true → r.train = false → s.room? r.room = some rm →
      s.lesson? r.room r.slot = some l → s.mapOn rm l (7 - d) = some es → (∀ g ∈ s.mem.segs, g.owner ≠ .run r.id) →
      ∃ t, exec (.replayWindowExpired d) s = .next t ∧ t.sched.runs = [{ r with engines := es, die := 7 - d }] ∧
        t.dies.moves = bump32 s.dies.moves)) ∧
  (∀ (s : State) (x : DieReq), s.shaped → x.holder < 5 → (s.dies.reqs.find? fun y => y.id == x.id) = some x →
    x.tag ≠ (s.die x.target).gen → reached (x.issued + s.img.active.watch.replyTimeout) s.pos = true →
    ∃ t, exec (.generationDropped x.id) s = .next t ∧ t.dies.reqs = s.dies.reqs.filter (fun y => y.id != x.id) ∧
      (t.die x.holder).genDropped = bump32 (s.die x.holder).genDropped ∧
      (∀ r, x.target = 3 ∨ x.target = 4 → s.run? x.run = some r → r.train = false → (s.die x.target).state = .failed →
        ∃ u, t = finish r.hdr stGenDropped u)) ∧
  (∀ (s : State) (req : Nat), (s.dies.reqs.find? fun y => y.id == req) = none → exec (.generationDropped req) s = .next s) ∧
  (∀ (s : State) (h src tag : Nat), s.up = true → h ≤ 4 → src ≤ 4 →
    (BitVec.ofNat 8 tag ≠ (s.die src).gen → exec (.lateReplyDrop h src tag) s = .next
      (onDie h (fun d => { d with lateDrops := bump32 d.lateDrops }) s)) ∧
    (BitVec.ofNat 8 tag = (s.die src).gen → exec (.lateReplyDrop h src tag) s = .next s))

/-- Page reads as they come back (R131, R315, R332, R362, R363), by what a host Read of one LBA that waits for one page then does: hard decode
or the full code delivers; else up to seven soft-sense reads follow, then recovery, which rebuilds the page while at most two slots of its
row are lost, and else delivers the uncorrectable granules poisoned. -/
def Obligations.ReadsComeBackDecodedOrRecovered : Prop :=
  ∀ (s : State) (rid : Nat) (x : FRead) (j : Job) (h : Hdr) (nsid slba : Nat) (n : Ns), s.up = true → s.read? rid = some x →
    s.job? x.job = some j → j.kind = .nvmRead h nsid slba 0 → j.wait = [x.lsn] → j.got = [] → s.ns? nsid = some n →
    x.lsn = s.slotOf n slba → s.deferredLba n.nsid slba = false → s.query.scans = [] → s.query.runs = [] →
    (s.readServes x = true → x.stage = .hard →
      (∀ hard full tag, hard = true ∨ full = true → ∃ t, exec (.flashReadDone rid hard full tag) s = .next (finishData h
        ((s.slotData x.pslot).slice (slba % 16 * 4096) 4096) t) ∧ t.read? rid = none ∧ t.job? x.job = none ∧ t.host = s.host ∧
        t.ftl.map = s.ftl.map ∧ t.ftl.flash = s.ftl.flash) ∧
      (∀ tag, ∃ t, exec (.flashReadDone rid false false tag) s = .next t ∧ t.read? rid = some { x with stage := .soft } ∧
        t.host = s.host ∧ t.ftl.jobs = s.ftl.jobs)) ∧
    (s.readServes x = true → x.stage = .soft →
      (∃ t, exec (.softSenseReadDone rid true) s = .next (finishData h ((s.slotData x.pslot).slice (slba % 16 * 4096) 4096) t) ∧
        t.read? rid = none ∧ t.host = s.host ∧ t.ftl.map = s.ftl.map) ∧
      (∃ t, exec (.softSenseReadDone rid false) s = .next t ∧ t.host = s.host ∧ t.ftl.jobs = s.ftl.jobs ∧
        t.read? rid = some { x with softReads := x.softReads + 1, stage := if x.softReads < 6 then .soft else .recover })) ∧
    (x.stage = .recover →
      (∀ bad lost, lost ≤ 2 → (s.die (if chOf x.pslot < 16 then 1 else 2)).state ≠ .failed →
        ∃ t, exec (.readRecovery rid bad lost) s = .next (finishData h ((s.slotData x.pslot).slice (slba % 16 * 4096) 4096) t) ∧
          t.read? rid = none ∧ t.host = s.host ∧ t.ftl.map = s.ftl.map ∧ t.dies.recoveredRow = bump32 s.dies.recoveredRow) ∧
      (∀ bad lost g, 2 < lost → s.isMember = false → g ∈ bad → g < 1024 → g / 64 = slba % 16 →
        ∃ d t, exec (.readRecovery rid bad lost) s = .next (finishUnrecovered h d nsid slba t) ∧ t.read? rid = none ∧
          t.host = s.host ∧ t.ftl.map = s.ftl.map)) ∧
    (∀ a b c, x.stage ≠ .hard → exec (.flashReadDone rid a b c) s = .next s) ∧
    (∀ a, x.stage ≠ .soft → exec (.softSenseReadDone rid a) s = .next s) ∧
    (∀ a b, x.stage ≠ .recover → exec (.readRecovery rid a b) s = .next s)

/-- Programs, erases, refresh and the journal (R316 to R318, R324, R326, R331, R332, R336, R440): a full group starts and, once programmed, its
units are in flash and the map is as it was; a unit of a failed group is not lost: the buffer holds it and the map names it; an erase leaves
its column empty and counted once more, a failed one retires it; refresh, the journal and the checkpoint act at their limits and else do
nothing. The moment at which superblocks are erased and at which records are copied is the model's choice (logs 33 and 37). -/
def Obligations.GroupsErasesAndJournalEnd : Prop :=
  (∀ (s : State) (st : Stream), s.up = true → s.power.through = false →
    ((∀ o ∈ s.ftl.opens, o.stream = st → s.groupFull o = false) → exec (.groupProgramStart st) s = .next s) ∧
    (∀ o, (s.ftl.opens.find? fun o => o.stream == st && s.groupFull o) = some o → s.plain.own = .standalone →
      (∀ u ∈ s.groupUnits o.sb o.started, u.poison = []) →
      ∃ t, exec (.groupProgramStart st) s = .next t ∧ t.ftl.progs = s.ftl.progs ++ [⟨o.sb * 768 + o.started, o.sb, o.started, st⟩] ∧
        t.ftl.map = s.ftl.map ∧ t.ftl.flash = s.ftl.flash ∧
        t.ftl.opens = s.ftl.opens.map (fun y => if y.sb = o.sb then { y with started := o.started + 1 } else y) ∧
        t = { s with ftl := t.ftl })) ∧
  (∀ (s : State) (g : Prog), (s.ftl.progs.find? fun p => p.pid == g.pid) = some g → s.ftl.writes = [] →
    ((∀ u ∈ s.groupUnits g.sb g.group, u.source = none) → ((s.groupUnits g.sb g.group).map (·.pslot)).Nodup →
      ∃ t, exec (.groupProgramDone g.pid []) s = .next t ∧ t.ftl.progs = s.ftl.progs.filter (fun p => p.pid != g.pid) ∧
        t.ftl.map = s.ftl.map ∧ t = { s with ftl := t.ftl } ∧
        (∀ u ∈ s.groupUnits g.sb g.group, ∃ f, lookupNat t.ftl.flash u.pslot = some f ∧ f.lsn = u.lsn ∧ f.data = u.data ∧
          f.wcount = u.wcount ∧ f.kind = u.kind) ∧
        (∀ p, (∀ u ∈ s.groupUnits g.sb g.group, u.pslot ≠ p) → lookupNat t.ftl.flash p = lookupNat s.ftl.flash p)) ∧
    (∀ u ch y, s.groupUnits g.sb g.group = [u] → u.source = none → u.poison = [] → s.mapOf u.lsn = some (.phys u.pslot) →
      s.sb? g.sb = some y → ch ∈ y.data →
      ∃ t v, exec (.groupProgramDone g.pid [ch]) s = .next t ∧ v ∈ t.ftl.buf ∧ v.lsn = u.lsn ∧ v.data = u.data ∧ v.wcount = u.wcount ∧
        t.mapOf u.lsn = some (.phys v.pslot) ∧ t.ftl.stats.programFails = bump32 s.ftl.stats.programFails)) ∧
  (∀ (s : State) (pid : Nat) (l : List Nat), (s.ftl.progs.find? fun p => p.pid == pid) = none →
    exec (.groupProgramDone pid l) s = .next s) ∧
  (∀ (s : State) (sb ch : Nat),
    (∀ ok, (s.col sb ch).erasing = none → exec (.eraseDone sb ch ok) s = .next s) ∧
    (∀ e, ch < 32 → (s.col sb ch).erasing = some e →
      (∃ t, exec (.eraseDone sb ch true) s = .next t ∧ t.col sb ch = ⟨(s.col sb ch).erases + 1, (s.col sb ch).retired, false, 0, none, true⟩ ∧
        (∀ p, sbOf p = sb → chOf p = ch → lookupNat t.ftl.flash p = none) ∧
        (∀ p, sbOf p ≠ sb ∨ chOf p ≠ ch → lookupNat t.ftl.flash p = lookupNat s.ftl.flash p) ∧ t.ftl.map = s.ftl.map) ∧
      (∃ t, exec (.eraseDone sb ch false) s = .next t ∧ (t.col sb ch).erasing = none ∧ (t.col sb ch).retired = true ∧
        t.ftl.stats.eraseFails = bump32 s.ftl.stats.eraseFails ∧ t.ftl.flash = s.ftl.flash))) ∧
  (∀ (s : State) (sb ch : Nat) (y : Sb), s.up = true → s.sb? sb = some y → 0 < s.host.policy.readRefresh →
    (y.stream ≠ .index ∨ (s.col sb ch).reads < s.host.policy.readRefresh → exec (.readRefreshDue sb ch) s = .next s) ∧
    (y.stream = .index → s.host.policy.readRefresh ≤ (s.col sb ch).reads → (s.col sb ch).reads < 2 * s.host.policy.readRefresh →
      colKey sb ch ∉ s.ftl.refreshCols → exec (.readRefreshDue sb ch) s = .next { s with ftl := { s.ftl with
        refreshCols := s.ftl.refreshCols ++ [colKey sb ch] } }) ∧
    (y.stream = .index → 2 * s.host.policy.readRefresh ≤ (s.col sb ch).reads → ∃ t, exec (.readRefreshDue sb ch) s = .next t ∧
      t.bell.classRefreshes = bump32 s.bell.classRefreshes ∧ t.bell.count = s.bell.count ∧ t.ns = s.ns)) ∧
  (∀ s : State, s.up = true →
    (ringGroup ≤ (s.ftl.staging.filter (·.ready)).length → exec .journalGroupProgram s = .next { s with ftl := { s.ftl with
      ring := s.ftl.ring ++ s.ftl.staging.filter (·.ready), staging := s.ftl.staging.filter fun r => !r.ready } }) ∧
    ((s.ftl.staging.filter (·.ready)).length < ringGroup → s.power.through = false → exec .journalGroupProgram s = .next s) ∧
    (s.bell.inRecess = true → 1000 ≤ s.ftl.ckptAge → ∃ t, exec .mapCheckpoint s = .next t ∧
      t = { s with nor := t.nor, ftl := { s.ftl with ckptGen := s.ftl.ckptGen + 1, ckptAge := 0, ring := [] } }) ∧
    (s.bell.inRecess = false → exec .mapCheckpoint s = .next s))

/-- Bell boundaries (R64, R65, R67 to R72, R80, R83, R105, R434): an edge that is high for 1 µs ends the bell of a Locked drive in its window
and locks a drive that runs free; the own clock, the reference's boundary and the clamp end it as their states say, and elsewhere nothing
happens. A boundary takes the next count, tick 0, the stamp and the history entry, and the features that were pending. The clamp's SOURCE
and a second edge in one bell are read by inference (log 85). -/
def Obligations.BoundariesEndTheBell : Prop :=
  (∀ (s : State) (high : Nat) (b : Boundary), s.bellRuns = true →
    (high < 1000 ∨ (s.bell.mode = .locked ∧ (s.windowOpen = false ∨ s.bell.earlyEdge = true)) →
      exec (.bellEdge high b) s = .next { s with bell := { s.bell with glitches := bump32 s.bell.glitches } }) ∧
    (1000 ≤ high → s.bell.mode = .locked → s.windowOpen = true → s.bell.earlyEdge = false → s.refNext = none →
      exec (.bellEdge high b) s = .next (boundary 0 s.ticksRun b { s with bell := { s.bell with
        lastEdgeNs := s.bell.boundNs + b.elapsedNs, fromEdge := true, clampRun := 0,
        slots := if s.bell.fromEdge then b.elapsedNs :: s.bell.slots.take 7 else s.bell.slots } })) ∧
    (1000 ≤ high → s.bell.mode = .freeRunning → exec (.bellEdge high b) s = .next (boundary 0 s.ticksRun b (renewReference
      { s with bell := { s.bell with
        mode := .locked, lost := false, slots := List.replicate 8 (s.img.active.periodUs * 1000),
        lastEdgeNs := s.bell.boundNs + b.elapsedNs, fromEdge := true, clampRun := 0 } }))) ∧
    (1000 ≤ high → s.bell.mode = .following → exec (.bellEdge high b) s = .next { s with bell := { s.bell with
      fromEdge := true, lastEdgeNs := s.bell.boundNs + b.elapsedNs,
      nearRun := if b.phaseNs.natAbs ≤ s.tickNs then s.bell.nearRun + 1 else 0 } })) ∧
  (∀ (s : State) (b : Boundary), s.bellRuns = true →
    (s.bell.mode = .freeRunning → exec (.freeRunningBoundary b) s = .next (boundary 2 1024 b { s with bell := { s.bell with
      fromEdge := false } })) ∧
    (s.bell.mode ≠ .freeRunning → exec (.freeRunningBoundary b) s = .next s) ∧
    (s.bell.mode = .following → exec (.followingPlainBoundary b) s = .next (boundary 3 1024 b { s with bell := { s.bell with
      fromEdge := false, nearRun := if s.bell.fromEdge then s.bell.nearRun else 0 } })) ∧
    (s.bell.mode ≠ .following → exec (.followingPlainBoundary b) s = .next s) ∧
    (s.bell.mode = .locked → clampDue b s = true → exec (.phaseClamp b) s = .next (boundary 1 s.ticksRun b { s with bell := { s.bell with
      fromEdge := false, phaseClamps := bump32 s.bell.phaseClamps, clampRun := s.bell.clampRun + 1 } })) ∧
    (s.bell.mode ≠ .locked ∨ clampDue b s = false → exec (.phaseClamp b) s = .next s)) ∧
  (∀ (source ticks : Nat) (b : Boundary) (s : State), (boundary source ticks b s).bell.tick = 0 ∧ (boundary source ticks b s).bell.held = 0 ∧
    (boundary source ticks b s).pending = s.pending) ∧
  (∀ (source ticks : Nat) (b : Boundary) (s : State), s.boundaryQuiet = true →
    ∃ t, boundary source ticks b s = t ∧ t.bell.count = s.bell.count + 1 ∧ t.bell.boundNs = s.bell.boundNs + b.elapsedNs ∧
      t.bell.localNs = s.bell.boundNs + b.elapsedNs ∧ t.bell.stamp = b.ptm.getD (s.bell.boundNs + b.elapsedNs) ∧
      t.bell.ptmValid = b.ptm.isSome ∧ t.bell.noRecess = (if s.bell.hadRecess then 0 else s.bell.noRecess + 1) ∧
      t.bell.hadRecess = false ∧ t.bell.timetable = s.bell.timetable ∧
      t.bell.mode = (if s.bell.mode = .following then .freeRunning else s.bell.mode) ∧
      t.bell.history = (⟨s.bell.count + 1, t.bell.stamp, b.elapsedNs, 0, ticks, source, s.bell.timetable⟩ :: s.bell.history).take 256 ∧
      t.host = { s.host with
        envelopeW := s.host.envelopeNext.getD s.host.envelopeW, envelopeNext := none,
        policy := s.host.policyNext.getD s.host.policy, policyNext := none,
        queryDef := s.host.queryDefNext.getD s.host.queryDef, queryDefNext := none } ∧
      t.ftl.map = s.ftl.map ∧ t.ftl.ckptAge = s.ftl.ckptAge + 1 ∧ t.mem.sram = s.mem.sram ∧ t.mem.dram = s.mem.dram ∧ t.img = s.img ∧
      t.plain = s.plain)

/-- Missed edges (R66): where the window closes on a Locked drive without an accepted edge, the drive makes the boundary and counts a missed
edge; while the window is open, and in another state, nothing happens. The tick count of the next bell begins at that boundary, and with it
the bell's window. -/
def Obligations.MissedEdgesEndTheBell : Prop :=
  (∀ (s : State) (b : Boundary), s.bellRuns = true →
    (s.bell.mode = .locked → 65 ≤ s.bell.held → exec (.missedEdge b) s = .next (boundary 1 1024 b { s with bell := { s.bell with
      fromEdge := false, clampRun := 0, missed := bump32 s.bell.missed } })) ∧
    (s.bell.mode ≠ .locked ∨ s.bell.held < 65 → exec (.missedEdge b) s = .next s)) ∧
  (∀ (s : State) (b : Boundary), s.bellRuns = true → s.bell.mode = .locked → 65 ≤ s.bell.held →
    ∃ t, exec (.missedEdge b) s = .next t ∧ t.bell.tick = 0 ∧ t.bell.held = 0 ∧ t.windowOpen = false ∧ t.pending = s.pending ∧
      (s.boundaryQuiet = true → t.bell.count = s.bell.count + 1 ∧ t.bell.missed = bump32 s.bell.missed ∧
        t.bell.boundNs = s.bell.boundNs + b.elapsedNs ∧ t.bell.mode = .locked ∧ t.mem.sram = s.mem.sram ∧ t.mem.dram = s.mem.dram ∧
        t.plain = s.plain ∧ t.img = s.img))

/-- The bell's own events and the timetable (R70, R73, R76 to R79): a bell is lost after three periods without an edge, a phase fault follows
three clamps, eight near edges lock again, the estimate and the recess are watched by bells; recess and class begin by the timetable; a
selection is fixed, refused or gives way. How a selection ends is read by inference (log 78). -/
def Obligations.BellEventsAndSelections : Prop :=
  (∀ s : State, s.bellRuns = true →
    (s.edgeLate = true → s.bell.mode = .locked → s.isMember = false → s.bell.lost = true → ∃ t, exec .bellLost s = .next t ∧
      t.bell = { s.bell with mode := .freeRunning, fromEdge := false, nearRun := 0, slots := List.replicate 8 (s.img.active.periodUs * 1000) } ∧
      t.host = s.host) ∧
    (s.edgeLate = true → s.bell.mode = .freeRunning → s.bell.lost = false → exec .bellLost s = .next (vendorEvent 0xC4
      { s with bell := { s.bell with lost := true, lossEvents := bump32 s.bell.lossEvents } })) ∧
    (s.edgeLate = false ∨ s.bell.mode = .following ∨ (s.bell.mode = .freeRunning ∧ s.bell.lost = true) → exec .bellLost s = .next s) ∧
    (s.bell.mode = .locked → 3 ≤ s.bell.clampRun → ∃ t, exec .phaseFault s = .next t ∧ t.bell = { s.bell with
      mode := .following, phaseFault := true, clampRun := 0, fromEdge := false, nearRun := 0,
      phaseFaults := if s.bell.phaseFault then s.bell.phaseFaults else bump32 s.bell.phaseFaults }) ∧
    (s.bell.mode ≠ .locked ∨ s.bell.clampRun < 3 → exec .phaseFault s = .next s) ∧
    (s.bell.mode = .following → 8 ≤ s.bell.nearRun → ∃ t, exec .relockFromFollowing s = .next t ∧ t.bell = { s.bell with
      mode := .locked, lost := false, phaseFault := false, slots := List.replicate 8 (s.img.active.periodUs * 1000),
      fromEdge := false, clampRun := 0, nearRun := 0 } ∧ t = { s with bell := t.bell, plain := { s.plain with reference := t.plain.reference } }) ∧
    (s.bell.mode ≠ .following ∨ s.bell.nearRun < 8 → exec .relockFromFollowing s = .next s) ∧
    (8 ≤ s.bell.offRun → s.bell.offNominal = false → exec .offNominal s = .next (vendorEvent 0xC4
      { s with bell := { s.bell with offNominal := true } })) ∧
    (8 ≤ s.bell.inRun → s.bell.offNominal = true → exec .offNominal s = .next { s with bell := { s.bell with offNominal := false } }) ∧
    (1024 ≤ s.bell.noRecess → s.bell.starved = false → exec .recessStarved s = .next (vendorEvent 0xC4
      { s with bell := { s.bell with starved := true } })) ∧
    (s.bell.noRecess < 1024 ∨ s.bell.starved = true → exec .recessStarved s = .next s) ∧
    (s.bell.inRecess = false → s.recessNow = true → ∃ t, exec .recessStart s = .next t ∧ t.bell.inRecess = true ∧
      t.bell.tick = s.bell.tick ∧ t.bell.count = s.bell.count) ∧
    (s.bell.inRecess = true ∨ s.recessNow = false → exec .recessStart s = .next s) ∧
    (s.bell.inRecess = true → s.recessNow = false → (∃ t, exec .classStart s = .next t ∧ t.bell.inRecess = false ∧
        t.bell.tick = s.bell.tick ∧ t.bell.count = s.bell.count) ∧
      (s.freeAtMost (s.host.policy.gcCrit - 1) = false → ∃ t, exec .classStart s = .next t ∧
        t.bell.starved = (s.bell.starved && !s.bell.recessAfterStarve) ∧ t = { s with bell := t.bell })) ∧
    (s.bell.inRecess = false ∨ s.recessNow = true → exec .classStart s = .next s)) ∧
  (∀ (h : Hdr) (tt : Nat) (s : State), s.accepts h 0x09 = true →
    exec (.timetableSelect h true tt) s = .next (finish h stNotSaveable s) ∧
    (s.img.active.timetables.length ≤ tt → exec (.timetableSelect h false tt) s = .next (finish h stInvalidField s)) ∧
    (tt < s.img.active.timetables.length →
      (s.bell.selected.isSome = true → exec (.timetableSelect h false tt) s = .next (finish h stBusy s)) ∧
      (s.bell.selected = none → s.plainMember = false → exec (.timetableSelect h false tt) s = .next (finish h stOk
        { s with bell := { s.bell with selected := some ⟨tt, s.bell.count + 1, s.bell.count, 0xFF, none⟩ } })) ∧
      (s.bell.selected = none → s.plainMember = true → ∃ t, exec (.timetableSelect h false tt) s = .next t ∧
        t.bell = { s.bell with selected := some ⟨tt, s.bell.count + 4, s.bell.count, s.plain.member, some h⟩ } ∧
        t.host = (begin' h .admin s).host))) ∧
  (∀ (port : Nat) (hd : FlitHdr) (tt bell : Nat) (s u : State), s.hears port hd = true → u = takeHeader port hd s →
    hd.dst.toNat = s.plain.member ∨ hd.dst = 0xFF#8 →
    (s.plainMember = true → tt < s.img.active.timetables.length → s.bell.selected = none →
      exec (.timetableSelectionMessage port hd tt bell) s = .next (giveCredit port hd { u with bell := { s.bell with
        selected := some ⟨tt, BitVec.ofNat 48 bell + 4, BitVec.ofNat 48 bell, hd.src.toNat, none⟩ } })) ∧
    (∀ x g, s.plainMember = true → tt < s.img.active.timetables.length → s.bell.selected = some x → x.hdr = some g →
      x.bell = BitVec.ofNat 48 bell → hd.src.toNat < x.member →
      exec (.timetableSelectionMessage port hd tt bell) s = .next (giveCredit port hd (finish g stBusy { u with bell := { s.bell with
        selected := some ⟨tt, BitVec.ofNat 48 bell + 4, BitVec.ofNat 48 bell, hd.src.toNat, none⟩ } }))) ∧
    (∀ x, s.bell.selected = some x → x.bell ≠ BitVec.ofNat 48 bell ∨ x.member ≤ hd.src.toNat →
      exec (.timetableSelectionMessage port hd tt bell) s = .next (giveCredit port hd u)))

/-- Flits on a link (R285 to R289, R293, R296): on a port that is not Up nothing arrives; a damaged flit, or one ahead of its order, is
discarded and the SEQ expected is named in a NAK; one received before has no effect; one in order is taken, has its effect or is passed on
to the member it is for, and its credit goes back. A message crosses as one flit (log 14); the bound of a resync is read by inference (log
69). -/
def Obligations.FlitsAreTakenInOrder : Prop :=
  (∀ (c : Instr) (port : Nat) (hd : FlitHdr) (s : State), flitOf c = some (port, hd) →
    (s.up = false ∨ (s.port port).state ≠ .up → exec c s = .next s) ∧
    (s.up = true → (s.port port).state = .up → hdrIntact hd = false ∨ (hd.seq.toNat ≠ (s.port port).rxSeq ∧
        (hd.seq.toNat + 65536 - (s.port port).rxSeq) % 65536 < 32768) →
      exec c s = .next (sendPort port 0xFF 0 (.nak (s.port port).rxSeq)
        { s with plain := { s.plain with discarded := s.plain.discarded + 1 } })) ∧
    (s.up = true → (s.port port).state = .up → hdrIntact hd = true →
      32768 ≤ (hd.seq.toNat + 65536 - (s.port port).rxSeq) % 65536 → exec c s = .next s)) ∧
  (∀ (c : Instr) (port : Nat) (hd : FlitHdr) (b : Payload) (s : State), relayed c = some (port, hd, b) → s.hears port hd = true →
    hd.dst.toNat ≠ (takeHeader port hd s).plain.member → hd.dst ≠ 0xFF#8 →
    exec c s = .next (giveCredit port hd (passOn port hd b (takeHeader port hd s)))) ∧
  (∀ (port : Nat) (hd : FlitHdr) (s u : State), u = takeHeader port hd s →
    u = { s with plain := { s.plain with ports := u.plain.ports, tx := u.plain.tx, forwarded := u.plain.forwarded } } ∧
    (s.plain.ports.length = 4 → port < 4 → (u.port port).rxSeq = ((s.port port).rxSeq + 1) % 65536)) ∧
  (∀ (port : Nat) (hd : FlitHdr) (s u : State), s.hears port hd = true → u = takeHeader port hd s →
    exec (.idleFlit port hd) s = .next (giveCredit port hd u) ∧
    (∀ e, hd.dst.toNat = s.plain.member ∨ hd.dst = 0xFF#8 → exec (.flowSetup port hd e) s = .next (giveCredit port hd
      { u with plain := { u.plain with flows := u.plain.flows.filter (fun x => x.flow != e.flow) ++ [e] } })) ∧
    (∀ g, hd.dst.toNat = s.plain.member → exec (.reductionGather port hd g) s = .next (giveCredit port hd
      { u with plain := { u.plain with gathered := u.plain.gathered ++ [(g.flow, g.data)] } })) ∧
    (∀ g, hd.dst.toNat ≠ s.plain.member → exec (.reductionGather port hd g) s = .next (giveCredit port hd (passOn port hd (.gather g)
      { u with plain := { u.plain with gathered := u.plain.gathered ++ [(g.flow, g.data)] } }))) ∧
    (∀ l, (List.range 8).map (fun i => (u.port port).sent.getD i 0 - l.getD i 0) = (u.port port).inFlight →
      exec (.creditResync port hd l) s = .next (giveCredit port hd u)) ∧
    (∀ l, (List.range 8).map (fun i => (u.port port).sent.getD i 0 - l.getD i 0) ≠ (u.port port).inFlight →
      exec (.creditResync port hd l) s = .next (giveCredit port hd (drainQueue port 257 (onPort port (fun p => { p with
        inFlight := (List.range 8).map fun i => (u.port port).sent.getD i 0 - l.getD i 0, creditFixes := bump32 p.creditFixes }) u))))) ∧
  (∀ (port seq : Nat) (s : State) (a z : List (Sent × Nat)), s.up = true → (s.port port).state = .up → (s.port port).replay = a ++ z →
    (∀ x ∈ a, x.1.seq ≠ seq) → (∃ x r, z = x :: r ∧ x.1.seq = seq) → (∀ x ∈ z, x.2 < 7) →
    ∃ t, exec (.nak port seq) s = .next t ∧ t.plain.tx = s.plain.tx ++ z.map Prod.fst ∧
      (s.plain.ports.length = 4 → port < 4 → (t.port port).replay = a ++ z.map (fun x => (x.1, x.2 + 1)) ∧
        (t.port port).replays = bump32 (s.port port).replays) ∧ t = { s with plain := t.plain })

/-- The states of a pass port (R284, R285, R289, R290, R296): a wired port goes by Detect, Train, Align and Identify to Up, or to Miswired where
the far end is not what the plain asks for; a failed training and a lost link take it Down and are counted; at Up its sequence numbers and
credits start anew. Times in milliseconds are taken as their rows report them (log 70). -/
def Obligations.PortsComeUpAndGoDown : Prop :=
  ∀ (port : Nat) (s : State), s.up = true → s.shaped → port < 4 →
    (s.fw.recovery = false → s.portWired port = true → (s.port port).state = .down →
      ((s.port port).failRun < 3 → exec (.portDetect port) s = .next (onPort port (fun p => { p with state := .detect }) s) ∧
        exec (.portRetry port) s = .next s) ∧
      (3 ≤ (s.port port).failRun → exec (.portRetry port) s = .next (onPort port (fun p => { p with state := .detect }) s) ∧
        exec (.portDetect port) s = .next s)) ∧
    (s.portWired port = false ∨ (s.port port).state ≠ .down → exec (.portDetect port) s = .next s ∧ exec (.portRetry port) s = .next s) ∧
    ((s.port port).state = .detect → exec (.electricalPresence port) s = .next (onPort port (fun p => { p with state := .train }) s)) ∧
    ((s.port port).state ≠ .detect → exec (.electricalPresence port) s = .next s) ∧
    ((s.port port).state = .train →
      exec (.portTrainDone port 0) s = .next (onPort port (fun p => { p with
        state := .down, trainFails := bump32 p.trainFails, failRun := p.failRun + 1 }) s) ∧
      (∀ lanes, lanes ≠ 0 → exec (.portTrainDone port lanes) s = .next (onPort port (fun p => { p with
        state := .align, oneLane := lanes == 1 }) s))) ∧
    (∀ lanes, (s.port port).state ≠ .train → exec (.portTrainDone port lanes) s = .next s) ∧
    (∀ far echoes, (s.port port).state = .align ∨ (s.port port).state = .identify ∨ (s.port port).state = .miswired →
      (s.identityOk port far = false → exec (.portIdentify port far echoes) s = .next (onPort port (fun p => { p with
        state := .miswired, far := some far, neighbour := far.member }) s)) ∧
      (s.identityOk port far = true → s.plain.join = none → ∃ t, exec (.portIdentify port far echoes) s = .next t ∧
        (t.port port).state = .up ∧ (t.port port).neighbour = far.member ∧ (t.port port).rtt = medianOf echoes ∧
        (t.port port).rate = rateAt (medianOf echoes) (s.port port).oneLane ∧ (t.port port).txSeq = 0 ∧ (t.port port).rxSeq = 0 ∧
        (t.port port).inFlight = List.replicate 8 0 ∧ (t.port port).linkLosses = (s.port port).linkLosses ∧
        (∀ q, q ≠ port → t.port q = s.port q) ∧ t = { s with plain := { s.plain with ports := t.plain.ports } })) ∧
    (∀ far echoes, (s.port port).state = .up ∨ (s.port port).state = .down ∨ (s.port port).state = .detect ∨ (s.port port).state = .train →
      exec (.portIdentify port far echoes) s = .next s) ∧
    ((s.port port).state ≠ .down → (s.port port).state ≠ .detect → s.query.runs = [] →
      ∃ t, exec (.portLinkLoss port) s = .next t ∧ (t.port port).state = .down ∧ (t.port port).inFlight = List.replicate 8 0 ∧
        (t.port port).linkLosses = (if (s.port port).state = .up then bump32 (s.port port).linkLosses else (s.port port).linkLosses) ∧
        t.ftl = s.ftl ∧ t.mem = s.mem ∧ t.bell = s.bell) ∧
    ((s.port port).state = .down ∨ (s.port port).state = .detect → exec (.portLinkLoss port) s = .next s)

/-- Joining and leaving a plain (R71, R299 to R302, R304, R307, R405): Plain Join is refused for its reason or begins; a join that waits too
long, or is refused, ends; an admitted joiner is Member with its record and the plain key; a leave ends once nothing holds it; requests are
admitted by the reference member; bell flits, leave messages and namespace tables renew the view of their senders. The first formation, the
bell view and a second leave are read by inference (logs 22, 23, 71 and 72). -/
def Obligations.MembersJoinAndLeave : Prop :=
  (∀ (h : Hdr) (b : Blob) (s : State), s.accepts h 0xC5 = true →
    (joinFieldsOk s.img.active.plain b = false → exec (.plainJoin h b) s = .next (finish h stInvalidField s)) ∧
    (joinFieldsOk s.img.active.plain b = true →
      (s.plain.own = .joining → exec (.plainJoin h b) s = .next (refuseJoin h 1 s)) ∧
      (s.plain.own ≠ .joining → s.plain.own ≠ .standalone → exec (.plainJoin h b) s = .next (refuseJoin h 7 s)) ∧
      (s.plain.own = .standalone → s.img.active.plain.members ≤ 1 → exec (.plainJoin h b) s = .next (refuseJoin h 1 s)) ∧
      (s.plain.own = .standalone → 1 < s.img.active.plain.members →
        (b.le 9 1 = 0 → s.ns.list ≠ [] → exec (.plainJoin h b) s = .next (refuseJoin h 8 s)) ∧
        (b.le 9 1 = 1 → s.recordHolds (b.le 8 1) = false → exec (.plainJoin h b) s = .next (refuseJoin h 5 s)) ∧
        (b.le 9 1 = 2 ∨ (b.le 9 1 = 1 ∧ s.recordHolds (b.le 8 1) = true) ∨
            (b.le 9 1 = 0 ∧ s.ns.list = [] ∧ s.idx.live = [] ∧ s.idx.queue = []) →
          ∃ t j, exec (.plainJoin h b) s = .next t ∧ t.plain.own = .joining ∧ t.plain.join = some j ∧ j.hdr = some h ∧
            j.member = b.le 8 1 ∧ j.mode = b.le 9 1 ∧ j.start = s.bell.count ∧ j.until' = s.bell.count + BitVec.ofNat 48 (b.le 0xC 4))))) ∧
  (∀ (s : State) (j : Join),
    (s.plain.join = none → exec .joinWaitExpired s = .next s) ∧
    (∀ h, s.plain.join = some j → s.plain.own = .joining → j.hdr = some h →
      (s.upPorts = [] → 1000000 ≤ bellsFrom j.start s.bell.count * s.img.active.periodUs →
        ∃ u, exec .joinWaitExpired s = .next (finishDw h stJoinRefused 3 u) ∧ u.plain.own = .standalone ∧ u.plain.join = none) ∧
      (s.upPorts ≠ [] → bellsFrom j.start j.until' ≤ bellsFrom j.start s.bell.count →
        ∃ u, exec .joinWaitExpired s = .next (finishDw h stJoinRefused 4 u) ∧ u.plain.own = .standalone ∧ u.plain.join = none) ∧
      (s.upPorts ≠ [] → bellsFrom j.start s.bell.count < bellsFrom j.start j.until' → exec .joinWaitExpired s = .next s))) ∧
  (∀ (s : State), (s.nor.membership = none ∨ s.plain.own ≠ .standalone ∨ s.upPorts = [] → exec .autoJoin s = .next s) ∧
    (∀ m n, s.up = true → s.nor.membership = some (s.img.active.plain.plainId, m, n) → s.img.active.plain.flags.testBit 1 = true →
      1 < s.img.active.plain.members → m < s.img.active.plain.members → s.plain.own = .standalone → s.upPorts ≠ [] →
      ∃ t j, exec .autoJoin s = .next t ∧ t.plain.own = .joining ∧ t.plain.join = some j ∧ j.hdr = none ∧ j.member = m ∧ j.mode = 1)) ∧
  (∀ (h : Hdr) (s : State), s.accepts h 0xC6 = true →
    (s.plain.own = .standalone ∨ s.plain.own = .joining → exec (.plainLeave h) s = .next (finish h stNotPresent s)) ∧
    (s.plain.own = .leaving → exec (.plainLeave h) s = .next (finish h stSequence s)) ∧
    (s.plain.own = .member ∨ s.plain.own = .isolated →
      (s.leaveReady = true → ∃ u, exec (.plainLeave h) s = .next (finish h stOk u) ∧ u.plain.own = .standalone ∧ u.plain.member = 0xFF ∧
        u.plain.plainKey = false ∧ u.plain.parity = [] ∧ u.plain.leaveHdr = none ∧ u.ns = s.ns ∧ u.ftl.map = s.ftl.map) ∧
      (s.leaveReady = false → ∃ t, exec (.plainLeave h) s = .next t ∧ t.plain.own = .leaving ∧ t.plain.leaveHdr = some h ∧
        t.plain.member = s.plain.member))) ∧
  (∀ (port : Nat) (hd : FlitHdr) (s u : State), s.hears port hd = true → u = takeHeader port hd s → s.shaped →
    ((s.peer hd.src.toNat).state = .left → exec (.leaveMessage port hd) s = .next (giveCredit port hd u)) ∧
    ((s.peer hd.src.toNat).state ≠ .left → hd.src.toNat < 24 → s.query.runs = [] → s.plain.proxies = [] →
      ∃ v, exec (.leaveMessage port hd) s = .next (giveCredit port hd v) ∧ (v.peer hd.src.toNat).state = .left ∧
        (∀ e ∈ (v.peer hd.src.toNat).table, e.key = 0) ∧ (v.peer hd.src.toNat).mirror = []) ∧
    (∀ j, s.plain.own = .standalone ∨ s.plain.own = .isolated → exec (.joinRequest port hd j) s = .next (giveCredit port hd u)) ∧
    (∀ j, s.plain.own = .member → s.plain.reference = s.plain.member → j.plainId = s.img.active.plain.plainId → j.member < s.members →
      (s.joinFault j = none → exec (.joinRequest port hd j) s = .next (giveCredit port hd { u with plain := { u.plain with
        admissions := s.plain.admissions ++ [⟨j.member, j.stale⟩] } })) ∧
      (∀ r, s.joinFault j = some r → exec (.joinRequest port hd j) s = .next (giveCredit port hd
        (sendTo j.member 0 (.joinAdmit (.refused r)) u)))) ∧
    (∀ j g, s.plain.own = .joining → s.plain.join = some j → j.hdr = some g → hd.dst.toNat = j.member → j.member < 24 →
      (∀ r, ∃ v, exec (.joinAdmit port hd (.refused r)) s = .next (giveCredit port hd (finishDw g stJoinRefused r v)) ∧
        v.plain.own = .standalone ∧ v.plain.join = none ∧ v.plain.joinRefusal = r) ∧
      (∀ count present tt, ∃ v, exec (.joinAdmit port hd (.admitted count present false tt)) s = .next (giveCredit port hd
        (finishDw g stJoinRefused 9 v)) ∧ v.plain.own = .standalone) ∧
      (∀ count present tt, ∃ v, exec (.joinAdmit port hd (.admitted count present true tt)) s = .next (giveCredit port hd (finish g stOk v)) ∧
        v.plain.own = .member ∧ v.plain.member = j.member ∧ v.plain.plainKey = true ∧ v.bell.timetable = tt)) ∧
    (∀ f, hd.src.toNat = s.plain.member ∨ (hd.src.toNat, f.count) ∈ s.plain.seen →
      exec (.bellFlitReceived port hd f) s = .next (giveCredit port hd u)) ∧
    (∀ f, hd.src.toNat ≠ s.plain.member → (hd.src.toNat, f.count) ∉ s.plain.seen → hd.src.toNat < s.members → s.plain.own ≠ .standalone →
      hd.src.toNat < 24 → ∃ v, exec (.bellFlitReceived port hd f) s = .next (giveCredit port hd v) ∧
        v.plain.seen = ((hd.src.toNat, f.count) :: s.plain.seen).take 96 ∧ (v.peer hd.src.toNat).heard = true ∧
        (v.peer hd.src.toNat).mode = f.mode ∧ v.bell = s.bell ∧ v.host = s.host) ∧
    (∀ t, hd.dst.toNat = s.plain.member ∨ hd.dst = 0xFF#8 → exec (.namespaceTableMessage port hd t) s = .next (giveCredit port hd
      (onPeer t.member (fun p => { p with table := t.entries }) u))))

/-- Parity, rebuilt slots, forwarded reads and mirrors (R293, R294, R305 to R309): a delta is folded in its turn, kept ahead of it and
acknowledged again after it; an acknowledgement ends its delta; a stream that is not for this drive goes on to its requester; a forwarded
read is served and its data complete the command; a mirror's confirmations and drops are taken. Mirrors take effect on arrival, in the
model's own layout (logs 20 and 66). -/
def Obligations.ParityProxiesAndMirrorsAreServed : Prop :=
  ∀ (port : Nat) (hd : FlitHdr) (s u : State), s.hears port hd = true → u = takeHeader port hd s →
    hd.dst.toNat = s.plain.member ∨ hd.dst = 0xFF#8 →
    (∀ a, s.plain.own ≠ .leaving → ∃ v, exec (.parityAcknowledgement port hd a) s = .next (giveCredit port hd v) ∧
      v.plain.deltas = s.plain.deltas.filter (fun d => !(d.member == hd.src.toNat && d.delta.lsn == a.lsn && d.delta.wcount == a.wcount)) ∧
      v.ftl.map = s.ftl.map ∧ v.host = s.host) ∧
    (∀ d last, s.plain.early = [] → ((s.plain.parity.find? fun x => x.slot == d.slot).bind fun x => lookupNat x.counts d.pos) = last →
      (deltaTurn last d.wcount.toNat = 0 → exec (.parityDelta port hd d) s = .next (giveCredit port hd
        (sendTo hd.src.toNat 0 (.parityAck ⟨d.lsn, d.wcount⟩) u))) ∧
      (deltaTurn last d.wcount.toNat = 2 → exec (.parityDelta port hd d) s = .next (giveCredit port hd { u with plain := { u.plain with
        early := [d] } })) ∧
      (deltaTurn last d.wcount.toNat = 1 → ∃ v x, exec (.parityDelta port hd d) s = .next (giveCredit port hd
          (sendTo hd.src.toNat 0 (.parityAck ⟨d.lsn, d.wcount⟩) v)) ∧ x ∈ v.plain.parity ∧ x.slot = d.slot ∧
        x.data = xorBlob ((s.plain.parity.find? fun x => x.slot == d.slot).getD ⟨d.slot, (u.slotContent d.slot).data, []⟩).data
          (gfScale (parityCoef d.par d.pos) d.data) ∧ lookupNat x.counts d.pos = some d.wcount.toNat ∧
        (∀ y, y.slot ≠ d.slot → (y ∈ v.plain.parity ↔ y ∈ s.plain.parity)))) ∧
    (∀ r, s.parity? = none → exec (.rebuildStream port hd r) s = .next (giveCredit port hd u)) ∧
    (∀ r k m plan, s.parity? = some (k, m) → s.planFor r.requester r.lost = some plan → r.last = true →
      (r.requester ≠ s.plain.member → exec (.rebuildStream port hd r) s = .next (giveCredit port hd
        (sendTo r.requester 0 (.rebuild r) u))) ∧
      (r.requester = s.plain.member → (∀ x ∈ s.plain.recover, x.1 ≠ r.lost) → s.plain.proxies = [] →
        ∃ v, exec (.rebuildStream port hd r) s = .next (giveCredit port hd v) ∧ v.plain.rebuiltReads = bump64 s.plain.rebuiltReads ∧
          v.plain.rebuildLeft = s.plain.rebuildLeft - 1 ∧ v.bell.count = s.bell.count)) ∧
    (∀ q n p x, s.ns? q.nsid = some n → q.nlb = 0 → q.slba < n.slots * 16 → (∀ j ∈ s.ftl.jobs, j.jid < s.ftl.nextId) →
      s.mapOf (s.slotOf n q.slba) = some (.phys p) → s.buffered p = some x → x.poison = [] → s.deferredLba n.nsid q.slba = false →
      ∃ v, exec (.proxyReadRequest port hd q) s = .next (giveCredit port hd (sendTo hd.src.toNat 0
          (.proxyData ⟨q.tag, x.data.slice (q.slba % 16 * 4096) 4096, []⟩) v)) ∧ v.ftl.map = s.ftl.map ∧ v.ftl.jobs = s.ftl.jobs) ∧
    (∀ d x, (s.plain.proxies.find? fun x => x.tag == d.tag && x.want.isEmpty) = some x → d.poison = [] →
      ∃ v, exec (.proxyReadData port hd d) s = .next (giveCredit port hd (finishData x.hdr (d.data.fit ((x.nlb + 1) * 4096)) v)) ∧
        v.plain.proxies = s.plain.proxies.filter (fun y => y.tag != x.tag) ∧ v.host = s.host) ∧
    (∀ d x g, (s.plain.proxies.find? fun x => x.tag == d.tag && x.want.isEmpty) = some x → d.poison = [g] → g < (x.nlb + 1) * 64 →
      ∃ v o, exec (.proxyReadData port hd d) s = .next (giveCredit port hd (finishUnrecovered x.hdr o x.nsid (x.slba + g / 64) v)) ∧
        v.plain.proxies = s.plain.proxies.filter (fun y => y.tag != x.tag)) ∧
    (∀ d, (s.plain.proxies.find? fun x => x.tag == d.tag && x.want.isEmpty) = none →
      exec (.proxyReadData port hd d) s = .next (giveCredit port hd u)) ∧
    (∀ wid, exec (.mirrorUpkeep port hd (.confirmPending wid)) s = .next (giveCredit port hd { u with idx := { s.idx with
      waiting := s.idx.waiting.map fun w => if w.wid = wid then { w with confirmed := true } else w } })) ∧
    (∀ num v, exec (.mirrorUpkeep port hd (.piece num 1048576 v (Blob.zero 0))) s = .next (giveCredit port hd
      (sendTo hd.src.toNat 0 (.mirror (.confirm num 1048576 v))
        (onPeer hd.src.toNat (fun p => { p with mirror := p.mirror.filter fun x => x.num != num }) u))))

/-- Losing power (R377, R379, R382, R384, R388, R392, R413): a power loss, a removal of 1 µs or longer, PWRDIS raised and an overvoltage flush
and reset a running drive; the event's measures are recorded, and the flush mark stands where the flush was completed. A shorter contact
bounce, and voltages within their bounds, do nothing. Counts of a flush, the moment of a cut and what keeps its contents are the model's
choices (logs 86, 96 and 104). -/
def Obligations.PowerLossFlushesAndResets : Prop :=
  (∀ (s : State) (f : FlushCost) (c : Instr), s.power.down = .up →
    (∃ mv, mv < 9600 ∧ c = .powerLoss mv f) ∨ (∃ ns, 1000 ≤ ns ∧ s.power.mated = true ∧ c = .removal ns f) ∨ c = .pwrdisRaised f ∨
      (∃ mv, 14500 < mv ∧ c = .inputOvervoltage mv f) →
    ∃ t, exec c s = .next t ∧ t.cleared ∧ t.power.down = .noPower ∧ t.power.powerLosses = bump32 s.power.powerLosses ∧
      t.power.lastFlushUs = f.us ∧ t.power.lastFlushMj = f.mj ∧ t.ftl.flushMark = f.complete ∧
      (∀ mv, c = .powerLoss mv f ∨ c = .inputOvervoltage mv f → t.power.vinMv = mv) ∧
      (∀ ns, c = .removal ns f → t.power.mated = false) ∧ (c = .pwrdisRaised f → t.power.pwrdis = true)) ∧
  (∀ (s : State) (f : FlushCost),
    (∀ mv, 9600 ≤ mv → exec (.powerLoss mv f) s = .next s) ∧ (∀ mv, mv ≤ 14500 → exec (.inputOvervoltage mv f) s = .next s) ∧
    (∀ ns, ns < 1000 ∨ s.power.mated = false → exec (.removal ns f) s = .next s) ∧
    (s.power.down = .noPower → exec (.pwrdisRaised f) s = .next { s with power := { s.power with pwrdis := true } })) ∧
  (∀ s : State, exec .pwrdisLowered s = .next { s with power := { s.power with pwrdis := false } } ∧
    exec .mateDetectClose s = .next { s with power := { s.power with mated := true } })

/-- Supply warnings and the return of power (R84, R377, R379, R380, R389, R392, R417): a sag raises SUPPLY_SAG, its count, MSI-X vector 0 and
the array clock's floor until 11.2 V; 3.3 V aux below its limits flags and resets the management endpoint; 12 V within its limits on a mated
drive with PWRDIS low starts the drive, which runs unless its hub fails the self-test. What a drive that restarts keeps is the model's
reading (logs 98, 100 and 101). -/
def Obligations.SuppliesWarnAndReturn : Prop :=
  (∀ (s : State) (mv : Nat), s.up = true →
    (mv < 10800 → ∃ t, exec (.sagWarning mv) s = .next t ∧ t.power.supplySag = true ∧ t.power.vinMv = mv ∧
      t.power.sagEvents = bump32 s.power.sagEvents ∧ (∃ l, t.host.msix = s.host.msix ++ 0 :: l) ∧
      t.power.powerSteps = modifyAt s.power.powerSteps 0 (fun _ => s.floors.getD 0 0) ∧
      t = { s with host := t.host, power := t.power }) ∧
    (10800 ≤ mv → exec (.sagWarning mv) s = .next s) ∧
    (s.power.supplySag = true → 11200 ≤ mv →
      exec (.sagClear mv) s = .next { s with power := { s.power with vinMv := mv, supplySag := false } }) ∧
    (s.power.supplySag = false ∨ mv < 11200 → exec (.sagClear mv) s = .next s)) ∧
  (∀ (s : State) (mv : Nat),
    (mv < 3050 → s.up = false ∨ s.power.auxSag = true →
      exec (.auxWarning mv) s = .next { s with power := { s.power with vauxMv := mv, auxSag := true } }) ∧
    (mv < 3050 → s.up = true → s.power.auxSag = false → exec (.auxWarning mv) s = .next (vendorEvent 0xC0
      { s with power := { s.power with vauxMv := mv, auxSag := true } })) ∧
    (3050 ≤ mv → exec (.auxWarning mv) s = .next s) ∧
    (mv < 2900 → exec (.auxReset mv) s = .next { s with power := { s.power with vauxMv := mv, mgmt := false } }) ∧
    (2900 ≤ mv → exec (.auxReset mv) s = .next s) ∧
    (∀ strap, 3050 ≤ mv → exec (.auxReturn mv strap) s = .next { s with power := { s.power with
      vauxMv := mv, auxSag := false, mgmt := s.power.down != .hubFailed, strapGnd := strap } }) ∧
    (∀ strap, mv < 3050 → exec (.auxReturn mv strap) s = .next s)) ∧
  (∀ (s : State) (mv mj : Nat) (failed : List Nat), s.power.down = .noPower → s.power.mated = true → s.power.pwrdis = false →
    11200 < mv → mv ≤ 14500 → (∀ d, d < 5 → (s.die d).state ≠ .failed) →
    (failed = [] → ∃ t, exec (.powerOn mv mj failed) s = .next t ∧ t.up = true ∧ t.power.vinMv = mv ∧ t.power.holdupMj = mj ∧
      t.host.perst = true ∧ t.host.link = s.host.link ∧ t.bell.tick = s.bell.tick) ∧
    (failed = [0] → ∃ t, exec (.powerOn mv mj failed) s = .next t ∧ t.power.down = .hubFailed ∧ t.power.mgmt = false)) ∧
  (∀ (s : State) (mv mj : Nat) (failed : List Nat),
    s.power.down ≠ .noPower ∨ s.power.mated = false ∨ s.power.pwrdis = true ∨ mv ≤ 11200 ∨ 14500 < mv →
    exec (.powerOn mv mj failed) s = .next s)

/-- The throttle and the sensors (R385, R386, R387, R418, R420 to R422): samples enter the 10 ms mean and the energy; above the cap one step of
the first stage not at its floor is taken, and after 10 ms below it the last is undone; a NAND sensor at its throttle point steps stage 3
first, a heavy point takes every stage to its floor, a critical point flushes and holds the drive in reset; a hot or weak hold-up bank puts
write-through in force; an array die gates after its idle bells. The order of the stages under heat and the end of ENVELOPE_EXCEEDED are
read by inference (log 102). -/
def Obligations.ThrottleFollowsPowerAndHeat : Prop :=
  (∀ (s : State) (dw : Nat), s.up = true → ∃ t, exec (.powerSample dw) s = .next t ∧
    t.power.samples = (dw :: s.power.samples).take 1000 ∧ t.power.energyUj = s.power.energyUj + dw ∧
    t.power.peakLimits = (if 1650 < dw then bump32 s.power.peakLimits else s.power.peakLimits) ∧
    t.power.powerSteps = (if 1650 < dw then modifyAt s.power.powerSteps 0 (fun _ => s.floors.getD 0 0) else s.power.powerSteps) ∧
    t = { s with power := t.power }) ∧
  (∀ (s : State) (a b c : Nat), s.up = true → s.power.temps = [] → s.power.powerSteps = [a, b, c] → s.power.thermalSteps = [0, 0, 0] →
    (10 * s.capW < s.meanDw →
      (a < s.floors.getD 0 0 → exec .throttleStep s = .next { s with power := { s.power with powerSteps := [a + 1, b, c] } }) ∧
      (s.floors.getD 0 0 ≤ a → b < 8 → exec .throttleStep s = .next { s with power := { s.power with powerSteps := [a, b + 1, c] } }) ∧
      (s.floors.getD 0 0 ≤ a → 8 ≤ b → c < 5 → exec .throttleStep s = .next { s with power := { s.power with powerSteps := [a, b, c + 1] } }) ∧
      (s.floors.getD 0 0 ≤ a → 8 ≤ b → 5 ≤ c → s.power.envelopeExceeded = false →
        exec .throttleStep s = .next (vendorEvent 0xC0 { s with power := { s.power with envelopeExceeded := true } }))) ∧
    (s.meanDw ≤ 10 * s.capW → 1000 ≤ s.power.belowRun → s.power.supplySag = false →
      (0 < c → exec .throttleStep s = .next { s with power := { s.power with envelopeExceeded := false, powerSteps := [a, b, c - 1] } }) ∧
      (c = 0 → 0 < b → exec .throttleStep s = .next { s with power := { s.power with envelopeExceeded := false, powerSteps := [a, b - 1, c] } }) ∧
      (c = 0 → b = 0 → exec .throttleStep s = .next { s with power := { s.power with envelopeExceeded := false, powerSteps := [a - 1, b, c] } })) ∧
    (s.meanDw ≤ 10 * s.capW → s.power.belowRun < 1000 ∨ s.power.supplySag = true →
      exec .throttleStep s = .next { s with power := { s.power with envelopeExceeded := false } })) ∧
  (∀ (s : State) (n deg a b c : Nat), s.up = true → s.meanDw ≤ 10 * s.capW → s.power.belowRun < 1000 → s.power.thermalSteps = [a, b, c] →
    (s.power.temps = [(.nand n, deg)] → 70 ≤ deg → c < 5 →
      exec .throttleStep s = .next { s with power := { s.power with envelopeExceeded := false, thermalSteps := [a, b, c + 1] } }) ∧
    (s.power.temps = [(.die n, deg)] → 100 ≤ deg → a < s.floors.getD 0 0 →
      exec .throttleStep s = .next { s with power := { s.power with envelopeExceeded := false, thermalSteps := [a + 1, b, c] } }) ∧
    (s.power.temps = [(.die n, deg)] → 98 < deg → deg < 100 →
      exec .throttleStep s = .next { s with power := { s.power with envelopeExceeded := false } })) ∧
  (∀ (s : State) (deg : Nat) (f : FlushCost), s.power.down = .up →
    (∀ n, 105 ≤ deg → deg < 115 → s.power.temps = [] → ∃ t, exec (.temperatureSample (.die n) deg f) s = .next t ∧
      t.power.thermalSteps = s.floors ∧ t.host.critWarn.testBit 1 = true ∧ t.power.temps = [(.die n, deg)] ∧ t.power.down = .up) ∧
    (∀ n, 115 ≤ deg → ∃ t, exec (.temperatureSample (.die n) deg f) s = .next t ∧ t.cleared ∧ t.power.down = .hot)) ∧
  (∀ (s : State) (d : Nat), s.up = true → d = 3 ∨ d = 4 → s.dieServes d = true → d ∉ s.eng.gated →
    (s.img.active.idleGate ≠ 0 → s.img.active.idleGate ≤ s.eng.idleBells.getD (d - 3) 0 →
      exec (.arrayIdleGate d) s = .next { s with eng := { s.eng with gated := s.eng.gated ++ [d] } }) ∧
    (s.img.active.idleGate = 0 ∨ s.eng.idleBells.getD (d - 3) 0 < s.img.active.idleGate → exec (.arrayIdleGate d) s = .next s))

/-- The hold-up bank (R385, R421): above 70 °C write-through is in force and bit 4 of Critical Warning is set, and neither ends before the bank
has been below 65 °C and a measurement of at least 1.5 J has followed; a measurement below 1.5 J has the same effect by itself. -/
def Obligations.HotBankWritesThrough : Prop :=
  (∀ (s : State) (deg : Nat) (f : FlushCost), s.power.down = .up →
    (70 < deg → ∃ t, exec (.temperatureSample .bank deg f) s = .next t ∧ t.power.through = true ∧ t.power.bankHot = true ∧
      t.host.critWarn.testBit 4 = true) ∧
    (65 ≤ deg → deg ≤ 70 → ∃ t, exec (.temperatureSample .bank deg f) s = .next t ∧ t.power.bankHot = s.power.bankHot ∧
      t.power.through = s.power.through ∧ t.host = s.host) ∧
    (deg < 65 → ∃ t, exec (.temperatureSample .bank deg f) s = .next t ∧ t.power.bankHot = false ∧
      t.power.through = s.power.through ∧ t.host = s.host)) ∧
  (∀ (s : State) (mj : Nat), s.up = true →
    (mj < 1500 → ∃ t, exec (.holdupMeasurement mj) s = .next t ∧ t.power.holdupMj = mj ∧ t.power.through = true ∧
      t.host.critWarn.testBit 4 = true) ∧
    (1500 ≤ mj → s.power.bankHot = false → ∃ t, exec (.holdupMeasurement mj) s = .next t ∧ t.power.holdupMj = mj ∧
      t.power.through = false ∧ t.host.critWarn.testBit 4 = false) ∧
    (1500 ≤ mj → s.power.bankHot = true → exec (.holdupMeasurement mj) s = .next { s with power := { s.power with holdupMj := mj } }))

/-- Resets (R84, R87, R101, R388 to R390): an NVM Subsystem Reset restarts the whole drive, a Controller Level Reset and a lost link end every
command and leave bell, image, namespaces and vendor features; the controller is enabled and the link comes up as their events say; a
shutdown ends with content programmed and the flush mark. Arbitration and the power state at a Controller Level Reset follow NVM Express
Base (log 51); the shutdown's end and the tags of the dies are read by inference (logs 99 and 31). -/
def Obligations.ResetsAndShutdownsLeaveWhatTheyKeep : Prop :=
  (∀ (s : State) (mi : Bool) (v : BitVec 32) (f : FlushCost),
    (s.up = true → (if mi then s.power.mgmt else s.host.link && v == 0x4E564D65#32) = true → (∀ d, d < 5 → (s.die d).state ≠ .failed) →
      ∃ t, exec (.nvmSubsystemReset mi v f) s = .next t ∧ t.up = true ∧ t.host.link = false ∧ t.host.en = false ∧ t.host.sqs = [] ∧
        t.host.outs = [] ∧ t.host.held = [] ∧ t.bell.count = 0 ∧ t.bell.tick = 0 ∧ t.bell.mode = .freeRunning ∧ t.sched.lessons = [] ∧
        t.sched.runs = [] ∧ t.plain.own = .standalone ∧ t.nor.maint = false) ∧
    (s.up = false ∨ (if mi then s.power.mgmt else s.host.link && v == 0x4E564D65#32) = false →
      exec (.nvmSubsystemReset mi v f) s = .next s)) ∧
  (∀ s : State,
    (s.up = true → s.host.link = true → s.host.perst = false → exec .controllerEnable s = .next { s with host := { s.host with
      en := true, rdy := s.sec.sanitize.isNone } }) ∧
    (s.up = false ∨ s.host.link = false ∨ s.host.perst = true → exec .controllerEnable s = .next s)) ∧
  (∀ (s : State) (c : Instr), s.up = true →
    (c = .controllerLevelReset .ccEn ∧ s.host.en = true) ∨ (∃ k, k ≠ .ccEn ∧ c = .controllerLevelReset k) ∨
      (c = .surpriseLinkDown ∧ s.host.link = true) →
    ∃ t, exec c s = .next t ∧ t.host.en = false ∧ t.host.rdy = false ∧ t.host.sqs = [] ∧ t.host.cqs = [] ∧ t.host.outs = [] ∧
      t.host.held = [] ∧ t.host.aers = [] ∧ t.host.powerState = 0 ∧ t.host.arb = (0, 0, 0, 0) ∧ t.host.envelopeW = s.host.envelopeW ∧
      t.host.policy = s.host.policy ∧ t.host.queryDef = s.host.queryDef ∧ t.bell.count = s.bell.count ∧ t.bell.tick = s.bell.tick ∧
      t.img.active = s.img.active ∧ t.ns = s.ns ∧ t.nor.maint = false ∧ t.fw.staged = Blob.zero 0 ∧
      (c = .surpriseLinkDown ∨ c = .controllerLevelReset .linkDown ∨ c = .controllerLevelReset .perst → t.host.link = false) ∧
      (c = .controllerLevelReset .ccEn ∨ c = .controllerLevelReset .flr ∨ c = .controllerLevelReset .hotReset →
        t.host.link = s.host.link) ∧
      (c = .controllerLevelReset .perst → t.host.perst = true)) ∧
  (∀ s : State, (s.host.en = false → exec (.controllerLevelReset .ccEn) s = .next s) ∧
    (s.host.link = false → exec .surpriseLinkDown s = .next s)) ∧
  (∀ (s : State) (g w : Nat), exec (.perstDeasserted g w) s = .next { s with host := { s.host with
    perst := false, link := s.up && s.dieServes 0 && decide (8 ≤ g ∧ 4 ≤ w), gts := g, width := w } }) ∧
  (∀ s : State, s.serving = true →
    (s.host.shst = 0 → s.host.held = [] → s.host.outs = [] →
      ∃ t, exec .shutdownNormal s = .next t ∧ t.host.shst = 2 ∧ t.ftl.flushMark = true ∧ t.bell.tick = s.bell.tick) ∧
    (∀ o, s.host.shst = 0 → o ∈ s.host.outs → o.sq ≠ 0 →
      exec .shutdownNormal s = .next { s with host := { s.host with shst := 1 } }) ∧
    (s.host.shst ≠ 0 → exec .shutdownNormal s = .next s) ∧
    (∀ f : FlushCost, ∃ t, exec (.shutdownAbrupt f) s = .next t ∧ t.host.shst = 2 ∧ (f.complete = true → t.ftl.flushMark = true))) ∧
  (∀ s : State, s.serving = false → exec .shutdownNormal s = .next s ∧ ∀ f, exec (.shutdownAbrupt f) s = .next s)

/-- The cycles of a sequence on the option aperture (R346, R348, R349): outside Maintenance state, out of order or with another operation under
way a cycle fails with its error and changes nothing in the array; in order the two keys open the sequence, and a command with a good data
cycle is accepted. A reset code ends the sequence. ERR_SECTOR of a cycle that names no sector is the model's choice (log 34). -/
def Obligations.OptionCyclesAreTakenInOrder : Prop :=
  ∀ (s : State), s.up = true → s.host.link = true → s.host.perst = false →
    (∀ v, (s.nor.maint = false → exec (.optKey1 v) s = .next { s with nor := s.nor.fail 2 0 }) ∧
      (s.nor.maint = true → s.nor.hostBusy = true → exec (.optKey1 v) s = .next { s with nor := s.nor.fail 1 0 }) ∧
      (s.nor.maint = true → s.nor.hostBusy = false → s.nor.seq = 0 → v = 0x4D5A#16 →
        exec (.optKey1 v) s = .next { s with nor := { s.nor with seq := 1 } }) ∧
      (s.nor.maint = true → s.nor.hostBusy = false → s.nor.seq = 0 → v ≠ 0x4D5A#16 →
        exec (.optKey1 v) s = .next { s with nor := s.nor.fail 1 0 }) ∧
      (s.nor.maint = true → s.nor.hostBusy = false → s.nor.seq = 1 → v = 0x5A4D#16 →
        exec (.optKey2 v) s = .next { s with nor := { s.nor with seq := 2 } }) ∧
      (s.nor.maint = true → s.nor.hostBusy = false → s.nor.seq = 1 → v ≠ 0x5A4D#16 →
        exec (.optKey2 v) s = .next { s with nor := s.nor.fail 1 0 })) ∧
    (s.nor.maint = true → s.nor.hostBusy = false → s.nor.seq = 2 →
      exec .optReset s = .next { s with nor := { s.nor with seq := 0 } } ∧
      (∀ k w v, w < 8192 → 3 ≤ k → k ≤ 6 → k ≠ 5 → s.nor.refuses (k * 8192 + w) = false →
        (w % 8 ≠ 0 → exec (.wordProgram ((k * 8192 + w) * 8) 8 v) s = .next { s with nor := { s.nor with
          seq := 0, code := none, target := (k * 8192 + w) * 8, hostBusy := true, hostOp := some (.word (k * 8192 + w) v) } }) ∧
        (w % 8 = 0 → exec (.flagProgram ((k * 8192 + w) * 8) 8 v) s = .next { s with nor := { s.nor with
          seq := 0, code := none, target := (k * 8192 + w) * 8, hostBusy := true, hostOp := some (.flag (k * 8192 + w) v) } })) ∧
      (∀ k w v, w < 8192 → k < 128 →
        (k = 3 ∨ k = 4 ∨ k = 6 →
          (w % 8 = 0 → ∃ t, exec (.wordProgram ((k * 8192 + w) * 8) 8 v) s = .next t ∧ t.nor.err = 3 ∧ t.nor.words = s.nor.words) ∧
          (w % 8 ≠ 0 → ∃ t, exec (.flagProgram ((k * 8192 + w) * 8) 8 v) s = .next t ∧ t.nor.err = 3 ∧ t.nor.words = s.nor.words) ∧
          (w % 8 ≠ 0 → s.nor.refuses (k * 8192 + w) = true →
            ∃ t, exec (.wordProgram ((k * 8192 + w) * 8) 8 v) s = .next t ∧ t.nor.err = 4 ∧ t.nor.words = s.nor.words)) ∧
        (k ≠ 3 → k ≠ 4 → k ≠ 6 →
          ∃ t, exec (.wordProgram ((k * 8192 + w) * 8) 8 v) s = .next t ∧ t.nor.err = 2 ∧ t.nor.errSector = k ∧ t.nor.seq = 0 ∧
            t = { s with nor := { s.nor with seq := 0, code := none, err := 2, errValid := true, errSector := k } })) ∧
      (∀ o, (o / 65536 = 3 ∨ o / 65536 = 4 ∨ o / 65536 = 6) →
        (s.nor.fwBusy = true → exec (.sectorErase o 2 0x3030#64) s = .next { s with nor := { s.nor with
          seq := 0, code := none, target := o, hostBusy := true, hostOp := some (.erase (o / 65536) none) } }) ∧
        (s.nor.fwBusy = false → ∃ t, exec (.sectorErase o 2 0x3030#64) s = .next t ∧ t.nor.hostBusy = true ∧ t.nor.seq = 0 ∧
          t.nor.target = o ∧ t.nor.hostOp = some (.erase (o / 65536) (some s.nor.nextSeq)) ∧ t = { s with nor := t.nor })))

/-- Register writes (R343, R345, R424): in the option aperture writing 1 clears ERR_VALID, DONE and UNCORR, a write of SECTOR_SELECT takes its
seven bits, and read-only registers keep their values; a write to BAR0/1 changes nothing but the register file. What BAR0/1 keeps follows
NVM Express Base (log 45). -/
def Obligations.RegisterWritesKeepToTheirRegisters : Prop :=
  ∀ (s : State) (v : BitVec 64), s.up = true → s.host.link = true → s.host.perst = false →
    exec (.registerWrite 2 0x900000 4 v) s = .next { s with nor := { s.nor with
      errValid := s.nor.errValid && !(v.getLsbD 7), done := s.nor.done && !(v.getLsbD 6), uncorr := s.nor.uncorr && !(v.getLsbD 0) } } ∧
    exec (.registerWrite 2 0x900008 4 v) s = .next { s with nor := { s.nor with sectorSel := v.toNat % 128 } } ∧
    (∀ r, r = 0x900004 ∨ r = 0x90000C ∨ r = 0x900010 → exec (.registerWrite 2 r 4 v) s = .next s) ∧
    (∀ o w, ∃ t, exec (.registerWrite 0 o w v) s = .next t ∧ t = { s with host := { s.host with regs := t.host.regs } })

/-- Operations end (R340, R347, R348, R353, R354, R376): a verified program leaves old AND value in its word and no other word changes; one that
does not verify clears only bits asked for, which ones is open (log 7), and is reported; a verified erase leaves its sector all ones but for
its header, confirmed and counted once more. OPENED after a host's erase is read by inference (log 32). -/
def Obligations.OptionOperationsEndInTheArray : Prop :=
  (∀ (s : State) (w : Nat) (v : BitVec 64) (ok : Bool), s.nor.fwBusy = false → s.nor.later = [] →
    (∀ x ∈ s.nor.sectors, x.2.state = .opened → 16 ≤ x.1 → x.1 ∈ s.nor.window) →
    s.nor.hostOp = some (.word w v) ∨ (s.nor.hostOp = some (.flag w v) ∧ w / 8 % 1024 ≠ 1023) → s.nor.refuses w = false →
    ∃ t, exec (.optOperationDone ok) s = .next t ∧ t.nor.hostBusy = false ∧ t.nor.hostOp = none ∧
      (∀ x, x ≠ w → t.nor.word x = s.nor.word x) ∧ t.nor.sectors = s.nor.sectors ∧ t.mem = s.mem ∧ t.ftl = s.ftl ∧ t.host = s.host ∧
      (ok = true → t.nor.word w = s.nor.word w &&& v ∧ t.nor.done = true ∧ t.dies = s.dies) ∧
      (ok = false → t.nor.word w = s.nor.word w &&& (v ||| Config.freeWord s.free) ∧ t.nor.done = s.nor.done ∧
        t.nor.err = 5 ∧ t.nor.errValid = true ∧ t.nor.errSector = w / 8192 ∧
        t.dies.log = (⟨s.dies.logSeq, s.bell.count, 10, 0, ⟨0, 0, 0, w / 8192⟩⟩ :: s.dies.log).take 255)) ∧
  (∀ (s : State) (k q : Nat), s.nor.fwBusy = false → s.nor.later = [] → k < 16 →
    (∀ x ∈ s.nor.sectors, x.2.state = .opened → 16 ≤ x.1 → x.1 ∈ s.nor.window) → s.nor.hostOp = some (.erase k (some q)) →
    (∃ t, exec (.optOperationDone true) s = .next t ∧ t.nor.hostBusy = false ∧ t.nor.hostOp = none ∧ t.nor.done = true ∧
      (∀ w, w / 8192 = k → w ≠ k * 8192 → w ≠ k * 8192 + 1 → t.nor.word w = BitVec.allOnes 64) ∧
      t.nor.sector k = ⟨(s.nor.sector k).erases + 1, .confirmed⟩ ∧ t = { s with nor := t.nor }) ∧
    (∃ t, exec (.optOperationDone false) s = .next t ∧ t.nor.hostBusy = false ∧ t.nor.err = 5 ∧ t.nor.errSector = k ∧
      (t.nor.sector k).state = .unconfirmed)) ∧
  (∀ (s : State) (f : FwNorOp), s.nor.fwOp = some f → s.nor.later = [] → s.nor.hostOp = none →
    (f.use = .journal → 16 ≤ f.sector → (s.nor.sectors.map Prod.fst).Pairwise (· < ·) →
      (∀ x ∈ s.nor.sectors, x.2.state = .opened → 16 ≤ x.1 → x.1 ∈ s.nor.window ∨ x.1 = f.sector) →
      (∃ t, exec (.norEraseDone true) s = .next t ∧ t.nor.fwOp = none ∧ t.nor.fwBusy = false ∧
        t.nor.sector f.sector = ⟨f.erases, .confirmed⟩ ∧
        (∀ w, w / 8192 = f.sector → w ≠ f.sector * 8192 → w ≠ f.sector * 8192 + 1 → t.nor.word w = BitVec.allOnes 64)) ∧
      (∃ t, exec (.norEraseDone false) s = .next t ∧ t.nor.fwOp = none ∧ t.nor.sector f.sector = ⟨f.erases, .failed⟩)) ∧
    (f.use = .swapTarget → ∃ t o, exec (.norEraseDone true) s = .next t ∧ t.nor.fwOp = some o ∧ o.sector = 7 ∧ o.use = .swapSource ∧
      t.nor.fwBusy = true))

/-- SPDM (R402): GET_VERSION starts the connection anew; each further request is answered in its phase and with an ERROR in every other;
algorithms are agreed where P-256 and SHA-256 are offered; slot 0 alone holds a chain; a message that the drive does not support gets
UnsupportedRequest. A request that is not served changes nothing. The codes of the messages are those of DSP0274, which the spec names (log
89). -/
def Obligations.SpdmAnswersInItsPhase : Prop :=
  (∀ s : State, s.spdmServed = true →
    (∃ t, exec .getVersion s = .next t ∧ s.answered t 0x04 .versioned) ∧
    (s.sec.spdm = .versioned → ∃ t, exec .getCapabilities s = .next t ∧ s.answered t 0x61 .capable) ∧
    (∀ a h, s.sec.spdm = .capable → SpdmAlg.ecdsaP256 ∈ a → SpdmAlg.sha256 ∈ h →
      ∃ t, exec (.negotiateAlgorithms a h) s = .next t ∧ s.answered t 0x63 .negotiated) ∧
    (∀ a h, s.sec.spdm = .capable → SpdmAlg.ecdsaP256 ∉ a ∨ SpdmAlg.sha256 ∉ h →
      ∃ t, exec (.negotiateAlgorithms a h) s = .next t ∧ s.answered t 0x63 .capable) ∧
    (s.sec.spdm = .negotiated → s.nor.readable 0 = true →
      (∃ t, exec .getDigests s = .next t ∧ s.answered t 0x01 .negotiated) ∧
      (∀ o n, ∃ t, exec (.getCertificate 0 o n) s = .next t ∧
        s.answered t (if o < Config.certChain.len then 0x02 else 0x7F) .negotiated) ∧
      (∀ slot o n, slot ≠ 0 → ∃ t, exec (.getCertificate slot o n) s = .next t ∧ s.answered t 0x7F .negotiated) ∧
      (∀ nonce, ∃ t, exec (.challenge 0 nonce) s = .next t ∧ s.answered t 0x03 .negotiated) ∧
      (∀ slot nonce, slot ≠ 0 → ∃ t, exec (.challenge slot nonce) s = .next t ∧ s.answered t 0x7F .negotiated)) ∧
    (∀ b signed nonce, s.sec.spdm = .negotiated → b ≤ 8 ∨ b = 0xFF →
      ∃ t, exec (.getMeasurements b signed nonce) s = .next t ∧ s.answered t 0x60 .negotiated) ∧
    (∀ b signed nonce, s.sec.spdm = .negotiated → 8 < b → b ≠ 0xFF →
      ∃ t, exec (.getMeasurements b signed nonce) s = .next t ∧ s.answered t 0x7F .negotiated) ∧
    (s.sec.spdm ≠ .versioned → ∃ t, exec .getCapabilities s = .next t ∧ s.answered t 0x7F s.sec.spdm) ∧
    (∀ a h, s.sec.spdm ≠ .capable → ∃ t, exec (.negotiateAlgorithms a h) s = .next t ∧ s.answered t 0x7F s.sec.spdm) ∧
    (∀ c, s.sec.spdm ≠ .negotiated → c = .getDigests ∨ (∃ slot o n, c = .getCertificate slot o n) ∨ (∃ slot n, c = .challenge slot n) ∨
        (∃ b g n, c = .getMeasurements b g n) →
      ∃ t, exec c s = .next t ∧ s.answered t 0x7F s.sec.spdm) ∧
    (∀ code, ∃ t, exec (.spdmUnsupportedRequest code) s = .next t ∧ s.answered t 0x7F s.sec.spdm)) ∧
  (∀ s : State, s.spdmServed = false → ∀ c, c = .getVersion ∨ c = .getCapabilities ∨ (∃ a h, c = .negotiateAlgorithms a h) ∨
      c = .getDigests ∨ (∃ slot o n, c = .getCertificate slot o n) ∨ (∃ slot n, c = .challenge slot n) ∨
      (∃ b g n, c = .getMeasurements b g n) ∨ (∃ code, c = .spdmUnsupportedRequest code) → exec c s = .next s)
end

