-- ==== Sys2Proof/Laws/Admission.lean ====
section
/-! SUPPORT. What the shared operations of admission and completion do. -/

namespace Sys2Proof.Machine

theorem admitAdmin_accepts {s : State} {h : Hdr} {op : Nat} (k : State → State) (ok : s.accepts h op = true) :
    admitAdmin h op k s = k s := by
  simp only [State.accepts, Bool.and_eq_true, Bool.or_eq_true, Bool.not_eq_true', beq_iff_eq] at ok
  obtain ⟨⟨⟨⟨hf, hq⟩, hr⟩, hz⟩, hs⟩ := ok
  unfold admitAdmin
  rw [if_neg (by simp [hf, hq]), if_neg (by rcases hr with hr | hr <;> simp [hr]), if_neg (by simp [hz]),
    if_neg (by rcases hs with hs | hs <;> simp_all)]

theorem admitIo_accepts {s : State} {h : Hdr} {p : Bool} (c : Instr) (k : State → State) (ok : s.acceptsIo h p = true) :
    admitIo h c p k s = k s := by
  simp only [State.acceptsIo, Bool.and_eq_true, Bool.not_eq_true', decide_eq_true_eq] at ok
  obtain ⟨⟨⟨⟨⟨hf, hq⟩, ho⟩, hl⟩, hz⟩, hs⟩ := ok
  unfold admitIo
  rw [if_neg (by simp [hf, hq]), if_neg (by simp [ho]), if_neg (by omega), if_neg (by simp [hz]), if_neg (by simp_all)]

theorem admitRoom_accepts {s : State} {h : Hdr} {room : Nat} (c : Instr) (k : Room → State → State)
    (ok : s.acceptsRoom h room = true) : ∃ r, s.room? room = some r ∧ admitRoom h c room k s = k r s := by
  simp only [State.acceptsRoom, Bool.and_eq_true, Bool.not_eq_true'] at ok
  obtain ⟨⟨⟨hi, hr⟩, ha⟩, hc⟩ := ok
  obtain ⟨r, hr⟩ := Option.isSome_iff_exists.mp hr
  refine ⟨r, hr, ?_⟩
  unfold admitRoom
  rw [admitIo_accepts _ _ hi]
  simp [hr, ha, hc]

/-- Without a queue deletion under way, a completion posts its one entry. -/
theorem post_noDeletes (sq cid : Nat) (st : Status) (dw0 : Nat) (d : Blob) {s : State} (h : s.host.deletes = []) :
    post sq cid st dw0 d s = post1 sq cid st dw0 d s := by
  simp [post, post1, h]

end Sys2Proof.Machine
end

