-- ==== Sys2Proof/Laws/Completion.lean ====
section
/-! SUPPORT. What a completion entry leaves alone: everything but the host interface and the time of the last activity. -/

namespace Sys2Proof.Machine

theorem post1_frame (sq cid : Nat) (st : Status) (dw0 : Nat) (d : Blob) (s : State) : post1 sq cid st dw0 d s =
    { s with host := (post1 sq cid st dw0 d s).host, power := { s.power with activeNs := some s.bell.localNs } } := rfl

theorem finishDelete_frame (d : SqDelete) (s : State) :
    finishDelete s d = { s with host := (finishDelete s d).host, power := { s.power with activeNs := (finishDelete s d).power.activeNs } } := by
  unfold finishDelete
  split <;> rfl

theorem finishDeletes_frame (l : List SqDelete) (s : State) : l.foldl finishDelete s =
    { s with host := (l.foldl finishDelete s).host, power := { s.power with activeNs := (l.foldl finishDelete s).power.activeNs } } := by
  induction l generalizing s with
  | nil => rfl
  | cons d r ih =>
    rw [List.foldl_cons, ih, finishDelete_frame]

theorem post_frame (sq cid : Nat) (st : Status) (dw0 : Nat) (d : Blob) (s : State) : post sq cid st dw0 d s =
    { s with host := (post sq cid st dw0 d s).host, power := { s.power with activeNs := (post sq cid st dw0 d s).power.activeNs } } := by
  unfold post
  rw [finishDeletes_frame]
  rfl

@[simp] theorem post_pending (sq cid : Nat) (st : Status) (dw0 : Nat) (d : Blob) (s : State) : (post sq cid st dw0 d s).pending = s.pending := by rw [post_frame]
@[simp] theorem post_bell (sq cid : Nat) (st : Status) (dw0 : Nat) (d : Blob) (s : State) : (post sq cid st dw0 d s).bell = s.bell := by rw [post_frame]
@[simp] theorem post_img (sq cid : Nat) (st : Status) (dw0 : Nat) (d : Blob) (s : State) : (post sq cid st dw0 d s).img = s.img := by rw [post_frame]
@[simp] theorem post_nor (sq cid : Nat) (st : Status) (dw0 : Nat) (d : Blob) (s : State) : (post sq cid st dw0 d s).nor = s.nor := by rw [post_frame]
@[simp] theorem post_fw (sq cid : Nat) (st : Status) (dw0 : Nat) (d : Blob) (s : State) : (post sq cid st dw0 d s).fw = s.fw := by rw [post_frame]
@[simp] theorem post_sec (sq cid : Nat) (st : Status) (dw0 : Nat) (d : Blob) (s : State) : (post sq cid st dw0 d s).sec = s.sec := by rw [post_frame]
@[simp] theorem post_ns (sq cid : Nat) (st : Status) (dw0 : Nat) (d : Blob) (s : State) : (post sq cid st dw0 d s).ns = s.ns := by rw [post_frame]
@[simp] theorem post_ftl (sq cid : Nat) (st : Status) (dw0 : Nat) (d : Blob) (s : State) : (post sq cid st dw0 d s).ftl = s.ftl := by rw [post_frame]
@[simp] theorem post_mem (sq cid : Nat) (st : Status) (dw0 : Nat) (d : Blob) (s : State) : (post sq cid st dw0 d s).mem = s.mem := by rw [post_frame]
@[simp] theorem post_sched (sq cid : Nat) (st : Status) (dw0 : Nat) (d : Blob) (s : State) : (post sq cid st dw0 d s).sched = s.sched := by rw [post_frame]
@[simp] theorem post_eng (sq cid : Nat) (st : Status) (dw0 : Nat) (d : Blob) (s : State) : (post sq cid st dw0 d s).eng = s.eng := by rw [post_frame]
@[simp] theorem post_dies (sq cid : Nat) (st : Status) (dw0 : Nat) (d : Blob) (s : State) : (post sq cid st dw0 d s).dies = s.dies := by rw [post_frame]
@[simp] theorem post_idx (sq cid : Nat) (st : Status) (dw0 : Nat) (d : Blob) (s : State) : (post sq cid st dw0 d s).idx = s.idx := by rw [post_frame]
@[simp] theorem post_query (sq cid : Nat) (st : Status) (dw0 : Nat) (d : Blob) (s : State) : (post sq cid st dw0 d s).query = s.query := by rw [post_frame]
@[simp] theorem post_train (sq cid : Nat) (st : Status) (dw0 : Nat) (d : Blob) (s : State) : (post sq cid st dw0 d s).train = s.train := by rw [post_frame]
@[simp] theorem post_plain (sq cid : Nat) (st : Status) (dw0 : Nat) (d : Blob) (s : State) : (post sq cid st dw0 d s).plain = s.plain := by rw [post_frame]
@[simp] theorem post_free (sq cid : Nat) (st : Status) (dw0 : Nat) (d : Blob) (s : State) : (post sq cid st dw0 d s).free = s.free := by rw [post_frame]
@[simp] theorem finish_pending (h : Hdr) (st : Status) (s : State) : (finish h st s).pending = s.pending := post_pending _ _ _ _ _ _
@[simp] theorem finish_bell (h : Hdr) (st : Status) (s : State) : (finish h st s).bell = s.bell := post_bell _ _ _ _ _ _
@[simp] theorem finish_img (h : Hdr) (st : Status) (s : State) : (finish h st s).img = s.img := post_img _ _ _ _ _ _
@[simp] theorem finish_nor (h : Hdr) (st : Status) (s : State) : (finish h st s).nor = s.nor := post_nor _ _ _ _ _ _
@[simp] theorem finish_fw (h : Hdr) (st : Status) (s : State) : (finish h st s).fw = s.fw := post_fw _ _ _ _ _ _
@[simp] theorem finish_sec (h : Hdr) (st : Status) (s : State) : (finish h st s).sec = s.sec := post_sec _ _ _ _ _ _
@[simp] theorem finish_ns (h : Hdr) (st : Status) (s : State) : (finish h st s).ns = s.ns := post_ns _ _ _ _ _ _
@[simp] theorem finish_ftl (h : Hdr) (st : Status) (s : State) : (finish h st s).ftl = s.ftl := post_ftl _ _ _ _ _ _
@[simp] theorem finish_mem (h : Hdr) (st : Status) (s : State) : (finish h st s).mem = s.mem := post_mem _ _ _ _ _ _
@[simp] theorem finish_sched (h : Hdr) (st : Status) (s : State) : (finish h st s).sched = s.sched := post_sched _ _ _ _ _ _
@[simp] theorem finish_eng (h : Hdr) (st : Status) (s : State) : (finish h st s).eng = s.eng := post_eng _ _ _ _ _ _
@[simp] theorem finish_dies (h : Hdr) (st : Status) (s : State) : (finish h st s).dies = s.dies := post_dies _ _ _ _ _ _
@[simp] theorem finish_idx (h : Hdr) (st : Status) (s : State) : (finish h st s).idx = s.idx := post_idx _ _ _ _ _ _
@[simp] theorem finish_query (h : Hdr) (st : Status) (s : State) : (finish h st s).query = s.query := post_query _ _ _ _ _ _
@[simp] theorem finish_train (h : Hdr) (st : Status) (s : State) : (finish h st s).train = s.train := post_train _ _ _ _ _ _
@[simp] theorem finish_plain (h : Hdr) (st : Status) (s : State) : (finish h st s).plain = s.plain := post_plain _ _ _ _ _ _
@[simp] theorem finish_free (h : Hdr) (st : Status) (s : State) : (finish h st s).free = s.free := post_free _ _ _ _ _ _
@[simp] theorem finishDw_pending (h : Hdr) (st : Status) (dw0 : Nat) (s : State) : (finishDw h st dw0 s).pending = s.pending := post_pending _ _ _ _ _ _
@[simp] theorem finishDw_bell (h : Hdr) (st : Status) (dw0 : Nat) (s : State) : (finishDw h st dw0 s).bell = s.bell := post_bell _ _ _ _ _ _
@[simp] theorem finishDw_img (h : Hdr) (st : Status) (dw0 : Nat) (s : State) : (finishDw h st dw0 s).img = s.img := post_img _ _ _ _ _ _
@[simp] theorem finishDw_nor (h : Hdr) (st : Status) (dw0 : Nat) (s : State) : (finishDw h st dw0 s).nor = s.nor := post_nor _ _ _ _ _ _
@[simp] theorem finishDw_fw (h : Hdr) (st : Status) (dw0 : Nat) (s : State) : (finishDw h st dw0 s).fw = s.fw := post_fw _ _ _ _ _ _
@[simp] theorem finishDw_sec (h : Hdr) (st : Status) (dw0 : Nat) (s : State) : (finishDw h st dw0 s).sec = s.sec := post_sec _ _ _ _ _ _
@[simp] theorem finishDw_ns (h : Hdr) (st : Status) (dw0 : Nat) (s : State) : (finishDw h st dw0 s).ns = s.ns := post_ns _ _ _ _ _ _
@[simp] theorem finishDw_ftl (h : Hdr) (st : Status) (dw0 : Nat) (s : State) : (finishDw h st dw0 s).ftl = s.ftl := post_ftl _ _ _ _ _ _
@[simp] theorem finishDw_mem (h : Hdr) (st : Status) (dw0 : Nat) (s : State) : (finishDw h st dw0 s).mem = s.mem := post_mem _ _ _ _ _ _
@[simp] theorem finishDw_sched (h : Hdr) (st : Status) (dw0 : Nat) (s : State) : (finishDw h st dw0 s).sched = s.sched := post_sched _ _ _ _ _ _
@[simp] theorem finishDw_eng (h : Hdr) (st : Status) (dw0 : Nat) (s : State) : (finishDw h st dw0 s).eng = s.eng := post_eng _ _ _ _ _ _
@[simp] theorem finishDw_dies (h : Hdr) (st : Status) (dw0 : Nat) (s : State) : (finishDw h st dw0 s).dies = s.dies := post_dies _ _ _ _ _ _
@[simp] theorem finishDw_idx (h : Hdr) (st : Status) (dw0 : Nat) (s : State) : (finishDw h st dw0 s).idx = s.idx := post_idx _ _ _ _ _ _
@[simp] theorem finishDw_query (h : Hdr) (st : Status) (dw0 : Nat) (s : State) : (finishDw h st dw0 s).query = s.query := post_query _ _ _ _ _ _
@[simp] theorem finishDw_train (h : Hdr) (st : Status) (dw0 : Nat) (s : State) : (finishDw h st dw0 s).train = s.train := post_train _ _ _ _ _ _
@[simp] theorem finishDw_plain (h : Hdr) (st : Status) (dw0 : Nat) (s : State) : (finishDw h st dw0 s).plain = s.plain := post_plain _ _ _ _ _ _
@[simp] theorem finishDw_free (h : Hdr) (st : Status) (dw0 : Nat) (s : State) : (finishDw h st dw0 s).free = s.free := post_free _ _ _ _ _ _
@[simp] theorem finishData_pending (h : Hdr) (d : Blob) (s : State) : (finishData h d s).pending = s.pending := post_pending _ _ _ _ _ _
@[simp] theorem finishData_bell (h : Hdr) (d : Blob) (s : State) : (finishData h d s).bell = s.bell := post_bell _ _ _ _ _ _
@[simp] theorem finishData_img (h : Hdr) (d : Blob) (s : State) : (finishData h d s).img = s.img := post_img _ _ _ _ _ _
@[simp] theorem finishData_nor (h : Hdr) (d : Blob) (s : State) : (finishData h d s).nor = s.nor := post_nor _ _ _ _ _ _
@[simp] theorem finishData_fw (h : Hdr) (d : Blob) (s : State) : (finishData h d s).fw = s.fw := post_fw _ _ _ _ _ _
@[simp] theorem finishData_sec (h : Hdr) (d : Blob) (s : State) : (finishData h d s).sec = s.sec := post_sec _ _ _ _ _ _
@[simp] theorem finishData_ns (h : Hdr) (d : Blob) (s : State) : (finishData h d s).ns = s.ns := post_ns _ _ _ _ _ _
@[simp] theorem finishData_ftl (h : Hdr) (d : Blob) (s : State) : (finishData h d s).ftl = s.ftl := post_ftl _ _ _ _ _ _
@[simp] theorem finishData_mem (h : Hdr) (d : Blob) (s : State) : (finishData h d s).mem = s.mem := post_mem _ _ _ _ _ _
@[simp] theorem finishData_sched (h : Hdr) (d : Blob) (s : State) : (finishData h d s).sched = s.sched := post_sched _ _ _ _ _ _
@[simp] theorem finishData_eng (h : Hdr) (d : Blob) (s : State) : (finishData h d s).eng = s.eng := post_eng _ _ _ _ _ _
@[simp] theorem finishData_dies (h : Hdr) (d : Blob) (s : State) : (finishData h d s).dies = s.dies := post_dies _ _ _ _ _ _
@[simp] theorem finishData_idx (h : Hdr) (d : Blob) (s : State) : (finishData h d s).idx = s.idx := post_idx _ _ _ _ _ _
@[simp] theorem finishData_query (h : Hdr) (d : Blob) (s : State) : (finishData h d s).query = s.query := post_query _ _ _ _ _ _
@[simp] theorem finishData_train (h : Hdr) (d : Blob) (s : State) : (finishData h d s).train = s.train := post_train _ _ _ _ _ _
@[simp] theorem finishData_plain (h : Hdr) (d : Blob) (s : State) : (finishData h d s).plain = s.plain := post_plain _ _ _ _ _ _
@[simp] theorem finishData_free (h : Hdr) (d : Blob) (s : State) : (finishData h d s).free = s.free := post_free _ _ _ _ _ _
@[simp] theorem begin'_pending (h : Hdr) (k : OutKind) (s : State) : (begin' h k s).pending = s.pending := by unfold begin'; split <;> rfl
@[simp] theorem begin'_bell (h : Hdr) (k : OutKind) (s : State) : (begin' h k s).bell = s.bell := by unfold begin'; split <;> rfl
@[simp] theorem begin'_img (h : Hdr) (k : OutKind) (s : State) : (begin' h k s).img = s.img := by unfold begin'; split <;> rfl
@[simp] theorem begin'_nor (h : Hdr) (k : OutKind) (s : State) : (begin' h k s).nor = s.nor := by unfold begin'; split <;> rfl
@[simp] theorem begin'_fw (h : Hdr) (k : OutKind) (s : State) : (begin' h k s).fw = s.fw := by unfold begin'; split <;> rfl
@[simp] theorem begin'_sec (h : Hdr) (k : OutKind) (s : State) : (begin' h k s).sec = s.sec := by unfold begin'; split <;> rfl
@[simp] theorem begin'_ns (h : Hdr) (k : OutKind) (s : State) : (begin' h k s).ns = s.ns := by unfold begin'; split <;> rfl
@[simp] theorem begin'_ftl (h : Hdr) (k : OutKind) (s : State) : (begin' h k s).ftl = s.ftl := by unfold begin'; split <;> rfl
@[simp] theorem begin'_mem (h : Hdr) (k : OutKind) (s : State) : (begin' h k s).mem = s.mem := by unfold begin'; split <;> rfl
@[simp] theorem begin'_sched (h : Hdr) (k : OutKind) (s : State) : (begin' h k s).sched = s.sched := by unfold begin'; split <;> rfl
@[simp] theorem begin'_eng (h : Hdr) (k : OutKind) (s : State) : (begin' h k s).eng = s.eng := by unfold begin'; split <;> rfl
@[simp] theorem begin'_dies (h : Hdr) (k : OutKind) (s : State) : (begin' h k s).dies = s.dies := by unfold begin'; split <;> rfl
@[simp] theorem begin'_power (h : Hdr) (k : OutKind) (s : State) : (begin' h k s).power = s.power := by unfold begin'; split <;> rfl
@[simp] theorem begin'_idx (h : Hdr) (k : OutKind) (s : State) : (begin' h k s).idx = s.idx := by unfold begin'; split <;> rfl
@[simp] theorem begin'_query (h : Hdr) (k : OutKind) (s : State) : (begin' h k s).query = s.query := by unfold begin'; split <;> rfl
@[simp] theorem begin'_train (h : Hdr) (k : OutKind) (s : State) : (begin' h k s).train = s.train := by unfold begin'; split <;> rfl
@[simp] theorem begin'_plain (h : Hdr) (k : OutKind) (s : State) : (begin' h k s).plain = s.plain := by unfold begin'; split <;> rfl
@[simp] theorem begin'_free (h : Hdr) (k : OutKind) (s : State) : (begin' h k s).free = s.free := by unfold begin'; split <;> rfl

end Sys2Proof.Machine
end

