-- ==== Sys2Proof/Laws/Events.lean ====
section
/-! SUPPORT. What an event to the host leaves alone: everything but the host interface and the time of the last activity. -/

namespace Sys2Proof.Machine

@[simp] theorem raiseEvent_pending (e : Event) (s : State) : (raiseEvent e s).pending = s.pending := by
  unfold raiseEvent; split; rfl; split; exact post_pending .. ; split <;> rfl
@[simp] theorem raiseEvent_bell (e : Event) (s : State) : (raiseEvent e s).bell = s.bell := by
  unfold raiseEvent; split; rfl; split; exact post_bell .. ; split <;> rfl
@[simp] theorem raiseEvent_img (e : Event) (s : State) : (raiseEvent e s).img = s.img := by
  unfold raiseEvent; split; rfl; split; exact post_img .. ; split <;> rfl
@[simp] theorem raiseEvent_nor (e : Event) (s : State) : (raiseEvent e s).nor = s.nor := by
  unfold raiseEvent; split; rfl; split; exact post_nor .. ; split <;> rfl
@[simp] theorem raiseEvent_fw (e : Event) (s : State) : (raiseEvent e s).fw = s.fw := by
  unfold raiseEvent; split; rfl; split; exact post_fw .. ; split <;> rfl
@[simp] theorem raiseEvent_sec (e : Event) (s : State) : (raiseEvent e s).sec = s.sec := by
  unfold raiseEvent; split; rfl; split; exact post_sec .. ; split <;> rfl
@[simp] theorem raiseEvent_ns (e : Event) (s : State) : (raiseEvent e s).ns = s.ns := by
  unfold raiseEvent; split; rfl; split; exact post_ns .. ; split <;> rfl
@[simp] theorem raiseEvent_ftl (e : Event) (s : State) : (raiseEvent e s).ftl = s.ftl := by
  unfold raiseEvent; split; rfl; split; exact post_ftl .. ; split <;> rfl
@[simp] theorem raiseEvent_mem (e : Event) (s : State) : (raiseEvent e s).mem = s.mem := by
  unfold raiseEvent; split; rfl; split; exact post_mem .. ; split <;> rfl
@[simp] theorem raiseEvent_sched (e : Event) (s : State) : (raiseEvent e s).sched = s.sched := by
  unfold raiseEvent; split; rfl; split; exact post_sched .. ; split <;> rfl
@[simp] theorem raiseEvent_eng (e : Event) (s : State) : (raiseEvent e s).eng = s.eng := by
  unfold raiseEvent; split; rfl; split; exact post_eng .. ; split <;> rfl
@[simp] theorem raiseEvent_dies (e : Event) (s : State) : (raiseEvent e s).dies = s.dies := by
  unfold raiseEvent; split; rfl; split; exact post_dies .. ; split <;> rfl
@[simp] theorem raiseEvent_idx (e : Event) (s : State) : (raiseEvent e s).idx = s.idx := by
  unfold raiseEvent; split; rfl; split; exact post_idx .. ; split <;> rfl
@[simp] theorem raiseEvent_query (e : Event) (s : State) : (raiseEvent e s).query = s.query := by
  unfold raiseEvent; split; rfl; split; exact post_query .. ; split <;> rfl
@[simp] theorem raiseEvent_train (e : Event) (s : State) : (raiseEvent e s).train = s.train := by
  unfold raiseEvent; split; rfl; split; exact post_train .. ; split <;> rfl
@[simp] theorem raiseEvent_plain (e : Event) (s : State) : (raiseEvent e s).plain = s.plain := by
  unfold raiseEvent; split; rfl; split; exact post_plain .. ; split <;> rfl
@[simp] theorem raiseEvent_free (e : Event) (s : State) : (raiseEvent e s).free = s.free := by
  unfold raiseEvent; split; rfl; split; exact post_free .. ; split <;> rfl

@[simp] theorem vendorEvent_pending (lid : Nat) (s : State) : (vendorEvent lid s).pending = s.pending := raiseEvent_pending ..
@[simp] theorem vendorEvent_bell (lid : Nat) (s : State) : (vendorEvent lid s).bell = s.bell := raiseEvent_bell ..
@[simp] theorem vendorEvent_img (lid : Nat) (s : State) : (vendorEvent lid s).img = s.img := raiseEvent_img ..
@[simp] theorem vendorEvent_nor (lid : Nat) (s : State) : (vendorEvent lid s).nor = s.nor := raiseEvent_nor ..
@[simp] theorem vendorEvent_fw (lid : Nat) (s : State) : (vendorEvent lid s).fw = s.fw := raiseEvent_fw ..
@[simp] theorem vendorEvent_sec (lid : Nat) (s : State) : (vendorEvent lid s).sec = s.sec := raiseEvent_sec ..
@[simp] theorem vendorEvent_ns (lid : Nat) (s : State) : (vendorEvent lid s).ns = s.ns := raiseEvent_ns ..
@[simp] theorem vendorEvent_ftl (lid : Nat) (s : State) : (vendorEvent lid s).ftl = s.ftl := raiseEvent_ftl ..
@[simp] theorem vendorEvent_mem (lid : Nat) (s : State) : (vendorEvent lid s).mem = s.mem := raiseEvent_mem ..
@[simp] theorem vendorEvent_sched (lid : Nat) (s : State) : (vendorEvent lid s).sched = s.sched := raiseEvent_sched ..
@[simp] theorem vendorEvent_eng (lid : Nat) (s : State) : (vendorEvent lid s).eng = s.eng := raiseEvent_eng ..
@[simp] theorem vendorEvent_dies (lid : Nat) (s : State) : (vendorEvent lid s).dies = s.dies := raiseEvent_dies ..
@[simp] theorem vendorEvent_idx (lid : Nat) (s : State) : (vendorEvent lid s).idx = s.idx := raiseEvent_idx ..
@[simp] theorem vendorEvent_query (lid : Nat) (s : State) : (vendorEvent lid s).query = s.query := raiseEvent_query ..
@[simp] theorem vendorEvent_train (lid : Nat) (s : State) : (vendorEvent lid s).train = s.train := raiseEvent_train ..
@[simp] theorem vendorEvent_plain (lid : Nat) (s : State) : (vendorEvent lid s).plain = s.plain := raiseEvent_plain ..
@[simp] theorem vendorEvent_free (lid : Nat) (s : State) : (vendorEvent lid s).free = s.free := raiseEvent_free ..
@[simp] theorem setCritical_pending (b i : Nat) (s : State) : (setCritical b i s).pending = s.pending := by
  unfold setCritical; split; rfl; exact raiseEvent_pending ..
@[simp] theorem setCritical_bell (b i : Nat) (s : State) : (setCritical b i s).bell = s.bell := by
  unfold setCritical; split; rfl; exact raiseEvent_bell ..
@[simp] theorem setCritical_img (b i : Nat) (s : State) : (setCritical b i s).img = s.img := by
  unfold setCritical; split; rfl; exact raiseEvent_img ..
@[simp] theorem setCritical_nor (b i : Nat) (s : State) : (setCritical b i s).nor = s.nor := by
  unfold setCritical; split; rfl; exact raiseEvent_nor ..
@[simp] theorem setCritical_fw (b i : Nat) (s : State) : (setCritical b i s).fw = s.fw := by
  unfold setCritical; split; rfl; exact raiseEvent_fw ..
@[simp] theorem setCritical_sec (b i : Nat) (s : State) : (setCritical b i s).sec = s.sec := by
  unfold setCritical; split; rfl; exact raiseEvent_sec ..
@[simp] theorem setCritical_ns (b i : Nat) (s : State) : (setCritical b i s).ns = s.ns := by
  unfold setCritical; split; rfl; exact raiseEvent_ns ..
@[simp] theorem setCritical_ftl (b i : Nat) (s : State) : (setCritical b i s).ftl = s.ftl := by
  unfold setCritical; split; rfl; exact raiseEvent_ftl ..
@[simp] theorem setCritical_mem (b i : Nat) (s : State) : (setCritical b i s).mem = s.mem := by
  unfold setCritical; split; rfl; exact raiseEvent_mem ..
@[simp] theorem setCritical_sched (b i : Nat) (s : State) : (setCritical b i s).sched = s.sched := by
  unfold setCritical; split; rfl; exact raiseEvent_sched ..
@[simp] theorem setCritical_eng (b i : Nat) (s : State) : (setCritical b i s).eng = s.eng := by
  unfold setCritical; split; rfl; exact raiseEvent_eng ..
@[simp] theorem setCritical_dies (b i : Nat) (s : State) : (setCritical b i s).dies = s.dies := by
  unfold setCritical; split; rfl; exact raiseEvent_dies ..
@[simp] theorem setCritical_idx (b i : Nat) (s : State) : (setCritical b i s).idx = s.idx := by
  unfold setCritical; split; rfl; exact raiseEvent_idx ..
@[simp] theorem setCritical_query (b i : Nat) (s : State) : (setCritical b i s).query = s.query := by
  unfold setCritical; split; rfl; exact raiseEvent_query ..
@[simp] theorem setCritical_train (b i : Nat) (s : State) : (setCritical b i s).train = s.train := by
  unfold setCritical; split; rfl; exact raiseEvent_train ..
@[simp] theorem setCritical_plain (b i : Nat) (s : State) : (setCritical b i s).plain = s.plain := by
  unfold setCritical; split; rfl; exact raiseEvent_plain ..
@[simp] theorem setCritical_free (b i : Nat) (s : State) : (setCritical b i s).free = s.free := by
  unfold setCritical; split; rfl; exact raiseEvent_free ..
@[simp] theorem clearCritical_pending (b : Nat) (s : State) : (clearCritical b s).pending = s.pending := by
  unfold clearCritical; split <;> rfl
@[simp] theorem clearCritical_bell (b : Nat) (s : State) : (clearCritical b s).bell = s.bell := by
  unfold clearCritical; split <;> rfl
@[simp] theorem clearCritical_img (b : Nat) (s : State) : (clearCritical b s).img = s.img := by
  unfold clearCritical; split <;> rfl
@[simp] theorem clearCritical_nor (b : Nat) (s : State) : (clearCritical b s).nor = s.nor := by
  unfold clearCritical; split <;> rfl
@[simp] theorem clearCritical_fw (b : Nat) (s : State) : (clearCritical b s).fw = s.fw := by
  unfold clearCritical; split <;> rfl
@[simp] theorem clearCritical_sec (b : Nat) (s : State) : (clearCritical b s).sec = s.sec := by
  unfold clearCritical; split <;> rfl
@[simp] theorem clearCritical_ns (b : Nat) (s : State) : (clearCritical b s).ns = s.ns := by
  unfold clearCritical; split <;> rfl
@[simp] theorem clearCritical_ftl (b : Nat) (s : State) : (clearCritical b s).ftl = s.ftl := by
  unfold clearCritical; split <;> rfl
@[simp] theorem clearCritical_mem (b : Nat) (s : State) : (clearCritical b s).mem = s.mem := by
  unfold clearCritical; split <;> rfl
@[simp] theorem clearCritical_sched (b : Nat) (s : State) : (clearCritical b s).sched = s.sched := by
  unfold clearCritical; split <;> rfl
@[simp] theorem clearCritical_eng (b : Nat) (s : State) : (clearCritical b s).eng = s.eng := by
  unfold clearCritical; split <;> rfl
@[simp] theorem clearCritical_dies (b : Nat) (s : State) : (clearCritical b s).dies = s.dies := by
  unfold clearCritical; split <;> rfl
@[simp] theorem clearCritical_idx (b : Nat) (s : State) : (clearCritical b s).idx = s.idx := by
  unfold clearCritical; split <;> rfl
@[simp] theorem clearCritical_query (b : Nat) (s : State) : (clearCritical b s).query = s.query := by
  unfold clearCritical; split <;> rfl
@[simp] theorem clearCritical_train (b : Nat) (s : State) : (clearCritical b s).train = s.train := by
  unfold clearCritical; split <;> rfl
@[simp] theorem clearCritical_plain (b : Nat) (s : State) : (clearCritical b s).plain = s.plain := by
  unfold clearCritical; split <;> rfl
@[simp] theorem clearCritical_free (b : Nat) (s : State) : (clearCritical b s).free = s.free := by
  unfold clearCritical; split <;> rfl
@[simp] theorem clearCritical_power (b : Nat) (s : State) : (clearCritical b s).power = s.power := by
  unfold clearCritical; split <;> rfl

end Sys2Proof.Machine
end

