-- ==== Sys2Proof/Laws/Memory.lean ====
section
/-! SUPPORT. Sparse byte arrays and the memory namespaces: what a read gives after a write, and that every memory operation keeps the
canonical form. -/

namespace Sys2Proof

/-! ### Reading -/

@[simp] theorem Cells.get_nil (a : Nat) : Cells.get [] a = 0 := rfl

theorem Cells.get_cons (x : Host.Cell) (c : Cells) (a : Nat) : Cells.get (x :: c) a = if x.1 = a then x.2 else Cells.get c a := rfl

/-- Where no entry names an address, it reads zero. -/
theorem Cells.get_absent {c : Cells} {a : Nat} (h : ∀ x ∈ c, x.1 ≠ a) : Cells.get c a = 0 := by
  induction c with
  | nil => rfl
  | cons x r ih => rw [Cells.get_cons, if_neg (h x (by simp)), ih fun y m => h y (by simp [m])]

/-- Cells behind others are read where the first name no such address. -/
theorem Cells.get_append_right {c d : Cells} {a : Nat} (h : ∀ x ∈ c, x.1 ≠ a) : Cells.get (c ++ d) a = Cells.get d a := by
  induction c with
  | nil => rfl
  | cons x r ih => rw [List.cons_append, Cells.get_cons, if_neg (h x (by simp)), ih fun y m => h y (by simp [m])]

/-- Cells in front are read where those behind them name no such address. -/
theorem Cells.get_append_left {c d : Cells} {a : Nat} (h : ∀ x ∈ d, x.1 ≠ a) : Cells.get (c ++ d) a = Cells.get c a := by
  induction c with
  | nil => exact Cells.get_absent h
  | cons x r ih => rw [List.cons_append, Cells.get_cons, Cells.get_cons, ih]

/-- A part of a sparse array that keeps an address reads there as the whole does. -/
theorem Cells.get_filter {c : Cells} {p : Host.Cell → Bool} {a : Nat} (h : ∀ v, p (a, v) = true) :
    Cells.get (c.filter p) a = Cells.get c a := by
  induction c with
  | nil => rfl
  | cons x r ih =>
    obtain ⟨k, v⟩ := x
    by_cases e : k = a
    · subst e
      rw [List.filter_cons_of_pos (h v), Cells.get_cons, Cells.get_cons, if_pos rfl, if_pos rfl]
    · rw [Cells.get_cons, if_neg e]
      by_cases q : p (k, v) = true
      · rw [List.filter_cons_of_pos q, Cells.get_cons, if_neg e, ih]
      · rw [List.filter_cons_of_neg q, ih]

theorem Cells.get_below {c : Cells} {a n : Nat} (h : a < n) : Cells.get (c.below n) a = Cells.get c a := by
  unfold Cells.below
  exact Cells.get_filter (by simp [h])

theorem Cells.get_above {c : Cells} {a n : Nat} (h : n ≤ a) : Cells.get (c.above n) a = Cells.get c a := by
  unfold Cells.above
  exact Cells.get_filter (by simp [h])

theorem Cells.get_shiftUp (c : Cells) (a d : Nat) : Cells.get (c.shiftUp d) (a + d) = Cells.get c a := by
  unfold Cells.shiftUp
  induction c with
  | nil => rfl
  | cons x r ih => simp [Cells.get_cons, ih]

theorem Cells.get_shiftDown {c : Cells} {d : Nat} (a : Nat) (h : ∀ x ∈ c, d ≤ x.1) : Cells.get (c.shiftDown d) a = Cells.get c (a + d) := by
  unfold Cells.shiftDown
  induction c with
  | nil => rfl
  | cons x r ih =>
    have := h x (by simp)
    rw [List.map_cons, Cells.get_cons, Cells.get_cons, ih fun y m => h y (by simp [m])]
    simp only [show x.1 - d = a ↔ x.1 = a + d by omega]

theorem Cells.mem_below {c : Cells} {n : Nat} {x : Host.Cell} (h : x ∈ c.below n) : x ∈ c ∧ x.1 < n := by
  simpa [Cells.below] using h
theorem Cells.mem_above {c : Cells} {n : Nat} {x : Host.Cell} (h : x ∈ c.above n) : x ∈ c ∧ n ≤ x.1 := by
  simpa [Cells.above] using h
theorem Cells.mem_shiftUp {c : Cells} {n : Nat} {x : Host.Cell} (h : x ∈ c.shiftUp n) : ∃ y ∈ c, x = (y.1 + n, y.2) := by
  obtain ⟨y, m, e⟩ := List.mem_map.mp h
  exact ⟨y, m, e.symm⟩

/-- Bytes written read as the data, every other byte as before. -/
theorem Cells.get_blit (c d : Cells) (o n a : Nat) :
    Cells.get (c.blit o n d) a = if o ≤ a ∧ a < o + n then Cells.get d (a - o) else Cells.get c a := by
  unfold Cells.blit
  by_cases h1 : a < o
  · rw [if_neg (by omega), Cells.get_append_left, Cells.get_append_left, Cells.get_below h1]
    · intro x m
      obtain ⟨y, _, e⟩ := Cells.mem_shiftUp m
      rw [e]
      simp only
      omega
    · intro x m
      have := (Cells.mem_above m).2
      omega
  · by_cases h2 : a < o + n
    · rw [if_pos (by omega), Cells.get_append_left, Cells.get_append_right]
      · obtain ⟨i, rfl⟩ : ∃ i, a = i + o := ⟨a - o, by omega⟩
        rw [Cells.get_shiftUp, Cells.get_below (by omega), Nat.add_sub_cancel]
      · intro x m
        have := (Cells.mem_below m).2
        omega
      · intro x m
        have := (Cells.mem_above m).2
        omega
    · rw [if_neg (by omega), Cells.get_append_right, Cells.get_above (by omega)]
      intro x m
      rcases List.mem_append.mp m with m | m
      · have := (Cells.mem_below m).2
        omega
      · obtain ⟨y, my, e⟩ := Cells.mem_shiftUp m
        have := (Cells.mem_below my).2
        rw [e]
        simp only
        omega

/-- Bytes cut out read as they did in their place. -/
theorem Cells.get_slice {c : Cells} {o n i : Nat} (h : i < n) : Cells.get (c.slice o n) i = Cells.get c (i + o) := by
  unfold Cells.slice
  rw [Cells.get_shiftDown, Cells.get_below (by omega), Cells.get_above (by omega)]
  intro x m
  exact (Cells.mem_above (Cells.mem_below m).1).2

theorem Cells.get_put (c : Cells) (k : Nat) (v : Byte) (ok : Cells.wf c = true) (a : Nat) :
    Cells.get (Cells.put k v c) a = if k = a then v else Cells.get c a := by
  suffices H : ∀ lo, Cells.okFrom lo c = true → Cells.get (Cells.put k v c) a = if k = a then v else Cells.get c a from H 0 ok
  clear ok
  induction c with
  | nil =>
    intro lo _
    unfold Cells.put
    by_cases z : v = 0
    · rw [if_pos z, z]
      simp
    · rw [if_neg z, Cells.get_cons]
  | cons x r ih =>
    obtain ⟨j, w⟩ := x
    intro lo ok
    simp only [Cells.okFrom, Bool.and_eq_true, decide_eq_true_eq] at ok
    have low : ∀ (l : Cells) m, Cells.okFrom m l = true → ∀ x ∈ l, m ≤ x.1 := by
      intro l
      induction l with
      | nil => simp
      | cons y r ih =>
        intro m h x mem
        simp only [Cells.okFrom, Bool.and_eq_true, decide_eq_true_eq] at h
        rcases List.mem_cons.mp mem with rfl | mem
        · exact h.1.1
        · have := ih _ h.2 x mem
          omega
    have rest : ∀ b, b ≤ j → Cells.get r b = 0 := fun b hb => Cells.get_absent fun x m => by
      have := low r _ ok.2 x m
      omega
    unfold Cells.put
    by_cases h1 : k < j
    · rw [if_pos h1]
      by_cases z : v = 0
      · rw [if_pos z]
        by_cases e : k = a
        · subst e
          rw [if_pos rfl, Cells.get_cons, if_neg (by simp only; omega), rest k (by omega), z]
        · rw [if_neg e]
      · rw [if_neg z, Cells.get_cons]
    · rw [if_neg h1]
      by_cases h2 : k = j
      · subst h2
        rw [if_pos rfl]
        by_cases z : v = 0
        · rw [if_pos z]
          by_cases e : k = a
          · subst e
            rw [if_pos rfl, rest k (Nat.le_refl _), z]
          · rw [if_neg e, Cells.get_cons, if_neg e]
        · rw [if_neg z, Cells.get_cons, Cells.get_cons]
          by_cases e : k = a <;> simp [e]
      · rw [if_neg h2, Cells.get_cons, ih _ ok.2, Cells.get_cons]
        by_cases e : j = a
        · rw [if_pos e, if_pos e, if_neg (by omega)]
        · rw [if_neg e, if_neg e]

/-! ### Canonical form -/

theorem Cells.okFrom_mono {c : Cells} {m n : Nat} (h : m ≤ n) (ok : Cells.okFrom n c = true) : Cells.okFrom m c = true := by
  cases c with
  | nil => rfl
  | cons x r =>
    simp only [Cells.okFrom, Bool.and_eq_true, decide_eq_true_eq] at ok ⊢
    exact ⟨⟨Nat.le_trans h ok.1.1, ok.1.2⟩, ok.2⟩

theorem Cells.okFrom_put {c : Cells} {k : Nat} {v : Byte} (lo : Nat) (hk : lo ≤ k) (ok : Cells.okFrom lo c = true) :
    Cells.okFrom lo (Cells.put k v c) = true := by
  induction c generalizing lo with
  | nil =>
    unfold Cells.put
    by_cases z : v = 0
    · rw [if_pos z]
      rfl
    · rw [if_neg z]
      simpa [Cells.okFrom, hk] using z
  | cons x r ih =>
    obtain ⟨j, w⟩ := x
    simp only [Cells.okFrom, Bool.and_eq_true, decide_eq_true_eq] at ok
    unfold Cells.put
    by_cases h1 : k < j
    · rw [if_pos h1]
      by_cases z : v = 0
      · simp only [if_pos z, Cells.okFrom, Bool.and_eq_true, decide_eq_true_eq]
        exact ok
      · simp only [if_neg z, Cells.okFrom, Bool.and_eq_true, decide_eq_true_eq]
        exact ⟨⟨hk, z⟩, ⟨h1, ok.1.2⟩, ok.2⟩
    · rw [if_neg h1]
      by_cases h2 : k = j
      · rw [if_pos h2]
        by_cases z : v = 0
        · rw [if_pos z]
          exact Cells.okFrom_mono (by omega) ok.2
        · simp only [if_neg z, Cells.okFrom, Bool.and_eq_true, decide_eq_true_eq]
          exact ⟨⟨hk, z⟩, h2 ▸ ok.2⟩
      · simp only [if_neg h2, Cells.okFrom, Bool.and_eq_true, decide_eq_true_eq]
        exact ⟨ok.1, ih _ (by omega) ok.2⟩

theorem Cells.wf_puts (c : Cells) : Cells.wf (c.foldr (fun x r => Cells.put x.1 x.2 r) []) = true := by
  induction c with
  | nil => rfl
  | cons x r ih => exact Cells.okFrom_put 0 (Nat.zero_le _) ih

theorem Cells.wf_norm (c : Cells) : Cells.wf (Cells.norm c) = true := by
  unfold Cells.norm
  split
  · assumption
  · exact Cells.wf_puts c

/-- The canonical form of an array reads as the array does. -/
theorem Cells.get_norm (c : Cells) (a : Nat) : Cells.get (Cells.norm c) a = Cells.get c a := by
  have get : ∀ l : Cells, Cells.get (l.foldr (fun x r => Cells.put x.1 x.2 r) []) a = Cells.get l a := by
    intro l
    induction l with
    | nil => rfl
    | cons x r ih => rw [List.foldr_cons, Cells.get_put _ _ _ (Cells.wf_puts r), ih, Cells.get_cons]
  unfold Cells.norm
  split
  · rfl
  · exact get c

/-- Two canonical arrays, the second wholly above the first. -/
theorem Cells.okFrom_append {c d : Cells} {lo m : Nat} (hc : Cells.okFrom lo c = true) (hm : ∀ x ∈ c, x.1 < m) (hl : lo ≤ m)
    (hd : Cells.okFrom m d = true) : Cells.okFrom lo (c ++ d) = true := by
  induction c generalizing lo with
  | nil => exact Cells.okFrom_mono hl hd
  | cons x r ih =>
    obtain ⟨j, w⟩ := x
    simp only [List.cons_append, Cells.okFrom, Bool.and_eq_true, decide_eq_true_eq] at hc ⊢
    exact ⟨hc.1, ih hc.2 (fun y my => hm y (by simp [my])) (hm (j, w) (by simp))⟩

theorem Cells.okFrom_filter {c : Cells} {lo : Nat} (p : Host.Cell → Bool) (ok : Cells.okFrom lo c = true) :
    Cells.okFrom lo (c.filter p) = true := by
  induction c generalizing lo with
  | nil => rfl
  | cons x r ih =>
    obtain ⟨j, w⟩ := x
    simp only [Cells.okFrom, Bool.and_eq_true, decide_eq_true_eq] at ok
    by_cases h : p (j, w) = true
    · simp only [List.filter_cons_of_pos h, Cells.okFrom, Bool.and_eq_true, decide_eq_true_eq]
      exact ⟨ok.1, ih ok.2⟩
    · rw [List.filter_cons_of_neg h]
      exact Cells.okFrom_mono (by omega) (ih ok.2)

theorem Cells.okFrom_above {c : Cells} {lo n : Nat} (ok : Cells.okFrom lo c = true) : Cells.okFrom n (c.above n) = true := by
  induction c generalizing lo with
  | nil => rfl
  | cons x r ih =>
    obtain ⟨j, w⟩ := x
    simp only [Cells.okFrom, Bool.and_eq_true, decide_eq_true_eq] at ok
    unfold Cells.above at ih ⊢
    by_cases h : n ≤ j
    · rw [List.filter_cons_of_pos (by simpa using h)]
      simp only [Cells.okFrom, Bool.and_eq_true, decide_eq_true_eq]
      exact ⟨⟨h, ok.1.2⟩, Cells.okFrom_filter _ ok.2⟩
    · rw [List.filter_cons_of_neg (by simpa using h)]
      exact ih ok.2

theorem Cells.okFrom_shiftUp {c : Cells} {lo : Nat} (d : Nat) (ok : Cells.okFrom lo c = true) : Cells.okFrom (lo + d) (c.shiftUp d) = true := by
  unfold Cells.shiftUp
  induction c generalizing lo with
  | nil => rfl
  | cons x r ih =>
    obtain ⟨j, w⟩ := x
    simp only [Cells.okFrom, Bool.and_eq_true, decide_eq_true_eq, List.map_cons] at ok ⊢
    refine ⟨⟨by omega, ok.1.2⟩, ?_⟩
    have := ih ok.2
    rwa [show j + 1 + d = j + d + 1 by omega] at this

/-- A write of canonical data keeps the canonical form. -/
theorem Cells.wf_blit {c d : Cells} (o n : Nat) (hc : Cells.wf c = true) (hd : Cells.wf d = true) : Cells.wf (c.blit o n d) = true := by
  unfold Cells.blit
  have up : Cells.okFrom o ((d.below n).shiftUp o) = true := by
    have := Cells.okFrom_shiftUp o (Cells.okFrom_filter (fun x => decide (x.1 < n)) hd)
    simpa [Cells.below] using this
  refine Cells.okFrom_append (m := o + n) ?_ ?_ (Nat.zero_le _) (Cells.okFrom_above hc)
  · exact Cells.okFrom_append (Cells.okFrom_filter _ hc) (fun x m => (Cells.mem_below m).2) (Nat.zero_le _) up
  · intro x m
    rcases List.mem_append.mp m with m | m
    · have := (Cells.mem_below m).2
      omega
    · obtain ⟨y, my, e⟩ := Cells.mem_shiftUp m
      have := (Cells.mem_below my).2
      rw [e]
      simp only
      omega

namespace Machine

/-! ### Memory namespaces -/

/-- What a write to a memory namespace leaves: the data on its span, every other byte as it was. -/
theorem Ram.get_write (r : Ram) (o : Nat) (d : Blob) (a : Nat) :
    (r.write o d).cells.get a = if o ≤ a ∧ a < o + d.len then d.cells.get (a - o) else r.cells.get a := by
  unfold Ram.write
  rw [Cells.get_blit, Cells.get_norm]

theorem Ram.wf_write {r : Ram} (o : Nat) (d : Blob) (ok : r.wf = true) : (r.write o d).wf = true :=
  Cells.wf_blit o d.len ok (Cells.wf_norm _)

@[simp] theorem Ram.mark_cells (r : Ram) (gs : List Nat) : (r.mark gs).cells = r.cells := rfl

theorem ram_setRam_same (nsid : Nat) (r : Ram) (s : State) : (setRam nsid r s).ram nsid = r := by
  unfold setRam State.ram
  by_cases h : nsid = 73 <;> simp [h]

theorem ram_setRam_other {m n : Nat} (r : Ram) (s : State) (h : (m = 73) ≠ (n = 73)) : (setRam m r s).ram n = s.ram n := by
  unfold setRam State.ram
  by_cases hm : m = 73 <;> by_cases hn : n = 73 <;> simp_all

theorem canonical_setRam {nsid : Nat} {r : Ram} {s : State} (h : r.wf = true) (ok : s.memoryCanonical) :
    (setRam nsid r s).memoryCanonical := by
  unfold setRam
  split
  · exact ⟨h, ok.2⟩
  · exact ⟨ok.1, h⟩

theorem wf_ram {s : State} (nsid : Nat) (ok : s.memoryCanonical) : (s.ram nsid).wf = true := by
  unfold State.ram
  split
  · exact ok.1
  · exact ok.2

/-- A write to a memory namespace keeps the canonical form. -/
theorem canonical_memWrite {s : State} (nsid o : Nat) (d : Blob) (ok : s.memoryCanonical) : (memWrite nsid o d s).memoryCanonical :=
  canonical_setRam (Ram.wf_write o d (wf_ram nsid ok)) ok

/-- Marking granules keeps the canonical form. -/
theorem canonical_memMark {s : State} (nsid : Nat) (gs : List Nat) (ok : s.memoryCanonical) : (memMark nsid gs s).memoryCanonical := by
  unfold memMark
  have step : ∀ (l : List Nat) (f : State → Nat → State) (t : State), (∀ t d, (f t d).mem = t.mem) → t.memoryCanonical →
      (l.foldl f t).memoryCanonical := by
    intro l f t hf
    induction l generalizing t with
    | nil => exact id
    | cons d r ih => exact fun h => ih _ (by unfold State.memoryCanonical; rw [hf]; exact h)
  refine step _ _ _ (fun t d => ?_) (canonical_setRam (wf_ram nsid ok) ok)
  dsimp only
  split <;> rfl

theorem canonical_reset : State.reset.memoryCanonical := ⟨rfl, rfl⟩

end Machine

end Sys2Proof
end

