-- ==== Sys2Proof/Laws/Keeps.lean ====
section
/-! SUPPORT. What every operation keeps: the queue, a legal tick, the sizes of the tables and the canonical form of memory. -/

namespace Sys2Proof.Machine

/-- From one state to another the queue stands, and a legal tick, the sizes of the tables and the canonical form of memory are kept. -/
structure Keeps (s t : State) : Prop where
  pending : t.pending = s.pending
  tick : s.tickLegal → t.tickLegal
  shape : s.shaped → t.shaped
  memory : s.memoryCanonical → t.memoryCanonical

theorem Keeps.refl (s : State) : Keeps s s := ⟨rfl, id, id, id⟩

theorem Keeps.trans {s t u : State} (h : Keeps s t) (k : Keeps t u) : Keeps s u :=
  ⟨k.pending.trans h.pending, k.tick ∘ h.tick, k.shape ∘ h.shape, k.memory ∘ h.memory⟩

/-- What a record update must leave of a state, beyond the queue. -/
structure Frame (x : State) (b : BellSt) (m : MemSt) (e : EngSt) (g : DieSt) (q : QuerySt) (l : PlainSt) : Prop where
  tick : b.tick = x.bell.tick
  sram : m.sram.cells = x.mem.sram.cells
  dram : m.dram.cells = x.mem.dram.cells
  mxa : e.mxa.length = x.eng.mxa.length
  vu : e.vu.length = x.eng.vu.length
  movers : e.movers.length = x.eng.movers.length
  dies : g.dies.length = x.dies.dies.length
  valleys : q.valleys.length = x.query.valleys.length
  ports : l.ports.length = x.plain.ports.length
  peers : l.peers.length = x.plain.peers.length

/-- A record update: everything but the queue may be given anew. -/
def upd (x : State) (h : HostSt) (b : BellSt) (i : ImgSt) (n : NorSt) (w : FwSt) (c : SecSt) (a : NsSt) (f : FtlSt) (m : MemSt)
    (d : SchedSt) (e : EngSt) (g : DieSt) (p : PowerSt) (j : IdxSt) (q : QuerySt) (t : TrainSt) (l : PlainSt) (z : Nat) : State :=
  ⟨x.pending, h, b, i, n, w, c, a, f, m, d, e, g, p, j, q, t, l, z⟩

theorem mk_upd (x : State) (h : HostSt) (b : BellSt) (i : ImgSt) (n : NorSt) (w : FwSt) (c : SecSt) (a : NsSt) (f : FtlSt) (m : MemSt)
    (d : SchedSt) (e : EngSt) (g : DieSt) (p : PowerSt) (j : IdxSt) (q : QuerySt) (t : TrainSt) (l : PlainSt) (z : Nat) :
    State.mk x.pending h b i n w c a f m d e g p j q t l z = upd x h b i n w c a f m d e g p j q t l z := rfl

theorem upd_keeps {r x : State} {h : HostSt} {b : BellSt} {i : ImgSt} {n : NorSt} {w : FwSt} {c : SecSt} {a : NsSt} {f : FtlSt} {m : MemSt}
    {d : SchedSt} {e : EngSt} {g : DieSt} {p : PowerSt} {j : IdxSt} {q : QuerySt} {t : TrainSt} {l : PlainSt} {z : Nat}
    (y : Frame x b m e g q l) (k : Keeps r x) : Keeps r (upd x h b i n w c a f m d e g p j q t l z) := by
  refine k.trans ⟨rfl, fun o => ?_, fun o => ?_, fun o => ?_⟩
  · unfold State.tickLegal upd at *
    dsimp only
    rw [y.tick]
    exact o
  · unfold State.shaped upd at *
    dsimp only
    rw [y.mxa, y.vu, y.movers, y.dies, y.valleys, y.ports, y.peers]
    exact o
  · unfold State.memoryCanonical Ram.wf upd at *
    dsimp only
    rw [y.sram, y.dram]
    exact o

theorem Keeps.fold {α : Type} {r : State} (f : State → α → State) (l : List α) (s : State) (h : ∀ r s a, Keeps r s → Keeps r (f s a))
    (k : Keeps r s) : Keeps r (l.foldl f s) := by
  induction l generalizing s with
  | nil => exact k
  | cons a r ih => exact ih _ (h _ _ _ k)

/-- A fold over a pair of a value and a state. -/
theorem Keeps.fold2 {α β : Type} {r : State} (f : β × State → α → β × State) (l : List α) (p : β × State)
    (h : ∀ r p a, Keeps r p.2 → Keeps r (f p a).2) (k : Keeps r p.2) : Keeps r (l.foldl f p).2 := by
  induction l generalizing p with
  | nil => exact k
  | cons a r ih => exact ih _ (h _ _ _ k)

theorem modifyAt_length {α : Type} (l : List α) (i : Nat) (f : α → α) : (modifyAt l i f).length = l.length := by
  induction l generalizing i with
  | nil => rfl
  | cons x r ih => cases i <;> simp [modifyAt, ih]

theorem onHost_keeps : ∀ r f s, Keeps r s → Keeps r (onHost f s) := fun _ _ _ k => upd_keeps ⟨rfl, rfl, rfl, rfl, rfl, rfl, rfl, rfl, rfl, rfl⟩ k
theorem onFtl_keeps : ∀ r f s, Keeps r s → Keeps r (onFtl f s) := fun _ _ _ k => upd_keeps ⟨rfl, rfl, rfl, rfl, rfl, rfl, rfl, rfl, rfl, rfl⟩ k
theorem onIdx_keeps : ∀ r f s, Keeps r s → Keeps r (onIdx f s) := fun _ _ _ k => upd_keeps ⟨rfl, rfl, rfl, rfl, rfl, rfl, rfl, rfl, rfl, rfl⟩ k
theorem onNor_keeps : ∀ r f s, Keeps r s → Keeps r (onNor f s) := fun _ _ _ k => upd_keeps ⟨rfl, rfl, rfl, rfl, rfl, rfl, rfl, rfl, rfl, rfl⟩ k
theorem onNs_keeps : ∀ r f s, Keeps r s → Keeps r (onNs f s) := fun _ _ _ k => upd_keeps ⟨rfl, rfl, rfl, rfl, rfl, rfl, rfl, rfl, rfl, rfl⟩ k
theorem onPower_keeps : ∀ r f s, Keeps r s → Keeps r (onPower f s) := fun _ _ _ k => upd_keeps ⟨rfl, rfl, rfl, rfl, rfl, rfl, rfl, rfl, rfl, rfl⟩ k
theorem onSched_keeps : ∀ r f s, Keeps r s → Keeps r (onSched f s) := fun _ _ _ k => upd_keeps ⟨rfl, rfl, rfl, rfl, rfl, rfl, rfl, rfl, rfl, rfl⟩ k
theorem onImg_keeps : ∀ r f s, Keeps r s → Keeps r (onImg f s) := fun _ _ _ k => upd_keeps ⟨rfl, rfl, rfl, rfl, rfl, rfl, rfl, rfl, rfl, rfl⟩ k
theorem onTrain_keeps : ∀ r f s, Keeps r s → Keeps r (onTrain f s) := fun _ _ _ k => upd_keeps ⟨rfl, rfl, rfl, rfl, rfl, rfl, rfl, rfl, rfl, rfl⟩ k
theorem onFtlStats_keeps : ∀ r f s, Keeps r s → Keeps r (onFtlStats f s) := fun _ _ _ k => onFtl_keeps _ _ _ k
theorem onBell_keeps : ∀ r f s, (f s.bell).tick = s.bell.tick → Keeps r s → Keeps r (onBell f s) :=
  fun _ _ _ h k => upd_keeps ⟨h, rfl, rfl, rfl, rfl, rfl, rfl, rfl, rfl, rfl⟩ k
theorem onMem_keeps : ∀ r f s, (f s.mem).sram.cells = s.mem.sram.cells → (f s.mem).dram.cells = s.mem.dram.cells → Keeps r s →
    Keeps r (onMem f s) := fun _ _ _ h i k => upd_keeps ⟨rfl, h, i, rfl, rfl, rfl, rfl, rfl, rfl, rfl⟩ k
theorem onQuery_keeps : ∀ r f s, (f s.query).valleys.length = s.query.valleys.length → Keeps r s → Keeps r (onQuery f s) :=
  fun _ _ _ h k => upd_keeps ⟨rfl, rfl, rfl, rfl, rfl, rfl, rfl, h, rfl, rfl⟩ k
theorem onQStats_keeps : ∀ r f s, Keeps r s → Keeps r (onQStats f s) := fun _ _ _ k => onQuery_keeps _ _ _ rfl k
theorem onPlain_keeps : ∀ r f s, (f s.plain).ports.length = s.plain.ports.length → (f s.plain).peers.length = s.plain.peers.length →
    Keeps r s → Keeps r (onPlain f s) := fun _ _ _ h i k => upd_keeps ⟨rfl, rfl, rfl, rfl, rfl, rfl, rfl, rfl, h, i⟩ k

theorem post1_keeps : ∀ r x0 x1 x2 x3 x4 s, Keeps r s → Keeps r (@post1 x0 x1 x2 x3 x4 s) := by
  intro r x0 x1 x2 x3 x4 s k
  unfold post1
  try dsimp (zeta := false) only [mk_upd]
  repeat' first
    | with_reducible assumption
    | (with_reducible apply upd_keeps; constructor <;> first | rfl | (simp only [List.length_map, List.length_zipIdx, modifyAt_length]; done))

theorem finishDelete_keeps : ∀ r s x1, Keeps r s → Keeps r (@finishDelete s x1) := by
  intro r s x1 k
  unfold finishDelete
  try dsimp (zeta := false) only [mk_upd]
  repeat' first
    | with_reducible assumption
    | with_reducible apply post1_keeps
    | (with_reducible apply upd_keeps; constructor <;> first | rfl | (simp only [List.length_map, List.length_zipIdx, modifyAt_length]; done))
    | split

theorem post_keeps : ∀ r x0 x1 x2 x3 x4 s, Keeps r s → Keeps r (@post x0 x1 x2 x3 x4 s) := by
  intro r x0 x1 x2 x3 x4 s k
  unfold post
  repeat' first
    | with_reducible assumption
    | with_reducible apply post1_keeps
    | with_reducible apply finishDelete_keeps
    | (with_reducible apply Keeps.fold; intro r s a k)

theorem finish_keeps : ∀ r x0 x1 s, Keeps r s → Keeps r (@finish x0 x1 s) := by
  intro r x0 x1 s k
  unfold finish
  repeat' first
    | with_reducible assumption
    | with_reducible apply post_keeps

theorem finishDw_keeps : ∀ r x0 x1 x2 s, Keeps r s → Keeps r (@finishDw x0 x1 x2 s) := by
  intro r x0 x1 x2 s k
  unfold finishDw
  repeat' first
    | with_reducible assumption
    | with_reducible apply post_keeps

theorem finishData_keeps : ∀ r x0 x1 s, Keeps r s → Keeps r (@finishData x0 x1 s) := by
  intro r x0 x1 s k
  unfold finishData
  repeat' first
    | with_reducible assumption
    | with_reducible apply post_keeps

theorem finishUnrecovered_keeps : ∀ r x0 x1 x2 x3 s, Keeps r s → Keeps r (@finishUnrecovered x0 x1 x2 x3 s) := by
  intro r x0 x1 x2 x3 s k
  unfold finishUnrecovered
  try dsimp (zeta := false) only [mk_upd]
  repeat' first
    | with_reducible assumption
    | with_reducible apply post_keeps
    | (with_reducible apply upd_keeps; constructor <;> first | rfl | (simp only [List.length_map, List.length_zipIdx, modifyAt_length]; done))

theorem begin'_keeps : ∀ r x0 x1 s, Keeps r s → Keeps r (@begin' x0 x1 s) := by
  intro r x0 x1 s k
  unfold begin'
  try dsimp (zeta := false) only [mk_upd]
  repeat' first
    | with_reducible assumption
    | (with_reducible apply upd_keeps; constructor <;> first | rfl | (simp only [List.length_map, List.length_zipIdx, modifyAt_length]; done))
    | split

theorem hold_keeps : ∀ r x0 x1 x2 s, Keeps r s → Keeps r (@hold x0 x1 x2 s) := by
  intro r x0 x1 x2 s k
  unfold hold
  try dsimp (zeta := false) only [mk_upd]
  repeat' first
    | with_reducible assumption
    | (with_reducible apply upd_keeps; constructor <;> first | rfl | (simp only [List.length_map, List.length_zipIdx, modifyAt_length]; done))

theorem raiseEvent_keeps : ∀ r x0 s, Keeps r s → Keeps r (@raiseEvent x0 s) := by
  intro r x0 s k
  unfold raiseEvent
  try dsimp (zeta := false) only [mk_upd]
  repeat' first
    | with_reducible assumption
    | with_reducible apply post_keeps
    | (with_reducible apply upd_keeps; constructor <;> first | rfl | (simp only [List.length_map, List.length_zipIdx, modifyAt_length]; done))
    | split

theorem vendorEvent_keeps : ∀ r x0 s, Keeps r s → Keeps r (@vendorEvent x0 s) := by
  intro r x0 s k
  unfold vendorEvent
  repeat' first
    | with_reducible assumption
    | with_reducible apply raiseEvent_keeps

theorem healthEvent_keeps : ∀ r x0 s, Keeps r s → Keeps r (@healthEvent x0 s) := by
  intro r x0 s k
  unfold healthEvent
  repeat' first
    | with_reducible assumption
    | with_reducible apply raiseEvent_keeps

theorem setCritical_keeps : ∀ r x0 x1 s, Keeps r s → Keeps r (@setCritical x0 x1 s) := by
  intro r x0 x1 s k
  unfold setCritical
  try dsimp (zeta := false) only [mk_upd]
  repeat' first
    | with_reducible assumption
    | with_reducible apply healthEvent_keeps
    | (with_reducible apply upd_keeps; constructor <;> first | rfl | (simp only [List.length_map, List.length_zipIdx, modifyAt_length]; done))
    | split

theorem clearCritical_keeps : ∀ r x0 s, Keeps r s → Keeps r (@clearCritical x0 s) := by
  intro r x0 s k
  unfold clearCritical
  try dsimp (zeta := false) only [mk_upd]
  repeat' first
    | with_reducible assumption
    | (with_reducible apply upd_keeps; constructor <;> first | rfl | (simp only [List.length_map, List.length_zipIdx, modifyAt_length]; done))
    | split

theorem degradeReliability_keeps : ∀ r s, Keeps r s → Keeps r (@degradeReliability s) := by
  intro r s k
  unfold degradeReliability
  repeat' first
    | with_reducible assumption
    | with_reducible apply setCritical_keeps

theorem admitAdmin_keeps : ∀ r x0 x1 k s, (∀ r s, Keeps r s → Keeps r (k s)) → Keeps r s → Keeps r (@admitAdmin x0 x1 k s) := by
  intro r x0 x1 k s hk k
  unfold admitAdmin
  repeat' first
    | with_reducible assumption
    | with_reducible apply hk
    | with_reducible apply finish_keeps
    | split

theorem admitIo_keeps : ∀ r x0 x1 x2 k s, (∀ r s, Keeps r s → Keeps r (k s)) → Keeps r s → Keeps r (@admitIo x0 x1 x2 k s) := by
  intro r x0 x1 x2 k s hk k
  unfold admitIo
  repeat' first
    | with_reducible assumption
    | with_reducible apply hk
    | with_reducible apply hold_keeps
    | with_reducible apply finish_keeps
    | split

theorem admitRoom_keeps : ∀ r x0 x1 x2 k s, (∀ r a s, Keeps r s → Keeps r (k a s)) → Keeps r s → Keeps r (@admitRoom x0 x1 x2 k s) := by
  intro r x0 x1 x2 k s hk k
  unfold admitRoom
  repeat' first
    | with_reducible assumption
    | with_reducible apply hk
    | (with_reducible apply admitIo_keeps; (intro r s k))
    | with_reducible apply finish_keeps
    | with_reducible apply hold_keeps
    | split

theorem logEvent_keeps : ∀ r x0 x1 x2 s, Keeps r s → Keeps r (@logEvent x0 x1 x2 s) := by
  intro r x0 x1 x2 s k
  unfold logEvent
  try dsimp (zeta := false) only [mk_upd]
  repeat' first
    | with_reducible assumption
    | (with_reducible apply upd_keeps; constructor <;> first | rfl | (simp only [List.length_map, List.length_zipIdx, modifyAt_length]; done))

theorem onDie_keeps : ∀ r x0 x1 s, Keeps r s → Keeps r (@onDie x0 x1 s) := by
  intro r x0 x1 s k
  exact upd_keeps ⟨rfl, rfl, rfl, rfl, rfl, rfl, modifyAt_length _ _ _, rfl, rfl, rfl⟩ k

theorem memWrite_keeps : ∀ r x0 x1 x2 s, Keeps r s → Keeps r (@memWrite x0 x1 x2 s) := by
  intro r x0 x1 x2 s k
  refine k.trans ⟨?_, ?_, ?_, canonical_memWrite _ _ _⟩ <;> unfold memWrite setRam <;> split <;> first | rfl | exact id

theorem countPoison_keeps : ∀ r x0 x1 s, Keeps r s → Keeps r (@countPoison x0 x1 s) := by
  intro r x0 x1 s k
  unfold countPoison
  repeat' first
    | with_reducible assumption
    | with_reducible apply onDie_keeps

theorem memMark_keeps : ∀ r x0 x1 s, Keeps r s → Keeps r (@memMark x0 x1 s) := by
  intro r x0 x1 s k
  unfold memMark
  have mark : Keeps s (setRam x0 ((s.ram x0).mark x1) s) := by
    refine ⟨?_, ?_, ?_, fun o => canonical_setRam (wf_ram x0 o) o⟩ <;> unfold setRam <;> split <;> first | rfl | exact id
  refine Keeps.fold _ _ _ (fun r s d k => ?_) (k.trans mark)
  extract_lets
  split
  · exact k
  · exact onDie_keeps _ _ _ _ k

theorem freeBytes_keeps : ∀ r x0 s, Keeps r s → Keeps r (@freeBytes x0 s).2 := by
  intro r x0 s k
  unfold freeBytes
  try dsimp (zeta := false) only [mk_upd]
  repeat' first
    | with_reducible assumption
    | (with_reducible apply upd_keeps; constructor <;> first | rfl | (simp only [List.length_map, List.length_zipIdx, modifyAt_length]; done))

theorem freeBytes_keeps' : ∀ r x0 s a t, @freeBytes x0 s = (a, t) → Keeps r s → Keeps r t := by
  intro r x0 s a t e k
  have := freeBytes_keeps r x0 s k
  rw [e] at this
  exact this

theorem draw_keeps : ∀ r s, Keeps r s → Keeps r (@draw s).2 := by
  intro r s k
  unfold draw
  try dsimp (zeta := false) only [mk_upd]
  repeat' first
    | with_reducible assumption
    | (with_reducible apply upd_keeps; constructor <;> first | rfl | (simp only [List.length_map, List.length_zipIdx, modifyAt_length]; done))

theorem draw_keeps' : ∀ r s a t, @draw s = (a, t) → Keeps r s → Keeps r t := by
  intro r s a t e k
  have := draw_keeps r s k
  rw [e] at this
  exact this

theorem norSeq_keeps : ∀ r s, Keeps r s → Keeps r (@norSeq s).2 := by
  intro r s k
  unfold norSeq
  repeat' first
    | with_reducible assumption
    | with_reducible apply onNor_keeps

theorem norSeq_keeps' : ∀ r s a t, @norSeq s = (a, t) → Keeps r s → Keeps r t := by
  intro r s a t e k
  have := norSeq_keeps r s k
  rw [e] at this
  exact this

theorem norWrite_keeps : ∀ r x0 s, Keeps r s → Keeps r (@norWrite x0 s) := by
  intro r x0 s k
  unfold norWrite
  repeat' first
    | with_reducible assumption
    | with_reducible apply onNor_keeps

theorem norBlock_keeps : ∀ r x0 x1 x2 s, Keeps r s → Keeps r (@norBlock x0 x1 x2 s).2 := by
  intro r x0 x1 x2 s k
  unfold norBlock
  repeat' first
    | with_reducible assumption
    | with_reducible apply norSeq_keeps
    | with_reducible apply norWrite_keeps

theorem norBlock_keeps' : ∀ r x0 x1 x2 s a t, @norBlock x0 x1 x2 s = (a, t) → Keeps r s → Keeps r t := by
  intro r x0 x1 x2 s a t e k
  have := norBlock_keeps r x0 x1 x2 s k
  rw [e] at this
  exact this

theorem norRecord_keeps : ∀ r x0 x1 x2 s, Keeps r s → Keeps r (@norRecord x0 x1 x2 s).2 := by
  intro r x0 x1 x2 s k
  unfold norRecord
  repeat' first
    | with_reducible assumption
    | with_reducible apply norSeq_keeps
    | with_reducible apply norWrite_keeps

theorem norRecord_keeps' : ∀ r x0 x1 x2 s a t, @norRecord x0 x1 x2 s = (a, t) → Keeps r s → Keeps r t := by
  intro r x0 x1 x2 s a t e k
  have := norRecord_keeps r x0 x1 x2 s k
  rw [e] at this
  exact this

theorem norFlag_keeps : ∀ r x0 x1 s, Keeps r s → Keeps r (@norFlag x0 x1 s) := by
  intro r x0 x1 s k
  unfold norFlag
  repeat' first
    | with_reducible assumption
    | with_reducible apply norWrite_keeps

theorem norFailure_keeps : ∀ r x0 s, Keeps r s → Keeps r (@norFailure x0 s) := by
  intro r x0 s k
  unfold norFailure
  repeat' first
    | with_reducible assumption
    | with_reducible apply logEvent_keeps

theorem aperWrite_keeps : ∀ r x0 x1 x2 s, Keeps r s → Keeps r (@aperWrite x0 x1 x2 s) := by
  intro r x0 x1 x2 s k
  unfold aperWrite
  repeat' first
    | with_reducible assumption
    | with_reducible apply onNor_keeps
    | split

theorem failedProgram_keeps : ∀ r x0 x1 s, Keeps r s → Keeps r (@failedProgram x0 x1 s) := by
  intro r x0 x1 s k
  unfold failedProgram
  try dsimp (zeta := false) only [mk_upd]
  repeat' first
    | with_reducible assumption
    | with_reducible apply onNor_keeps
    | (with_reducible apply upd_keeps; constructor <;> first | rfl | (simp only [List.length_map, List.length_zipIdx, modifyAt_length]; done))

theorem failedErase_keeps : ∀ r x0 s, Keeps r s → Keeps r (@failedErase x0 s) := by
  intro r x0 s k
  unfold failedErase
  try dsimp (zeta := false) only [mk_upd]
  repeat' first
    | with_reducible assumption
    | with_reducible apply onNor_keeps
    | (with_reducible apply upd_keeps; constructor <;> first | rfl | (simp only [List.length_map, List.length_zipIdx, modifyAt_length]; done))

theorem optDone_keeps : ∀ r x0 s, Keeps r s → Keeps r (@optDone x0 s) := by
  intro r x0 s k
  unfold optDone
  repeat' first
    | with_reducible assumption
    | with_reducible apply onNor_keeps
    | with_reducible apply failedProgram_keeps
    | with_reducible apply failedErase_keeps
    | with_reducible apply norFailure_keeps
    | split
    | (dsimp +zetaDelta (zeta := false) only)

theorem norEraseEnd_keeps : ∀ r x0 s, Keeps r s → Keeps r (@norEraseEnd x0 s) := by
  intro r x0 s k
  unfold norEraseEnd
  repeat' first
    | with_reducible assumption
    | with_reducible apply onNor_keeps
    | with_reducible apply norFailure_keeps
    | with_reducible apply failedErase_keeps
    | split

theorem onPort_keeps : ∀ r x0 x1 s, Keeps r s → Keeps r (@onPort x0 x1 s) := by
  intro r x0 x1 s k
  exact upd_keeps ⟨rfl, rfl, rfl, rfl, rfl, rfl, rfl, rfl, modifyAt_length _ _ _, rfl⟩ k

theorem transmit_keeps : ∀ r x0 x1 s, Keeps r s → Keeps r (@transmit x0 x1 s) := by
  intro r x0 x1 s k
  unfold transmit
  try dsimp (zeta := false) only [mk_upd]
  repeat' first
    | with_reducible assumption
    | with_reducible apply onPort_keeps
    | (with_reducible apply upd_keeps; constructor <;> first | rfl | (simp only [List.length_map, List.length_zipIdx, modifyAt_length]; done))
    | split

theorem drainQueue_keeps : ∀ r x0 x1 s, Keeps r s → Keeps r (@drainQueue x0 x1 s) := by
  intro r x0 x1 s
  fun_induction drainQueue x0 x1 s
  all_goals intro k
  repeat' first
    | (with_reducible apply_assumption)
    | with_reducible apply onPort_keeps
    | with_reducible apply transmit_keeps

theorem sendFlit_keeps : ∀ r x0 x1 s, Keeps r s → Keeps r (@sendFlit x0 x1 s) := by
  intro r x0 x1 s k
  unfold sendFlit
  repeat' first
    | with_reducible assumption
    | with_reducible apply transmit_keeps
    | with_reducible apply onPort_keeps
    | extract_lets
    | split

theorem sendPort_keeps : ∀ r x0 x1 x2 x3 s, Keeps r s → Keeps r (@sendPort x0 x1 x2 x3 s) := by
  intro r x0 x1 x2 x3 s k
  unfold sendPort
  repeat' first
    | with_reducible assumption
    | with_reducible apply sendFlit_keeps
    | split

theorem sendTo_keeps : ∀ r x0 x1 x2 s, Keeps r s → Keeps r (@sendTo x0 x1 x2 s) := by
  intro r x0 x1 x2 s k
  unfold sendTo
  try dsimp (zeta := false) only [mk_upd]
  repeat' first
    | with_reducible assumption
    | with_reducible apply sendPort_keeps
    | (with_reducible apply upd_keeps; constructor <;> first | rfl | (simp only [List.length_map, List.length_zipIdx, modifyAt_length]; done))
    | split

theorem flood_keeps : ∀ r x0 s, Keeps r s → Keeps r (@flood x0 s) := by
  intro r x0 s k
  unfold flood
  repeat' first
    | with_reducible assumption
    | with_reducible apply sendPort_keeps
    | (with_reducible apply Keeps.fold; intro r s a k)

theorem passOn_keeps : ∀ r x0 x1 x2 s, Keeps r s → Keeps r (@passOn x0 x1 x2 s) := by
  intro r x0 x1 x2 s k
  unfold passOn
  try dsimp (zeta := false) only [mk_upd]
  repeat' first
    | with_reducible assumption
    | with_reducible apply sendFlit_keeps
    | (with_reducible apply upd_keeps; constructor <;> first | rfl | (simp only [List.length_map, List.length_zipIdx, modifyAt_length]; done))
    | (with_reducible apply Keeps.fold; intro r s a k)
    | split

theorem returnCredit_keeps : ∀ r x0 x1 x2 s, Keeps r s → Keeps r (@returnCredit x0 x1 x2 s) := by
  intro r x0 x1 x2 s k
  unfold returnCredit
  repeat' first
    | with_reducible assumption
    | with_reducible apply sendFlit_keeps

theorem takeHeader_keeps : ∀ r x0 x1 s, Keeps r s → Keeps r (@takeHeader x0 x1 s) := by
  intro r x0 x1 s k
  unfold takeHeader
  repeat' first
    | with_reducible assumption
    | with_reducible apply drainQueue_keeps
    | with_reducible apply onPort_keeps

theorem giveCredit_keeps : ∀ r x0 x1 s, Keeps r s → Keeps r (@giveCredit x0 x1 s) := by
  intro r x0 x1 s k
  unfold giveCredit
  repeat' first
    | with_reducible assumption
    | with_reducible apply returnCredit_keeps
    | split

theorem receive_keeps : ∀ r x0 x1 k s, (∀ r s, Keeps r s → Keeps r (k s)) → Keeps r s → Keeps r (@receive x0 x1 k s) := by
  intro r x0 x1 k s hk k
  unfold receive
  try dsimp (zeta := false) only [mk_upd]
  repeat' first
    | with_reducible assumption
    | with_reducible apply hk
    | with_reducible apply sendPort_keeps
    | with_reducible apply giveCredit_keeps
    | with_reducible apply takeHeader_keeps
    | (with_reducible apply upd_keeps; constructor <;> first | rfl | (simp only [List.length_map, List.length_zipIdx, modifyAt_length]; done))
    | extract_lets
    | split

theorem receiveFor_keeps : ∀ r x0 x1 x2 k s, (∀ r s, Keeps r s → Keeps r (k s)) → Keeps r s → Keeps r (@receiveFor x0 x1 x2 k s) := by
  intro r x0 x1 x2 k s hk k
  unfold receiveFor
  repeat' first
    | with_reducible assumption
    | with_reducible apply hk
    | (with_reducible apply receive_keeps; (intro r s k))
    | with_reducible apply passOn_keeps
    | split

theorem onPeer_keeps : ∀ r x0 x1 s, Keeps r s → Keeps r (@onPeer x0 x1 s) := by
  intro r x0 x1 s k
  exact upd_keeps ⟨rfl, rfl, rfl, rfl, rfl, rfl, rfl, rfl, rfl, modifyAt_length _ _ _⟩ k

theorem plainEvent_keeps : ∀ r s, Keeps r s → Keeps r (@plainEvent s) := by
  intro r s k
  unfold plainEvent
  repeat' first
    | with_reducible assumption
    | with_reducible apply vendorEvent_keeps

theorem onCol_keeps : ∀ r x0 x1 x2 s, Keeps r s → Keeps r (@onCol x0 x1 x2 s) := by
  intro r x0 x1 x2 s k
  unfold onCol
  repeat' first
    | with_reducible assumption
    | with_reducible apply onFtl_keeps

theorem onSb_keeps : ∀ r x0 x1 s, Keeps r s → Keeps r (@onSb x0 x1 s) := by
  intro r x0 x1 s k
  unfold onSb
  repeat' first
    | with_reducible assumption
    | with_reducible apply onFtl_keeps
    | split

theorem openStream_keeps : ∀ r x0 s, ∀ t, @openStream x0 s = some t → Keeps r s → Keeps r t := by
  intro r x0 s t ht k
  unfold openStream at ht
  repeat' first
    | (cases ht)
    | extract_lets at ht
    | split at ht
  repeat' first
    | with_reducible assumption
    | with_reducible apply onFtl_keeps
    | with_reducible apply onCol_keeps
    | (with_reducible apply Keeps.fold; intro r s a k)
    | split

theorem takeSlot_keeps : ∀ r x0 x1 s, Keeps r s → Keeps r (@takeSlot x0 x1 s).2 := by
  intro r x0 x1 s k
  unfold takeSlot
  repeat' first
    | with_reducible assumption
    | with_reducible apply onFtl_keeps

theorem takeSlot_keeps' : ∀ r x0 x1 s a t, @takeSlot x0 x1 s = (a, t) → Keeps r s → Keeps r t := by
  intro r x0 x1 s a t e k
  have := takeSlot_keeps r x0 x1 s k
  rw [e] at this
  exact this

theorem setMap_keeps : ∀ r x0 x1 x2 x3 s, Keeps r s → Keeps r (@setMap x0 x1 x2 x3 s) := by
  intro r x0 x1 x2 x3 s k
  unfold setMap
  repeat' first
    | with_reducible assumption
    | with_reducible apply onFtl_keeps

theorem bumpCount_keeps : ∀ r x0 s, Keeps r s → Keeps r (@bumpCount x0 s).2 := by
  intro r x0 s k
  unfold bumpCount
  repeat' first
    | with_reducible assumption
    | with_reducible apply onFtl_keeps

theorem bumpCount_keeps' : ∀ r x0 s a t, @bumpCount x0 s = (a, t) → Keeps r s → Keeps r t := by
  intro r x0 s a t e k
  have := bumpCount_keeps r x0 s k
  rw [e] at this
  exact this

theorem releaseBuffers_keeps : ∀ r s, Keeps r s → Keeps r (@releaseBuffers s) := by
  intro r s k
  unfold releaseBuffers
  repeat' first
    | with_reducible assumption
    | with_reducible apply onFtl_keeps

theorem recordRange_keeps : ∀ r x0 x1 s, Keeps r s → Keeps r (@recordRange x0 x1 s) := by
  intro r x0 x1 s k
  unfold recordRange
  repeat' first
    | with_reducible assumption
    | with_reducible apply norRecord_keeps
    | with_reducible apply vendorEvent_keeps
    | with_reducible apply onFtl_keeps

theorem recordLosses_keeps : ∀ r x0 x1 s, Keeps r s → Keeps r (@recordLosses x0 x1 s) := by
  intro r x0 x1 s k
  unfold recordLosses
  repeat' first
    | with_reducible assumption
    | with_reducible apply recordRange_keeps
    | (with_reducible apply Keeps.fold; intro r s a k)

theorem mend_keeps : ∀ r x0 x1 x2 s, Keeps r s → Keeps r (@mend x0 x1 x2 s) := by
  intro r x0 x1 x2 s k
  unfold mend
  repeat' first
    | with_reducible assumption
    | with_reducible apply norRecord_keeps
    | with_reducible apply onFtl_keeps
    | (with_reducible apply Keeps.fold; intro r s a k)

theorem reportLosses_keeps : ∀ r x0 x1 s, Keeps r s → Keeps r (@reportLosses x0 x1 s) := by
  intro r x0 x1 s k
  unfold reportLosses
  repeat' first
    | with_reducible assumption
    | with_reducible apply finish_keeps
    | with_reducible apply norFlag_keeps
    | with_reducible apply onFtl_keeps
    | (with_reducible apply Keeps.fold; intro r s a k)

theorem markStale_keeps : ∀ r x0 x1 s, Keeps r s → Keeps r (@markStale x0 x1 s) := by
  intro r x0 x1 s k
  unfold markStale
  try dsimp (zeta := false) only [mk_upd]
  repeat' first
    | with_reducible assumption
    | (with_reducible apply upd_keeps; constructor <;> first | rfl | (simp only [List.length_map, List.length_zipIdx, modifyAt_length]; done))
    | extract_lets
    | split

theorem sendDeltas_keeps : ∀ r x0 x1 x2 x3 s, Keeps r s → Keeps r (@sendDeltas x0 x1 x2 x3 s).2 := by
  intro r x0 x1 x2 x3 s k
  unfold sendDeltas
  try dsimp (zeta := false) only [mk_upd]
  repeat' first
    | with_reducible assumption
    | with_reducible apply markStale_keeps
    | with_reducible apply sendTo_keeps
    | (with_reducible apply upd_keeps; constructor <;> first | rfl | (simp only [List.length_map, List.length_zipIdx, modifyAt_length]; done))
    | (with_reducible apply Keeps.fold2; intro r p a k)
    | split

theorem sendDeltas_keeps' : ∀ r x0 x1 x2 x3 s a t, @sendDeltas x0 x1 x2 x3 s = (a, t) → Keeps r s → Keeps r t := by
  intro r x0 x1 x2 x3 s a t e k
  have := sendDeltas_keeps r x0 x1 x2 x3 s k
  rw [e] at this
  exact this

theorem retireColumn_keeps : ∀ r x0 x1 x2 x3 s, Keeps r s → Keeps r (@retireColumn x0 x1 x2 x3 s) := by
  intro r x0 x1 x2 x3 s k
  unfold retireColumn
  repeat' first
    | with_reducible assumption
    | with_reducible apply onCol_keeps
    | with_reducible apply onFtlStats_keeps
    | with_reducible apply logEvent_keeps
    | with_reducible apply onFtl_keeps
    | extract_lets
    | split

theorem dropPoisoned_keeps : ∀ r x0 s, Keeps r s → Keeps r (@dropPoisoned x0 s).2 := by
  intro r x0 s k
  unfold dropPoisoned
  repeat' first
    | with_reducible assumption
    | with_reducible apply onFtl_keeps
    | with_reducible apply logEvent_keeps
    | with_reducible apply setMap_keeps
    | (with_reducible apply Keeps.fold2; intro r p a k)
    | extract_lets
    | split

theorem dropPoisoned_keeps' : ∀ r x0 s a t, @dropPoisoned x0 s = (a, t) → Keeps r s → Keeps r t := by
  intro r x0 s a t e k
  have := dropPoisoned_keeps r x0 s k
  rw [e] at this
  exact this

theorem startGroup_keeps : ∀ r x0 x1 x2 s, Keeps r s → Keeps r (@startGroup x0 x1 x2 s) := by
  intro r x0 x1 x2 s k
  unfold startGroup
  repeat' first
    | with_reducible assumption
    | with_reducible apply dropPoisoned_keeps
    | with_reducible apply recordLosses_keeps
    | with_reducible apply sendDeltas_keeps
    | with_reducible apply onFtl_keeps
    | (with_reducible apply Keeps.fold; intro r s a k)

theorem padGroup_keeps : ∀ r x0 s, Keeps r s → Keeps r (@padGroup x0 s) := by
  intro r x0 s k
  unfold padGroup
  repeat' first
    | with_reducible assumption
    | with_reducible apply onFtl_keeps

theorem startAll_keeps : ∀ r x0 x1 s, Keeps r s → Keeps r (@startAll x0 x1 s) := by
  intro r x0 x1 s
  fun_induction startAll x0 x1 s
  all_goals intro k
  repeat' first
    | (with_reducible apply_assumption)
    | with_reducible apply padGroup_keeps
    | with_reducible apply startGroup_keeps

theorem closeSb_keeps : ∀ r x0 s, Keeps r s → Keeps r (@closeSb x0 s) := by
  intro r x0 s k
  unfold closeSb
  repeat' first
    | with_reducible assumption
    | with_reducible apply startAll_keeps
    | with_reducible apply onSb_keeps
    | with_reducible apply onFtl_keeps

theorem allocHost_keeps : ∀ r x0 s, ∀ a t, @allocHost x0 s = some (a, t) → Keeps r s → Keeps r t := by
  intro r x0 s
  fun_induction allocHost x0 s
  all_goals intro a t ht k
  all_goals try cases ht
  repeat' first
    | with_reducible assumption
    | (with_reducible refine (by assumption : ∀ a t, _ → Keeps r _ → Keeps r t) _ _ (by assumption) ?_)
    | with_reducible apply closeSb_keeps
    | (with_reducible apply openStream_keeps; with_reducible assumption)
    | with_reducible apply onFtl_keeps

theorem allocOn_keeps : ∀ r x0 x1 x2 s, ∀ a t, @allocOn x0 x1 x2 s = some (a, t) → Keeps r s → Keeps r t := by
  intro r x0 x1 x2 s
  fun_induction allocOn x0 x1 x2 s
  all_goals intro a t ht k
  all_goals try cases ht
  repeat' first
    | with_reducible assumption
    | (with_reducible refine (by assumption : ∀ a t, _ → Keeps r _ → Keeps r t) _ _ (by assumption) ?_)
    | with_reducible apply closeSb_keeps
    | (with_reducible apply openStream_keeps; with_reducible assumption)
    | with_reducible apply onFtl_keeps

theorem allocSlot_keeps : ∀ r x0 x1 s, ∀ a t, @allocSlot x0 x1 s = some (a, t) → Keeps r s → Keeps r t := by
  intro r x0 x1 s a t ht k
  unfold allocSlot at ht
  repeat' first
    | split at ht
  repeat' first
    | with_reducible assumption
    | (with_reducible apply allocHost_keeps; with_reducible assumption)
    | (with_reducible apply allocOn_keeps; with_reducible assumption)

theorem placeUnit_keeps : ∀ r x0 x1 x2 x3 x4 x5 x6 x7 s, ∀ a t, @placeUnit x0 x1 x2 x3 x4 x5 x6 x7 s = some (a, t) → Keeps r s → Keeps r t := by
  intro r x0 x1 x2 x3 x4 x5 x6 x7 s a t ht k
  unfold placeUnit at ht
  repeat' first
    | (cases ht)
    | split at ht
  repeat' first
    | with_reducible assumption
    | (with_reducible apply allocSlot_keeps; with_reducible assumption)
    | with_reducible apply onFtl_keeps

theorem writeUnit_keeps : ∀ r x0 x1 x2 x3 x4 x5 s, ∀ a t, @writeUnit x0 x1 x2 x3 x4 x5 s = some (a, t) → Keeps r s → Keeps r t := by
  intro r x0 x1 x2 x3 x4 x5 s a t ht k
  unfold writeUnit at ht
  try dsimp (zeta := false) only [mk_upd] at ht
  repeat' first
    | (cases ht)
    | split at ht
  repeat' first
    | with_reducible assumption
    | with_reducible apply bumpCount_keeps
    | (with_reducible apply placeUnit_keeps; with_reducible assumption)
    | with_reducible apply setMap_keeps

theorem readyRecords_keeps : ∀ r x0 s, Keeps r s → Keeps r (@readyRecords x0 s) := by
  intro r x0 s k
  unfold readyRecords
  repeat' first
    | with_reducible assumption
    | with_reducible apply onFtl_keeps

theorem programJournal_keeps : ∀ r s, Keeps r s → Keeps r (@programJournal s) := by
  intro r s k
  unfold programJournal
  repeat' first
    | with_reducible assumption
    | with_reducible apply onFtl_keeps

theorem commitUnit_keeps : ∀ r x0 s, Keeps r s → Keeps r (@commitUnit x0 s) := by
  intro r x0 s k
  unfold commitUnit
  repeat' first
    | with_reducible assumption
    | with_reducible apply onFtl_keeps
    | with_reducible apply setMap_keeps
    | with_reducible apply onFtlStats_keeps
    | with_reducible apply readyRecords_keeps
    | extract_lets
    | split

theorem redoUnit_keeps : ∀ r x0 x1 s, Keeps r s → Keeps r (@redoUnit x0 x1 s) := by
  intro r x0 x1 s k
  unfold redoUnit
  repeat' first
    | with_reducible assumption
    | with_reducible apply onFtl_keeps
    | with_reducible apply onFtlStats_keeps
    | (with_reducible apply placeUnit_keeps; with_reducible assumption)
    | with_reducible apply setMap_keeps
    | extract_lets
    | split

theorem failColumn_keeps : ∀ r x0 x1 x2 s, Keeps r s → Keeps r (@failColumn x0 x1 x2 s) := by
  intro r x0 x1 x2 s k
  unfold failColumn
  repeat' first
    | with_reducible assumption
    | with_reducible apply onFtlStats_keeps
    | with_reducible apply retireColumn_keeps
    | with_reducible apply onFtl_keeps
    | with_reducible apply logEvent_keeps
    | with_reducible apply onCol_keeps
    | extract_lets
    | split

theorem finishWrites_keeps : ∀ r s, Keeps r s → Keeps r (@finishWrites s) := by
  intro r s k
  unfold finishWrites
  repeat' first
    | with_reducible assumption
    | with_reducible apply finish_keeps
    | with_reducible apply programJournal_keeps
    | with_reducible apply onFtl_keeps
    | (with_reducible apply Keeps.fold; intro r s a k)
    | extract_lets
    | split

theorem endGroup_keeps : ∀ r x0 x1 s, Keeps r s → Keeps r (@endGroup x0 x1 s) := by
  intro r x0 x1 s k
  unfold endGroup
  repeat' first
    | with_reducible assumption
    | with_reducible apply onFtl_keeps
    | with_reducible apply finishWrites_keeps
    | with_reducible apply releaseBuffers_keeps
    | with_reducible apply commitUnit_keeps
    | with_reducible apply failColumn_keeps
    | with_reducible apply dropPoisoned_keeps
    | with_reducible apply recordLosses_keeps
    | with_reducible apply redoUnit_keeps
    | (with_reducible apply Keeps.fold; intro r s a k)
    | extract_lets
    | split

theorem startNextGroup_keeps : ∀ r x0 s, Keeps r s → Keeps r (@startNextGroup x0 s) := by
  intro r x0 s k
  unfold startNextGroup
  repeat' first
    | with_reducible assumption
    | with_reducible apply startGroup_keeps
    | with_reducible apply padGroup_keeps
    | split

theorem onValley_keeps : ∀ r x0 x1 s, Keeps r s → Keeps r (@onValley x0 x1 s) := by
  intro r x0 x1 s k
  exact upd_keeps ⟨rfl, rfl, rfl, rfl, rfl, rfl, rfl, modifyAt_length _ _ _, rfl, rfl⟩ k

theorem deliver_keeps : ∀ r x0 x1 s, Keeps r s → Keeps r (@deliver x0 x1 s) := by
  intro r x0 x1 s k
  unfold deliver
  repeat' first
    | with_reducible assumption
    | with_reducible apply onFtl_keeps

theorem issueRead_keeps : ∀ r x0 x1 x2 s, Keeps r s → Keeps r (@issueRead x0 x1 x2 s) := by
  intro r x0 x1 x2 s k
  unfold issueRead
  repeat' first
    | with_reducible assumption
    | with_reducible apply deliver_keeps
    | with_reducible apply onValley_keeps
    | with_reducible apply onFtlStats_keeps
    | with_reducible apply onCol_keeps
    | with_reducible apply onFtl_keeps
    | extract_lets
    | split
    | (dsimp +zetaDelta (zeta := false) only)

theorem askUnit_keeps : ∀ r x0 x1 s, Keeps r s → Keeps r (@askUnit x0 x1 s) := by
  intro r x0 x1 s k
  unfold askUnit
  repeat' first
    | with_reducible assumption
    | with_reducible apply freeBytes_keeps
    | with_reducible apply deliver_keeps
    | with_reducible apply issueRead_keeps
    | split

theorem openJob_keeps : ∀ r x0 x1 s, Keeps r s → Keeps r (@openJob x0 x1 s).2 := by
  intro r x0 x1 s k
  unfold openJob
  repeat' first
    | with_reducible assumption
    | with_reducible apply onFtl_keeps
    | with_reducible apply askUnit_keeps
    | (with_reducible apply Keeps.fold; intro r s a k)

theorem openJob_keeps' : ∀ r x0 x1 s a t, @openJob x0 x1 s = (a, t) → Keeps r s → Keeps r t := by
  intro r x0 x1 s a t e k
  have := openJob_keeps r x0 x1 s k
  rw [e] at this
  exact this

theorem openSlotJob_keeps : ∀ r x0 x1 x2 s, Keeps r s → Keeps r (@openSlotJob x0 x1 x2 s).2 := by
  intro r x0 x1 x2 s k
  unfold openSlotJob
  repeat' first
    | with_reducible assumption
    | with_reducible apply onFtl_keeps
    | with_reducible apply deliver_keeps
    | with_reducible apply issueRead_keeps
    | extract_lets
    | split

theorem openSlotJob_keeps' : ∀ r x0 x1 x2 s a t, @openSlotJob x0 x1 x2 s = (a, t) → Keeps r s → Keeps r t := by
  intro r x0 x1 x2 s a t e k
  have := openSlotJob_keeps r x0 x1 x2 s k
  rw [e] at this
  exact this

theorem closeJob_keeps : ∀ r x0 s, Keeps r s → Keeps r (@closeJob x0 s) := by
  intro r x0 s k
  unfold closeJob
  repeat' first
    | with_reducible assumption
    | with_reducible apply onFtl_keeps

theorem softRewrite_keeps : ∀ r x0 s, Keeps r s → Keeps r (@softRewrite x0 s) := by
  intro r x0 s k
  unfold softRewrite
  repeat' first
    | with_reducible assumption
    | with_reducible apply onFtl_keeps
    | extract_lets
    | split

theorem finishCopy_keeps : ∀ r x0 x1 x2 s, Keeps r s → Keeps r (@finishCopy x0 x1 x2 s) := by
  intro r x0 x1 x2 s k
  unfold finishCopy
  repeat' first
    | with_reducible assumption
    | with_reducible apply closeJob_keeps
    | with_reducible apply onFtlStats_keeps
    | with_reducible apply logEvent_keeps
    | with_reducible apply setMap_keeps
    | (with_reducible apply placeUnit_keeps; with_reducible assumption)
    | extract_lets
    | split

theorem startCopies_keeps : ∀ r x0 s, Keeps r s → Keeps r (@startCopies x0 s) := by
  intro r x0 s k
  unfold startCopies
  try dsimp (zeta := false) only [mk_upd]
  repeat' first
    | with_reducible assumption
    | with_reducible apply openSlotJob_keeps
    | with_reducible apply finishCopy_keeps
    | (with_reducible apply Keeps.fold; intro r s a k)
    | extract_lets
    | split

theorem exhaust_keeps : ∀ r s, Keeps r s → Keeps r (@exhaust s) := by
  intro r s k
  unfold exhaust
  repeat' first
    | with_reducible assumption
    | with_reducible apply setCritical_keeps
    | with_reducible apply norBlock_keeps
    | with_reducible apply onFtl_keeps
    | split

theorem startErase_keeps : ∀ r x0 x1 s, Keeps r s → Keeps r (@startErase x0 x1 s) := by
  intro r x0 x1 s k
  unfold startErase
  repeat' first
    | with_reducible assumption
    | with_reducible apply norRecord_keeps
    | with_reducible apply onCol_keeps

theorem startErases_keeps : ∀ r s, Keeps r s → Keeps r (@startErases s) := by
  intro r s k
  unfold startErases
  repeat' first
    | with_reducible assumption
    | with_reducible apply startErase_keeps
    | (with_reducible apply Keeps.fold; intro r s a k)

theorem freeSb_keeps : ∀ r x0 s, Keeps r s → Keeps r (@freeSb x0 s) := by
  intro r x0 s k
  unfold freeSb
  repeat' first
    | with_reducible assumption
    | with_reducible apply onFtl_keeps
    | split

theorem endErase_keeps : ∀ r x0 x1 x2 s, Keeps r s → Keeps r (@endErase x0 x1 x2 s) := by
  intro r x0 x1 x2 s k
  unfold endErase
  repeat' first
    | with_reducible assumption
    | with_reducible apply freeSb_keeps
    | with_reducible apply norFlag_keeps
    | with_reducible apply onFtl_keeps
    | with_reducible apply onCol_keeps
    | with_reducible apply retireColumn_keeps
    | with_reducible apply onFtlStats_keeps
    | split

theorem refreshDue_keeps : ∀ r x0 x1 s, Keeps r s → Keeps r (@refreshDue x0 x1 s) := by
  intro r sb ch s k
  unfold refreshDue
  extract_lets n lim priv
  split
  · exact k
  split
  · exact startCopies_keeps _ _ _ (upd_keeps (x := onFtl _ s) ⟨rfl, rfl, rfl, rfl, rfl, rfl, rfl, rfl, rfl, rfl⟩ (onFtl_keeps _ _ _ k))
  split
  · exact k
  · exact onFtl_keeps _ _ _ k

theorem patrolStep_keeps : ∀ r s, Keeps r s → Keeps r (@patrolStep s) := by
  intro r s k
  unfold patrolStep
  repeat' first
    | with_reducible assumption
    | with_reducible apply onFtl_keeps
    | with_reducible apply openSlotJob_keeps
    | extract_lets
    | split

theorem ftlRecess_keeps : ∀ r s, Keeps r s → Keeps r (@ftlRecess s) := by
  intro r s k
  unfold ftlRecess
  repeat' first
    | with_reducible assumption
    | with_reducible apply startCopies_keeps
    | with_reducible apply onFtl_keeps
    | with_reducible apply onFtlStats_keeps
    | with_reducible apply patrolStep_keeps
    | with_reducible apply startErases_keeps
    | (with_reducible apply Keeps.fold; intro r s a k)
    | split

theorem gcInClass_keeps : ∀ r s, Keeps r s → Keeps r (@gcInClass s) := by
  intro r s k
  unfold gcInClass
  try dsimp (zeta := false) only [mk_upd]
  repeat' first
    | with_reducible assumption
    | with_reducible apply startErases_keeps
    | with_reducible apply startCopies_keeps
    | (with_reducible apply upd_keeps; constructor <;> first | rfl | (simp only [List.length_map, List.length_zipIdx, modifyAt_length]; done))
    | split
    | (dsimp +zetaDelta (zeta := false) only)

theorem writeCheckpoint_keeps : ∀ r s, Keeps r s → Keeps r (@writeCheckpoint s) := by
  intro r s k
  unfold writeCheckpoint
  repeat' first
    | with_reducible assumption
    | with_reducible apply norRecord_keeps
    | with_reducible apply onFtl_keeps

theorem countWaits_keeps : ∀ r s, Keeps r s → Keeps r (@countWaits s) := by
  intro r s k
  unfold countWaits
  repeat' first
    | with_reducible assumption
    | (with_reducible apply onMem_keeps; exact rfl; exact rfl)

theorem dropSeg_keeps : ∀ r x0 s, Keeps r s → Keeps r (@dropSeg x0 s) := by
  intro r x0 s k
  unfold dropSeg
  repeat' first
    | with_reducible assumption
    | (with_reducible apply onMem_keeps; exact rfl; exact rfl)

theorem placeSeg_keeps : ∀ r x0 x1 x2 x3 s, ∀ a t, @placeSeg x0 x1 x2 x3 s = some (a, t) → Keeps r s → Keeps r t := by
  intro r x0 x1 x2 x3 s
  fun_induction placeSeg x0 x1 x2 x3 s
  all_goals intro a t ht k
  all_goals try cases ht
  repeat' first
    | with_reducible assumption
    | (with_reducible refine (by assumption : ∀ a t, _ → Keeps r _ → Keeps r t) _ _ (by assumption) ?_)
    | with_reducible apply dropSeg_keeps
    | (with_reducible apply onMem_keeps; exact rfl; exact rfl)

theorem placeAll_keeps : ∀ r x0 x1 x2 s, ∀ a t, @placeAll x0 x1 x2 s = some (a, t) → Keeps r s → Keeps r t := by
  intro r x0 x1 x2 s
  fun_induction placeAll x0 x1 x2 s
  all_goals intro a t ht k
  all_goals try cases ht
  repeat' first
    | with_reducible assumption
    | (with_reducible refine (by assumption : ∀ a t, _ → Keeps r _ → Keeps r t) _ _ (by assumption) ?_)
    | (with_reducible apply placeSeg_keeps; with_reducible assumption)

theorem freeSegs_keeps : ∀ r x0 s, Keeps r s → Keeps r (@freeSegs x0 s) := by
  intro r x0 s k
  unfold freeSegs
  repeat' first
    | with_reducible assumption
    | (with_reducible apply onMem_keeps; exact rfl; exact rfl)

theorem freeStale_keeps : ∀ r s, Keeps r s → Keeps r (@freeStale s) := by
  intro r s k
  unfold freeStale
  repeat' first
    | with_reducible assumption
    | (with_reducible apply onMem_keeps; exact rfl; exact rfl)

theorem markStaleSegs_keeps : ∀ r x0 x1 x2 s, Keeps r s → Keeps r (@markStaleSegs x0 x1 x2 s) := by
  intro r x0 x1 x2 s k
  unfold markStaleSegs
  repeat' first
    | with_reducible assumption
    | with_reducible apply freeStale_keeps
    | (with_reducible apply onMem_keeps; exact rfl; exact rfl)

theorem createSet_keeps : ∀ r x0 x1 x2 s, Keeps r s → Keeps r (@createSet x0 x1 x2 s) := by
  intro r x0 x1 x2 s k
  unfold createSet
  repeat' first
    | with_reducible assumption
    | with_reducible apply finish_keeps
    | with_reducible apply finishDw_keeps
    | (with_reducible apply onMem_keeps; exact rfl; exact rfl)
    | split

theorem deleteSet_keeps : ∀ r x0 x1 x2 s, Keeps r s → Keeps r (@deleteSet x0 x1 x2 s) := by
  intro r x0 x1 x2 s k
  unfold deleteSet
  repeat' first
    | with_reducible assumption
    | with_reducible apply finish_keeps
    | (with_reducible apply onMem_keeps; exact rfl; exact rfl)
    | split

theorem maskBytes_keeps : ∀ r x0 x1 s, Keeps r s → Keeps r (@maskBytes x0 x1 s).2 := by
  intro r x0 x1 s k
  unfold maskBytes
  repeat' first
    | with_reducible assumption
    | with_reducible apply freeBytes_keeps
    | split

theorem maskBytes_keeps' : ∀ r x0 x1 s a t, @maskBytes x0 x1 s = (a, t) → Keeps r s → Keeps r t := by
  intro r x0 x1 s a t e k
  have := maskBytes_keeps r x0 x1 s k
  rw [e] at this
  exact this

theorem countDelivered_keeps : ∀ r x0 s, Keeps r s → Keeps r (@countDelivered x0 s) := by
  intro r x0 s k
  unfold countDelivered
  try dsimp (zeta := false) only [mk_upd]
  repeat' first
    | with_reducible assumption
    | (with_reducible apply upd_keeps; constructor <;> first | rfl | (simp only [List.length_map, List.length_zipIdx, modifyAt_length]; done))

theorem memoryReadCore_keeps : ∀ r x0 x1 x2 x3 s, Keeps r s → Keeps r (@memoryReadCore x0 x1 x2 x3 s) := by
  intro r x0 x1 x2 x3 s k
  unfold memoryReadCore
  try dsimp (zeta := false) only [mk_upd]
  repeat' first
    | with_reducible assumption
    | with_reducible apply finish_keeps
    | with_reducible apply maskBytes_keeps
    | with_reducible apply finishUnrecovered_keeps
    | with_reducible apply finishData_keeps
    | with_reducible apply countDelivered_keeps
    | extract_lets
    | split
    | (dsimp +zetaDelta (zeta := false) only)

theorem memoryWriteCore_keeps : ∀ r x0 x1 x2 x3 s, Keeps r s → Keeps r (@memoryWriteCore x0 x1 x2 x3 s) := by
  intro r x0 x1 x2 x3 s k
  unfold memoryWriteCore
  repeat' first
    | with_reducible assumption
    | with_reducible apply finish_keeps
    | with_reducible apply memWrite_keeps
    | split

theorem writeMarked_keeps : ∀ r x0 x1 x2 x3 s, Keeps r s → Keeps r (@writeMarked x0 x1 x2 x3 s) := by
  intro r x0 x1 x2 x3 s k
  unfold writeMarked
  repeat' first
    | with_reducible assumption
    | with_reducible apply memMark_keeps
    | with_reducible apply memWrite_keeps

theorem onRun_keeps : ∀ r x0 x1 s, Keeps r s → Keeps r (@onRun x0 x1 s) := by
  intro r x0 x1 s k
  unfold onRun
  repeat' first
    | with_reducible assumption
    | with_reducible apply onSched_keeps

theorem onRoomStats_keeps : ∀ r x0 x1 s, Keeps r s → Keeps r (@onRoomStats x0 x1 s) := by
  intro r x0 x1 s k
  unfold onRoomStats
  repeat' first
    | with_reducible assumption
    | with_reducible apply onSched_keeps

theorem setHolder_keeps : ∀ r x0 x1 s, Keeps r s → Keeps r (@setHolder x0 x1 s) := by
  intro r x0 x1 s k
  unfold setHolder
  repeat' first
    | with_reducible assumption
    | with_reducible apply onSched_keeps

theorem makeReady_keeps : ∀ r x0 x1 s, Keeps r s → Keeps r (@makeReady x0 x1 s) := by
  intro r x0 x1 s k
  unfold makeReady
  repeat' first
    | with_reducible assumption
    | with_reducible apply onRun_keeps

theorem takeEngine_keeps : ∀ r x0 x1 s, Keeps r s → Keeps r (@takeEngine x0 x1 s) := by
  intro r x0 x1 s k
  unfold takeEngine
  repeat' first
    | with_reducible assumption
    | with_reducible apply setHolder_keeps
    | with_reducible apply onRun_keeps

theorem claim_keeps : ∀ r x0 x1 s, Keeps r s → Keeps r (@claim x0 x1 s) := by
  intro r x0 x1 s k
  unfold claim
  repeat' first
    | with_reducible assumption
    | with_reducible apply takeEngine_keeps
    | split

theorem setSem_keeps : ∀ r x0 x1 x2 s, Keeps r s → Keeps r (@setSem x0 x1 x2 s) := by
  intro r x0 x1 x2 s k
  unfold setSem
  repeat' first
    | with_reducible assumption
    | with_reducible apply onRun_keeps
    | with_reducible apply onSched_keeps
    | split

theorem takeSem_keeps : ∀ r x0 x1 s, Keeps r s → Keeps r (@takeSem x0 x1 s) := by
  intro r x0 x1 s k
  unfold takeSem
  repeat' first
    | with_reducible assumption
    | with_reducible apply setSem_keeps
    | with_reducible apply onRun_keeps
    | split

theorem handBack_keeps : ∀ r x0 x1 x2 x3 s, Keeps r s → Keeps r (@handBack x0 x1 x2 x3 s) := by
  intro r w p f
  induction f generalizing r with
  | zero => exact fun _ _ k => k
  | succ f ih =>
    intro sem s k
    unfold handBack
    refine Keeps.fold _ _ _ (fun r s h k => ?_) k
    extract_lets
    split
    · exact k
    · refine Keeps.fold _ _ _ (fun r s w k => ?_) (onRoomStats_keeps _ _ _ _ (onSched_keeps _ _ _ (onRun_keeps _ _ _ _ k)))
      split
      · exact k
      · exact ih _ _ _ k

theorem endHandBack_keeps : ∀ r x0 s, Keeps r s → Keeps r (@endHandBack x0 s) := by
  intro r x0 s k
  unfold endHandBack
  repeat' first
    | with_reducible assumption
    | with_reducible apply onSched_keeps

theorem blockOn_keeps : ∀ r x0 x1 x2 x3 s, Keeps r s → Keeps r (@blockOn x0 x1 x2 x3 s) := by
  intro r x0 x1 x2 x3 s k
  unfold blockOn
  repeat' first
    | with_reducible assumption
    | with_reducible apply onRun_keeps
    | with_reducible apply setHolder_keeps
    | with_reducible apply handBack_keeps
    | extract_lets
    | split
    | (dsimp +zetaDelta (zeta := false) only)

theorem dropRun_keeps : ∀ r x0 s, Keeps r s → Keeps r (@dropRun x0 s) := by
  intro r x0 s k
  unfold dropRun
  try dsimp (zeta := false) only [mk_upd]
  repeat' first
    | with_reducible assumption
    | with_reducible apply setHolder_keeps
    | with_reducible apply endHandBack_keeps
    | with_reducible apply freeSegs_keeps
    | (with_reducible apply onMem_keeps; exact rfl; exact rfl)
    | with_reducible apply freeStale_keeps
    | (with_reducible apply upd_keeps; constructor <;> first | rfl | (simp only [List.length_map, List.length_zipIdx, modifyAt_length]; done))
    | (with_reducible apply Keeps.fold; intro r s a k)
    | split

theorem endRun_keeps : ∀ r x0 x1 s, Keeps r s → Keeps r (@endRun x0 x1 s) := by
  intro r x0 x1 s k
  unfold endRun
  repeat' first
    | with_reducible assumption
    | with_reducible apply dropRun_keeps
    | with_reducible apply finishUnrecovered_keeps
    | with_reducible apply finish_keeps
    | split

theorem settle_keeps : ∀ r x0 s, Keeps r s → Keeps r (@settle x0 s) := by
  intro r x0 s k
  unfold settle
  repeat' first
    | with_reducible assumption
    | with_reducible apply endRun_keeps
    | split

theorem opDone_keeps : ∀ r x0 s, Keeps r s → Keeps r (@opDone x0 s) := by
  intro r x0 s k
  unfold opDone
  repeat' first
    | with_reducible assumption
    | with_reducible apply settle_keeps
    | with_reducible apply onRun_keeps

theorem failProgram_keeps : ∀ r x0 x1 x2 s, Keeps r s → Keeps r (@failProgram x0 x1 x2 s) := by
  intro r x0 x1 x2 s k
  unfold failProgram
  repeat' first
    | with_reducible assumption
    | with_reducible apply finishUnrecovered_keeps
    | with_reducible apply finish_keeps
    | split

theorem denyRun_keeps : ∀ r x0 s, Keeps r s → Keeps r (@denyRun x0 s) := by
  intro r x0 s k
  unfold denyRun
  repeat' first
    | with_reducible assumption
    | with_reducible apply endRun_keeps
    | (with_reducible apply onMem_keeps; exact rfl; exact rfl)

theorem onMxa_keeps : ∀ r x0 x1 s, Keeps r s → Keeps r (@onMxa x0 x1 s) := by
  intro r x0 x1 s k
  exact upd_keeps ⟨rfl, rfl, rfl, modifyAt_length _ _ _, rfl, rfl, rfl, rfl, rfl, rfl⟩ k

theorem useCached_keeps : ∀ r x0 x1 s, Keeps r s → Keeps r (@useCached x0 x1 s) := by
  intro r x0 x1 s k
  unfold useCached
  exact onMem_keeps _ _ _ rfl rfl k

theorem cacheSource_keeps : ∀ r x0 x1 s, Keeps r s → Keeps r (@cacheSource x0 x1 s) := by
  intro r x0 x1 s k
  unfold cacheSource
  split
  · exact k
  apply Keeps.fold _ _ _ _ k
  intro r s a k
  generalize hx : Config.lessonSource _ _ = src
  obtain ⟨ns, lba, count⟩ := src
  dsimp (zeta := false) only
  split
  · exact k
  extract_lets
  refine onMem_keeps _ _ _ rfl rfl ?_
  show Keeps r (ite _ _ _)
  split
  · exact k
  split
  · exact placeSeg_keeps _ _ _ _ _ _ _ _ ‹_› k
  · exact k

theorem issueFill_keeps : ∀ r x0 x1 x2 s, Keeps r s → Keeps r (@issueFill x0 x1 x2 s) := by
  intro r x0 x1 x2 s k
  unfold issueFill
  repeat' first
    | with_reducible assumption
    | with_reducible apply denyRun_keeps
    | with_reducible apply useCached_keeps
    | with_reducible apply onDie_keeps
    | with_reducible apply onMxa_keeps
    | extract_lets
    | split

theorem drainRow_keeps : ∀ r x0 x1 x2 s, Keeps r s → Keeps r (@drainRow x0 x1 x2 s).2 := by
  intro r x0 x1 x2 s k
  unfold drainRow
  repeat' first
    | with_reducible assumption
    | with_reducible apply writeMarked_keeps
    | extract_lets
    | split

theorem drainRow_keeps' : ∀ r x0 x1 x2 s a t, @drainRow x0 x1 x2 s = (a, t) → Keeps r s → Keeps r t := by
  intro r x0 x1 x2 s a t e k
  have := drainRow_keeps r x0 x1 x2 s k
  rw [e] at this
  exact this

theorem writeDrain_keeps : ∀ r x0 s, ∀ a b t, @writeDrain x0 s = some (a, b, t) → Keeps r s → Keeps r t := by
  intro r x0 s a b t ht k
  unfold writeDrain at ht
  try dsimp (zeta := false) only [mk_upd] at ht
  repeat' first
    | (cases ht)
    | split at ht
  repeat' first
    | with_reducible assumption
    | with_reducible apply onMxa_keeps
    | with_reducible apply drainRow_keeps
    | with_reducible apply onRun_keeps
    | (with_reducible apply Keeps.fold2; intro r p a k)
    | split

theorem setMover_keeps : ∀ r x0 x1 s, Keeps r s → Keeps r (@setMover x0 x1 s) := by
  intro r x0 x1 s k
  exact upd_keeps ⟨rfl, rfl, rfl, rfl, rfl, modifyAt_length _ _ _, rfl, rfl, rfl, rfl⟩ k

theorem takeRows_keeps : ∀ r x0 x1 x2 x3 s, Keeps r s → Keeps r (@takeRows x0 x1 x2 x3 s) := by
  intro r x0 x1 x2 x3 s k
  unfold takeRows
  repeat' first
    | with_reducible assumption
    | with_reducible apply onDie_keeps
    | with_reducible apply setMover_keeps

theorem noteSource_keeps : ∀ r x0 x1 s, Keeps r s → Keeps r (@noteSource x0 x1 s) := by
  intro r x0 x1 s k
  unfold noteSource
  split
  · exact cacheSource_keeps _ _ _ _ k
  · exact useCached_keeps _ _ _ _ k

theorem readSource_keeps : ∀ r x0 x1 x2 s, Keeps r s → Keeps r (@readSource x0 x1 x2 s) := by
  intro r x0 x1 x2 s k
  unfold readSource
  try dsimp (zeta := false) only [mk_upd]
  repeat' first
    | with_reducible assumption
    | with_reducible apply denyRun_keeps
    | with_reducible apply openJob_keeps
    | with_reducible apply setMover_keeps
    | with_reducible apply freeBytes_keeps
    | with_reducible apply takeRows_keeps
    | (with_reducible apply upd_keeps; constructor <;> first | rfl | (simp only [List.length_map, List.length_zipIdx, modifyAt_length]; done))
    | (with_reducible apply Keeps.fold2; intro r p a k)
    | extract_lets
    | split

theorem issueMove_keeps : ∀ r x0 x1 x2 s, Keeps r s → Keeps r (@issueMove x0 x1 x2 s) := by
  intro r x0 x1 x2 s k
  unfold issueMove
  repeat' first
    | with_reducible assumption
    | with_reducible apply denyRun_keeps
    | with_reducible apply readSource_keeps
    | with_reducible apply noteSource_keeps
    | extract_lets
    | split

theorem moveUnits_keeps : ∀ r x0 x1 s, Keeps r s → Keeps r (@moveUnits x0 x1 s) := by
  intro r x0 x1 s k
  unfold moveUnits
  repeat' first
    | with_reducible assumption
    | with_reducible apply closeJob_keeps
    | with_reducible apply endRun_keeps
    | (with_reducible apply onMem_keeps; exact rfl; exact rfl)
    | with_reducible apply countDelivered_keeps
    | with_reducible apply takeRows_keeps
    | extract_lets
    | split

theorem writeMove_keeps : ∀ r x0 s, Keeps r s → Keeps r (@writeMove x0 s) := by
  intro r x0 s k
  unfold writeMove
  try dsimp (zeta := false) only [mk_upd]
  repeat' first
    | with_reducible assumption
    | with_reducible apply onRun_keeps
    | with_reducible apply writeMarked_keeps
    | (with_reducible apply upd_keeps; constructor <;> first | rfl | (simp only [List.length_map, List.length_zipIdx, modifyAt_length]; done))
    | (with_reducible apply Keeps.fold; intro r s a k)
    | extract_lets
    | split

theorem onVu_keeps : ∀ r x0 x1 s, Keeps r s → Keeps r (@onVu x0 x1 s) := by
  intro r x0 x1 s k
  exact upd_keeps ⟨rfl, rfl, rfl, rfl, modifyAt_length _ _ _, rfl, rfl, rfl, rfl, rfl⟩ k

theorem vuOp_keeps : ∀ r x0 x1 k s, (∀ r s, Keeps r s → Keeps r (k s)) → Keeps r s → Keeps r (@vuOp x0 x1 k s) := by
  intro r x0 x1 k s hk k
  unfold vuOp
  repeat' first
    | with_reducible assumption
    | with_reducible apply hk
    | with_reducible apply opDone_keeps
    | with_reducible apply claim_keeps
    | split

theorem vuLanes_keeps : ∀ r x0 x1 x2 x3 s, Keeps r s → Keeps r (@vuLanes x0 x1 x2 x3 s) := by
  intro r x0 x1 x2 x3 s k
  unfold vuLanes
  repeat' first
    | with_reducible assumption
    | with_reducible apply onVu_keeps

theorem vuTransfer_keeps : ∀ r x0 x1 x2 x3 x4 x5 x6 x7 x8 s, Keeps r s → Keeps r (@vuTransfer x0 x1 x2 x3 x4 x5 x6 x7 x8 s) := by
  intro r x0 x1 x2 x3 x4 x5 x6 x7 x8 s k
  unfold vuTransfer
  repeat' first
    | with_reducible assumption
    | with_reducible apply denyRun_keeps
    | with_reducible apply onRun_keeps
    | with_reducible apply opDone_keeps
    | with_reducible apply useCached_keeps
    | with_reducible apply onDie_keeps
    | with_reducible apply writeMarked_keeps
    | with_reducible apply onVu_keeps
    | extract_lets
    | split
    | (dsimp +zetaDelta (zeta := false) only)

theorem scatterLanes_keeps : ∀ r x0 x1 x2 x3 x4 x5 s, Keeps r s → Keeps r (@scatterLanes x0 x1 x2 x3 x4 x5 s).2 := by
  intro r v ty val idx base l
  induction l with
  | nil => exact fun _ k => k
  | cons i l ih =>
    intro s k
    unfold scatterLanes
    split
    · exact ih _ k
    · extract_lets
      rename_i t
      exact ih t (writeMarked_keeps _ _ _ _ _ _ k)

theorem scatterLanes_keeps' : ∀ r x0 x1 x2 x3 x4 x5 s a t, @scatterLanes x0 x1 x2 x3 x4 x5 s = (a, t) → Keeps r s → Keeps r t := by
  intro r x0 x1 x2 x3 x4 x5 s a t e k
  have := scatterLanes_keeps r x0 x1 x2 x3 x4 x5 s k
  rw [e] at this
  exact this

theorem unloadLesson_keeps : ∀ r x0 s, Keeps r s → Keeps r (@unloadLesson x0 s) := by
  intro r x0 s k
  unfold unloadLesson
  repeat' first
    | with_reducible assumption
    | with_reducible apply freeSegs_keeps
    | with_reducible apply onSched_keeps

theorem declareSems_keeps : ∀ r x0 s, Keeps r s → Keeps r (@declareSems x0 s) := by
  intro r x0 s k
  unfold declareSems
  repeat' first
    | with_reducible assumption
    | with_reducible apply onSched_keeps

theorem loadSeg_keeps : ∀ r x0 x1 s, Keeps r s → Keeps r (@loadSeg x0 x1 s) := fun _ _ _ _ k => memWrite_keeps _ _ _ _ _ k

theorem fillPinned_keeps : ∀ r x0 x1 s, Keeps r s → Keeps r (@fillPinned x0 x1 s) :=
  fun _ _ _ _ k => Keeps.fold _ _ _ (fun _ _ _ h => loadSeg_keeps _ _ _ _ h) k

theorem placePinned_keeps : ∀ r x0 x1 s, ∀ t, @placePinned x0 x1 s = some t → Keeps r s → Keeps r t := by
  intro r x l s t ht k
  unfold placePinned at ht
  extract_lets p at ht
  split at ht
  · cases ht
  split at ht
  · cases ht
  split at ht
  · cases ht
  obtain ⟨y, hy, rfl⟩ := Option.map_eq_some_iff.mp ht
  exact fillPinned_keeps _ _ _ _ (placeAll_keeps _ _ _ _ _ _ _ hy k)

theorem loadLesson_keeps : ∀ r x0 x1 x2 x3 s, Keeps r s → Keeps r (@loadLesson x0 x1 x2 x3 s) := by
  intro r x0 x1 x2 x3 s k
  unfold loadLesson
  repeat' first
    | with_reducible assumption
    | with_reducible apply finish_keeps
    | with_reducible apply unloadLesson_keeps
    | (with_reducible apply placePinned_keeps; with_reducible assumption)
    | with_reducible apply declareSems_keeps
    | extract_lets
    | split
    | (dsimp +zetaDelta (zeta := false) only)

theorem loadProgramCore_keeps : ∀ r x0 x1 x2 x3 s, Keeps r s → Keeps r (@loadProgramCore x0 x1 x2 x3 s) := by
  intro r x0 x1 x2 x3 s k
  unfold loadProgramCore
  repeat' first
    | with_reducible assumption
    | with_reducible apply finish_keeps
    | with_reducible apply unloadLesson_keeps
    | with_reducible apply loadLesson_keeps
    | split

theorem activationCore_keeps : ∀ r x0 x1 x2 x3 s, Keeps r s → Keeps r (@activationCore x0 x1 x2 x3 s) := by
  intro r x0 x1 x2 x3 s k
  unfold activationCore
  repeat' first
    | with_reducible assumption
    | with_reducible apply finish_keeps
    | with_reducible apply onSched_keeps
    | split

theorem wakeDies_keeps : ∀ r x0 s, Keeps r s → Keeps r (@wakeDies x0 s) := by
  intro r x0 s k
  unfold wakeDies
  try dsimp (zeta := false) only [mk_upd]
  repeat' first
    | with_reducible assumption
    | (with_reducible apply upd_keeps; constructor <;> first | rfl | (simp only [List.length_map, List.length_zipIdx, modifyAt_length]; done))

theorem startRun_keeps : ∀ r x0 x1 x2 x3 x4 s, ∀ a t, @startRun x0 x1 x2 x3 x4 s = some (a, t) → Keeps r s → Keeps r t := by
  intro r h x l w b s a t ht k
  unfold startRun at ht
  split at ht
  · cases ht
  extract_lets at ht
  split at ht
  · cases ht
  rename_i hp
  extract_lets at ht
  have he := congrArg Prod.snd (Option.some.inj ht)
  subst he
  exact wakeDies_keeps _ _ _ (Keeps.fold _ _ _ (fun _ _ _ k => makeReady_keeps _ _ _ _ k)
    (onRoomStats_keeps _ _ _ _ (onSched_keeps _ _ _ (placeAll_keeps _ _ _ _ _ _ _ hp k))))

theorem countWindows_keeps : ∀ r x0 x1 s, Keeps r s → Keeps r (@countWindows x0 x1 s) := by
  intro r x0 x1 s k
  unfold countWindows
  repeat' first
    | with_reducible assumption
    | (with_reducible apply onMem_keeps; exact rfl; exact rfl)

theorem executeCore_keeps : ∀ r x0 x1 x2 x3 x4 s, Keeps r s → Keeps r (@executeCore x0 x1 x2 x3 x4 s) := by
  intro r x0 x1 x2 x3 x4 s k
  unfold executeCore
  repeat' first
    | with_reducible assumption
    | with_reducible apply finish_keeps
    | with_reducible apply failProgram_keeps
    | (with_reducible apply startRun_keeps; with_reducible assumption)
    | with_reducible apply hold_keeps
    | with_reducible apply settle_keeps
    | with_reducible apply begin'_keeps
    | with_reducible apply countWindows_keeps
    | split

theorem issueOp_keeps : ∀ r x0 s, Keeps r s → Keeps r (@issueOp x0 s) := by
  intro r x0 s k
  unfold issueOp
  repeat' first
    | with_reducible assumption
    | with_reducible apply issueFill_keeps
    | with_reducible apply issueMove_keeps
    | split

theorem takeAndResume_keeps : ∀ r x0 x1 s, Keeps r s → Keeps r (@takeAndResume x0 x1 s) := by
  intro r x0 x1 s k
  unfold takeAndResume
  repeat' first
    | with_reducible assumption
    | with_reducible apply issueOp_keeps
    | with_reducible apply onRun_keeps
    | with_reducible apply takeEngine_keeps
    | (with_reducible apply Keeps.fold; intro r s a k)

theorem grantWait_keeps : ∀ r x0 x1 s, Keeps r s → Keeps r (@grantWait x0 x1 s) := by
  intro r x0 x1 s k
  unfold grantWait
  repeat' first
    | with_reducible assumption
    | with_reducible apply takeSem_keeps
    | with_reducible apply onRun_keeps
    | with_reducible apply endHandBack_keeps
    | with_reducible apply makeReady_keeps
    | with_reducible apply issueOp_keeps
    | with_reducible apply takeEngine_keeps
    | extract_lets
    | split

theorem grantWaits_keeps : ∀ r x0 x1 x2 x3 s, Keeps r s → Keeps r (@grantWaits x0 x1 x2 x3 s) := by
  intro r room sem own f
  induction f with
  | zero => exact fun _ k => k
  | succ f ih =>
    intro s k
    unfold grantWaits
    extract_lets
    split
    · exact k
    split
    · exact k
    split
    · exact k
    · exact ih _ (grantWait_keeps _ _ _ _ k)

theorem postSem_keeps : ∀ r x0 x1 s, Keeps r s → Keeps r (@postSem x0 x1 s) := by
  intro r x0 x1 s k
  unfold postSem
  repeat' first
    | with_reducible assumption
    | with_reducible apply setSem_keeps
    | with_reducible apply onDie_keeps
    | with_reducible apply onRun_keeps
    | with_reducible apply grantWaits_keeps
    | split

theorem issueBehind_keeps : ∀ r x0 x1 x2 x3 s, Keeps r s → Keeps r (@issueBehind x0 x1 x2 x3 s) := by
  intro r x0 x1 x2 x3 s k
  unfold issueBehind
  repeat' first
    | with_reducible assumption
    | with_reducible apply issueOp_keeps
    | with_reducible apply wakeDies_keeps
    | with_reducible apply claim_keeps
    | with_reducible apply takeSem_keeps
    | with_reducible apply blockOn_keeps
    | split

theorem endOp_keeps : ∀ r x0 x1 s, Keeps r s → Keeps r (@endOp x0 x1 s) := by
  intro r x0 x1 s k
  unfold endOp
  repeat' first
    | with_reducible assumption
    | with_reducible apply opDone_keeps
    | with_reducible apply postSem_keeps
    | split

theorem yieldTo_keeps : ∀ r x0 x1 x2 s, Keeps r s → Keeps r (@yieldTo x0 x1 x2 s) := by
  intro r x0 x1 x2 s k
  unfold yieldTo
  repeat' first
    | with_reducible assumption
    | with_reducible apply takeAndResume_keeps
    | with_reducible apply makeReady_keeps

theorem chooseRun_keeps : ∀ r x0 s, Keeps r s → Keeps r (@chooseRun x0 s) := by
  intro r x0 s k
  unfold chooseRun
  repeat' first
    | with_reducible assumption
    | with_reducible apply setHolder_keeps
    | with_reducible apply yieldTo_keeps
    | with_reducible apply onRoomStats_keeps
    | with_reducible apply onSched_keeps
    | with_reducible apply takeAndResume_keeps
    | extract_lets
    | split

theorem sendMany_keeps : ∀ r x0 x1 x2 s, Keeps r s → Keeps r (@sendMany x0 x1 x2 s) := by
  intro r x0 x1 x2 s
  fun_induction sendMany x0 x1 x2 s
  all_goals intro k
  repeat' first
    | (with_reducible apply_assumption)
    | with_reducible apply sendPort_keeps

end Sys2Proof.Machine
end

