-- ==== Sys2Proof/Laws/KeepsData.lean ====
section
/-! SUPPORT. What the operations on data keep: reads and writes, indexes, scans, queries and media. -/

namespace Sys2Proof.Machine

theorem sendTable_keeps : ∀ r s, Keeps r s → Keeps r (@sendTable s) := by
  intro r s k
  unfold sendTable
  repeat' first
    | with_reducible assumption
    | with_reducible apply sendTo_keeps
    | (with_reducible apply Keeps.fold; intro r s a k)
    | split

theorem newKey_keeps : ∀ r x0 s, Keeps r s → Keeps r (@newKey x0 s) := by
  intro r x0 s k
  unfold newKey
  try dsimp (zeta := false) only [mk_upd]
  repeat' first
    | with_reducible assumption
    | with_reducible apply draw_keeps
    | (with_reducible apply upd_keeps; constructor <;> first | rfl | (simp only [List.length_map, List.length_zipIdx, modifyAt_length]; done))

theorem unmapSlot_keeps : ∀ r x0 s, Keeps r s → Keeps r (@unmapSlot x0 s) := by
  intro r x0 s k
  unfold unmapSlot
  repeat' first
    | with_reducible assumption
    | with_reducible apply bumpCount_keeps
    | with_reducible apply sendDeltas_keeps
    | with_reducible apply setMap_keeps
    | split

theorem unmapNs_keeps : ∀ r x0 s, Keeps r s → Keeps r (@unmapNs x0 s) := by
  intro r x0 s k
  unfold unmapNs
  repeat' first
    | with_reducible assumption
    | with_reducible apply unmapSlot_keeps
    | (with_reducible apply Keeps.fold; intro r s a k)

theorem dropDefers_keeps : ∀ r x0 s, Keeps r s → Keeps r (@dropDefers x0 s) := by
  intro r x0 s k
  unfold dropDefers
  repeat' first
    | with_reducible assumption
    | with_reducible apply norRecord_keeps
    | with_reducible apply onFtl_keeps
    | (with_reducible apply Keeps.fold; intro r s a k)

theorem createNs_keeps : ∀ r x0 x1 x2 x3 x4 s, Keeps r s → Keeps r (@createNs x0 x1 x2 x3 x4 s) := by
  intro r x0 x1 x2 x3 x4 s k
  unfold createNs
  repeat' first
    | with_reducible assumption
    | with_reducible apply finish_keeps
    | with_reducible apply finishDw_keeps
    | with_reducible apply sendTable_keeps
    | with_reducible apply newKey_keeps
    | with_reducible apply onNs_keeps
    | split

theorem dropNs_keeps : ∀ r x0 s, Keeps r s → Keeps r (@dropNs x0 s) := by
  intro r x0 s k
  unfold dropNs
  try dsimp (zeta := false) only [mk_upd]
  repeat' first
    | with_reducible assumption
    | with_reducible apply dropDefers_keeps
    | with_reducible apply unmapNs_keeps
    | with_reducible apply markStaleSegs_keeps
    | with_reducible apply onNs_keeps
    | (with_reducible apply upd_keeps; constructor <;> first | rfl | (simp only [List.length_map, List.length_zipIdx, modifyAt_length]; done))

theorem deleteNs_keeps : ∀ r x0 x1 s, Keeps r s → Keeps r (@deleteNs x0 x1 s) := by
  intro r x0 x1 s k
  unfold deleteNs
  repeat' first
    | with_reducible assumption
    | with_reducible apply finish_keeps
    | with_reducible apply sendTable_keeps
    | with_reducible apply dropNs_keeps
    | (with_reducible apply Keeps.fold; intro r s a k)
    | split

theorem attachNs_keeps : ∀ r x0 x1 x2 s, Keeps r s → Keeps r (@attachNs x0 x1 x2 s) := by
  intro r x0 x1 x2 s k
  unfold attachNs
  repeat' first
    | with_reducible assumption
    | with_reducible apply finish_keeps
    | with_reducible apply onNs_keeps
    | split

theorem gatherLbas_keeps : ∀ r x0 x1 x2 s, Keeps r s → Keeps r (@gatherLbas x0 x1 x2 s).2.2 := by
  intro r j n l
  induction l with
  | nil => exact fun _ k => k
  | cons a l ih =>
    intro s k
    have hs : Keeps r (if (lbaData j s n a).2 = true then ((lbaData j s n a).1, s) else freeBytes 4096 s).2 := by
      split
      · exact k
      · exact freeBytes_keeps _ _ _ k
    exact ih _ hs

theorem gatherLbas_keeps' : ∀ r x0 x1 x2 s a c t, @gatherLbas x0 x1 x2 s = (a, c, t) → Keeps r s → Keeps r t := by
  intro r x0 x1 x2 s a c t e k
  have := gatherLbas_keeps r x0 x1 x2 s k
  rw [e] at this
  exact this

theorem finishRead_keeps : ∀ r x0 x1 x2 x3 x4 s, Keeps r s → Keeps r (@finishRead x0 x1 x2 x3 x4 s) := by
  intro r x0 x1 x2 x3 x4 s k
  unfold finishRead
  try dsimp (zeta := false) only [mk_upd]
  repeat' first
    | with_reducible assumption
    | with_reducible apply closeJob_keeps
    | with_reducible apply finish_keeps
    | with_reducible apply gatherLbas_keeps
    | with_reducible apply countDelivered_keeps
    | with_reducible apply finishData_keeps
    | with_reducible apply finishUnrecovered_keeps
    | extract_lets
    | split

theorem readCore_keeps : ∀ r x0 x1 x2 x3 s, Keeps r s → Keeps r (@readCore x0 x1 x2 x3 s) := by
  intro r x0 x1 x2 x3 s k
  unfold readCore
  try dsimp (zeta := false) only [mk_upd]
  repeat' first
    | with_reducible assumption
    | with_reducible apply finish_keeps
    | with_reducible apply openJob_keeps
    | with_reducible apply begin'_keeps
    | with_reducible apply finishRead_keeps
    | split

theorem placeUnits_keeps : ∀ r x0 x1 x2 x3 x4 s, ∀ a t, @placeUnits x0 x1 x2 x3 x4 s = some (a, t) → Keeps r s → Keeps r t := by
  intro r x0 x1 x2 x3 x4 s
  fun_induction placeUnits x0 x1 x2 x3 x4 s
  all_goals intro a t ht k
  all_goals try cases ht
  repeat' first
    | with_reducible assumption
    | (with_reducible refine (by assumption : ∀ a t, _ → Keeps r _ → Keeps r t) _ _ (by assumption) ?_)
    | with_reducible apply onFtlStats_keeps
    | (with_reducible apply writeUnit_keeps; with_reducible assumption)

theorem programNow_keeps : ∀ r s, Keeps r s → Keeps r (@programNow s) := by
  intro r s k
  unfold programNow
  repeat' first
    | with_reducible assumption
    | with_reducible apply startAll_keeps
    | (with_reducible apply Keeps.fold; intro r s a k)
    | split

theorem noSlot_keeps : ∀ r x0 x1 s, Keeps r s → Keeps r (@noSlot x0 x1 s) := by
  intro r x0 x1 s k
  unfold noSlot
  repeat' first
    | with_reducible assumption
    | with_reducible apply finish_keeps
    | with_reducible apply exhaust_keeps
    | with_reducible apply hold_keeps
    | split

theorem placeWrite_keeps : ∀ r x0 x1 x2 x3 x4 x5 x6 s, Keeps r s → Keeps r (@placeWrite x0 x1 x2 x3 x4 x5 x6 s) := by
  intro r x0 x1 x2 x3 x4 x5 x6 s k
  unfold placeWrite
  repeat' first
    | with_reducible assumption
    | with_reducible apply closeJob_keeps
    | with_reducible apply finish_keeps
    | (with_reducible apply placeUnits_keeps; with_reducible assumption)
    | with_reducible apply noSlot_keeps
    | with_reducible apply markStaleSegs_keeps
    | with_reducible apply mend_keeps
    | with_reducible apply hold_keeps
    | with_reducible apply programNow_keeps
    | with_reducible apply onFtl_keeps
    | extract_lets
    | split

theorem writeData_keeps : ∀ r x0 x1 x2 x3 x4 x5 s, Keeps r s → Keeps r (@writeData x0 x1 x2 x3 x4 x5 s) := by
  intro r x0 x1 x2 x3 x4 x5 s k
  unfold writeData
  try dsimp (zeta := false) only [mk_upd]
  repeat' first
    | with_reducible assumption
    | with_reducible apply hold_keeps
    | with_reducible apply openJob_keeps
    | with_reducible apply begin'_keeps
    | with_reducible apply placeWrite_keeps
    | extract_lets
    | split

theorem writeCore_keeps : ∀ r x0 x1 x2 x3 x4 x5 s, Keeps r s → Keeps r (@writeCore x0 x1 x2 x3 x4 x5 s) := by
  intro r x0 x1 x2 x3 x4 x5 s k
  unfold writeCore
  repeat' first
    | with_reducible assumption
    | with_reducible apply finish_keeps
    | with_reducible apply reportLosses_keeps
    | with_reducible apply writeData_keeps
    | split

theorem writeZeroesCore_keeps : ∀ r x0 x1 x2 x3 s, Keeps r s → Keeps r (@writeZeroesCore x0 x1 x2 x3 s) := by
  intro r x0 x1 x2 x3 s k
  unfold writeZeroesCore
  repeat' first
    | with_reducible assumption
    | with_reducible apply finish_keeps
    | with_reducible apply hold_keeps
    | with_reducible apply writeData_keeps
    | extract_lets
    | split

theorem deallocateCore_keeps : ∀ r x0 x1 x2 x3 s, Keeps r s → Keeps r (@deallocateCore x0 x1 x2 x3 s) := by
  intro r x0 x1 x2 x3 s k
  unfold deallocateCore
  repeat' first
    | with_reducible assumption
    | with_reducible apply finish_keeps
    | with_reducible apply markStaleSegs_keeps
    | with_reducible apply mend_keeps
    | with_reducible apply unmapSlot_keeps
    | (with_reducible apply Keeps.fold; intro r s a k)
    | split

theorem flushCore_keeps : ∀ r x0 x1 s, Keeps r s → Keeps r (@flushCore x0 x1 s) := by
  intro r x0 x1 s k
  unfold flushCore
  repeat' first
    | with_reducible assumption
    | with_reducible apply finish_keeps
    | with_reducible apply reportLosses_keeps
    | split

theorem finishCopyNvm_keeps : ∀ r x0 x1 x2 x3 x4 x5 x6 s, Keeps r s → Keeps r (@finishCopyNvm x0 x1 x2 x3 x4 x5 x6 s) := by
  intro r x0 x1 x2 x3 x4 x5 x6 s k
  unfold finishCopyNvm
  repeat' first
    | with_reducible assumption
    | with_reducible apply closeJob_keeps
    | with_reducible apply finish_keeps
    | with_reducible apply countDelivered_keeps
    | with_reducible apply writeMarked_keeps
    | with_reducible apply finishUnrecovered_keeps
    | extract_lets
    | split

theorem memoryCopyCore_keeps : ∀ r x0 x1 x2 x3 x4 s, Keeps r s → Keeps r (@memoryCopyCore x0 x1 x2 x3 x4 s) := by
  intro r x0 x1 x2 x3 x4 s k
  unfold memoryCopyCore
  try dsimp (zeta := false) only [mk_upd]
  repeat' first
    | with_reducible assumption
    | with_reducible apply finish_keeps
    | with_reducible apply openJob_keeps
    | with_reducible apply begin'_keeps
    | with_reducible apply finishCopyNvm_keeps
    | with_reducible apply memWrite_keeps
    | with_reducible apply finishUnrecovered_keeps
    | with_reducible apply writeMarked_keeps
    | extract_lets
    | split
    | (dsimp +zetaDelta (zeta := false) only)

theorem writeIndexUnits_keeps : ∀ r x0 s, ∀ t, @writeIndexUnits x0 s = some t → Keeps r s → Keeps r t := by
  intro r x0 s
  fun_induction writeIndexUnits x0 s
  all_goals intro t ht k
  all_goals try cases ht
  repeat' first
    | with_reducible assumption
    | (with_reducible refine (by assumption : ∀ t, _ → Keeps r _ → Keeps r t) _ (by assumption) ?_)
    | (with_reducible apply writeUnit_keeps; with_reducible assumption)

theorem placeCents_keeps : ∀ r x0 x1 s, ∀ a t, @placeCents x0 x1 s = some (a, t) → Keeps r s → Keeps r t := by
  intro r ix c s a t ht k
  unfold placeCents at ht
  extract_lets at ht
  split at ht
  · cases ht
  obtain ⟨y, hy, he⟩ := Option.map_eq_some_iff.mp ht
  cases he
  exact writeIndexUnits_keeps _ _ _ _ hy k

theorem placeList_keeps : ∀ r x0 x1 x2 x3 x4 x5 x6 s, ∀ a t, @placeList x0 x1 x2 x3 x4 x5 x6 s = some (a, t) → Keeps r s → Keeps r t := by
  intro r ix l v es dd co hd s a t ht k
  unfold placeList at ht
  split at ht
  extract_lets at ht
  split at ht
  · cases ht
  split at ht
  · cases ht
  obtain ⟨y, hy, he⟩ := Option.map_eq_some_iff.mp ht
  cases he
  exact writeIndexUnits_keeps _ _ _ _ hy k

theorem releaseSlots_keeps : ∀ r x0 s, Keeps r s → Keeps r (@releaseSlots x0 s) := by
  intro r x0 s k
  unfold releaseSlots
  repeat' first
    | with_reducible assumption
    | with_reducible apply unmapSlot_keeps
    | (with_reducible apply Keeps.fold; intro r s a k)

theorem commitChange_keeps : ∀ r x0 s, Keeps r s → Keeps r (@commitChange x0 s) := by
  intro r x0 s k
  unfold commitChange
  repeat' first
    | with_reducible assumption
    | with_reducible apply onIdx_keeps

theorem staleCentroids_keeps : ∀ r x0 s, Keeps r s → Keeps r (@staleCentroids x0 s) := by
  intro r x0 s k
  unfold staleCentroids
  repeat' first
    | with_reducible assumption
    | with_reducible apply freeStale_keeps
    | (with_reducible apply onMem_keeps; exact rfl; exact rfl)

theorem publishOne_keeps : ∀ r x0 s, Keeps r s → Keeps r (@publishOne x0 s) := by
  intro r x0 s k
  unfold publishOne
  repeat' first
    | with_reducible assumption
    | with_reducible apply onIdx_keeps
    | with_reducible apply staleCentroids_keeps
    | with_reducible apply releaseSlots_keeps
    | extract_lets
    | split

theorem publishDue_keeps : ∀ r x0 s, Keeps r s → Keeps r (@publishDue x0 s) := by
  intro r x0 s
  fun_induction publishDue x0 s
  all_goals intro k
  repeat' first
    | (with_reducible apply_assumption)
    | with_reducible apply publishOne_keeps

theorem journalChange_keeps : ∀ r x0 x1 s, Keeps r s → Keeps r (@journalChange x0 x1 s) := by
  intro r x0 x1 s k
  unfold journalChange
  repeat' first
    | with_reducible assumption
    | with_reducible apply onFtl_keeps
    | with_reducible apply programJournal_keeps
    | extract_lets
    | split

theorem sendMirror_keeps : ∀ r x0 x1 s, Keeps r s → Keeps r (@sendMirror x0 x1 s) := by
  intro r x0 x1 s k
  unfold sendMirror
  repeat' first
    | with_reducible assumption
    | with_reducible apply sendTo_keeps
    | with_reducible apply onIdx_keeps
    | split

theorem createIndex_keeps : ∀ r x0 x1 s, Keeps r s → Keeps r (@createIndex x0 x1 s) := by
  intro r x0 x1 s k
  unfold createIndex
  try dsimp (zeta := false) only [mk_upd]
  repeat' first
    | with_reducible assumption
    | with_reducible apply finish_keeps
    | with_reducible apply draw_keeps
    | with_reducible apply sendMirror_keeps
    | with_reducible apply commitChange_keeps
    | with_reducible apply onIdx_keeps
    | (with_reducible apply upd_keeps; constructor <;> first | rfl | (simp only [List.length_map, List.length_zipIdx, modifyAt_length]; done))
    | extract_lets
    | split

theorem dropIndex_keeps : ∀ r x0 x1 s, Keeps r s → Keeps r (@dropIndex x0 x1 s) := by
  intro r x0 x1 s k
  unfold dropIndex
  repeat' first
    | with_reducible assumption
    | with_reducible apply finish_keeps
    | with_reducible apply sendMirror_keeps
    | with_reducible apply commitChange_keeps
    | split

theorem withBlock_keeps : ∀ r x0 x1 x2 k s, (∀ r a s, Keeps r s → Keeps r (k a s)) → Keeps r s → Keeps r (@withBlock x0 x1 x2 k s) := by
  intro r x0 x1 x2 k s hk k
  unfold withBlock
  repeat' first
    | with_reducible assumption
    | with_reducible apply hk
    | with_reducible apply failProgram_keeps
    | with_reducible apply finish_keeps
    | split

theorem indexProgram_keeps : ∀ r x0 x1 s, Keeps r s → Keeps r (@indexProgram x0 x1 s) := by
  intro r x0 x1 s k
  unfold indexProgram
  repeat' first
    | with_reducible assumption
    | with_reducible apply createIndex_keeps
    | with_reducible apply dropIndex_keeps
    | with_reducible apply finish_keeps
    | split

theorem withIndex_keeps : ∀ r x0 x1 x2 k s, (∀ r a s, Keeps r s → Keeps r (k a s)) → Keeps r s → Keeps r (@withIndex x0 x1 x2 k s) := by
  intro r x0 x1 x2 k s hk k
  unfold withIndex
  repeat' first
    | with_reducible assumption
    | with_reducible apply hk
    | with_reducible apply finish_keeps
    | split

theorem trainExamples_keeps : ∀ r x0 x1 x2 x3 x4 s, Keeps r s → Keeps r (@trainExamples x0 x1 x2 x3 x4 s) := by
  intro r x0 x1 x2 x3 x4 s k
  unfold trainExamples
  repeat' first
    | with_reducible assumption
    | with_reducible apply finishDw_keeps
    | (with_reducible apply placeCents_keeps; with_reducible assumption)
    | with_reducible apply finish_keeps
    | with_reducible apply sendMirror_keeps
    | with_reducible apply commitChange_keeps
    | split

theorem placeLists_keeps : ∀ r x0 x1 x2 x3 s, ∀ a t, @placeLists x0 x1 x2 x3 s = some (a, t) → Keeps r s → Keeps r t := by
  intro r x0 x1 x2 x3 s
  fun_induction placeLists x0 x1 x2 x3 s
  all_goals intro a t ht k
  all_goals try cases ht
  repeat' first
    | with_reducible assumption
    | (with_reducible refine (by assumption : ∀ a t, _ → Keeps r _ → Keeps r t) _ _ (by assumption) ?_)
    | (with_reducible apply placeList_keeps; with_reducible assumption)

theorem retrain_keeps : ∀ r x0 x1 x2 x3 x4 s, Keeps r s → Keeps r (@retrain x0 x1 x2 x3 x4 s) := by
  intro r x0 x1 x2 x3 x4 s k
  unfold retrain
  try dsimp (zeta := false) only [mk_upd]
  repeat' first
    | with_reducible assumption
    | with_reducible apply finish_keeps
    | (with_reducible apply placeCents_keeps; with_reducible assumption)
    | (with_reducible apply placeLists_keeps; with_reducible assumption)
    | with_reducible apply commitChange_keeps
    | with_reducible apply sendMirror_keeps
    | (with_reducible apply Keeps.fold; intro r s a k)
    | extract_lets
    | split

theorem recodeWaiting_keeps : ∀ r x0 x1 s, Keeps r s → Keeps r (@recodeWaiting x0 x1 s) := by
  intro r x0 x1 s k
  unfold recodeWaiting
  repeat' first
    | with_reducible assumption
    | with_reducible apply onIdx_keeps

theorem trainCore_keeps : ∀ r x0 x1 s, Keeps r s → Keeps r (@trainCore x0 x1 s) := by
  intro r x0 x1 s k
  unfold trainCore
  repeat' first
    | with_reducible assumption
    | with_reducible apply finish_keeps
    | (with_reducible apply withIndex_keeps; (intro r a s k))
    | with_reducible apply failProgram_keeps
    | with_reducible apply trainExamples_keeps
    | with_reducible apply retrain_keeps
    | extract_lets
    | split

theorem waitInsert_keeps : ∀ r x0 x1 x2 x3 x4 s, Keeps r s → Keeps r (@waitInsert x0 x1 x2 x3 x4 s) := by
  intro r x0 x1 x2 x3 x4 s k
  unfold waitInsert
  repeat' first
    | with_reducible assumption
    | with_reducible apply sendMirror_keeps
    | with_reducible apply onIdx_keeps

theorem insertCore_keeps : ∀ r x0 x1 x2 s, Keeps r s → Keeps r (@insertCore x0 x1 x2 s) := by
  intro r x0 x1 x2 s k
  unfold insertCore
  repeat' first
    | with_reducible assumption
    | with_reducible apply finish_keeps
    | (with_reducible apply withIndex_keeps; (intro r a s k))
    | with_reducible apply failProgram_keeps
    | with_reducible apply finishDw_keeps
    | with_reducible apply waitInsert_keeps
    | with_reducible apply begin'_keeps
    | with_reducible apply onIdx_keeps
    | extract_lets
    | split

theorem writeEmbed_keeps : ∀ r x0 x1 s, Keeps r s → Keeps r (@writeEmbed x0 x1 s) := by
  intro r x0 x1 s k
  unfold writeEmbed
  repeat' first
    | with_reducible assumption
    | with_reducible apply memWrite_keeps

theorem endWaiting_keeps : ∀ r x0 x1 s, Keeps r s → Keeps r (@endWaiting x0 x1 s) := by
  intro r x0 x1 s k
  unfold endWaiting
  repeat' first
    | with_reducible assumption
    | with_reducible apply onIdx_keeps
    | with_reducible apply finish_keeps

theorem commitGroup_keeps : ∀ r x0 x1 s, Keeps r s → Keeps r (@commitGroup x0 x1 s) := by
  intro r x0 x1 s k
  unfold commitGroup
  repeat' first
    | with_reducible assumption
    | with_reducible apply journalChange_keeps
    | with_reducible apply commitChange_keeps
    | with_reducible apply writeEmbed_keeps
    | with_reducible apply endWaiting_keeps
    | with_reducible apply sendMirror_keeps
    | with_reducible apply onIdx_keeps
    | split
    | (dsimp +zetaDelta (zeta := false) only)

theorem deleteCore_keeps : ∀ r x0 x1 x2 s, Keeps r s → Keeps r (@deleteCore x0 x1 x2 s) := by
  intro r x0 x1 x2 s k
  unfold deleteCore
  try dsimp (zeta := false) only [mk_upd]
  repeat' first
    | with_reducible assumption
    | with_reducible apply finish_keeps
    | (with_reducible apply withIndex_keeps; (intro r a s k))
    | with_reducible apply failProgram_keeps
    | with_reducible apply finishDw_keeps
    | with_reducible apply hold_keeps
    | with_reducible apply journalChange_keeps
    | with_reducible apply commitChange_keeps
    | with_reducible apply sendMirror_keeps
    | (with_reducible apply upd_keeps; constructor <;> first | rfl | (simp only [List.length_map, List.length_zipIdx, modifyAt_length]; done))
    | (with_reducible apply Keeps.fold; intro r s a k)
    | (with_reducible apply Keeps.fold2; intro r p a k)
    | extract_lets
    | (split; rename_i h; split at h; all_goals first | cases h | skip)
    | split
    | (dsimp +zetaDelta (zeta := false) only)
    | (with_reducible apply_assumption)

theorem commitFold_keeps : ∀ r x0 x1 x2 x3 s, Keeps r s → Keeps r (@commitFold x0 x1 x2 x3 s) := by
  intro r ix l v mv s k
  unfold commitFold
  extract_lets c tell
  have ht : ∀ s, Keeps r s → Keeps r (tell s) := by
    intro s k
    dsimp only [tell]
    split
    · exact sendMirror_keeps _ _ _ _ k
    · exact sendMirror_keeps _ _ _ _ (sendMirror_keeps _ _ _ _ k)
  split
  · exact ht _ (onIdx_keeps _ _ _ k)
  · exact journalChange_keeps _ _ _ _ (ht _ (commitChange_keeps _ _ _ k))

theorem rebuildList_keeps : ∀ r x0 x1 x2 x3 x4 s, Keeps r s → Keeps r (@rebuildList x0 x1 x2 x3 x4 s) := by
  intro r x0 x1 x2 x3 x4 s k
  unfold rebuildList
  repeat' first
    | with_reducible assumption
    | (with_reducible apply placeList_keeps; with_reducible assumption)
    | with_reducible apply commitFold_keeps
    | extract_lets
    | split

theorem foldList_keeps : ∀ r x0 x1 s, Keeps r s → Keeps r (@foldList x0 x1 s) := by
  intro r x0 x1 s k
  unfold foldList
  repeat' first
    | with_reducible assumption
    | with_reducible apply rebuildList_keeps
    | extract_lets
    | split

theorem compactIndex_keeps : ∀ r x0 s, Keeps r s → Keeps r (@compactIndex x0 s) := by
  intro r x0 s k
  unfold compactIndex
  repeat' first
    | with_reducible assumption
    | with_reducible apply rebuildList_keeps
    | (with_reducible apply Keeps.fold2; intro r p a k)
    | extract_lets
    | split

theorem indexRecess_keeps : ∀ r s, Keeps r s → Keeps r (@indexRecess s) := by
  intro r s k
  unfold indexRecess
  repeat' first
    | with_reducible assumption
    | with_reducible apply compactIndex_keeps
    | (with_reducible apply Keeps.fold; intro r s a k)
    | split

theorem onScan_keeps : ∀ r x0 x1 s, Keeps r s → Keeps r (@onScan x0 x1 s) := by
  intro r x0 x1 s k
  unfold onScan
  repeat' first
    | with_reducible assumption
    | (with_reducible apply onQuery_keeps; first | exact rfl | (simp only [List.length_map, List.length_zipIdx, modifyAt_length]; done))

theorem settleScan_keeps : ∀ r x0 s, Keeps r s → Keeps r (@settleScan x0 s) := by
  intro r x0 s k
  unfold settleScan
  repeat' first
    | with_reducible assumption
    | with_reducible apply finish_keeps
    | with_reducible apply memWrite_keeps
    | (with_reducible apply onQuery_keeps; first | exact rfl | (simp only [List.length_map, List.length_zipIdx, modifyAt_length]; done))
    | split

theorem onQRun_keeps : ∀ r x0 x1 s, Keeps r s → Keeps r (@onQRun x0 x1 s) := by
  intro r x0 x1 s k
  unfold onQRun
  repeat' first
    | with_reducible assumption
    | (with_reducible apply onQuery_keeps; first | exact rfl | (simp only [List.length_map, List.length_zipIdx, modifyAt_length]; done))

theorem countResult_keeps : ∀ r x0 x1 x2 x3 x4 s, Keeps r s → Keeps r (@countResult x0 x1 x2 x3 x4 s) := by
  intro r x0 x1 x2 x3 x4 s k
  unfold countResult
  repeat' first
    | with_reducible assumption
    | with_reducible apply onQStats_keeps

theorem dropQRun_keeps : ∀ r x0 s, Keeps r s → Keeps r (@dropQRun x0 s) := by
  intro r x0 s k
  unfold dropQRun
  repeat' first
    | with_reducible assumption
    | (with_reducible apply onQuery_keeps; first | exact rfl | (simp only [List.length_map, List.length_zipIdx, modifyAt_length]; done))
    | with_reducible apply releaseSlots_keeps
    | extract_lets
    | split

theorem writeResult_keeps : ∀ r x0 x1 x2 x3 x4 x5 x6 x7 x8 x9 x10 s, Keeps r s → Keeps r (@writeResult x0 x1 x2 x3 x4 x5 x6 x7 x8 x9 x10 s) := by
  intro r x0 x1 x2 x3 x4 x5 x6 x7 x8 x9 x10 s k
  unfold writeResult
  repeat' first
    | with_reducible assumption
    | with_reducible apply memWrite_keeps
    | with_reducible apply countResult_keeps

theorem finishQuery_keeps : ∀ r x0 s, Keeps r s → Keeps r (@finishQuery x0 s) := by
  intro r x0 s k
  unfold finishQuery
  repeat' first
    | with_reducible assumption
    | with_reducible apply writeResult_keeps
    | with_reducible apply dropQRun_keeps
    | with_reducible apply finish_keeps
    | with_reducible apply sendTo_keeps
    | (with_reducible apply Keeps.fold; intro r s a k)
    | split

theorem settleQuery_keeps : ∀ r x0 s, Keeps r s → Keeps r (@settleQuery x0 s) := by
  intro r x0 s k
  unfold settleQuery
  repeat' first
    | with_reducible assumption
    | with_reducible apply finishQuery_keeps
    | split

theorem endShard_keeps : ∀ r x0 s, Keeps r s → Keeps r (@endShard x0 s) := by
  intro r x0 s k
  unfold endShard
  repeat' first
    | with_reducible assumption
    | with_reducible apply onQStats_keeps
    | with_reducible apply settleQuery_keeps
    | with_reducible apply onQRun_keeps
    | split

theorem finishEmbed_keeps : ∀ r x0 x1 x2 x3 x4 s, Keeps r s → Keeps r (@finishEmbed x0 x1 x2 x3 x4 s) := by
  intro r x0 x1 x2 x3 x4 s k
  unfold finishEmbed
  repeat' first
    | with_reducible assumption
    | with_reducible apply closeJob_keeps
    | with_reducible apply finish_keeps
    | with_reducible apply countDelivered_keeps
    | with_reducible apply writeEmbed_keeps
    | with_reducible apply waitInsert_keeps
    | with_reducible apply onIdx_keeps
    | extract_lets
    | split

theorem embedCore_keeps : ∀ r x0 x1 x2 s, Keeps r s → Keeps r (@embedCore x0 x1 x2 s) := by
  intro r x0 x1 x2 s k
  unfold embedCore
  try dsimp (zeta := false) only [mk_upd]
  repeat' first
    | with_reducible assumption
    | with_reducible apply finish_keeps
    | (with_reducible apply withIndex_keeps; (intro r a s k))
    | with_reducible apply failProgram_keeps
    | with_reducible apply finishDw_keeps
    | with_reducible apply openJob_keeps
    | with_reducible apply begin'_keeps
    | with_reducible apply finishEmbed_keeps
    | extract_lets
    | split

end Sys2Proof.Machine
end

