-- ==== Sys2Proof/Laws/KeepsPlain.lean ====
section
/-! SUPPORT. What the operations of the plain keep: streams, ports, members, training and the structure image. -/

namespace Sys2Proof.Machine

theorem absorbScan_keeps : ∀ r x0 x1 x2 s, Keeps r s → Keeps r (@absorbScan x0 x1 x2 s) := by
  intro r x0 x1 x2 s k
  unfold absorbScan
  repeat' first
    | with_reducible assumption
    | with_reducible apply closeJob_keeps
    | with_reducible apply countDelivered_keeps
    | with_reducible apply onScan_keeps
    | split

theorem issueScan_keeps : ∀ r x0 x1 x2 s, Keeps r s → Keeps r (@issueScan x0 x1 x2 s) := by
  intro r id v f
  induction f with
  | zero => exact fun _ k => k
  | succ f ih =>
    intro s k
    unfold issueScan
    split
    · exact k
    extract_lets past
    split
    · exact k
    split
    · exact onScan_keeps _ _ _ _ k
    split
    · exact k
    extract_lets lsn t
    have kt : Keeps r t := onScan_keeps _ _ _ _ k
    split
    · exact ih _ (onScan_keeps _ _ _ _ kt)
    · split
      rename_i hw
      have kw := openJob_keeps' _ _ _ _ _ _ hw (onScan_keeps _ _ _ _ kt)
      extract_lets y
      have ky : Keeps r y := by
        dsimp only [y]
        split
        · split
          · exact absorbScan_keeps _ _ _ _ _ kw
          · exact kw
        · exact kw
      split
      · exact ih _ ky
      · exact ky

theorem onPieces_keeps : ∀ r x0 x1 x2 s, Keeps r s → Keeps r (@onPieces x0 x1 x2 s) := by
  intro r x0 x1 x2 s k
  unfold onPieces
  repeat' first
    | with_reducible assumption
    | with_reducible apply onQRun_keeps

theorem absorbPiece_keeps : ∀ r x0 x1 x2 x3 x4 s, Keeps r s → Keeps r (@absorbPiece x0 x1 x2 x3 x4 s) := by
  intro r x0 x1 x2 x3 x4 s k
  unfold absorbPiece
  repeat' first
    | with_reducible assumption
    | with_reducible apply closeJob_keeps
    | with_reducible apply countDelivered_keeps
    | with_reducible apply onPieces_keeps
    | split

theorem issuePieces_keeps : ∀ r x0 x1 x2 s, Keeps r s → Keeps r (@issuePieces x0 x1 x2 s) := by
  intro r id v f
  induction f with
  | zero => exact fun _ k => k
  | succ f ih =>
    intro s k
    unfold issuePieces
    split
    · exact k
    split
    · exact k
    extract_lets t
    split
    rename_i hw
    have kw := openJob_keeps' _ _ _ _ _ _ hw (onPieces_keeps _ _ _ _ _ k)
    extract_lets y
    have ky : Keeps r y := by
      dsimp only [y]
      split
      · split
        · exact absorbPiece_keeps _ _ _ _ _ _ _ kw
        · exact kw
      · exact kw
    split
    · exact ih _ ky
    · exact ky

theorem takeStream_keeps : ∀ r x0 x1 s, Keeps r s → Keeps r (@takeStream x0 x1 s) := by
  intro r x0 x1 s k
  unfold takeStream
  repeat' first
    | with_reducible assumption
    | with_reducible apply onScan_keeps
    | with_reducible apply onQRun_keeps
    | split

theorem pumpValley_keeps : ∀ r s x1, Keeps r s → Keeps r (@pumpValley s x1) := by
  intro r s x1 k
  unfold pumpValley
  repeat' first
    | with_reducible assumption
    | with_reducible apply takeStream_keeps
    | with_reducible apply issueScan_keeps
    | with_reducible apply issuePieces_keeps
    | (with_reducible apply Keeps.fold2; intro r p a k)
    | extract_lets
    | split

theorem endStreams_keeps : ∀ r s, Keeps r s → Keeps r (@endStreams s) := by
  intro r s k
  unfold endStreams
  repeat' first
    | with_reducible assumption
    | (with_reducible apply onQuery_keeps; first | exact rfl | (simp only [List.length_map, List.length_zipIdx, modifyAt_length]; done))

theorem settleHeads_keeps : ∀ r s, Keeps r s → Keeps r (@settleHeads s) := by
  intro r s k
  unfold settleHeads
  repeat' first
    | with_reducible assumption
    | with_reducible apply settleQuery_keeps
    | (with_reducible apply Keeps.fold; intro r s a k)

theorem pump_keeps : ∀ r s, Keeps r s → Keeps r (@pump s) := by
  intro r s k
  unfold pump
  repeat' first
    | with_reducible assumption
    | with_reducible apply endStreams_keeps
    | with_reducible apply pumpValley_keeps
    | with_reducible apply settleHeads_keeps
    | with_reducible apply settleScan_keeps
    | (with_reducible apply Keeps.fold; intro r s a k)
    | split

theorem scanCore_keeps : ∀ r x0 x1 x2 s, Keeps r s → Keeps r (@scanCore x0 x1 x2 s) := by
  intro r x0 x1 x2 s k
  unfold scanCore
  repeat' first
    | with_reducible assumption
    | with_reducible apply finish_keeps
    | with_reducible apply pump_keeps
    | (with_reducible apply onQuery_keeps; first | exact rfl | (simp only [List.length_map, List.length_zipIdx, modifyAt_length]; done))
    | with_reducible apply begin'_keeps
    | split

theorem launch_keeps : ∀ r x0 s, Keeps r s → Keeps r (@launch x0 s) := by
  intro r x0 s k
  unfold launch
  repeat' first
    | with_reducible assumption
    | with_reducible apply pump_keeps
    | with_reducible apply settleHeads_keeps
    | with_reducible apply endShard_keeps
    | with_reducible apply onQRun_keeps
    | split

theorem serveShard_keeps : ∀ r x0 x1 x2 s, Keeps r s → Keeps r (@serveShard x0 x1 x2 s) := by
  intro r x0 x1 x2 s k
  unfold serveShard
  repeat' first
    | with_reducible assumption
    | with_reducible apply onQRun_keeps
    | with_reducible apply sendTo_keeps
    | with_reducible apply launch_keeps
    | with_reducible apply onQStats_keeps
    | (with_reducible apply onQuery_keeps; first | exact rfl | (simp only [List.length_map, List.length_zipIdx, modifyAt_length]; done))
    | extract_lets
    | split
    | (dsimp +zetaDelta (zeta := false) only)

theorem askShard_keeps : ∀ r x0 x1 s, Keeps r s → Keeps r (@askShard x0 x1 s) := by
  intro r x0 x1 s k
  unfold askShard
  repeat' first
    | with_reducible assumption
    | with_reducible apply sendTo_keeps
    | with_reducible apply onQRun_keeps
    | with_reducible apply serveShard_keeps
    | extract_lets
    | split

theorem startRunQ_keeps : ∀ r x0 s, Keeps r s → Keeps r (@startRunQ x0 s) := by
  intro r x0 s k
  unfold startRunQ
  repeat' first
    | with_reducible assumption
    | with_reducible apply launch_keeps
    | with_reducible apply askShard_keeps
    | (with_reducible apply Keeps.fold; intro r s a k)
    | split

theorem cacheCentroids_keeps : ∀ r x0 x1 x2 s, Keeps r s → Keeps r (@cacheCentroids x0 x1 x2 s) := by
  intro r x0 x1 x2 s k
  unfold cacheCentroids
  repeat' first
    | with_reducible assumption
    | (with_reducible apply onMem_keeps; exact rfl; exact rfl)
    | (with_reducible apply placeSeg_keeps; with_reducible assumption)
    | (with_reducible apply Keeps.fold; intro r s a k)
    | extract_lets
    | split

theorem admitQuery_keeps : ∀ r x0 x1 x2 x3 x4 x5 x6 s, Keeps r s → Keeps r (@admitQuery x0 x1 x2 x3 x4 x5 x6 s).2 := by
  intro r x0 x1 x2 x3 x4 x5 x6 s k
  unfold admitQuery
  repeat' first
    | with_reducible assumption
    | with_reducible apply onQStats_keeps
    | (with_reducible apply onQuery_keeps; first | exact rfl | (simp only [List.length_map, List.length_zipIdx, modifyAt_length]; done))
    | with_reducible apply begin'_keeps
    | with_reducible apply cacheCentroids_keeps
    | split

theorem admitQuery_keeps' : ∀ r x0 x1 x2 x3 x4 x5 x6 s a t, @admitQuery x0 x1 x2 x3 x4 x5 x6 s = (a, t) → Keeps r s → Keeps r t := by
  intro r x0 x1 x2 x3 x4 x5 x6 s a t e k
  have := admitQuery_keeps r x0 x1 x2 x3 x4 x5 x6 s k
  rw [e] at this
  exact this

theorem finishExamples_keeps : ∀ r x0 x1 x2 x3 s, Keeps r s → Keeps r (@finishExamples x0 x1 x2 x3 s) := by
  intro r x0 x1 x2 x3 s k
  unfold finishExamples
  repeat' first
    | with_reducible assumption
    | with_reducible apply countDelivered_keeps
    | with_reducible apply closeJob_keeps
    | with_reducible apply startRunQ_keeps
    | with_reducible apply onQRun_keeps
    | with_reducible apply dropQRun_keeps
    | with_reducible apply finishDw_keeps
    | with_reducible apply finish_keeps
    | extract_lets
    | split

theorem exampleQuery_keeps : ∀ r x0 x1 x2 x3 x4 x5 x6 s, Keeps r s → Keeps r (@exampleQuery x0 x1 x2 x3 x4 x5 x6 s) := by
  intro r x0 x1 x2 x3 x4 x5 x6 s k
  unfold exampleQuery
  try dsimp (zeta := false) only [mk_upd]
  repeat' first
    | with_reducible assumption
    | with_reducible apply finish_keeps
    | with_reducible apply finishDw_keeps
    | with_reducible apply admitQuery_keeps
    | with_reducible apply openJob_keeps
    | with_reducible apply finishExamples_keeps
    | extract_lets
    | split

theorem queryCore_keeps : ∀ r x0 x1 x2 s, Keeps r s → Keeps r (@queryCore x0 x1 x2 s) := by
  intro r h x b s k
  unfold queryCore
  have kf : ∀ st, Keeps r (finish h st s) := fun st => finish_keeps _ _ _ _ k
  extract_lets fmt n
  split
  split
  · exact kf _
  split
  · exact kf _
  split
  · exact kf _
  split
  · exact kf _
  extract_lets d shards
  split
  · exact kf _
  split
  · exact kf _
  split
  · exact kf _
  split
  · exact finish_keeps _ _ _ _ (onQStats_keeps _ _ _ k)
  split
  · exact kf _
  split
  · exact failProgram_keeps _ _ _ _ _ k
  split
  · exact exampleQuery_keeps _ _ _ _ _ _ _ _ _ k
  split
  · exact kf _
  split
  rename_i ha
  exact startRunQ_keeps _ _ _ (admitQuery_keeps' _ _ _ _ _ _ _ _ _ _ _ ha k)

theorem closePieces_keeps : ∀ r x0 s, Keeps r s → Keeps r (@closePieces x0 s) := by
  intro r x0 s k
  unfold closePieces
  repeat' first
    | with_reducible assumption
    | with_reducible apply closeJob_keeps
    | (with_reducible apply Keeps.fold; intro r s a k)

theorem cutCoarse_keeps : ∀ r x0 x1 s, Keeps r s → Keeps r (@cutCoarse x0 x1 s) := by
  intro r x0 x1 s k
  unfold cutCoarse
  repeat' first
    | with_reducible assumption
    | with_reducible apply pump_keeps
    | with_reducible apply closePieces_keeps
    | with_reducible apply onQRun_keeps

theorem endShare_keeps : ∀ r x0 x1 s, Keeps r s → Keeps r (@endShare x0 x1 s) := by
  intro r x0 x1 s k
  unfold endShare
  repeat' first
    | with_reducible assumption
    | with_reducible apply pump_keeps
    | with_reducible apply endShard_keeps
    | (with_reducible apply onQuery_keeps; first | exact rfl | (simp only [List.length_map, List.length_zipIdx, modifyAt_length]; done))
    | with_reducible apply onQRun_keeps
    | split

theorem takeAnswer_keeps : ∀ r x0 s, Keeps r s → Keeps r (@takeAnswer x0 s) := by
  intro r x0 s k
  unfold takeAnswer
  repeat' first
    | with_reducible assumption
    | with_reducible apply settleHeads_keeps
    | with_reducible apply onQRun_keeps

theorem queryLost_keeps : ∀ r x0 s, Keeps r s → Keeps r (@queryLost x0 s) := by
  intro r x0 s k
  unfold queryLost
  repeat' first
    | with_reducible assumption
    | with_reducible apply settleHeads_keeps
    | with_reducible apply onQRun_keeps
    | with_reducible apply askShard_keeps
    | (with_reducible apply Keeps.fold; intro r s a k)
    | extract_lets
    | split

theorem sendJoin_keeps : ∀ r s, Keeps r s → Keeps r (@sendJoin s) := by
  intro r s k
  unfold sendJoin
  try dsimp (zeta := false) only [mk_upd]
  repeat' first
    | with_reducible assumption
    | with_reducible apply flood_keeps
    | (with_reducible apply upd_keeps; constructor <;> first | rfl | (simp only [List.length_map, List.length_zipIdx, modifyAt_length]; done))
    | split

theorem resend_keeps : ∀ r x0 s, Keeps r s → Keeps r (@resend x0 s) := by
  intro r x0 s k
  unfold resend
  try dsimp (zeta := false) only [mk_upd]
  repeat' first
    | with_reducible assumption
    | with_reducible apply sendFlit_keeps
    | (with_reducible apply upd_keeps; constructor <;> first | rfl | (simp only [List.length_map, List.length_zipIdx, modifyAt_length]; done))
    | split

theorem dropLink_keeps : ∀ r x0 s, Keeps r s → Keeps r (@dropLink x0 s) := by
  intro r x0 s k
  unfold dropLink
  repeat' first
    | with_reducible assumption
    | with_reducible apply onPort_keeps
    | with_reducible apply resend_keeps
    | with_reducible apply queryLost_keeps
    | (with_reducible apply Keeps.fold; intro r s a k)
    | extract_lets
    | split

theorem renewReference_keeps : ∀ r s, Keeps r s → Keeps r (@renewReference s) := by
  intro r s k
  unfold renewReference
  repeat' first
    | with_reducible assumption
    | (with_reducible apply onPlain_keeps; exact rfl; exact rfl)

theorem setPeer_keeps : ∀ r x0 x1 s, Keeps r s → Keeps r (@setPeer x0 x1 s) := by
  intro r x0 x1 s k
  unfold setPeer
  repeat' first
    | with_reducible assumption
    | with_reducible apply plainEvent_keeps
    | with_reducible apply onPeer_keeps
    | split

theorem renewPresent_keeps : ∀ r s, Keeps r s → Keeps r (@renewPresent s) := by
  intro r s k
  unfold renewPresent
  repeat' first
    | with_reducible assumption
    | (with_reducible apply onPlain_keeps; exact rfl; exact rfl)

theorem settleIsolation_keeps : ∀ r s, Keeps r s → Keeps r (@settleIsolation s) := by
  intro r s k
  unfold settleIsolation
  repeat' first
    | with_reducible assumption
    | with_reducible apply plainEvent_keeps
    | (with_reducible apply onPlain_keeps; exact rfl; exact rfl)
    | extract_lets
    | split

theorem sendNext_keeps : ∀ r x0 x1 s, Keeps r s → Keeps r (@sendNext x0 x1 s).2 := by
  intro r x0 x1 s k
  unfold sendNext
  repeat' first
    | with_reducible assumption
    | with_reducible apply sendTo_keeps
    | extract_lets
    | split

theorem sendNext_keeps' : ∀ r x0 x1 s a t, @sendNext x0 x1 s = (a, t) → Keeps r s → Keeps r t := by
  intro r x0 x1 s a t e k
  have := sendNext_keeps r x0 x1 s k
  rw [e] at this
  exact this

theorem gatherProxy_keeps : ∀ r x0 x1 x2 s, Keeps r s → Keeps r (@gatherProxy x0 x1 x2 s).2.2 := by
  intro r us f l
  induction l with
  | nil => exact fun _ k => k
  | cons a l ih =>
    intro s k
    unfold gatherProxy
    extract_lets u o ok
    split
    rename_i hs
    have hk : Keeps r (if ok = true then (u.data.slice o 4096, s) else freeBytes 4096 s).2 := by
      split
      · exact k
      · exact freeBytes_keeps _ _ _ k
    rw [hs] at hk
    exact ih _ hk

theorem gatherProxy_keeps' : ∀ r x0 x1 x2 s a c t, @gatherProxy x0 x1 x2 s = (a, c, t) → Keeps r s → Keeps r t := by
  intro r x0 x1 x2 s a c t e k
  have := gatherProxy_keeps r x0 x1 x2 s k
  rw [e] at this
  exact this

theorem finishProxy_keeps : ∀ r x0 s, Keeps r s → Keeps r (@finishProxy x0 s) := by
  intro r x0 s k
  unfold finishProxy
  try dsimp (zeta := false) only [mk_upd]
  repeat' first
    | with_reducible assumption
    | (with_reducible apply onPlain_keeps; exact rfl; exact rfl)
    | with_reducible apply finish_keeps
    | with_reducible apply gatherProxy_keeps
    | with_reducible apply freeBytes_keeps
    | with_reducible apply countDelivered_keeps
    | with_reducible apply finishData_keeps
    | with_reducible apply finishUnrecovered_keeps
    | extract_lets
    | split

theorem settleProxies_keeps : ∀ r s, Keeps r s → Keeps r (@settleProxies s) := by
  intro r s k
  unfold settleProxies
  repeat' first
    | with_reducible assumption
    | with_reducible apply finishProxy_keeps
    | (with_reducible apply Keeps.fold; intro r s a k)

theorem giveProxies_keeps : ∀ r x0 s, Keeps r s → Keeps r (@giveProxies x0 s) := by
  intro r x0 s k
  unfold giveProxies
  repeat' first
    | with_reducible assumption
    | with_reducible apply settleProxies_keeps
    | (with_reducible apply onPlain_keeps; exact rfl; exact rfl)

theorem storeRebuilt_keeps : ∀ r x0 x1 s, Keeps r s → Keeps r (@storeRebuilt x0 x1 s) := by
  intro r x0 x1 s k
  unfold storeRebuilt
  repeat' first
    | with_reducible assumption
    | (with_reducible apply onPlain_keeps; exact rfl; exact rfl)
    | (with_reducible apply writeUnit_keeps; with_reducible assumption)
    | extract_lets
    | split

theorem deliverRebuilt_keeps : ∀ r x0 s, Keeps r s → Keeps r (@deliverRebuilt x0 s).2 := by
  intro r x0 s k
  unfold deliverRebuilt
  repeat' first
    | with_reducible assumption
    | (with_reducible apply onPlain_keeps; exact rfl; exact rfl)
    | with_reducible apply giveProxies_keeps
    | with_reducible apply storeRebuilt_keeps
    | extract_lets
    | split

theorem deliverRebuilt_keeps' : ∀ r x0 s a t, @deliverRebuilt x0 s = (a, t) → Keeps r s → Keeps r t := by
  intro r x0 s a t e k
  have := deliverRebuilt_keeps r x0 s k
  rw [e] at this
  exact this

theorem startStream_keeps : ∀ r x0 s, Keeps r s → Keeps r (@startStream x0 s).2 := by
  intro r x0 s k
  unfold startStream
  try dsimp (zeta := false) only [mk_upd]
  repeat' first
    | with_reducible assumption
    | with_reducible apply sendNext_keeps
    | with_reducible apply deliverRebuilt_keeps
    | with_reducible apply giveProxies_keeps
    | (with_reducible apply onPlain_keeps; exact rfl; exact rfl)
    | extract_lets
    | split

theorem startStream_keeps' : ∀ r x0 s a t, @startStream x0 s = (a, t) → Keeps r s → Keeps r t := by
  intro r x0 s a t e k
  have := startStream_keeps r x0 s k
  rw [e] at this
  exact this

theorem rebuildFor_keeps : ∀ r x0 x1 s, Keeps r s → Keeps r (@rebuildFor x0 x1 s) := by
  intro r x0 x1 s k
  unfold rebuildFor
  repeat' first
    | with_reducible assumption
    | (with_reducible apply onPlain_keeps; exact rfl; exact rfl)
    | with_reducible apply startStream_keeps
    | (with_reducible apply Keeps.fold; intro r s a k)

theorem proxyCore_keeps : ∀ r x0 x1 x2 x3 x4 s, Keeps r s → Keeps r (@proxyCore x0 x1 x2 x3 x4 s) := by
  intro r x0 x1 x2 x3 x4 s k
  unfold proxyCore
  try dsimp (zeta := false) only [mk_upd]
  repeat' first
    | with_reducible assumption
    | with_reducible apply finish_keeps
    | with_reducible apply readCore_keeps
    | (with_reducible apply onPlain_keeps; exact rfl; exact rfl)
    | (with_reducible apply onPlain_keeps; iterate 2 first | exact rfl | (simp only [List.length_map, List.length_zipIdx, modifyAt_length]; done))
    | with_reducible apply begin'_keeps
    | with_reducible apply rebuildFor_keeps
    | with_reducible apply sendTo_keeps
    | (with_reducible apply upd_keeps; constructor <;> first | rfl | (simp only [List.length_map, List.length_zipIdx, modifyAt_length]; done))
    | (with_reducible apply Keeps.fold; intro r s a k)
    | (with_reducible apply Keeps.fold2; intro r p a k)
    | extract_lets
    | (split; rename_i h; split at h; all_goals first | cases h | skip)
    | split
    | (dsimp +zetaDelta (zeta := false) only)
    | (with_reducible apply_assumption)

theorem finishServed_keeps : ∀ r x0 x1 x2 x3 x4 x5 s, Keeps r s → Keeps r (@finishServed x0 x1 x2 x3 x4 x5 s) := by
  intro r x0 x1 x2 x3 x4 x5 s k
  unfold finishServed
  repeat' first
    | with_reducible assumption
    | with_reducible apply closeJob_keeps
    | with_reducible apply sendTo_keeps
    | extract_lets
    | split

theorem serveProxy_keeps : ∀ r x0 x1 x2 s, Keeps r s → Keeps r (@serveProxy x0 x1 x2 s) := by
  intro r x0 x1 x2 s k
  unfold serveProxy
  try dsimp (zeta := false) only [mk_upd]
  repeat' first
    | with_reducible assumption
    | with_reducible apply sendTo_keeps
    | with_reducible apply openJob_keeps
    | with_reducible apply finishServed_keeps
    | split

theorem endProxy_keeps : ∀ r x0 s, Keeps r s → Keeps r (@endProxy x0 s) := by
  intro r x0 s k
  unfold endProxy
  try dsimp (zeta := false) only [mk_upd]
  repeat' first
    | with_reducible assumption
    | with_reducible apply countDelivered_keeps
    | (with_reducible apply onPlain_keeps; exact rfl; exact rfl)
    | with_reducible apply maskBytes_keeps
    | with_reducible apply finishData_keeps
    | with_reducible apply finishUnrecovered_keeps
    | extract_lets
    | split

theorem memberGone_keeps : ∀ r x0 s, Keeps r s → Keeps r (@memberGone x0 s) := by
  intro r x0 s k
  unfold memberGone
  repeat' first
    | with_reducible assumption
    | with_reducible apply queryLost_keeps
    | with_reducible apply rebuildFor_keeps
    | with_reducible apply finish_keeps
    | (with_reducible apply onPlain_keeps; exact rfl; exact rfl)
    | (with_reducible apply Keeps.fold; intro r s a k)
    | split

theorem eraseMembership_keeps : ∀ r s, Keeps r s → Keeps r (@eraseMembership s) := by
  intro r s k
  unfold eraseMembership
  repeat' first
    | with_reducible assumption
    | with_reducible apply norFlag_keeps
    | split

theorem standAlone_keeps : ∀ r s, Keeps r s → Keeps r (@standAlone s) := by
  intro r s k
  exact plainEvent_keeps _ _ (onPlain_keeps _ _ _ rfl (List.length_map ..) k)

theorem tryLeave_keeps : ∀ r s, Keeps r s → Keeps r (@tryLeave s) := by
  intro r s k
  unfold tryLeave
  try dsimp (zeta := false) only [mk_upd]
  repeat' first
    | with_reducible assumption
    | (with_reducible apply onPlain_keeps; exact rfl; exact rfl)
    | (with_reducible apply onPlain_keeps; iterate 2 first | exact rfl | (simp only [List.length_map, List.length_zipIdx, modifyAt_length]; done))
    | with_reducible apply standAlone_keeps
    | with_reducible apply eraseMembership_keeps
    | with_reducible apply flood_keeps
    | with_reducible apply finish_keeps
    | (with_reducible apply upd_keeps; constructor <;> first | rfl | (simp only [List.length_map, List.length_zipIdx, modifyAt_length]; done))
    | (with_reducible apply Keeps.fold; intro r s a k)
    | (with_reducible apply Keeps.fold2; intro r p a k)
    | extract_lets
    | (split; rename_i h; split at h; all_goals first | cases h | skip)
    | split
    | (dsimp +zetaDelta (zeta := false) only)
    | (with_reducible apply_assumption)

theorem peerLeft_keeps : ∀ r x0 x1 s, Keeps r s → Keeps r (@peerLeft x0 x1 s) := by
  intro r x0 x1 s k
  unfold peerLeft
  repeat' first
    | with_reducible assumption
    | with_reducible apply sendFlit_keeps
    | with_reducible apply setPeer_keeps
    | with_reducible apply onPeer_keeps
    | with_reducible apply renewReference_keeps
    | with_reducible apply renewPresent_keeps
    | with_reducible apply memberGone_keeps
    | (with_reducible apply Keeps.fold; intro r s a k)
    | split

theorem failJoin_keeps : ∀ r x0 s, Keeps r s → Keeps r (@failJoin x0 s) := by
  intro r x0 s k
  unfold failJoin
  repeat' first
    | with_reducible assumption
    | with_reducible apply plainEvent_keeps
    | (with_reducible apply onPlain_keeps; exact rfl; exact rfl)
    | with_reducible apply finishDw_keeps
    | split

theorem refuseJoin_keeps : ∀ r x0 x1 s, Keeps r s → Keeps r (@refuseJoin x0 x1 s) := by
  intro r x0 x1 s k
  unfold refuseJoin
  repeat' first
    | with_reducible assumption
    | with_reducible apply finishDw_keeps
    | (with_reducible apply onPlain_keeps; exact rfl; exact rfl)

theorem beginJoin_keeps : ∀ r x0 x1 x2 x3 s, Keeps r s → Keeps r (@beginJoin x0 x1 x2 x3 s) := by
  intro r x0 x1 x2 x3 s k
  unfold beginJoin
  repeat' first
    | with_reducible assumption
    | with_reducible apply sendJoin_keeps
    | with_reducible apply plainEvent_keeps
    | (with_reducible apply onPlain_keeps; exact rfl; exact rfl)

theorem joinCore_keeps : ∀ r x0 x1 s, Keeps r s → Keeps r (@joinCore x0 x1 s) := by
  intro r x0 x1 s k
  unfold joinCore
  repeat' first
    | with_reducible assumption
    | with_reducible apply finish_keeps
    | with_reducible apply refuseJoin_keeps
    | with_reducible apply beginJoin_keeps
    | with_reducible apply begin'_keeps
    | extract_lets
    | split

theorem becomeMember_keeps : ∀ r x0 x1 s, Keeps r s → Keeps r (@becomeMember x0 x1 s) := by
  intro r j p s k
  unfold becomeMember
  extract_lets c
  split
  rename_i hw
  have kw := norBlock_keeps' _ _ _ _ _ _ _ hw k
  extract_lets km t u
  have kt : Keeps r t := plainEvent_keeps _ _ (onPlain_keeps _ _ _ rfl (by simp only [List.length_map, List.length_zipIdx]) kw)
  have ku : Keeps r u := renewReference_keeps _ _ (sendTable_keeps _ _ kt)
  split
  · exact finish_keeps _ _ _ _ ku
  · exact ku

theorem takeAdmit_keeps : ∀ r x0 s, Keeps r s → Keeps r (@takeAdmit x0 s) := by
  intro r x0 s k
  unfold takeAdmit
  try dsimp (zeta := false) only [mk_upd]
  repeat' first
    | with_reducible assumption
    | with_reducible apply failJoin_keeps
    | (with_reducible apply onPlain_keeps; exact rfl; exact rfl)
    | with_reducible apply becomeMember_keeps
    | (with_reducible apply upd_keeps; constructor <;> first | rfl | (simp only [List.length_map, List.length_zipIdx, modifyAt_length]; done))
    | split

theorem takeRequest_keeps : ∀ r x0 s, Keeps r s → Keeps r (@takeRequest x0 s) := by
  intro r x0 s k
  unfold takeRequest
  repeat' first
    | with_reducible assumption
    | with_reducible apply sendTo_keeps
    | (with_reducible apply onPlain_keeps; exact rfl; exact rfl)
    | split

theorem admitJoiners_keeps : ∀ r s, Keeps r s → Keeps r (@admitJoiners s) := by
  intro r s k
  unfold admitJoiners
  repeat' first
    | with_reducible assumption
    | with_reducible apply renewPresent_keeps
    | with_reducible apply setPeer_keeps
    | with_reducible apply onPeer_keeps
    | with_reducible apply sendTo_keeps
    | (with_reducible apply onPlain_keeps; exact rfl; exact rfl)
    | (with_reducible apply Keeps.fold; intro r s a k)

theorem noteBell_keeps : ∀ r x0 x1 s, Keeps r s → Keeps r (@noteBell x0 x1 s) := by
  intro r x0 x1 s k
  unfold noteBell
  repeat' first
    | with_reducible assumption
    | with_reducible apply onPeer_keeps
    | (with_reducible apply onPlain_keeps; exact rfl; exact rfl)
    | with_reducible apply renewReference_keeps
    | split

theorem sendBell_keeps : ∀ r s, Keeps r s → Keeps r (@sendBell s) := by
  intro r s k
  unfold sendBell
  repeat' first
    | with_reducible assumption
    | with_reducible apply flood_keeps
    | with_reducible apply sendPort_keeps
    | (with_reducible apply Keeps.fold; intro r s a k)
    | split

theorem rollCall_keeps : ∀ r s, Keeps r s → Keeps r (@rollCall s) := by
  intro r s k
  unfold rollCall
  repeat' first
    | with_reducible assumption
    | with_reducible apply setPeer_keeps
    | with_reducible apply onPeer_keeps
    | with_reducible apply memberGone_keeps
    | (with_reducible apply Keeps.fold; intro r s a k)
    | split

theorem adoptPresent_keeps : ∀ r s, Keeps r s → Keeps r (@adoptPresent s) := by
  intro r s k
  unfold adoptPresent
  try dsimp (zeta := false) only [mk_upd]
  repeat' first
    | with_reducible assumption
    | (with_reducible apply onPlain_keeps; exact rfl; exact rfl)
    | (with_reducible apply onPlain_keeps; iterate 2 first | exact rfl | (simp only [List.length_map, List.length_zipIdx, modifyAt_length]; done))
    | with_reducible apply setPeer_keeps
    | with_reducible apply sendTo_keeps
    | with_reducible apply onPeer_keeps
    | with_reducible apply memberGone_keeps
    | (with_reducible apply upd_keeps; constructor <;> first | rfl | (simp only [List.length_map, List.length_zipIdx, modifyAt_length]; done))
    | (with_reducible apply Keeps.fold; intro r s a k)
    | (with_reducible apply Keeps.fold2; intro r p a k)
    | extract_lets
    | (split; rename_i h; split at h; all_goals first | cases h | skip)
    | split
    | (dsimp +zetaDelta (zeta := false) only)
    | (with_reducible apply_assumption)

theorem plainBoundary_keeps : ∀ r s, Keeps r s → Keeps r (@plainBoundary s) := by
  intro r s k
  unfold plainBoundary
  repeat' first
    | with_reducible assumption
    | with_reducible apply admitJoiners_keeps
    | with_reducible apply rollCall_keeps
    | with_reducible apply adoptPresent_keeps
    | with_reducible apply settleIsolation_keeps
    | with_reducible apply renewReference_keeps
    | with_reducible apply renewPresent_keeps
    | split
    | (dsimp +zetaDelta (zeta := false) only)

theorem foldDelta_keeps : ∀ r x0 x1 s, Keeps r s → Keeps r (@foldDelta x0 x1 s) := by
  intro r x0 x1 s k
  unfold foldDelta
  repeat' first
    | with_reducible assumption
    | (with_reducible apply onPlain_keeps; exact rfl; exact rfl)
    | (with_reducible apply writeUnit_keeps; with_reducible assumption)
    | with_reducible apply sendTo_keeps
    | split

theorem takeDelta_keeps : ∀ r x0 x1 s, Keeps r s → Keeps r (@takeDelta x0 x1 s) := by
  intro r x0 x1 s k
  unfold takeDelta
  repeat' first
    | with_reducible assumption
    | with_reducible apply sendTo_keeps
    | with_reducible apply foldDelta_keeps
    | (with_reducible apply onPlain_keeps; exact rfl; exact rfl)
    | extract_lets
    | split

theorem takeEarly_keeps : ∀ r x0 x1 s, Keeps r s → Keeps r (@takeEarly x0 x1 s) := by
  intro r x0 x1 s
  fun_induction takeEarly x0 x1 s
  all_goals intro k
  repeat' first
    | (with_reducible apply_assumption)
    | (with_reducible apply onPlain_keeps; exact rfl; exact rfl)
    | with_reducible apply takeDelta_keeps

theorem unstale_keeps : ∀ r x0 s, Keeps r s → Keeps r (@unstale x0 s) := by
  intro r x0 s k
  unfold unstale
  repeat' first
    | with_reducible assumption
    | (with_reducible apply onPlain_keeps; exact rfl; exact rfl)
    | split

theorem passStream_keeps : ∀ r x0 s, Keeps r s → Keeps r (@passStream x0 s).2 := by
  intro r x0 s k
  unfold passStream
  repeat' first
    | with_reducible assumption
    | with_reducible apply deliverRebuilt_keeps
    | with_reducible apply sendTo_keeps
    | with_reducible apply sendNext_keeps
    | with_reducible apply unstale_keeps
    | split

theorem passStream_keeps' : ∀ r x0 s a t, @passStream x0 s = (a, t) → Keeps r s → Keeps r t := by
  intro r x0 s a t e k
  have := passStream_keeps r x0 s k
  rw [e] at this
  exact this

theorem rebuildRecess_keeps : ∀ r s, Keeps r s → Keeps r (@rebuildRecess s) := by
  intro r s k
  unfold rebuildRecess
  repeat' first
    | with_reducible assumption
    | (with_reducible apply onPlain_keeps; exact rfl; exact rfl)
    | with_reducible apply startStream_keeps
    | extract_lets
    | split

theorem sendQueued_keeps : ∀ r s, Keeps r s → Keeps r (@sendQueued s) := by
  intro r s k
  unfold sendQueued
  repeat' first
    | with_reducible assumption
    | with_reducible apply sendTo_keeps
    | (with_reducible apply onPlain_keeps; exact rfl; exact rfl)
    | (with_reducible apply Keeps.fold; intro r s a k)

theorem onMirror_keeps : ∀ r x0 x1 x2 s, Keeps r s → Keeps r (@onMirror x0 x1 x2 s) := by
  intro r x0 x1 x2 s k
  unfold onMirror
  repeat' first
    | with_reducible assumption
    | with_reducible apply onPeer_keeps

theorem takeMirror_keeps : ∀ r x0 x1 s, Keeps r s → Keeps r (@takeMirror x0 x1 s) := by
  intro r x0 x1 s k
  unfold takeMirror
  repeat' first
    | with_reducible assumption
    | with_reducible apply onPeer_keeps
    | with_reducible apply sendTo_keeps
    | (with_reducible apply placeList_keeps; with_reducible assumption)
    | with_reducible apply onMirror_keeps
    | with_reducible apply onIdx_keeps
    | with_reducible apply journalChange_keeps
    | with_reducible apply commitChange_keeps
    | split
    | (dsimp +zetaDelta (zeta := false) only)

theorem mirrorRecess_keeps : ∀ r s, Keeps r s → Keeps r (@mirrorRecess s) := by
  intro r s k
  unfold mirrorRecess
  repeat' first
    | with_reducible assumption
    | with_reducible apply sendMirror_keeps
    | with_reducible apply onIdx_keeps
    | (with_reducible apply Keeps.fold; intro r s a k)
    | split

theorem plainRecess_keeps : ∀ r s, Keeps r s → Keeps r (@plainRecess s) := by
  intro r s k
  unfold plainRecess
  repeat' first
    | with_reducible assumption
    | with_reducible apply mirrorRecess_keeps
    | with_reducible apply rebuildRecess_keeps
    | with_reducible apply sendQueued_keeps

theorem onStep_keeps : ∀ r x0 x1 s, Keeps r s → Keeps r (@onStep x0 x1 s) := by
  intro r x0 x1 s k
  unfold onStep
  repeat' first
    | with_reducible assumption
    | with_reducible apply onTrain_keeps

theorem onBucket_keeps : ∀ r x0 x1 x2 s, Keeps r s → Keeps r (@onBucket x0 x1 x2 s) := by
  intro r x0 x1 x2 s k
  unfold onBucket
  repeat' first
    | with_reducible assumption
    | with_reducible apply onStep_keeps

theorem removeStep_keeps : ∀ r x0 s, Keeps r s → Keeps r (@removeStep x0 s) := by
  intro r x0 s k
  unfold removeStep
  repeat' first
    | with_reducible assumption
    | with_reducible apply onTrain_keeps

theorem stale_keeps : ∀ r s, Keeps r s → Keeps r (@stale s) := by
  intro r s k
  unfold stale
  repeat' first
    | with_reducible assumption
    | with_reducible apply onTrain_keeps

theorem stopAttempt_keeps : ∀ r x0 s, Keeps r s → Keeps r (@stopAttempt x0 s) := by
  intro r x0 s k
  unfold stopAttempt
  repeat' first
    | with_reducible assumption
    | with_reducible apply dropRun_keeps
    | with_reducible apply onStep_keeps
    | split

theorem endStep_keeps : ∀ r x0 x1 x2 x3 s, Keeps r s → Keeps r (@endStep x0 x1 x2 x3 s) := by
  intro r x0 x1 x2 x3 s k
  unfold endStep
  repeat' first
    | with_reducible assumption
    | with_reducible apply removeStep_keeps
    | with_reducible apply stopAttempt_keeps
    | with_reducible apply memWrite_keeps
    | with_reducible apply finish_keeps
    | extract_lets
    | split

theorem tellOthers_keeps : ∀ r x0 x1 s, Keeps r s → Keeps r (@tellOthers x0 x1 s) := by
  intro r x0 x1 s k
  unfold tellOthers
  repeat' first
    | with_reducible assumption
    | with_reducible apply sendTo_keeps
    | (with_reducible apply Keeps.fold; intro r s a k)

theorem giveUpStep_keeps : ∀ r x0 x1 s, Keeps r s → Keeps r (@giveUpStep x0 x1 s) := by
  intro r x0 x1 s k
  unfold giveUpStep
  repeat' first
    | with_reducible assumption
    | with_reducible apply endStep_keeps
    | with_reducible apply tellOthers_keeps
    | split

theorem launchAttempt_keeps : ∀ r x0 s, Keeps r s → Keeps r (@launchAttempt x0 s) := by
  intro r x0 s k
  unfold launchAttempt
  repeat' first
    | with_reducible assumption
    | (with_reducible apply startRun_keeps; with_reducible assumption)
    | with_reducible apply onStep_keeps
    | split

theorem beginAttempt_keeps : ∀ r x0 x1 x2 s, Keeps r s → Keeps r (@beginAttempt x0 x1 x2 s) := by
  intro r x0 x1 x2 s k
  unfold beginAttempt
  repeat' first
    | with_reducible assumption
    | with_reducible apply launchAttempt_keeps
    | with_reducible apply onStep_keeps
    | with_reducible apply stopAttempt_keeps
    | split

theorem startAttempt_keeps : ∀ r x0 x1 x2 s, Keeps r s → Keeps r (@startAttempt x0 x1 x2 s) := by
  intro r x0 x1 x2 s k
  unfold startAttempt
  repeat' first
    | with_reducible assumption
    | with_reducible apply beginAttempt_keeps
    | with_reducible apply tellOthers_keeps
    | split

theorem stageBucket_keeps : ∀ r x0 x1 x2 s, Keeps r s → Keeps r (@stageBucket x0 x1 x2 s).2 := by
  intro r x0 x1 x2 s k
  unfold stageBucket
  repeat' first
    | with_reducible assumption
    | with_reducible apply writeMarked_keeps
    | extract_lets
    | split

theorem stageBucket_keeps' : ∀ r x0 x1 x2 s a t, @stageBucket x0 x1 x2 s = (a, t) → Keeps r s → Keeps r t := by
  intro r x0 x1 x2 s a t e k
  have := stageBucket_keeps r x0 x1 x2 s k
  rw [e] at this
  exact this

theorem nameApplyBell_keeps : ∀ r x0 s, Keeps r s → Keeps r (@nameApplyBell x0 s) := by
  intro r x0 s k
  unfold nameApplyBell
  repeat' first
    | with_reducible assumption
    | with_reducible apply tellOthers_keeps
    | with_reducible apply onStep_keeps
    | split

theorem takeCommit_keeps : ∀ r x0 x1 x2 s, Keeps r s → Keeps r (@takeCommit x0 x1 x2 s) := by
  intro r x0 x1 x2 s k
  unfold takeCommit
  repeat' first
    | with_reducible assumption
    | with_reducible apply nameApplyBell_keeps
    | with_reducible apply onStep_keeps
    | with_reducible apply onBucket_keeps

theorem commitBucket_keeps : ∀ r x0 x1 s, Keeps r s → Keeps r (@commitBucket x0 x1 s) := by
  intro r x0 x1 s k
  unfold commitBucket
  try dsimp (zeta := false) only [mk_upd]
  repeat' first
    | with_reducible assumption
    | with_reducible apply stageBucket_keeps
    | with_reducible apply onBucket_keeps
    | with_reducible apply takeCommit_keeps
    | with_reducible apply sendTo_keeps
    | extract_lets
    | split

theorem keepChunk_keeps : ∀ r x0 x1 x2 x3 s, Keeps r s → Keeps r (@keepChunk x0 x1 x2 x3 s) := by
  intro r x0 x1 x2 x3 s k
  unfold keepChunk
  repeat' first
    | with_reducible assumption
    | with_reducible apply commitBucket_keeps
    | with_reducible apply onBucket_keeps

theorem afterScale_keeps : ∀ r x0 x1 x2 s, Keeps r s → Keeps r (@afterScale x0 x1 x2 s) := by
  intro r x0 x1 x2 s k
  unfold afterScale
  repeat' first
    | with_reducible assumption
    | with_reducible apply onBucket_keeps
    | with_reducible apply endStep_keeps
    | with_reducible apply keepChunk_keeps
    | with_reducible apply sendTo_keeps
    | extract_lets
    | split

theorem sendScale_keeps : ∀ r x0 x1 x2 s, Keeps r s → Keeps r (@sendScale x0 x1 x2 s) := by
  intro r x0 x1 x2 s k
  unfold sendScale
  repeat' first
    | with_reducible assumption
    | with_reducible apply afterScale_keeps
    | with_reducible apply sendTo_keeps
    | split

theorem postBucket_keeps : ∀ r x0 x1 s, Keeps r s → Keeps r (@postBucket x0 x1 s) := by
  intro r x0 x1 s k
  unfold postBucket
  repeat' first
    | with_reducible assumption
    | with_reducible apply giveUpStep_keeps
    | with_reducible apply onBucket_keeps
    | with_reducible apply onStep_keeps
    | with_reducible apply sendScale_keeps
    | extract_lets
    | split

theorem takeScale_keeps : ∀ r x0 x1 s, Keeps r s → Keeps r (@takeScale x0 x1 s) := by
  intro r x0 x1 s k
  unfold takeScale
  try dsimp (zeta := false) only [mk_upd]
  repeat' first
    | with_reducible assumption
    | with_reducible apply stale_keeps
    | with_reducible apply onStep_keeps
    | with_reducible apply afterScale_keeps
    | with_reducible apply sendTo_keeps
    | with_reducible apply onBucket_keeps
    | with_reducible apply sendScale_keeps
    | (with_reducible apply upd_keeps; constructor <;> first | rfl | (simp only [List.length_map, List.length_zipIdx, modifyAt_length]; done))
    | (with_reducible apply Keeps.fold; intro r s a k)
    | (with_reducible apply Keeps.fold2; intro r p a k)
    | extract_lets
    | (split; rename_i h; split at h; all_goals first | cases h | skip)
    | split
    | (dsimp +zetaDelta (zeta := false) only)
    | (with_reducible apply_assumption)

theorem takeSum_keeps : ∀ r x0 s, Keeps r s → Keeps r (@takeSum x0 s) := by
  intro r x0 s k
  unfold takeSum
  repeat' first
    | with_reducible assumption
    | with_reducible apply stale_keeps
    | with_reducible apply keepChunk_keeps
    | with_reducible apply sendTo_keeps
    | with_reducible apply onBucket_keeps
    | extract_lets
    | split

theorem checkReports_keeps : ∀ r x0 s, Keeps r s → Keeps r (@checkReports x0 s) := by
  intro r x0 s k
  unfold checkReports
  repeat' first
    | with_reducible assumption
    | with_reducible apply finishDw_keeps
    | with_reducible apply removeStep_keeps
    | with_reducible apply startAttempt_keeps
    | extract_lets
    | split

theorem withExamples_keeps : ∀ r x0 x1 x2 s, (∀ t, Keeps r t → Keeps r (x2 t)) → Keeps r s → Keeps r (@withExamples x0 x1 x2 s) := by
  intro r x0 x1 x2 s f k
  unfold withExamples
  repeat' first
    | with_reducible assumption
    | with_reducible apply failProgram_keeps
    | with_reducible apply finishDw_keeps
    | exact f _ k
    | extract_lets
    | split

theorem trainStepCore_keeps : ∀ r x0 x1 x2 s, Keeps r s → Keeps r (@trainStepCore x0 x1 x2 s) := by
  intro r x0 x1 x2 s k
  unfold trainStepCore
  repeat' first
    | with_reducible assumption
    | with_reducible apply finish_keeps
    | with_reducible apply failProgram_keeps
    | with_reducible apply onTrain_keeps
    | with_reducible apply begin'_keeps
    | (with_reducible apply withExamples_keeps; intro s k)
    | with_reducible apply checkReports_keeps
    | with_reducible apply sendTo_keeps
    | (with_reducible apply Keeps.fold; intro r s a k)
    | extract_lets
    | split

theorem takeStart_keeps : ∀ r x0 x1 x2 s, Keeps r s → Keeps r (@takeStart x0 x1 x2 s) := by
  intro r x0 x1 x2 s k
  unfold takeStart
  repeat' first
    | with_reducible assumption
    | with_reducible apply sendTo_keeps
    | with_reducible apply onTrain_keeps
    | extract_lets
    | split

theorem abortHere_keeps : ∀ r x0 s, Keeps r s → Keeps r (@abortHere x0 s) := by
  intro r x0 s k
  unfold abortHere
  repeat' first
    | with_reducible assumption
    | with_reducible apply onStep_keeps
    | with_reducible apply stopAttempt_keeps
    | split

theorem sayReady_keeps : ∀ r x0 s, Keeps r s → Keeps r (@sayReady x0 s) := by
  intro r x0 s k
  unfold sayReady
  repeat' first
    | with_reducible assumption
    | with_reducible apply onStep_keeps
    | with_reducible apply sendTo_keeps
    | extract_lets
    | split

theorem takeTrain_keeps : ∀ r x0 x1 s, Keeps r s → Keeps r (@takeTrain x0 x1 s) := by
  intro r x0 x1 s k
  unfold takeTrain
  repeat' first
    | with_reducible assumption
    | with_reducible apply onStep_keeps
    | with_reducible apply stale_keeps
    | with_reducible apply takeStart_keeps
    | with_reducible apply checkReports_keeps
    | with_reducible apply takeCommit_keeps
    | with_reducible apply sayReady_keeps
    | with_reducible apply abortHere_keeps
    | with_reducible apply beginAttempt_keeps
    | with_reducible apply removeStep_keeps
    | with_reducible apply stopAttempt_keeps
    | extract_lets
    | split
    | (dsimp +zetaDelta (zeta := false) only)

theorem applyPart_keeps : ∀ r x0 s, Keeps r s → Keeps r (@applyPart x0 s) := by
  intro r x0 s k
  unfold applyPart
  try dsimp (zeta := false) only [mk_upd]
  repeat' first
    | with_reducible assumption
    | with_reducible apply staleCentroids_keeps
    | with_reducible apply onIdx_keeps
    | (with_reducible apply writeIndexUnits_keeps; with_reducible assumption)
    | with_reducible apply sendMirror_keeps
    | with_reducible apply recodeWaiting_keeps
    | split

theorem applyStep_keeps : ∀ r x0 s, Keeps r s → Keeps r (@applyStep x0 s) := by
  intro r x0 s k
  unfold applyStep
  repeat' first
    | with_reducible assumption
    | with_reducible apply endStep_keeps
    | with_reducible apply onStep_keeps
    | with_reducible apply applyPart_keeps
    | (with_reducible apply Keeps.fold; intro r s a k)
    | extract_lets
    | split

theorem trainBoundary_keeps : ∀ r s, Keeps r s → Keeps r (@trainBoundary s) := by
  intro r s k
  unfold trainBoundary
  repeat' first
    | with_reducible assumption
    | with_reducible apply applyStep_keeps
    | (with_reducible apply Keeps.fold; intro r s a k)

theorem copySpan_keeps : ∀ r x0 x1 x2 s, Keeps r s → Keeps r (@copySpan x0 x1 x2 s) := by
  intro r x0 x1 x2 s k
  unfold copySpan
  repeat' first
    | with_reducible assumption
    | with_reducible apply writeMarked_keeps
    | split

theorem copyBucket_keeps : ∀ r x0 x1 s, Keeps r s → Keeps r (@copyBucket x0 x1 s) := by
  intro r x0 x1 s k
  unfold copyBucket
  repeat' first
    | with_reducible assumption
    | with_reducible apply copySpan_keeps
    | split
    | (dsimp +zetaDelta (zeta := false) only)

theorem trainIdle_keeps : ∀ r s, Keeps r s → Keeps r (@trainIdle s) := by
  intro r s k
  unfold trainIdle
  repeat' first
    | with_reducible assumption
    | with_reducible apply launchAttempt_keeps
    | with_reducible apply giveUpStep_keeps
    | with_reducible apply sayReady_keeps
    | (with_reducible apply Keeps.fold; intro r s a k)
    | split

theorem loadCore_keeps : ∀ r x0 x1 x2 x3 s, Keeps r s → Keeps r (@loadCore x0 x1 x2 x3 s) := by
  intro r x0 x1 x2 x3 s k
  unfold loadCore
  repeat' first
    | with_reducible assumption
    | with_reducible apply finish_keeps
    | with_reducible apply onImg_keeps
    | with_reducible apply finishDw_keeps
    | extract_lets
    | split

theorem startActivation_keeps : ∀ r x0 x1 x2 x3 x4 s, Keeps r s → Keeps r (@startActivation x0 x1 x2 x3 x4 s) := by
  intro r x0 x1 x2 x3 x4 s k
  unfold startActivation
  repeat' first
    | with_reducible assumption
    | with_reducible apply onImg_keeps
    | with_reducible apply begin'_keeps

theorem admitActivate_keeps : ∀ r x0 k s, (∀ r s, Keeps r s → Keeps r (k s)) → Keeps r s → Keeps r (@admitActivate x0 k s) := by
  intro r x0 k s hk k
  unfold admitActivate
  repeat' first
    | with_reducible assumption
    | with_reducible apply hk
    | (with_reducible apply admitAdmin_keeps; (intro r s k))
    | with_reducible apply finish_keeps
    | split

theorem activateStaged_keeps : ∀ r x0 x1 s, Keeps r s → Keeps r (@activateStaged x0 x1 s) := by
  intro r x0 x1 s k
  unfold activateStaged
  repeat' first
    | with_reducible assumption
    | with_reducible apply finishDw_keeps
    | with_reducible apply startActivation_keeps
    | split

theorem verifyCore_keeps : ∀ r x0 s, Keeps r s → Keeps r (@verifyCore x0 s) := by
  intro r x0 s k
  unfold verifyCore
  repeat' first
    | with_reducible assumption
    | with_reducible apply finishDw_keeps
    | with_reducible apply finish_keeps
    | split

theorem noteReplicas_keeps : ∀ r s, Keeps r s → Keeps r (@noteReplicas s) := by
  intro r s k
  unfold noteReplicas
  repeat' first
    | with_reducible assumption
    | with_reducible apply onImg_keeps
    | split

theorem imageRecess_keeps : ∀ r s, Keeps r s → Keeps r (@imageRecess s) := by
  intro r s k
  unfold imageRecess
  repeat' first
    | with_reducible assumption
    | with_reducible apply onImg_keeps
    | split

theorem residentCore_keeps : ∀ r x0 s, Keeps r s → Keeps r (@residentCore x0 s) := by
  intro r x0 s k
  unfold residentCore
  repeat' first
    | with_reducible assumption
    | with_reducible apply finish_keeps
    | with_reducible apply hold_keeps
    | with_reducible apply onImg_keeps
    | with_reducible apply begin'_keeps
    | split

theorem activateResidentCore_keeps : ∀ r x0 s, Keeps r s → Keeps r (@activateResidentCore x0 s) := by
  intro r x0 s k
  unfold activateResidentCore
  repeat' first
    | with_reducible assumption
    | with_reducible apply finish_keeps
    | with_reducible apply noteReplicas_keeps
    | with_reducible apply startActivation_keeps
    | extract_lets
    | split

theorem activateRomCore_keeps : ∀ r x0 s, Keeps r s → Keeps r (@activateRomCore x0 s) := by
  intro r x0 s k
  unfold activateRomCore
  repeat' first
    | with_reducible assumption
    | with_reducible apply startActivation_keeps
    | with_reducible apply finish_keeps
    | split

theorem restoreFeatures_keeps : ∀ r x0 s, Keeps r s → Keeps r (@restoreFeatures x0 s) := by
  intro r x0 s k
  unfold restoreFeatures
  try dsimp (zeta := false) only [mk_upd]
  repeat' first
    | with_reducible assumption
    | (with_reducible apply upd_keeps; constructor <;> first | rfl | (simp only [List.length_map, List.length_zipIdx, modifyAt_length]; done))

theorem changeRooms_keeps : ∀ r x0 x1 s, Keeps r s → Keeps r (@changeRooms x0 x1 s) := by
  intro r x0 x1 s k
  unfold changeRooms
  repeat' first
    | with_reducible assumption
    | with_reducible apply unloadLesson_keeps
    | (with_reducible apply onMem_keeps; exact rfl; exact rfl)
    | with_reducible apply onSched_keeps
    | with_reducible apply onTrain_keeps
    | (with_reducible apply Keeps.fold; intro r s a k)

theorem putImage_keeps : ∀ r x0 x1 x2 s, Keeps r s → Keeps r (@putImage x0 x1 x2 s) := by
  intro r x0 x1 x2 s k
  unfold putImage
  repeat' first
    | with_reducible assumption
    | with_reducible apply restoreFeatures_keeps
    | with_reducible apply onImg_keeps

theorem commitActivation_keeps : ∀ r x0 s, Keeps r s → Keeps r (@commitActivation x0 s) := by
  intro r x0 s k
  unfold commitActivation
  repeat' first
    | with_reducible assumption
    | with_reducible apply onImg_keeps
    | split

theorem takeEffect_keeps : ∀ r x0 s, Keeps r s → Keeps r (@takeEffect x0 s) := by
  intro r x0 s k
  unfold takeEffect
  try dsimp (zeta := false) only [mk_upd]
  repeat' first
    | with_reducible assumption
    | with_reducible apply putImage_keeps
    | with_reducible apply changeRooms_keeps
    | with_reducible apply finish_keeps
    | with_reducible apply raiseEvent_keeps
    | with_reducible apply commitActivation_keeps
    | with_reducible apply onImg_keeps
    | (with_reducible apply upd_keeps; constructor <;> first | rfl | (simp only [List.length_map, List.length_zipIdx, modifyAt_length]; done))
    | split
    | (dsimp +zetaDelta (zeta := false) only)

theorem activationBoundary_keeps : ∀ r s, Keeps r s → Keeps r (@activationBoundary s) := by
  intro r s k
  unfold activationBoundary
  repeat' first
    | with_reducible assumption
    | with_reducible apply onImg_keeps
    | with_reducible apply takeEffect_keeps
    | extract_lets
    | split

theorem endCommit_keeps : ∀ r x0 s, Keeps r s → Keeps r (@endCommit x0 s) := by
  intro r x0 s k
  unfold endCommit
  try dsimp (zeta := false) only [mk_upd]
  repeat' first
    | with_reducible assumption
    | with_reducible apply norRecord_keeps
    | with_reducible apply onImg_keeps
    | with_reducible apply finish_keeps
    | with_reducible apply commitActivation_keeps
    | extract_lets
    | split
    | (dsimp +zetaDelta (zeta := false) only)

theorem resetActivation_keeps : ∀ r s, Keeps r s → Keeps r (@resetActivation s) := by
  intro r s k
  unfold resetActivation
  repeat' first
    | with_reducible assumption
    | with_reducible apply onImg_keeps
    | extract_lets
    | split
    | (dsimp +zetaDelta (zeta := false) only)

theorem startImage_keeps : ∀ r s, Keeps r s → Keeps r (@startImage s) := by
  intro r s k
  unfold startImage
  repeat' first
    | with_reducible assumption
    | with_reducible apply onImg_keeps
    | with_reducible apply putImage_keeps
    | with_reducible apply noteReplicas_keeps
    | extract_lets
    | split

end Sys2Proof.Machine
end

