-- ==== Sys2Proof/Laws/KeepsDrive.lean ====
section
/-! SUPPORT. What the operations of the drive as a whole keep: the controller, dies, reads, bells, security, power, logs and a tick. -/

namespace Sys2Proof.Machine

theorem closeJobs_keeps : ∀ r x0 s, Keeps r s → Keeps r (@closeJobs x0 s) := by
  intro r x0 s k
  unfold closeJobs
  repeat' first
    | with_reducible assumption
    | with_reducible apply closeJob_keeps
    | (with_reducible apply Keeps.fold; intro r s a k)

theorem stopJobs_keeps : ∀ r x0 s, Keeps r s → Keeps r (@stopJobs x0 s) := by
  intro r x0 s k
  unfold stopJobs
  repeat' first
    | with_reducible assumption
    | with_reducible apply closeJobs_keeps

theorem stopQueries_keeps : ∀ r x0 s, Keeps r s → Keeps r (@stopQueries x0 s) := by
  intro r x0 s k
  unfold stopQueries
  repeat' first
    | with_reducible assumption
    | with_reducible apply dropQRun_keeps
    | (with_reducible apply onQuery_keeps; first | exact rfl | (simp only [List.length_map, List.length_zipIdx, modifyAt_length]; done))
    | (with_reducible apply Keeps.fold; intro r s a k)

theorem stopLessons_keeps : ∀ r x0 s, Keeps r s → Keeps r (@stopLessons x0 s) := by
  intro r x0 s k
  unfold stopLessons
  repeat' first
    | with_reducible assumption
    | with_reducible apply dropRun_keeps
    | (with_reducible apply Keeps.fold; intro r s a k)

theorem stopSteps_keeps : ∀ r x0 s, Keeps r s → Keeps r (@stopSteps x0 s) := by
  intro r x0 s k
  unfold stopSteps
  repeat' first
    | with_reducible assumption
    | with_reducible apply giveUpStep_keeps
    | (with_reducible apply Keeps.fold; intro r s a k)

theorem stopWork_keeps : ∀ r x0 s, Keeps r s → Keeps r (@stopWork x0 s) := by
  intro r x0 s k
  unfold stopWork
  repeat' first
    | with_reducible assumption
    | with_reducible apply stopSteps_keeps
    | with_reducible apply stopLessons_keeps
    | with_reducible apply stopQueries_keeps
    | with_reducible apply stopJobs_keeps
    | (with_reducible apply onPlain_keeps; exact rfl; exact rfl)
    | with_reducible apply onIdx_keeps

theorem createCq_keeps : ∀ r x0 x1 x2 x3 x4 s, Keeps r s → Keeps r (@createCq x0 x1 x2 x3 x4 s) := by
  intro r x0 x1 x2 x3 x4 s k
  unfold createCq
  repeat' first
    | with_reducible assumption
    | with_reducible apply finish_keeps
    | with_reducible apply onHost_keeps
    | split

theorem createSq_keeps : ∀ r x0 x1 x2 x3 x4 s, Keeps r s → Keeps r (@createSq x0 x1 x2 x3 x4 s) := by
  intro r x0 x1 x2 x3 x4 s k
  unfold createSq
  repeat' first
    | with_reducible assumption
    | with_reducible apply finish_keeps
    | with_reducible apply onHost_keeps
    | split

theorem deleteCq_keeps : ∀ r x0 x1 s, Keeps r s → Keeps r (@deleteCq x0 x1 s) := by
  intro r x0 x1 s k
  unfold deleteCq
  repeat' first
    | with_reducible assumption
    | with_reducible apply finish_keeps
    | with_reducible apply onHost_keeps
    | split

theorem deleteSq_keeps : ∀ r x0 x1 s, Keeps r s → Keeps r (@deleteSq x0 x1 s) := by
  intro r x0 x1 s k
  unfold deleteSq
  repeat' first
    | with_reducible assumption
    | with_reducible apply finish_keeps
    | with_reducible apply onHost_keeps
    | with_reducible apply begin'_keeps
    | with_reducible apply stopWork_keeps
    | with_reducible apply post_keeps
    | with_reducible apply finishDelete_keeps
    | with_reducible apply pump_keeps
    | (with_reducible apply Keeps.fold; intro r s a k)
    | split
    | (dsimp +zetaDelta (zeta := false) only)

theorem endAborts_keeps : ∀ r s, Keeps r s → Keeps r (@endAborts s) := by
  intro r s k
  unfold endAborts
  repeat' first
    | with_reducible assumption
    | with_reducible apply post_keeps
    | with_reducible apply onHost_keeps
    | (with_reducible apply Keeps.fold; intro r s a k)

theorem admitSet_keeps : ∀ r x0 x1 k s, (∀ r s, Keeps r s → Keeps r (k s)) → Keeps r s → Keeps r (@admitSet x0 x1 k s) := by
  intro r x0 x1 k s hk k
  unfold admitSet
  repeat' first
    | with_reducible assumption
    | with_reducible apply hk
    | (with_reducible apply admitAdmin_keeps; (intro r s k))
    | with_reducible apply finish_keeps
    | split

theorem setEnvelope_keeps : ∀ r x0 s, Keeps r s → Keeps r (@setEnvelope x0 s).2 := by
  intro r x0 s k
  unfold setEnvelope
  repeat' first
    | with_reducible assumption
    | with_reducible apply onHost_keeps
    | split

theorem setEnvelope_keeps' : ∀ r x0 s a t, @setEnvelope x0 s = (a, t) → Keeps r s → Keeps r t := by
  intro r x0 s a t e k
  have := setEnvelope_keeps r x0 s k
  rw [e] at this
  exact this

theorem setPower_keeps : ∀ r x0 s, Keeps r s → Keeps r (@setPower x0 s).2 := by
  intro r x0 s k
  unfold setPower
  repeat' first
    | with_reducible assumption
    | with_reducible apply onHost_keeps
    | split

theorem setPower_keeps' : ∀ r x0 s a t, @setPower x0 s = (a, t) → Keeps r s → Keeps r t := by
  intro r x0 s a t e k
  have := setPower_keeps r x0 s k
  rw [e] at this
  exact this

theorem miCore_keeps : ∀ r x0 s, Keeps r s → Keeps r (@miCore x0 s).2.2 := by
  intro r x0 s k
  unfold miCore
  repeat' first
    | with_reducible assumption
    | with_reducible apply setEnvelope_keeps
    | with_reducible apply setPower_keeps
    | split

theorem miCore_keeps' : ∀ r x0 s a c t, @miCore x0 s = (a, c, t) → Keeps r s → Keeps r t := by
  intro r x0 s a c t e k
  have := miCore_keeps r x0 s k
  rw [e] at this
  exact this

theorem respond_keeps : ∀ r x0 s, Keeps r s → Keeps r (@respond x0 s) := by
  intro r x0 s k
  unfold respond
  repeat' first
    | with_reducible assumption
    | with_reducible apply onHost_keeps

theorem orphan_keeps : ∀ r s, Keeps r s → Keeps r (@orphan s) := by
  intro r s k
  unfold orphan
  try dsimp (zeta := false) only [mk_upd]
  repeat' first
    | with_reducible assumption
    | (with_reducible apply upd_keeps; constructor <;> first | rfl | (simp only [List.length_map, List.length_zipIdx, modifyAt_length]; done))

theorem readOptions_keeps : ∀ r s, Keeps r s → Keeps r (@readOptions s) := by
  intro r s k
  unfold readOptions
  try dsimp (zeta := false) only [mk_upd]
  repeat' first
    | with_reducible assumption
    | with_reducible apply draw_keeps
    | (with_reducible apply upd_keeps; constructor <;> first | rfl | (simp only [List.length_map, List.length_zipIdx, modifyAt_length]; done))

theorem controllerReset_keeps : ∀ r s, Keeps r s → Keeps r (@controllerReset s) := by
  intro r s k
  unfold controllerReset
  extract_lets a b c f d
  have kc : Keeps r c := resetActivation_keeps _ _ (orphan_keeps _ _ (onFtl_keeps _ _ _ (closeJobs_keeps _ _ _ (stopWork_keeps _ _ _ k))))
  have kd : Keeps r d := readOptions_keeps _ _ (upd_keeps ⟨rfl, rfl, rfl, rfl, rfl, rfl, rfl, rfl, rfl, rfl⟩ kc)
  exact onHost_keeps _ _ _ kd

theorem losePending_keeps : ∀ r x0 s, Keeps r s → Keeps r (@losePending x0 s) := by
  intro r x0 s k
  unfold losePending
  try dsimp (zeta := false) only [mk_upd]
  repeat' first
    | with_reducible assumption
    | (with_reducible apply upd_keeps; constructor <;> first | rfl | (simp only [List.length_map, List.length_zipIdx, modifyAt_length]; done))
    | (with_reducible apply Keeps.fold; intro r s a k)

theorem clearShare_keeps : ∀ r x0 s, Keeps r s → Keeps r (@clearShare x0 s) := by
  intro r d s k
  unfold clearShare
  extract_lets lo n marks
  refine memMark_keeps _ _ _ _ (k.trans ⟨rfl, id, id, fun o => ⟨?_, o.2⟩⟩)
  exact Cells.wf_blit _ _ o.1 rfl

theorem clearEngines_keeps : ∀ r x0 s, Keeps r s → Keeps r (@clearEngines x0 s) := by
  intro r x0 s k
  unfold clearEngines
  try dsimp (zeta := false) only [mk_upd]
  repeat' first
    | with_reducible assumption
    | (with_reducible apply upd_keeps; constructor <;> first | rfl | (simp only [List.length_map, List.length_zipIdx, modifyAt_length]; done))

theorem haltRun_keeps : ∀ r x0 s, Keeps r s → Keeps r (@haltRun x0 s) := by
  intro r x0 s k
  unfold haltRun
  try dsimp (zeta := false) only [mk_upd]
  repeat' first
    | with_reducible assumption
    | with_reducible apply setHolder_keeps
    | with_reducible apply endHandBack_keeps
    | with_reducible apply onRun_keeps
    | (with_reducible apply upd_keeps; constructor <;> first | rfl | (simp only [List.length_map, List.length_zipIdx, modifyAt_length]; done))
    | (with_reducible apply Keeps.fold; intro r s a k)
    | split

theorem haltSteps_keeps : ∀ r x0 x1 s, Keeps r s → Keeps r (@haltSteps x0 x1 s) := by
  intro r x0 x1 s k
  unfold haltSteps
  repeat' first
    | with_reducible assumption
    | with_reducible apply onStep_keeps
    | with_reducible apply dropRun_keeps
    | (with_reducible apply Keeps.fold; intro r s a k)
    | split

theorem hubDown_keeps : ∀ r s, Keeps r s → Keeps r (@hubDown s) := by
  intro r s k
  unfold hubDown
  repeat' first
    | with_reducible assumption
    | with_reducible apply onHost_keeps
    | with_reducible apply controllerReset_keeps
    | with_reducible apply dropLink_keeps
    | (with_reducible apply Keeps.fold; intro r s a k)

theorem dieReset_keeps : ∀ r x0 x1 x2 s, Keeps r s → Keeps r (@dieReset x0 x1 x2 s) := by
  intro r x0 x1 x2 s k
  unfold dieReset
  try dsimp (zeta := false) only [mk_upd]
  repeat' first
    | with_reducible assumption
    | with_reducible apply losePending_keeps
    | with_reducible apply onDie_keeps
    | with_reducible apply clearShare_keeps
    | with_reducible apply hubDown_keeps
    | with_reducible apply haltSteps_keeps
    | with_reducible apply haltRun_keeps
    | with_reducible apply clearEngines_keeps
    | (with_reducible apply upd_keeps; constructor <;> first | rfl | (simp only [List.length_map, List.length_zipIdx, modifyAt_length]; done))
    | (with_reducible apply Keeps.fold; intro r s a k)
    | (with_reducible apply Keeps.fold2; intro r p a k)
    | extract_lets
    | (split; rename_i h; split at h; all_goals first | cases h | skip)
    | split
    | (dsimp +zetaDelta (zeta := false) only)
    | (with_reducible apply_assumption)

theorem quarantine_keeps : ∀ r x0 x1 s, Keeps r s → Keeps r (@quarantine x0 x1 s) := by
  intro r x0 x1 s k
  unfold quarantine
  try dsimp (zeta := false) only [mk_upd]
  repeat' first
    | with_reducible assumption
    | with_reducible apply onSched_keeps
    | with_reducible apply endRun_keeps
    | with_reducible apply onDie_keeps
    | (with_reducible apply upd_keeps; constructor <;> first | rfl | (simp only [List.length_map, List.length_zipIdx, modifyAt_length]; done))
    | split

theorem restartRun_keeps : ∀ r x0 s, Keeps r s → Keeps r (@restartRun x0 s) := by
  intro r x0 s k
  unfold restartRun
  repeat' first
    | with_reducible assumption
    | with_reducible apply makeReady_keeps
    | with_reducible apply onRun_keeps
    | (with_reducible apply Keeps.fold; intro r s a k)

theorem restartRuns_keeps : ∀ r s, Keeps r s → Keeps r (@restartRuns s) := by
  intro r s k
  unfold restartRuns
  repeat' first
    | with_reducible assumption
    | with_reducible apply restartRun_keeps
    | (with_reducible apply Keeps.fold; intro r s a k)
    | extract_lets
    | split

theorem replayNext_keeps : ∀ r x0 x1 s, Keeps r s → Keeps r (@replayNext x0 x1 s) := by
  intro r d f
  induction f with
  | zero => exact fun _ k => k
  | succ f ih =>
    intro s k
    unfold replayNext
    split
    · extract_lets d' t
      have kt : Keeps r t := by
        dsimp only [t]
        split
        · exact k
        · exact upd_keeps ⟨rfl, rfl, rfl, rfl, rfl, rfl, rfl, rfl, rfl, rfl⟩ k
      exact restartRuns_keeps _ _ (onDie_keeps _ _ _ _ kt)
    · split
      · exact restartRun_keeps _ _ _ (onDie_keeps _ _ _ _ k)
      · exact ih _ (onDie_keeps _ _ _ _ k)

theorem resumeDie_keeps : ∀ r x0 s, Keeps r s → Keeps r (@resumeDie x0 s) := by
  intro r x0 s k
  unfold resumeDie
  repeat' first
    | with_reducible assumption
    | with_reducible apply restartRuns_keeps
    | with_reducible apply onDie_keeps
    | with_reducible apply replayNext_keeps
    | split

theorem endHang_keeps : ∀ r x0 s, Keeps r s → Keeps r (@endHang x0 s) := by
  intro r x0 s k
  unfold endHang
  repeat' first
    | with_reducible assumption
    | with_reducible apply quarantine_keeps
    | with_reducible apply onDie_keeps
    | split

theorem countReplay_keeps : ∀ r s, Keeps r s → Keeps r (@countReplay s) := by
  intro r s k
  unfold countReplay
  try dsimp (zeta := false) only [mk_upd]
  repeat' first
    | with_reducible assumption
    | (with_reducible apply upd_keeps; constructor <;> first | rfl | (simp only [List.length_map, List.length_zipIdx, modifyAt_length]; done))

theorem hangAgain_keeps : ∀ r x0 s, Keeps r s → Keeps r (@hangAgain x0 s) := by
  intro r x0 s k
  unfold hangAgain
  repeat' first
    | with_reducible assumption
    | with_reducible apply dieReset_keeps
    | with_reducible apply onDie_keeps
    | with_reducible apply countReplay_keeps

theorem faultStep_keeps : ∀ r x0 s, Keeps r s → Keeps r (@faultStep x0 s) := by
  intro r x0 s k
  unfold faultStep
  try dsimp (zeta := false) only [mk_upd]
  repeat' first
    | with_reducible assumption
    | with_reducible apply onSched_keeps
    | with_reducible apply giveUpStep_keeps
    | (with_reducible apply upd_keeps; constructor <;> first | rfl | (simp only [List.length_map, List.length_zipIdx, modifyAt_length]; done))
    | extract_lets
    | split

theorem watchdog_keeps : ∀ r x0 s, Keeps r s → Keeps r (@watchdog x0 s) := by
  intro r x0 s k
  unfold watchdog
  repeat' first
    | with_reducible assumption
    | with_reducible apply hangAgain_keeps
    | with_reducible apply dieReset_keeps
    | with_reducible apply onDie_keeps
    | with_reducible apply faultStep_keeps
    | with_reducible apply quarantine_keeps
    | (with_reducible apply Keeps.fold; intro r s a k)
    | extract_lets
    | split

theorem moveSegs_keeps : ∀ r x0 x1 s, ∀ t, @moveSegs x0 x1 s = some t → Keeps r s → Keeps r t := by
  intro r x d s t ht k
  unfold moveSegs at ht
  extract_lets mine u at ht
  obtain ⟨y, hy, rfl⟩ := Option.map_eq_some_iff.mp ht
  exact placeAll_keeps _ _ _ _ _ _ _ hy (onMem_keeps _ _ _ rfl rfl k)

theorem moveRun_keeps : ∀ r x0 x1 s, Keeps r s → Keeps r (@moveRun x0 x1 s) := by
  intro r x0 x1 s k
  unfold moveRun
  try dsimp (zeta := false) only [mk_upd]
  repeat' first
    | with_reducible assumption
    | (with_reducible apply moveSegs_keeps; with_reducible assumption)
    | with_reducible apply onRun_keeps
    | with_reducible apply endRun_keeps
    | (with_reducible apply upd_keeps; constructor <;> first | rfl | (simp only [List.length_map, List.length_zipIdx, modifyAt_length]; done))
    | split

theorem freeEngines_keeps : ∀ r x0 s, Keeps r s → Keeps r (@freeEngines x0 s) := by
  intro r x0 s k
  unfold freeEngines
  repeat' first
    | with_reducible assumption
    | with_reducible apply makeReady_keeps
    | with_reducible apply setHolder_keeps
    | (with_reducible apply Keeps.fold; intro r s a k)
    | split

theorem moveRuns_keeps : ∀ r x0 s, Keeps r s → Keeps r (@moveRuns x0 s) := by
  intro r x0 s k
  unfold moveRuns
  repeat' first
    | with_reducible assumption
    | with_reducible apply endHang_keeps
    | with_reducible apply onDie_keeps
    | with_reducible apply moveRun_keeps
    | with_reducible apply onTrain_keeps
    | with_reducible apply restartRuns_keeps
    | with_reducible apply replayNext_keeps
    | with_reducible apply freeEngines_keeps
    | (with_reducible apply Keeps.fold; intro r s a k)
    | extract_lets
    | split

theorem loseShare_keeps : ∀ r x0 s, Keeps r s → Keeps r (@loseShare x0 s) := by
  intro r x0 s k
  unfold loseShare
  repeat' first
    | with_reducible assumption
    | (with_reducible apply onMem_keeps; exact rfl; exact rfl)

theorem reloadSeg_keeps : ∀ r x0 s, Keeps r s → Keeps r (@reloadSeg x0 s) := by
  intro r x0 s k
  unfold reloadSeg
  repeat' first
    | with_reducible assumption
    | with_reducible apply loadSeg_keeps
    | split

theorem reloadPinned_keeps : ∀ r x0 s, Keeps r s → Keeps r (@reloadPinned x0 s) :=
  fun _ _ _ k => Keeps.fold _ _ _ (fun _ _ _ h => reloadSeg_keeps _ _ _ h) k

theorem movePinned_keeps : ∀ r x0 s, Keeps r s → Keeps r (@movePinned x0 s) := by
  intro r x0 s k
  unfold movePinned
  refine Keeps.fold _ _ _ ?_ k
  intro r s a k
  split
  · exact reloadSeg_keeps _ _ _ (onMem_keeps _ _ _ rfl rfl (placeSeg_keeps _ _ _ _ _ _ _ _ ‹_› (dropSeg_keeps _ _ _ k)))
  · exact dropSeg_keeps _ _ _ k

theorem dieFailed_keeps : ∀ r x0 s, Keeps r s → Keeps r (@dieFailed x0 s) := by
  intro r x0 s k
  unfold dieFailed
  try dsimp (zeta := false) only [mk_upd]
  repeat' first
    | with_reducible assumption
    | with_reducible apply onDie_keeps
    | with_reducible apply degradeReliability_keeps
    | with_reducible apply setCritical_keeps
    | with_reducible apply onFtl_keeps
    | with_reducible apply moveRuns_keeps
    | with_reducible apply movePinned_keeps
    | with_reducible apply loseShare_keeps
    | (with_reducible apply upd_keeps; constructor <;> first | rfl | (simp only [List.length_map, List.length_zipIdx, modifyAt_length]; done))
    | split

theorem dieReturn_keeps : ∀ r x0 x1 s, Keeps r s → Keeps r (@dieReturn x0 x1 s) := by
  intro r x0 x1 s k
  unfold dieReturn
  repeat' first
    | with_reducible assumption
    | with_reducible apply dieFailed_keeps
    | with_reducible apply resumeDie_keeps
    | with_reducible apply endHang_keeps
    | with_reducible apply reloadPinned_keeps
    | split

theorem dropGeneration_keeps : ∀ r x0 s, Keeps r s → Keeps r (@dropGeneration x0 s) := by
  intro r x0 s k
  unfold dropGeneration
  try dsimp (zeta := false) only [mk_upd]
  repeat' first
    | with_reducible assumption
    | with_reducible apply onDie_keeps
    | with_reducible apply endRun_keeps
    | with_reducible apply onTrain_keeps
    | with_reducible apply dropRun_keeps
    | with_reducible apply haltRun_keeps
    | (with_reducible apply upd_keeps; constructor <;> first | rfl | (simp only [List.length_map, List.length_zipIdx, modifyAt_length]; done))
    | extract_lets
    | split

theorem retireOne_keeps : ∀ r x0 s, Keeps r s → Keeps r (@retireOne x0 s) := by
  intro r x0 s k
  unfold retireOne
  try dsimp (zeta := false) only [mk_upd]
  repeat' first
    | with_reducible assumption
    | with_reducible apply retireColumn_keeps
    | with_reducible apply onFtl_keeps
    | (with_reducible apply onMem_keeps; exact rfl; exact rfl)
    | with_reducible apply logEvent_keeps
    | with_reducible apply onDie_keeps
    | with_reducible apply degradeReliability_keeps
    | (with_reducible apply upd_keeps; constructor <;> first | rfl | (simp only [List.length_map, List.length_zipIdx, modifyAt_length]; done))
    | extract_lets
    | split
    | (dsimp +zetaDelta (zeta := false) only)

theorem retireCore_keeps : ∀ r x0 x1 s, Keeps r s → Keeps r (@retireCore x0 x1 s) := by
  intro r x0 x1 s k
  unfold retireCore
  repeat' first
    | with_reducible assumption
    | with_reducible apply finishDw_keeps
    | with_reducible apply hold_keeps
    | with_reducible apply finish_keeps
    | with_reducible apply retireOne_keeps
    | (with_reducible apply Keeps.fold; intro r s a k)
    | extract_lets
    | split

theorem finishJob_keeps : ∀ r x0 s, Keeps r s → Keeps r (@finishJob x0 s) := by
  intro r x0 s k
  unfold finishJob
  repeat' first
    | with_reducible assumption
    | with_reducible apply finishRead_keeps
    | with_reducible apply placeWrite_keeps
    | with_reducible apply finishCopyNvm_keeps
    | with_reducible apply finishServed_keeps
    | with_reducible apply moveUnits_keeps
    | with_reducible apply absorbScan_keeps
    | with_reducible apply absorbPiece_keeps
    | with_reducible apply finishEmbed_keeps
    | with_reducible apply finishExamples_keeps
    | with_reducible apply finishCopy_keeps
    | with_reducible apply closeJob_keeps
    | split

theorem deliverRead_keeps : ∀ r x0 x1 s, Keeps r s → Keeps r (@deliverRead x0 x1 s) := by
  intro r x0 x1 s k
  unfold deliverRead
  try dsimp (zeta := false) only [mk_upd]
  repeat' first
    | with_reducible assumption
    | with_reducible apply onFtl_keeps
    | (with_reducible apply onPlain_keeps; exact rfl; exact rfl)
    | (with_reducible apply onPlain_keeps; iterate 2 first | exact rfl | (simp only [List.length_map, List.length_zipIdx, modifyAt_length]; done))
    | with_reducible apply onValley_keeps
    | with_reducible apply deliver_keeps
    | with_reducible apply pump_keeps
    | with_reducible apply finishJob_keeps
    | (with_reducible apply upd_keeps; constructor <;> first | rfl | (simp only [List.length_map, List.length_zipIdx, modifyAt_length]; done))
    | (with_reducible apply Keeps.fold; intro r s a k)
    | (with_reducible apply Keeps.fold2; intro r p a k)
    | extract_lets
    | (split; rename_i h; split at h; all_goals first | cases h | skip)
    | split
    | (dsimp +zetaDelta (zeta := false) only)
    | (with_reducible apply_assumption)

theorem onRead_keeps : ∀ r x0 x1 s, Keeps r s → Keeps r (@onRead x0 x1 s) := by
  intro r x0 x1 s k
  unfold onRead
  repeat' first
    | with_reducible assumption
    | with_reducible apply onFtl_keeps

theorem decoded_keeps : ∀ r x0 s, Keeps r s → Keeps r (@decoded x0 s) := by
  intro r x0 s k
  unfold decoded
  repeat' first
    | with_reducible assumption
    | with_reducible apply deliverRead_keeps

theorem readDone_keeps : ∀ r x0 x1 x2 x3 s, Keeps r s → Keeps r (@readDone x0 x1 x2 x3 s) := by
  intro r x0 x1 x2 x3 s k
  unfold readDone
  repeat' first
    | with_reducible assumption
    | with_reducible apply onValley_keeps
    | with_reducible apply onFtlStats_keeps
    | with_reducible apply decoded_keeps
    | with_reducible apply onRead_keeps
    | split
    | (dsimp +zetaDelta (zeta := false) only)

theorem softDone_keeps : ∀ r x0 x1 s, Keeps r s → Keeps r (@softDone x0 x1 s) := by
  intro r x0 x1 s k
  unfold softDone
  repeat' first
    | with_reducible assumption
    | with_reducible apply onValley_keeps
    | with_reducible apply softRewrite_keeps
    | with_reducible apply decoded_keeps
    | with_reducible apply onRead_keeps
    | split
    | (dsimp +zetaDelta (zeta := false) only)

theorem onDies'_keeps : ∀ r f s, (f s.dies).dies.length = s.dies.dies.length → Keeps r s → Keeps r (onDies' f s) :=
  fun _ _ _ h k => upd_keeps ⟨rfl, rfl, rfl, rfl, rfl, rfl, h, rfl, rfl, rfl⟩ k

theorem retireWorn_keeps : ∀ r x0 s, Keeps r s → Keeps r (@retireWorn x0 s) := by
  intro r x0 s k
  unfold retireWorn
  repeat' first
    | with_reducible assumption
    | with_reducible apply retireColumn_keeps
    | with_reducible apply onFtl_keeps
    | with_reducible apply logEvent_keeps
    | (with_reducible apply onDies'_keeps; first | exact rfl | (simp only [List.length_map, List.length_zipIdx, modifyAt_length]; done))
    | extract_lets
    | split

theorem noteRecovered_keeps : ∀ r x0 x1 s, Keeps r s → Keeps r (@noteRecovered x0 x1 s) := by
  intro r x0 x1 s k
  unfold noteRecovered
  repeat' first
    | with_reducible assumption
    | with_reducible apply logEvent_keeps
    | with_reducible apply onFtl_keeps
    | extract_lets
    | split

theorem deliverPoisoned_keeps : ∀ r x0 x1 s, Keeps r s → Keeps r (@deliverPoisoned x0 x1 s) := by
  intro r x0 x1 s k
  unfold deliverPoisoned
  repeat' first
    | with_reducible assumption
    | with_reducible apply logEvent_keeps
    | with_reducible apply countPoison_keeps
    | with_reducible apply deliverRead_keeps

theorem recoverRead_keeps : ∀ r x0 x1 x2 s, Keeps r s → Keeps r (@recoverRead x0 x1 x2 s) := by
  intro r x0 x1 x2 s k
  unfold recoverRead
  try dsimp (zeta := false) only [mk_upd]
  repeat' first
    | with_reducible assumption
    | with_reducible apply retireWorn_keeps
    | with_reducible apply noteRecovered_keeps
    | (with_reducible apply onDies'_keeps; first | exact rfl | (simp only [List.length_map, List.length_zipIdx, modifyAt_length]; done))
    | with_reducible apply decoded_keeps
    | (with_reducible apply onPlain_keeps; exact rfl; exact rfl)
    | (with_reducible apply onPlain_keeps; iterate 2 first | exact rfl | (simp only [List.length_map, List.length_zipIdx, modifyAt_length]; done))
    | with_reducible apply startStream_keeps
    | (with_reducible apply startStream_keeps'; with_reducible assumption)
    | with_reducible apply deliverPoisoned_keeps
    | (with_reducible apply upd_keeps; constructor <;> first | rfl | (simp only [List.length_map, List.length_zipIdx, modifyAt_length]; done))
    | (with_reducible apply Keeps.fold; intro r s a k)
    | (with_reducible apply Keeps.fold2; intro r p a k)
    | extract_lets
    | (split; rename_i h; split at h; all_goals first | cases h | skip)
    | split
    | (dsimp +zetaDelta (zeta := false) only)
    | (with_reducible apply_assumption)

theorem takeStreamFlit_keeps : ∀ r x0 s, Keeps r s → Keeps r (@takeStreamFlit x0 s) := by
  intro r x0 s k
  unfold takeStreamFlit
  try dsimp (zeta := false) only [mk_upd]
  repeat' first
    | with_reducible assumption
    | with_reducible apply passStream_keeps
    | with_reducible apply noteRecovered_keeps
    | (with_reducible apply onDies'_keeps; first | exact rfl | (simp only [List.length_map, List.length_zipIdx, modifyAt_length]; done))
    | with_reducible apply deliverRead_keeps
    | split

theorem endRecess_keeps : ∀ r s, Keeps r s → Keeps r (@endRecess s) := by
  intro r s k
  unfold endRecess
  repeat' first
    | with_reducible assumption
    | (with_reducible apply onBell_keeps; first | exact rfl | (simp only [List.length_map, List.length_zipIdx, modifyAt_length]; done))

theorem firmwareRecess_keeps : ∀ r s, Keeps r s → Keeps r (@firmwareRecess s) := by
  intro r s k
  unfold firmwareRecess
  try dsimp (zeta := false) only [mk_upd]
  repeat' first
    | with_reducible assumption
    | (with_reducible apply upd_keeps; constructor <;> first | rfl | (simp only [List.length_map, List.length_zipIdx, modifyAt_length]; done))
    | extract_lets
    | split
    | (dsimp +zetaDelta (zeta := false) only)

theorem startRecess_keeps : ∀ r s, Keeps r s → Keeps r (@startRecess s) := by
  intro r s k
  unfold startRecess
  repeat' first
    | with_reducible assumption
    | (with_reducible apply onBell_keeps; first | exact rfl | (simp only [List.length_map, List.length_zipIdx, modifyAt_length]; done))
    | with_reducible apply pump_keeps
    | with_reducible apply firmwareRecess_keeps
    | with_reducible apply imageRecess_keeps
    | with_reducible apply plainRecess_keeps
    | with_reducible apply indexRecess_keeps
    | with_reducible apply ftlRecess_keeps

theorem selectTimetable_keeps : ∀ r x0 x1 s, Keeps r s → Keeps r (@selectTimetable x0 x1 s) := by
  intro r x0 x1 s k
  unfold selectTimetable
  repeat' first
    | with_reducible assumption
    | with_reducible apply finish_keeps
    | (with_reducible apply onBell_keeps; first | exact rfl | (simp only [List.length_map, List.length_zipIdx, modifyAt_length]; done))
    | with_reducible apply begin'_keeps
    | with_reducible apply sendTo_keeps
    | (with_reducible apply Keeps.fold; intro r s a k)
    | split

theorem takeSelection_keeps : ∀ r x0 x1 x2 s, Keeps r s → Keeps r (@takeSelection x0 x1 x2 s) := by
  intro r x0 x1 x2 s k
  unfold takeSelection
  repeat' first
    | with_reducible assumption
    | (with_reducible apply onBell_keeps; first | exact rfl | (simp only [List.length_map, List.length_zipIdx, modifyAt_length]; done))
    | with_reducible apply finish_keeps
    | extract_lets
    | split

theorem selectionBoundary_keeps : ∀ r s, Keeps r s → Keeps r (@selectionBoundary s) := by
  intro r s k
  unfold selectionBoundary
  repeat' first
    | with_reducible assumption
    | with_reducible apply finish_keeps
    | (with_reducible apply onBell_keeps; first | exact rfl | (simp only [List.length_map, List.length_zipIdx, modifyAt_length]; done))
    | extract_lets
    | split
    | (dsimp +zetaDelta (zeta := false) only)

theorem nextCount_keeps : ∀ r s, Keeps r s → Keeps r (@nextCount s).2 := by
  intro r s k
  unfold nextCount
  try dsimp (zeta := false) only [mk_upd]
  repeat' first
    | with_reducible assumption
    | (with_reducible apply onBell_keeps; first | exact rfl | (simp only [List.length_map, List.length_zipIdx, modifyAt_length]; done))
    | (with_reducible apply upd_keeps; constructor <;> first | rfl | (simp only [List.length_map, List.length_zipIdx, modifyAt_length]; done))
    | extract_lets
    | split

theorem nextCount_keeps' : ∀ r s a t, @nextCount s = (a, t) → Keeps r s → Keeps r t := by
  intro r s a t e k
  have := nextCount_keeps r s k
  rw [e] at this
  exact this

theorem turnBell_keeps : ∀ r s, Keeps r s → Keeps r (@turnBell s) := by
  intro r s k
  unfold turnBell
  split
  rename_i hw
  have kw := nextCount_keeps' _ _ _ _ hw k
  extract_lets est nom off u v e
  refine upd_keeps ⟨rfl, rfl, rfl, rfl, rfl, rfl, rfl, rfl, rfl, rfl⟩ (onFtl_keeps _ _ _ (kw.trans ⟨rfl, fun _ => Nat.zero_le _, id, id⟩))

theorem stampBell_keeps : ∀ r x0 s, Keeps r s → Keeps r (@stampBell x0 s) := by
  intro r x0 s k
  unfold stampBell
  repeat' first
    | with_reducible assumption
    | with_reducible apply sendBell_keeps
    | (with_reducible apply onBell_keeps; first | exact rfl | (simp only [List.length_map, List.length_zipIdx, modifyAt_length]; done))

theorem applyFeatures_keeps : ∀ r s, Keeps r s → Keeps r (@applyFeatures s) := by
  intro r s k
  unfold applyFeatures
  repeat' first
    | with_reducible assumption
    | with_reducible apply onHost_keeps

theorem recordBell_keeps : ∀ r x0 x1 x2 s, Keeps r s → Keeps r (@recordBell x0 x1 x2 s) := by
  intro r x0 x1 x2 s k
  unfold recordBell
  repeat' first
    | with_reducible assumption
    | (with_reducible apply onBell_keeps; first | exact rfl | (simp only [List.length_map, List.length_zipIdx, modifyAt_length]; done))

theorem checkFollowing_keeps : ∀ r s, Keeps r s → Keeps r (@checkFollowing s) := by
  intro r s k
  unfold checkFollowing
  repeat' first
    | with_reducible assumption
    | (with_reducible apply onBell_keeps; first | exact rfl | (simp only [List.length_map, List.length_zipIdx, modifyAt_length]; done))
    | split

theorem carryRecess_keeps : ∀ r s, Keeps r s → Keeps r (@carryRecess s) := by
  intro r s k
  unfold carryRecess
  repeat' first
    | with_reducible assumption
    | (with_reducible apply onBell_keeps; first | exact rfl | (simp only [List.length_map, List.length_zipIdx, modifyAt_length]; done))
    | with_reducible apply gcInClass_keeps
    | with_reducible apply endRecess_keeps
    | split

theorem boundary_keeps : ∀ r x0 x1 x2 s, Keeps r s → Keeps r (@boundary x0 x1 x2 s) := by
  intro r x0 x1 x2 s k
  unfold boundary
  try dsimp (zeta := false) only [mk_upd]
  repeat' first
    | with_reducible assumption
    | with_reducible apply stampBell_keeps
    | with_reducible apply turnBell_keeps
    | with_reducible apply selectionBoundary_keeps
    | with_reducible apply applyFeatures_keeps
    | with_reducible apply activationBoundary_keeps
    | with_reducible apply countWaits_keeps
    | with_reducible apply recordBell_keeps
    | with_reducible apply trainBoundary_keeps
    | with_reducible apply publishDue_keeps
    | with_reducible apply pump_keeps
    | with_reducible apply carryRecess_keeps
    | with_reducible apply checkFollowing_keeps
    | with_reducible apply plainBoundary_keeps
    | (with_reducible apply upd_keeps; constructor <;> first | rfl | (simp only [List.length_map, List.length_zipIdx, modifyAt_length]; done))
    | (with_reducible apply Keeps.fold; intro r s a k)
    | (with_reducible apply Keeps.fold2; intro r p a k)
    | extract_lets
    | (split; rename_i h; split at h; all_goals first | cases h | skip)
    | split
    | (dsimp +zetaDelta (zeta := false) only)
    | (with_reducible apply_assumption)

theorem glitch_keeps : ∀ r s, Keeps r s → Keeps r (@glitch s) := by
  intro r s k
  unfold glitch
  repeat' first
    | with_reducible assumption
    | (with_reducible apply onBell_keeps; first | exact rfl | (simp only [List.length_map, List.length_zipIdx, modifyAt_length]; done))

theorem acceptEdge_keeps : ∀ r x0 s, Keeps r s → Keeps r (@acceptEdge x0 s) := by
  intro r x0 s k
  unfold acceptEdge
  repeat' first
    | with_reducible assumption
    | (with_reducible apply onBell_keeps; first | exact rfl | (simp only [List.length_map, List.length_zipIdx, modifyAt_length]; done))
    | with_reducible apply boundary_keeps
    | extract_lets
    | split
    | (dsimp +zetaDelta (zeta := false) only)

theorem lockEdge_keeps : ∀ r x0 s, Keeps r s → Keeps r (@lockEdge x0 s) := by
  intro r x0 s k
  unfold lockEdge
  repeat' first
    | with_reducible assumption
    | (with_reducible apply onBell_keeps; first | exact rfl | (simp only [List.length_map, List.length_zipIdx, modifyAt_length]; done))
    | with_reducible apply boundary_keeps
    | with_reducible apply renewReference_keeps

theorem watchEdge_keeps : ∀ r x0 s, Keeps r s → Keeps r (@watchEdge x0 s) := by
  intro r x0 s k
  unfold watchEdge
  repeat' first
    | with_reducible assumption
    | (with_reducible apply onBell_keeps; first | exact rfl | (simp only [List.length_map, List.length_zipIdx, modifyAt_length]; done))

theorem bellEdge_keeps : ∀ r x0 x1 s, Keeps r s → Keeps r (@bellEdge x0 x1 s) := by
  intro r x0 x1 s k
  unfold bellEdge
  repeat' first
    | with_reducible assumption
    | with_reducible apply glitch_keeps
    | with_reducible apply acceptEdge_keeps
    | with_reducible apply lockEdge_keeps
    | with_reducible apply watchEdge_keeps
    | split

theorem loseBell_keeps : ∀ r s, Keeps r s → Keeps r (@loseBell s) := by
  intro r s k
  unfold loseBell
  repeat' first
    | with_reducible assumption
    | with_reducible apply vendorEvent_keeps
    | (with_reducible apply onBell_keeps; first | exact rfl | (simp only [List.length_map, List.length_zipIdx, modifyAt_length]; done))
    | with_reducible apply renewReference_keeps
    | extract_lets
    | split
    | (dsimp +zetaDelta (zeta := false) only)

theorem downloadCore_keeps : ∀ r x0 x1 x2 s, Keeps r s → Keeps r (@downloadCore x0 x1 x2 s) := by
  intro r x0 x1 x2 s k
  unfold downloadCore
  try dsimp (zeta := false) only [mk_upd]
  repeat' first
    | with_reducible assumption
    | with_reducible apply finish_keeps
    | (with_reducible apply upd_keeps; constructor <;> first | rfl | (simp only [List.length_map, List.length_zipIdx, modifyAt_length]; done))
    | split

theorem admitCommit_keeps : ∀ r x0 x1 k s, (∀ r s, Keeps r s → Keeps r (k s)) → Keeps r s → Keeps r (@admitCommit x0 x1 k s) := by
  intro r x0 x1 k s hk k
  unfold admitCommit
  repeat' first
    | with_reducible assumption
    | with_reducible apply hk
    | (with_reducible apply admitAdmin_keeps; (intro r s k))
    | with_reducible apply finish_keeps
    | split

theorem replaceCore_keeps : ∀ r x0 x1 s, Keeps r s → Keeps r (@replaceCore x0 x1 s) := by
  intro r x0 x1 s k
  unfold replaceCore
  try dsimp (zeta := false) only [mk_upd]
  repeat' first
    | with_reducible assumption
    | with_reducible apply finish_keeps
    | with_reducible apply begin'_keeps
    | (with_reducible apply upd_keeps; constructor <;> first | rfl | (simp only [List.length_map, List.length_zipIdx, modifyAt_length]; done))
    | split

theorem recordFirmware_keeps : ∀ r x0 s, Keeps r s → Keeps r (@recordFirmware x0 s) := by
  intro r x0 s k
  unfold recordFirmware
  repeat' first
    | with_reducible assumption
    | with_reducible apply norRecord_keeps

theorem endFirmwareCommit_keeps : ∀ r x0 s, Keeps r s → Keeps r (@endFirmwareCommit x0 s) := by
  intro r x0 s k
  unfold endFirmwareCommit
  try dsimp (zeta := false) only [mk_upd]
  repeat' first
    | with_reducible assumption
    | with_reducible apply recordFirmware_keeps
    | with_reducible apply finish_keeps
    | (with_reducible apply upd_keeps; constructor <;> first | rfl | (simp only [List.length_map, List.length_zipIdx, modifyAt_length]; done))
    | split

theorem newNonce_keeps : ∀ r s, Keeps r s → Keeps r (@newNonce s) := by
  intro r s k
  unfold newNonce
  try dsimp (zeta := false) only [mk_upd]
  repeat' first
    | with_reducible assumption
    | with_reducible apply draw_keeps
    | (with_reducible apply upd_keeps; constructor <;> first | rfl | (simp only [List.length_map, List.length_zipIdx, modifyAt_length]; done))

theorem unlockCore_keeps : ∀ r x0 x1 s, Keeps r s → Keeps r (@unlockCore x0 x1 s) := by
  intro r x0 x1 s k
  unfold unlockCore
  try dsimp (zeta := false) only [mk_upd]
  repeat' first
    | with_reducible assumption
    | with_reducible apply finishDw_keeps
    | with_reducible apply newNonce_keeps
    | with_reducible apply finish_keeps
    | with_reducible apply onNor_keeps
    | (with_reducible apply upd_keeps; constructor <;> first | rfl | (simp only [List.length_map, List.length_zipIdx, modifyAt_length]; done))
    | split

theorem spdmAnswer_keeps : ∀ r x0 x1 s, Keeps r s → Keeps r (@spdmAnswer x0 x1 s) := by
  intro r x0 x1 s k
  unfold spdmAnswer
  try dsimp (zeta := false) only [mk_upd]
  repeat' first
    | with_reducible assumption
    | with_reducible apply respond_keeps
    | (with_reducible apply upd_keeps; constructor <;> first | rfl | (simp only [List.length_map, List.length_zipIdx, modifyAt_length]; done))

theorem spdmError_keeps : ∀ r x0 x1 s, Keeps r s → Keeps r (@spdmError x0 x1 s) := by
  intro r x0 x1 s k
  unfold spdmError
  repeat' first
    | with_reducible assumption
    | with_reducible apply respond_keeps

theorem spdmIn_keeps : ∀ r x0 k s, (∀ r s, Keeps r s → Keeps r (k s)) → Keeps r s → Keeps r (@spdmIn x0 k s) := by
  intro r x0 k s hk k
  unfold spdmIn
  repeat' first
    | with_reducible assumption
    | with_reducible apply hk
    | with_reducible apply spdmError_keeps
    | split

theorem spdmNonce_keeps : ∀ r s, Keeps r s → Keeps r (@spdmNonce s).2 := by
  intro r s k
  unfold spdmNonce
  repeat' first
    | with_reducible assumption
    | with_reducible apply draw_keeps

theorem spdmNonce_keeps' : ∀ r s a t, @spdmNonce s = (a, t) → Keeps r s → Keeps r t := by
  intro r s a t e k
  have := spdmNonce_keeps r s k
  rw [e] at this
  exact this

theorem spdmSigned_keeps : ∀ r x0 x1 s, Keeps r s → Keeps r (@spdmSigned x0 x1 s) := by
  intro r x0 x1 s k
  unfold spdmSigned
  repeat' first
    | with_reducible assumption
    | with_reducible apply spdmAnswer_keeps

theorem selfTestCore_keeps : ∀ r x0 x1 s, Keeps r s → Keeps r (@selfTestCore x0 x1 s) := by
  intro r x0 x1 s k
  unfold selfTestCore
  try dsimp (zeta := false) only [mk_upd]
  repeat' first
    | with_reducible assumption
    | with_reducible apply finish_keeps
    | with_reducible apply onHost_keeps
    | (with_reducible apply upd_keeps; constructor <;> first | rfl | (simp only [List.length_map, List.length_zipIdx, modifyAt_length]; done))
    | split

theorem formatNs_keeps : ∀ r x0 x1 s, Keeps r s → Keeps r (@formatNs x0 x1 s) := by
  intro r x0 x1 s k
  unfold formatNs
  repeat' first
    | with_reducible assumption
    | with_reducible apply markStaleSegs_keeps
    | with_reducible apply dropDefers_keeps
    | with_reducible apply unmapNs_keeps
    | with_reducible apply newKey_keeps
    | split

theorem formatCore_keeps : ∀ r x0 x1 x2 s, Keeps r s → Keeps r (@formatCore x0 x1 x2 s) := by
  intro r x0 x1 x2 s k
  unfold formatCore
  repeat' first
    | with_reducible assumption
    | with_reducible apply finish_keeps
    | with_reducible apply sendTable_keeps
    | with_reducible apply formatNs_keeps
    | (with_reducible apply Keeps.fold; intro r s a k)
    | extract_lets
    | split

theorem endForSanitize_keeps : ∀ r s, Keeps r s → Keeps r (@endForSanitize s) := by
  intro r s k
  unfold endForSanitize
  try dsimp (zeta := false) only [mk_upd]
  repeat' first
    | with_reducible assumption
    | with_reducible apply stopWork_keeps
    | with_reducible apply closeJobs_keeps
    | with_reducible apply onHost_keeps
    | with_reducible apply onFtl_keeps
    | with_reducible apply post_keeps
    | (with_reducible apply Keeps.fold; intro r s a k)

theorem cryptoErase_keeps : ∀ r s, Keeps r s → Keeps r (@cryptoErase s) := by
  intro r s k
  unfold cryptoErase
  try dsimp (zeta := false) only [mk_upd]
  repeat' first
    | with_reducible assumption
    | with_reducible apply newKey_keeps
    | with_reducible apply dropDefers_keeps
    | with_reducible apply norRecord_keeps
    | with_reducible apply onFtl_keeps
    | with_reducible apply onIdx_keeps
    | with_reducible apply writeCheckpoint_keeps
    | (with_reducible apply onMem_keeps; exact rfl; exact rfl)
    | (with_reducible apply upd_keeps; constructor <;> first | rfl | (simp only [List.length_map, List.length_zipIdx, modifyAt_length]; done))
    | (with_reducible apply Keeps.fold; intro r s a k)

theorem beginSanitize_keeps : ∀ r x0 x1 x2 s, Keeps r s → Keeps r (@beginSanitize x0 x1 x2 s) := by
  intro r x0 x1 x2 s k
  unfold beginSanitize
  try dsimp (zeta := false) only [mk_upd]
  repeat' first
    | with_reducible assumption
    | with_reducible apply cryptoErase_keeps
    | (with_reducible apply upd_keeps; constructor <;> first | rfl | (simp only [List.length_map, List.length_zipIdx, modifyAt_length]; done))

theorem sanitizeCore_keeps : ∀ r x0 x1 s, Keeps r s → Keeps r (@sanitizeCore x0 x1 s) := by
  intro r x0 x1 s k
  unfold sanitizeCore
  repeat' first
    | with_reducible assumption
    | with_reducible apply finish_keeps
    | with_reducible apply norBlock_keeps
    | with_reducible apply beginSanitize_keeps
    | with_reducible apply endForSanitize_keeps
    | split

theorem blockErase_keeps : ∀ r s, Keeps r s → Keeps r (@blockErase s) := by
  intro r s k
  unfold blockErase
  repeat' first
    | with_reducible assumption
    | with_reducible apply onFtl_keeps
    | with_reducible apply clearCritical_keeps
    | extract_lets
    | split

theorem endPrograms_keeps : ∀ r s, Keeps r s → Keeps r (@endPrograms s) := by
  intro r s k
  unfold endPrograms
  repeat' first
    | with_reducible assumption
    | with_reducible apply endGroup_keeps
    | (with_reducible apply Keeps.fold; intro r s a k)

theorem flushAll_keeps : ∀ r s, Keeps r s → Keeps r (@flushAll s) := by
  intro r s k
  unfold flushAll
  try dsimp (zeta := false) only [mk_upd]
  repeat' first
    | with_reducible assumption
    | with_reducible apply endPrograms_keeps
    | with_reducible apply startAll_keeps
    | with_reducible apply programJournal_keeps
    | with_reducible apply onFtl_keeps
    | (with_reducible apply upd_keeps; constructor <;> first | rfl | (simp only [List.length_map, List.length_zipIdx, modifyAt_length]; done))
    | (with_reducible apply Keeps.fold; intro r s a k)
    | (with_reducible apply Keeps.fold2; intro r p a k)
    | extract_lets
    | (split; rename_i h; split at h; all_goals first | cases h | skip)
    | split
    | (dsimp +zetaDelta (zeta := false) only)
    | (with_reducible apply_assumption)

theorem flushPart_keeps : ∀ r s, Keeps r s → Keeps r (@flushPart s) := by
  intro r s k
  unfold flushPart
  try dsimp (zeta := false) only [mk_upd]
  repeat' first
    | with_reducible assumption
    | with_reducible apply endPrograms_keeps
    | with_reducible apply commitUnit_keeps
    | with_reducible apply onCol_keeps
    | with_reducible apply onIdx_keeps
    | with_reducible apply onFtl_keeps
    | (with_reducible apply upd_keeps; constructor <;> first | rfl | (simp only [List.length_map, List.length_zipIdx, modifyAt_length]; done))
    | (with_reducible apply Keeps.fold; intro r s a k)
    | split

theorem flushNor_keeps : ∀ r s, Keeps r s → Keeps r (@flushNor s) := by
  intro r s k
  unfold flushNor
  repeat' first
    | with_reducible assumption
    | with_reducible apply optDone_keeps
    | with_reducible apply onNor_keeps
    | split

theorem flushContent_keeps : ∀ r x0 s, Keeps r s → Keeps r (@flushContent x0 s) := by
  intro r x0 s k
  unfold flushContent
  repeat' first
    | with_reducible assumption
    | with_reducible apply flushNor_keeps
    | with_reducible apply flushAll_keeps
    | with_reducible apply flushPart_keeps
    | split

theorem cutResident_keeps : ∀ r s, Keeps r s → Keeps r (@cutResident s) := by
  intro r s k
  unfold cutResident
  try dsimp (zeta := false) only [mk_upd]
  repeat' first
    | with_reducible assumption
    | with_reducible apply onImg_keeps
    | with_reducible apply norRecord_keeps
    | (with_reducible apply norRecord_keeps'; with_reducible assumption)
    | (with_reducible apply upd_keeps; constructor <;> first | rfl | (simp only [List.length_map, List.length_zipIdx, modifyAt_length]; done))
    | (with_reducible apply Keeps.fold; intro r s a k)
    | (with_reducible apply Keeps.fold2; intro r p a k)
    | extract_lets
    | (split; rename_i h; split at h; all_goals first | cases h | skip)
    | split
    | (dsimp +zetaDelta (zeta := false) only)
    | (with_reducible apply_assumption)

theorem cutFirmware_keeps : ∀ r s, Keeps r s → Keeps r (@cutFirmware s) := by
  intro r s k
  unfold cutFirmware
  try dsimp (zeta := false) only [mk_upd]
  repeat' first
    | with_reducible assumption
    | (with_reducible apply upd_keeps; constructor <;> first | rfl | (simp only [List.length_map, List.length_zipIdx, modifyAt_length]; done))
    | (with_reducible apply Keeps.fold; intro r s a k)
    | (with_reducible apply Keeps.fold2; intro r p a k)
    | extract_lets
    | (split; rename_i h; split at h; all_goals first | cases h | skip)
    | split
    | (dsimp +zetaDelta (zeta := false) only)
    | (with_reducible apply_assumption)

theorem wholeReset_keeps : ∀ r x0 s, Keeps r s → Keeps r (@wholeReset x0 s) := by
  intro r c s k
  unfold wholeReset
  extract_lets t now bell
  have kt : Keeps r t := cutFirmware_keeps _ _ (cutResident_keeps _ _ k)
  refine kt.trans ⟨rfl, fun _ => Nat.zero_le _, fun o => ?_, fun _ => ⟨rfl, rfl⟩⟩
  exact ⟨(List.length_map ..).trans o.1, rfl, rfl, rfl, rfl, (List.length_map ..).trans o.2.2.2.2.2.1, rfl⟩

theorem startOptions_keeps : ∀ r s, Keeps r s → Keeps r (@startOptions s) := by
  intro r s k
  unfold startOptions
  try dsimp (zeta := false) only [mk_upd]
  repeat' first
    | with_reducible assumption
    | with_reducible apply readOptions_keeps
    | with_reducible apply onNor_keeps
    | with_reducible apply logEvent_keeps
    | with_reducible apply degradeReliability_keeps
    | with_reducible apply onPower_keeps
    | (with_reducible apply upd_keeps; constructor <;> first | rfl | (simp only [List.length_map, List.length_zipIdx, modifyAt_length]; done))
    | (with_reducible apply Keeps.fold; intro r s a k)
    | (with_reducible apply Keeps.fold2; intro r p a k)
    | extract_lets
    | (split; rename_i h; split at h; all_goals first | cases h | skip)
    | split
    | (dsimp +zetaDelta (zeta := false) only)
    | (with_reducible apply_assumption)

theorem startFirmware_keeps : ∀ r s, Keeps r s → Keeps r (@startFirmware s) := by
  intro r s k
  unfold startFirmware
  try dsimp (zeta := false) only [mk_upd]
  repeat' first
    | with_reducible assumption
    | with_reducible apply recordFirmware_keeps
    | (with_reducible apply upd_keeps; constructor <;> first | rfl | (simp only [List.length_map, List.length_zipIdx, modifyAt_length]; done))
    | (with_reducible apply Keeps.fold; intro r s a k)
    | (with_reducible apply Keeps.fold2; intro r p a k)
    | extract_lets
    | (split; rename_i h; split at h; all_goals first | cases h | skip)
    | split
    | (dsimp +zetaDelta (zeta := false) only)
    | (with_reducible apply_assumption)

theorem measureBank_keeps : ∀ r x0 s, Keeps r s → Keeps r (@measureBank x0 s) := by
  intro r x0 s k
  unfold measureBank
  try dsimp (zeta := false) only [mk_upd]
  repeat' first
    | with_reducible assumption
    | with_reducible apply onPower_keeps
    | with_reducible apply setCritical_keeps
    | with_reducible apply clearCritical_keeps
    | (with_reducible apply upd_keeps; constructor <;> first | rfl | (simp only [List.length_map, List.length_zipIdx, modifyAt_length]; done))
    | (with_reducible apply Keeps.fold; intro r s a k)
    | (with_reducible apply Keeps.fold2; intro r p a k)
    | extract_lets
    | (split; rename_i h; split at h; all_goals first | cases h | skip)
    | split
    | (dsimp +zetaDelta (zeta := false) only)
    | (with_reducible apply_assumption)

theorem eraseHalf_keeps : ∀ r s, Keeps r s → Keeps r (@eraseHalf s) := by
  intro r s k
  unfold eraseHalf
  try dsimp (zeta := false) only [mk_upd]
  repeat' first
    | with_reducible assumption
    | with_reducible apply norFlag_keeps
    | with_reducible apply norRecord_keeps
    | (with_reducible apply norRecord_keeps'; with_reducible assumption)
    | with_reducible apply freeSb_keeps
    | with_reducible apply onFtl_keeps
    | with_reducible apply onCol_keeps
    | (with_reducible apply upd_keeps; constructor <;> first | rfl | (simp only [List.length_map, List.length_zipIdx, modifyAt_length]; done))
    | (with_reducible apply Keeps.fold; intro r s a k)
    | (with_reducible apply Keeps.fold2; intro r p a k)
    | extract_lets
    | (split; rename_i h; split at h; all_goals first | cases h | skip)
    | split
    | (dsimp +zetaDelta (zeta := false) only)
    | (with_reducible apply_assumption)

theorem findFlush_keeps : ∀ r s, Keeps r s → Keeps r (@findFlush s) := by
  intro r s k
  unfold findFlush
  try dsimp (zeta := false) only [mk_upd]
  repeat' first
    | with_reducible assumption
    | with_reducible apply setMap_keeps
    | with_reducible apply recordLosses_keeps
    | with_reducible apply onCol_keeps
    | with_reducible apply onPower_keeps
    | (with_reducible apply upd_keeps; constructor <;> first | rfl | (simp only [List.length_map, List.length_zipIdx, modifyAt_length]; done))
    | (with_reducible apply Keeps.fold; intro r s a k)
    | (with_reducible apply Keeps.fold2; intro r p a k)
    | extract_lets
    | (split; rename_i h; split at h; all_goals first | cases h | skip)
    | split
    | (dsimp +zetaDelta (zeta := false) only)
    | (with_reducible apply_assumption)

theorem startIndexes_keeps : ∀ r s, Keeps r s → Keeps r (@startIndexes s) := by
  intro r s k
  unfold startIndexes
  try dsimp (zeta := false) only [mk_upd]
  repeat' first
    | with_reducible assumption
    | with_reducible apply publishDue_keeps
    | with_reducible apply onIdx_keeps
    | with_reducible apply releaseSlots_keeps
    | (with_reducible apply upd_keeps; constructor <;> first | rfl | (simp only [List.length_map, List.length_zipIdx, modifyAt_length]; done))
    | (with_reducible apply Keeps.fold; intro r s a k)
    | (with_reducible apply Keeps.fold2; intro r p a k)
    | extract_lets
    | (split; rename_i h; split at h; all_goals first | cases h | skip)
    | split
    | (dsimp +zetaDelta (zeta := false) only)
    | (with_reducible apply_assumption)

theorem restartSanitize_keeps : ∀ r s, Keeps r s → Keeps r (@restartSanitize s) := by
  intro r s k
  unfold restartSanitize
  try dsimp (zeta := false) only [mk_upd]
  repeat' first
    | with_reducible assumption
    | with_reducible apply beginSanitize_keeps
    | split

theorem coldStart_keeps : ∀ r x0 x1 s, Keeps r s → Keeps r (@coldStart x0 x1 s) := by
  intro r fs mj s k
  unfold coldStart
  extract_lets p a b ag c d e
  have ka : Keeps r p := startFirmware_keeps _ _ (startOptions_keeps _ _ (onPower_keeps _ _ _ k))
  clear_value p
  have kb : Keeps r a := by
    dsimp only [a]
    split <;> exact measureBank_keeps _ _ _ ka
  clear_value a
  have kc : Keeps r ag := Keeps.fold _ _ _ (fun _ _ _ k => dieFailed_keeps _ _ _ k) kb
  clear_value ag
  have kd : Keeps r c := by
    dsimp only [c]
    split
    · exact degradeReliability_keeps _ _ kc
    · exact kc
  clear_value c
  have ke : Keeps r d := by
    dsimp only [d]
    split
    · exact setCritical_keeps _ _ _ _ (onFtl_keeps _ _ _ kd)
    · exact onFtl_keeps _ _ _ kd
  clear_value d
  split
  · exact ke
  have kf : Keeps r e := startIndexes_keeps _ _ (findFlush_keeps _ _ (eraseHalf_keeps _ _ ke))
  clear_value e
  split
  · exact putImage_keeps _ _ _ _ _ kf
  · exact restartSanitize_keeps _ _ (startImage_keeps _ _ kf)

theorem powerLoss_keeps : ∀ r x0 s, Keeps r s → Keeps r (@powerLoss x0 s) := by
  intro r x0 s k
  unfold powerLoss
  try dsimp (zeta := false) only [mk_upd]
  repeat' first
    | with_reducible assumption
    | with_reducible apply onPower_keeps
    | with_reducible apply wholeReset_keeps
    | with_reducible apply flushContent_keeps
    | with_reducible apply controllerReset_keeps
    | (with_reducible apply upd_keeps; constructor <;> first | rfl | (simp only [List.length_map, List.length_zipIdx, modifyAt_length]; done))
    | (with_reducible apply Keeps.fold; intro r s a k)
    | (with_reducible apply Keeps.fold2; intro r p a k)
    | extract_lets
    | (split; rename_i h; split at h; all_goals first | cases h | skip)
    | split
    | (dsimp +zetaDelta (zeta := false) only)
    | (with_reducible apply_assumption)

theorem arrayToFloor_keeps : ∀ r s, Keeps r s → Keeps r (@arrayToFloor s) := by
  intro r s k
  unfold arrayToFloor
  try dsimp (zeta := false) only [mk_upd]
  repeat' first
    | with_reducible assumption
    | with_reducible apply onPower_keeps

theorem powerStep_keeps : ∀ r s, Keeps r s → Keeps r (@powerStep s) := by
  intro r s k
  unfold powerStep
  try dsimp (zeta := false) only [mk_upd]
  repeat' first
    | with_reducible assumption
    | with_reducible apply onPower_keeps
    | with_reducible apply vendorEvent_keeps
    | (with_reducible apply upd_keeps; constructor <;> first | rfl | (simp only [List.length_map, List.length_zipIdx, modifyAt_length]; done))
    | (with_reducible apply Keeps.fold; intro r s a k)
    | (with_reducible apply Keeps.fold2; intro r p a k)
    | extract_lets
    | (split; rename_i h; split at h; all_goals first | cases h | skip)
    | split
    | (dsimp +zetaDelta (zeta := false) only)
    | (with_reducible apply_assumption)

theorem thermalStep_keeps : ∀ r s, Keeps r s → Keeps r (@thermalStep s) := by
  intro r s k
  unfold thermalStep
  try dsimp (zeta := false) only [mk_upd]
  repeat' first
    | with_reducible assumption
    | with_reducible apply onPower_keeps
    | extract_lets
    | split

theorem overheat_keeps : ∀ r x0 s, Keeps r s → Keeps r (@overheat x0 s) := by
  intro r x0 s k
  unfold overheat
  try dsimp (zeta := false) only [mk_upd]
  repeat' first
    | with_reducible assumption
    | with_reducible apply onPower_keeps
    | with_reducible apply wholeReset_keeps
    | with_reducible apply flushContent_keeps
    | with_reducible apply controllerReset_keeps
    | (with_reducible apply upd_keeps; constructor <;> first | rfl | (simp only [List.length_map, List.length_zipIdx, modifyAt_length]; done))
    | (with_reducible apply Keeps.fold; intro r s a k)
    | (with_reducible apply Keeps.fold2; intro r p a k)
    | extract_lets
    | (split; rename_i h; split at h; all_goals first | cases h | skip)
    | split
    | (dsimp +zetaDelta (zeta := false) only)
    | (with_reducible apply_assumption)

theorem bankReading_keeps : ∀ r x0 s, Keeps r s → Keeps r (@bankReading x0 s) := by
  intro r x0 s k
  unfold bankReading
  try dsimp (zeta := false) only [mk_upd]
  repeat' first
    | with_reducible assumption
    | with_reducible apply setCritical_keeps
    | with_reducible apply onPower_keeps
    | (with_reducible apply upd_keeps; constructor <;> first | rfl | (simp only [List.length_map, List.length_zipIdx, modifyAt_length]; done))
    | (with_reducible apply Keeps.fold; intro r s a k)
    | (with_reducible apply Keeps.fold2; intro r p a k)
    | extract_lets
    | (split; rename_i h; split at h; all_goals first | cases h | skip)
    | split
    | (dsimp +zetaDelta (zeta := false) only)
    | (with_reducible apply_assumption)

theorem dieReading_keeps : ∀ r x0 x1 s, Keeps r s → Keeps r (@dieReading x0 x1 s) := by
  intro r x0 x1 s k
  unfold dieReading
  try dsimp (zeta := false) only [mk_upd]
  repeat' first
    | with_reducible assumption
    | with_reducible apply onPower_keeps
    | with_reducible apply overheat_keeps
    | with_reducible apply setCritical_keeps
    | with_reducible apply clearCritical_keeps
    | (with_reducible apply upd_keeps; constructor <;> first | rfl | (simp only [List.length_map, List.length_zipIdx, modifyAt_length]; done))
    | (with_reducible apply Keeps.fold; intro r s a k)
    | (with_reducible apply Keeps.fold2; intro r p a k)
    | extract_lets
    | (split; rename_i h; split at h; all_goals first | cases h | skip)
    | split
    | (dsimp +zetaDelta (zeta := false) only)
    | (with_reducible apply_assumption)

theorem tryShutdown_keeps : ∀ r s, Keeps r s → Keeps r (@tryShutdown s) := by
  intro r s k
  unfold tryShutdown
  try dsimp (zeta := false) only [mk_upd]
  repeat' first
    | with_reducible assumption
    | with_reducible apply onHost_keeps
    | with_reducible apply flushAll_keeps
    | (with_reducible apply upd_keeps; constructor <;> first | rfl | (simp only [List.length_map, List.length_zipIdx, modifyAt_length]; done))
    | (with_reducible apply Keeps.fold; intro r s a k)
    | (with_reducible apply Keeps.fold2; intro r p a k)
    | extract_lets
    | (split; rename_i h; split at h; all_goals first | cases h | skip)
    | split
    | (dsimp +zetaDelta (zeta := false) only)
    | (with_reducible apply_assumption)

theorem rearm_keeps : ∀ r x0 s, Keeps r s → Keeps r (@rearm x0 s) := by
  intro r x0 s k
  unfold rearm
  try dsimp (zeta := false) only [mk_upd]
  repeat' first
    | with_reducible assumption
    | (with_reducible apply upd_keeps; constructor <;> first | rfl | (simp only [List.length_map, List.length_zipIdx, modifyAt_length]; done))
    | (with_reducible apply Keeps.fold; intro r s a k)
    | (with_reducible apply Keeps.fold2; intro r p a k)
    | extract_lets
    | (split; rename_i h; split at h; all_goals first | cases h | skip)
    | split
    | (dsimp +zetaDelta (zeta := false) only)
    | (with_reducible apply_assumption)

theorem logCore_keeps : ∀ r x0 x1 x2 x3 x4 s, Keeps r s → Keeps r (@logCore x0 x1 x2 x3 x4 s) := by
  intro r x0 x1 x2 x3 x4 s k
  unfold logCore
  try dsimp (zeta := false) only [mk_upd]
  repeat' first
    | with_reducible assumption
    | with_reducible apply finish_keeps
    | with_reducible apply finishData_keeps
    | with_reducible apply rearm_keeps
    | (with_reducible apply upd_keeps; constructor <;> first | rfl | (simp only [List.length_map, List.length_zipIdx, modifyAt_length]; done))
    | (with_reducible apply Keeps.fold; intro r s a k)
    | (with_reducible apply Keeps.fold2; intro r p a k)
    | extract_lets
    | (split; rename_i h; split at h; all_goals first | cases h | skip)
    | split
    | (dsimp +zetaDelta (zeta := false) only)
    | (with_reducible apply_assumption)

theorem identifyCore_keeps : ∀ r x0 x1 x2 s, Keeps r s → Keeps r (@identifyCore x0 x1 x2 s) := by
  intro r x0 x1 x2 s k
  unfold identifyCore
  try dsimp (zeta := false) only [mk_upd]
  repeat' first
    | with_reducible assumption
    | with_reducible apply finishData_keeps
    | with_reducible apply finish_keeps
    | (with_reducible apply upd_keeps; constructor <;> first | rfl | (simp only [List.length_map, List.length_zipIdx, modifyAt_length]; done))
    | (with_reducible apply Keeps.fold; intro r s a k)
    | (with_reducible apply Keeps.fold2; intro r p a k)
    | extract_lets
    | (split; rename_i h; split at h; all_goals first | cases h | skip)
    | split
    | (dsimp +zetaDelta (zeta := false) only)
    | (with_reducible apply_assumption)

theorem passTick_keeps : ∀ r s, Keeps r s → Keeps r (@passTick s) := by
  intro r s k
  refine k.trans ⟨rfl, fun o => ?_, id, id⟩
  show (if s.bell.tick < 1023 then s.bell.tick + 1 else s.bell.tick) ≤ 1023
  split
  · omega
  · exact o

theorem ofItself_keeps : ∀ r s, Keeps r s → Keeps r (@ofItself s) := by
  intro r s k
  unfold ofItself
  try dsimp (zeta := false) only [mk_upd]
  repeat' first
    | with_reducible assumption
    | with_reducible apply tryShutdown_keeps
    | with_reducible apply tryLeave_keeps
    | with_reducible apply trainIdle_keeps
    | with_reducible apply endAborts_keeps
    | (with_reducible apply upd_keeps; constructor <;> first | rfl | (simp only [List.length_map, List.length_zipIdx, modifyAt_length]; done))
    | (with_reducible apply Keeps.fold; intro r s a k)
    | (with_reducible apply Keeps.fold2; intro r p a k)
    | extract_lets
    | (split; rename_i h; split at h; all_goals first | cases h | skip)
    | split
    | (dsimp +zetaDelta (zeta := false) only)
    | (with_reducible apply_assumption)

end Sys2Proof.Machine
end

