-- ==== Sys2Proof/Laws/Lanes.lean ====
section
/-! SUPPORT. Association lists and the registers of a vector unit: what is read after a write. -/

namespace Sys2Proof.Machine

theorem lookup_setKey {α : Type} (k : Nat) (v : α) (l : List (Nat × α)) (j : Nat) :
    lookupNat (setKey k v l) j = if j = k then some v else lookupNat l j := by
  induction l with
  | nil =>
    by_cases h : j = k
    · simp [setKey, lookupNat, h]
    · have h' : (k == j) = false := by simpa using Ne.symm h
      simp [setKey, lookupNat, h, h']
  | cons a r ih =>
    obtain ⟨i, w⟩ := a
    simp only [lookupNat] at ih ⊢
    unfold setKey
    split
    · by_cases h : j = k
      · simp [h]
      · have h' : (k == j) = false := by simpa using Ne.symm h
        simp [h, h']
    · split
      · rename_i h1 h2
        subst h2
        by_cases h : j = k
        · simp [h]
        · have h' : (k == j) = false := by simpa using Ne.symm h
          simp [h, h']
      · rename_i h1 h2
        by_cases h : j = i
        · subst h
          have : j ≠ k := by omega
          simp [this]
        · have h' : (i == j) = false := by simpa using Ne.symm h
          simp only [List.find?_cons, h']
          exact ih

theorem lookup_dropKey {α : Type} (k : Nat) (l : List (Nat × α)) (j : Nat) :
    lookupNat (dropKey k l) j = if j = k then none else lookupNat l j := by
  induction l with
  | nil => simp [dropKey, lookupNat]
  | cons a r ih =>
    obtain ⟨i, w⟩ := a
    simp only [lookupNat, dropKey] at ih ⊢
    by_cases hi : i = k
    · subst hi
      by_cases h : j = i
      · simp only [h, bne_self_eq_false, Bool.false_eq_true, not_false_eq_true, List.filter_cons_of_neg, if_true]
        rw [h] at ih; simp only [if_true] at ih; exact ih
      · have h' : (i == j) = false := by simpa using Ne.symm h
        simp only [bne_self_eq_false, Bool.false_eq_true, not_false_eq_true, List.filter_cons_of_neg, List.find?_cons, h']
        exact ih
    · have hb : (i != k) = true := by simpa using hi
      simp only [hb, List.filter_cons_of_pos, List.find?_cons]
      by_cases h : j = i
      · subst h; simp [hi]
      · have h' : (i == j) = false := by simpa using Ne.symm h
        simp only [h']
        exact ih

theorem contains_insertSet (k j : Nat) (l : List Nat) : (insertSet k l).contains j = (j == k || l.contains j) := by
  induction l with
  | nil => rw [Bool.eq_iff_iff]; simp [insertSet]
  | cons a r ih =>
    unfold insertSet
    split
    · rw [Bool.eq_iff_iff]; simp
    · split
      · rename_i h1 h2; subst h2; rw [Bool.eq_iff_iff]; simp +contextual
      · rw [List.contains_cons, ih, List.contains_cons]
        cases (j == a) <;> cases (j == k) <;> rfl

theorem contains_filter_ne (k j : Nat) (l : List Nat) : (l.filter (· != k)).contains j = (j != k && l.contains j) := by
  rw [Bool.eq_iff_iff]; simp [and_comm]

/-- A register after one lane has been written. -/
theorem Vu.lane_put1 (v : Vu) (reg i : Nat) (x : BitVec 32) (b : Bool) (q j : Nat) (hi : i < 64) (hj : j < 64) :
    (v.put reg [(i, x, b)]).lane q j = (if q = reg ∧ j = i then x else v.lane q j) ∧
    (v.put reg [(i, x, b)]).bad q j = (if q = reg ∧ j = i then b else v.bad q j) := by
  have e : (64 * q + j = 64 * reg + i) ↔ (q = reg ∧ j = i) := by omega
  simp only [Vu.put, List.foldl_cons, List.foldl_nil, Vu.lane, Vu.bad]
  constructor
  · by_cases hx : x = 0#32
    · rw [if_pos hx, lookup_dropKey]
      by_cases h : q = reg ∧ j = i
      · rw [if_pos (e.mpr h), if_pos h, hx]; rfl
      · rw [if_neg (fun c => h (e.mp c)), if_neg h]
    · rw [if_neg hx, lookup_setKey]
      by_cases h : q = reg ∧ j = i
      · rw [if_pos (e.mpr h), if_pos h]; rfl
      · rw [if_neg (fun c => h (e.mp c)), if_neg h]
  · cases b
    · rw [if_neg (by simp), contains_filter_ne]
      by_cases h : q = reg ∧ j = i
      · rw [if_pos h]; simp [e.mpr h]
      · rw [if_neg h]
        have : (64 * q + j != 64 * reg + i) = true := by simpa using fun c => h (e.mp c)
        rw [this, Bool.true_and]
    · rw [if_pos rfl, contains_insertSet]
      by_cases h : q = reg ∧ j = i
      · rw [if_pos h]; simp [e.mpr h]
      · rw [if_neg h]
        have : (64 * q + j == 64 * reg + i) = false := by simpa using fun c => h (e.mp c)
        rw [this, Bool.false_or]

theorem Vu.put_cons (v : Vu) (reg : Nat) (a : Nat × BitVec 32 × Bool) (l : List (Nat × BitVec 32 × Bool)) :
    v.put reg (a :: l) = (v.put reg [a]).put reg l := by
  simp [Vu.put, List.foldl_cons]

/-- A register after the lanes of a list of numbers have been written. -/
theorem Vu.lane_put (l : List Nat) (f : Nat → BitVec 32) (p : Nat → Bool) (v : Vu) (reg : Nat) (hl : ∀ i ∈ l, i < 64) (q j : Nat)
    (hj : j < 64) :
    (v.put reg (l.map fun i => (i, f i, p i))).lane q j = (if q = reg ∧ j ∈ l then f j else v.lane q j) ∧
    (v.put reg (l.map fun i => (i, f i, p i))).bad q j = (if q = reg ∧ j ∈ l then p j else v.bad q j) := by
  induction l generalizing v with
  | nil => simp [Vu.put]
  | cons i r ih =>
    rw [List.map_cons, Vu.put_cons]
    have h1 := ih (v.put reg [(i, f i, p i)]) (fun x hx => hl x (List.mem_cons_of_mem _ hx))
    have h2 := Vu.lane_put1 v reg i (f i) (p i) q j (hl i List.mem_cons_self) hj
    constructor
    · rw [h1.1, h2.1]
      by_cases a : q = reg <;> by_cases b : j ∈ r <;> by_cases c : j = i <;> simp [a, b, c]
    · rw [h1.2, h2.2]
      by_cases a : q = reg <;> by_cases b : j ∈ r <;> by_cases c : j = i <;> simp [a, b, c]

theorem getD_modifyAt {α : Type} (l : List α) (n m : Nat) (f : α → α) (d : α) (hn : n < l.length) :
    (modifyAt l n f).getD m d = if m = n then f (l.getD n d) else l.getD m d := by
  induction l generalizing n m with
  | nil => simp at hn
  | cons a r ih =>
    cases n with
    | zero => cases m <;> simp [modifyAt]
    | succ n =>
      cases m with
      | zero => simp [modifyAt]
      | succ m => simp only [modifyAt, List.getD_cons_succ]; rw [ih n m (by simpa using hn)]; simp

/-- A vector unit changed. -/
theorem onVu_vu (n m : Nat) (f : Vu → Vu) (s : State) (hn : n < s.eng.vu.length) :
    (onVu n f s).vu m = if m = n then f (s.vu n) else s.vu m := getD_modifyAt _ _ _ _ _ hn

theorem claim_eng (e : Engine) (id : Nat) (s : State) : (claim e id s).eng = s.eng := by
  unfold claim; split <;> rfl

/-- An operation by lane over whole registers. -/
theorem vuLanes_writes (run vu dst : Nat) (srcs : List Nat) (f : List (BitVec 32) → BitVec 32) (s : State)
    (ok : s.mayIssue run (.vu vu) = true) (hv : vu < s.eng.vu.length) :
    VuWrites run vu dst (fun i => f (srcs.map fun r => (s.vu vu).lane r i)) (fun i => srcs.any fun r => (s.vu vu).bad r i) s
      (.next (vuOp run vu (vuLanes vu dst srcs f) s)) := by
  have he : (claim (.vu vu) run s).eng = s.eng := claim_eng _ _ _
  have hu : ∀ n, (claim (.vu vu) run s).vu n = s.vu n := fun n => by simp only [State.vu, he]
  have hl : vu < (claim (.vu vu) run s).eng.vu.length := by rw [he]; exact hv
  refine ⟨vuLanes vu dst srcs f (claim (.vu vu) run s), by rw [vuOp, if_pos ok], fun i hi => ?_, fun q i hq hi => ?_, fun n hn => ?_, ?_, ?_, rfl⟩
  · simp only [vuLanes]; rw [onVu_vu _ _ _ _ hl, if_pos rfl, hu]
    have := Vu.lane_put (List.range 64) (fun i => f (srcs.map fun r => (s.vu vu).lane r i)) (fun i => srcs.any fun r => (s.vu vu).bad r i)
      (s.vu vu) dst (by simp) dst i hi
    simpa [hi] using this
  · simp only [vuLanes]; rw [onVu_vu _ _ _ _ hl, if_pos rfl, hu]
    have := Vu.lane_put (List.range 64) (fun i => f (srcs.map fun r => (s.vu vu).lane r i)) (fun i => srcs.any fun r => (s.vu vu).bad r i)
      (s.vu vu) dst (by simp) q i hi
    simpa [hq] using this
  · simp only [vuLanes]; rw [onVu_vu _ _ _ _ hl, if_neg hn, hu]
  · exact (congrArg EngSt.mxa he :)
  · exact (congrArg EngSt.movers he :)

end Sys2Proof.Machine
end

