-- ==== Sys2Proof/Laws/PerInstr.lean ====
section
/-! SUPPORT. A law of every command as syntax: a well-formed host command names a queue that its kind may use and a 16-bit
identifier. -/

namespace Sys2Proof.Laws.Queue

/-- A well-formed host command is on queue 0 to 512 (R95) with a 16-bit identifier. -/
def Statement (i : Instr) : Prop :=
  ∀ h, i.hdr? = some h → i.wellFormed = true → h.sq ≤ 512 ∧ h.cid < 65536

/-- An admin header is on queue 0. -/
theorem of_admin {h : Hdr} (w : h.admin = true) : h.sq ≤ 512 ∧ h.cid < 65536 := by
  simp only [Hdr.admin, fits, Bool.and_eq_true, beq_iff_eq, decide_eq_true_eq] at w
  omega

/-- The first check of a conjunction. -/
theorem first {a b : Bool} (w : (a && b) = true) : a = true := ((Bool.and_eq_true a b).mp w).1

/-- An I/O header is on queue 1 to 512. -/
theorem of_io {h : Hdr} (w : h.io = true) : h.sq ≤ 512 ∧ h.cid < 65536 := by
  simp only [Hdr.io, fits, Bool.and_eq_true, decide_eq_true_eq] at w
  omega

theorem structureLoad (h : Hdr) (len ofst : Nat) (data : Blob) : Statement (.structureLoad h len ofst data) := by
  intro g e w
  cases e
  exact of_admin (first (first (first w)))

theorem structureVerify (h : Hdr) : Statement (.structureVerify h) := by
  intro g e w
  cases e
  exact of_admin w

theorem structureVerifyActivate (h : Hdr) : Statement (.structureVerifyActivate h) := by
  intro g e w
  cases e
  exact of_admin w

theorem structureActivateResidentCommit (h : Hdr) : Statement (.structureActivateResidentCommit h) := by
  intro g e w
  cases e
  exact of_admin w

theorem makeActiveResident (h : Hdr) : Statement (.makeActiveResident h) := by
  intro g e w
  cases e
  exact of_admin w

theorem activateResidentImage (h : Hdr) : Statement (.activateResidentImage h) := by
  intro g e w
  cases e
  exact of_admin w

theorem activateRomDefault (h : Hdr) : Statement (.activateRomDefault h) := by
  intro g e w
  cases e
  exact of_admin w

theorem structureActivateReserved (h : Hdr) (action : Nat) : Statement (.structureActivateReserved h action) := by
  intro g e w
  cases e
  exact of_admin (first w)

theorem activateStructureBusy  : Statement (.activateStructureBusy) := fun _ e => nomatch e

theorem residentCommitDone  : Statement (.residentCommitDone) := fun _ e => nomatch e

theorem plainJoin (h : Hdr) (data : Blob) : Statement (.plainJoin h data) := by
  intro g e w
  cases e
  exact of_admin (first w)

theorem joinWaitExpired  : Statement (.joinWaitExpired) := fun _ e => nomatch e

theorem autoJoin  : Statement (.autoJoin) := fun _ e => nomatch e

theorem plainLeave (h : Hdr) : Statement (.plainLeave h) := by
  intro g e w
  cases e
  exact of_admin w

theorem retireResource (h : Hdr) (data : Blob) : Statement (.retireResource h data) := by
  intro g e w
  cases e
  exact of_admin (first w)

theorem maintenanceUnlock (h : Hdr) (data : Blob) : Statement (.maintenanceUnlock h data) := by
  intro g e w
  cases e
  exact of_admin (first w)

theorem createIoSubmissionQueue (h : Hdr) (qid qsize cqid : Nat) (pc : Bool) : Statement (.createIoSubmissionQueue h qid qsize cqid pc) := by
  intro g e w
  cases e
  exact of_admin (first (first (first w)))

theorem createIoCompletionQueue (h : Hdr) (qid qsize iv : Nat) (pc : Bool) : Statement (.createIoCompletionQueue h qid qsize iv pc) := by
  intro g e w
  cases e
  exact of_admin (first (first (first w)))

theorem deleteIoSubmissionQueue (h : Hdr) (qid : Nat) : Statement (.deleteIoSubmissionQueue h qid) := by
  intro g e w
  cases e
  exact of_admin (first w)

theorem deleteIoCompletionQueue (h : Hdr) (qid : Nat) : Statement (.deleteIoCompletionQueue h qid) := by
  intro g e w
  cases e
  exact of_admin (first w)

theorem getLogPage (h : Hdr) (lid numd lpo : Nat) (rae : Bool) : Statement (.getLogPage h lid numd lpo rae) := by
  intro g e w
  cases e
  exact of_admin (first (first (first w)))

theorem identify (h : Hdr) (cns nsid : Nat) : Statement (.identify h cns nsid) := by
  intro g e w
  cases e
  exact of_admin (first (first w))

theorem abort (h : Hdr) (asq acid : Nat) : Statement (.abort h asq acid) := by
  intro g e w
  cases e
  exact of_admin (first (first w))

theorem setPowerEnvelope (h : Hdr) (sv : Bool) (watts : Nat) : Statement (.setPowerEnvelope h sv watts) := by
  intro g e w
  cases e
  exact of_admin (first w)

theorem timetableSelect (h : Hdr) (sv : Bool) (tt : Nat) : Statement (.timetableSelect h sv tt) := by
  intro g e w
  cases e
  exact of_admin (first w)

theorem setMediaPolicy (h : Hdr) (sv : Bool) (data : Blob) : Statement (.setMediaPolicy h sv data) := by
  intro g e w
  cases e
  exact of_admin (first w)

theorem setPlainMembership (h : Hdr) (sv : Bool) : Statement (.setPlainMembership h sv) := by
  intro g e w
  cases e
  exact of_admin w

theorem setQueryDefaults (h : Hdr) (sv : Bool) (data : Blob) : Statement (.setQueryDefaults h sv data) := by
  intro g e w
  cases e
  exact of_admin (first w)

theorem setPowerManagement (h : Hdr) (sv : Bool) (ps : Nat) : Statement (.setPowerManagement h sv ps) := by
  intro g e w
  cases e
  exact of_admin (first w)

theorem setArbitration (h : Hdr) (sv : Bool) (burst lpw mpw hpw : Nat) : Statement (.setArbitration h sv burst lpw mpw hpw) := by
  intro g e w
  cases e
  exact of_admin (first (first (first (first w))))

theorem setNumberOfQueues (h : Hdr) (sv : Bool) (nsq ncq : Nat) : Statement (.setNumberOfQueues h sv nsq ncq) := by
  intro g e w
  cases e
  exact of_admin (first (first w))

theorem getFeatures (h : Hdr) (fid sel : Nat) : Statement (.getFeatures h fid sel) := by
  intro g e w
  cases e
  exact of_admin (first (first w))

theorem asynchronousEventRequest (h : Hdr) : Statement (.asynchronousEventRequest h) := by
  intro g e w
  cases e
  exact of_admin w

theorem namespaceManagement (h : Hdr) (op : NsOp) : Statement (.namespaceManagement h op) := by
  intro g e w
  cases e
  exact of_admin (first w)

theorem namespaceAttachment (h : Hdr) (nsid : Nat) (attach : Bool) : Statement (.namespaceAttachment h nsid attach) := by
  intro g e w
  cases e
  exact of_admin (first w)

theorem firmwareImageDownload (h : Hdr) (ofst : Nat) (data : Blob) : Statement (.firmwareImageDownload h ofst data) := by
  intro g e w
  cases e
  exact of_admin (first (first w))

theorem firmwareCommitReplace (h : Hdr) (ca fs : Nat) : Statement (.firmwareCommitReplace h ca fs) := by
  intro g e w
  cases e
  exact of_admin (first (first w))

theorem firmwareCommitNoAction (h : Hdr) (fs : Nat) : Statement (.firmwareCommitNoAction h fs) := by
  intro g e w
  cases e
  exact of_admin (first w)

theorem firmwareCommitRefused (h : Hdr) (ca fs : Nat) : Statement (.firmwareCommitRefused h ca fs) := by
  intro g e w
  cases e
  exact of_admin (first (first w))

theorem deviceSelfTest (h : Hdr) (stc : Nat) : Statement (.deviceSelfTest h stc) := by
  intro g e w
  cases e
  exact of_admin (first w)

theorem nvmeMiSendReceive (h : Hdr) (m : MiCmd) : Statement (.nvmeMiSendReceive h m) := by
  intro g e w
  cases e
  exact of_admin (first w)

theorem formatNvm (h : Hdr) (nsid ses : Nat) : Statement (.formatNvm h nsid ses) := by
  intro g e w
  cases e
  exact of_admin (first (first w))

theorem sanitizeCryptoErase (h : Hdr) : Statement (.sanitizeCryptoErase h) := by
  intro g e w
  cases e
  exact of_admin w

theorem sanitizeBlockErase (h : Hdr) : Statement (.sanitizeBlockErase h) := by
  intro g e w
  cases e
  exact of_admin w

theorem sanitizeDone  : Statement (.sanitizeDone) := fun _ e => nomatch e

theorem nvmRead (h : Hdr) (nsid slba nlb : Nat) : Statement (.nvmRead h nsid slba nlb) := by
  intro g e w
  cases e
  exact of_io (first (first (first w)))

theorem readWithProxy (h : Hdr) (nsid slba nlb target : Nat) : Statement (.readWithProxy h nsid slba nlb target) := by
  intro g e w
  cases e
  exact of_io (first (first (first (first w))))

theorem nvmWrite (h : Hdr) (nsid slba nlb : Nat) (data : Blob) : Statement (.nvmWrite h nsid slba nlb data) := by
  intro g e w
  cases e
  exact of_io (first (first (first (first w))))

theorem writeZeroes (h : Hdr) (nsid slba nlb : Nat) : Statement (.writeZeroes h nsid slba nlb) := by
  intro g e w
  cases e
  exact of_io (first (first (first w)))

theorem datasetManagementDeallocate (h : Hdr) (nsid : Nat) (ad : Bool) (ranges : List LbaRange) : Statement (.datasetManagementDeallocate h nsid ad ranges) := by
  intro g e w
  cases e
  exact of_io (first (first (first w)))

theorem flush (h : Hdr) (nsid : Nat) : Statement (.flush h nsid) := by
  intro g e w
  cases e
  exact of_io (first w)

theorem memoryRead (h : Hdr) (nsid ofst len : Nat) : Statement (.memoryRead h nsid ofst len) := by
  intro g e w
  cases e
  exact of_io (first (first (first w)))

theorem memoryWrite (h : Hdr) (nsid ofst : Nat) (data : Blob) : Statement (.memoryWrite h nsid ofst data) := by
  intro g e w
  cases e
  exact of_io (first (first (first w)))

theorem memoryCopy (h : Hdr) (nsid ofst len : Nat) (src : CopySource) : Statement (.memoryCopy h nsid ofst len src) := by
  intro g e w
  cases e
  exact of_io (first (first (first (first w))))

theorem memoryRangeSetCreate (h : Hdr) (room : Nat) (ranges : List MemRange) : Statement (.memoryRangeSetCreate h room ranges) := by
  intro g e w
  cases e
  exact of_io (first (first w))

theorem memoryRangeSetDelete (h : Hdr) (room rsid : Nat) : Statement (.memoryRangeSetDelete h room rsid) := by
  intro g e w
  cases e
  exact of_io (first (first w))

theorem loadProgram (h : Hdr) (room pind : Nat) (image : Blob) : Statement (.loadProgram h room pind image) := by
  intro g e w
  cases e
  exact of_io (first (first (first w)))

theorem programActivationManagement (h : Hdr) (room pind : Nat) (activate : Bool) : Statement (.programActivationManagement h room pind activate) := by
  intro g e w
  cases e
  exact of_io (first (first w))

theorem executeLesson (h : Hdr) (room pind : Nat) (p : ParamRef) : Statement (.executeLesson h room pind p) := by
  intro g e w
  cases e
  exact of_io (first (first (first w)))

theorem filteredScan (h : Hdr) (room : Nat) (p : ParamRef) : Statement (.filteredScan h room p) := by
  intro g e w
  cases e
  exact of_io (first (first w))

theorem vectorQuery (h : Hdr) (room : Nat) (p : ParamRef) : Statement (.vectorQuery h room p) := by
  intro g e w
  cases e
  exact of_io (first (first w))

theorem indexInsert (h : Hdr) (room : Nat) (p : ParamRef) : Statement (.indexInsert h room p) := by
  intro g e w
  cases e
  exact of_io (first (first w))

theorem embedAndInsert (h : Hdr) (room : Nat) (p : ParamRef) : Statement (.embedAndInsert h room p) := by
  intro g e w
  cases e
  exact of_io (first (first w))

theorem indexDelete (h : Hdr) (room : Nat) (p : ParamRef) : Statement (.indexDelete h room p) := by
  intro g e w
  cases e
  exact of_io (first (first w))

theorem indexTrain (h : Hdr) (room : Nat) (p : ParamRef) : Statement (.indexTrain h room p) := by
  intro g e w
  cases e
  exact of_io (first (first w))

theorem trainStep (h : Hdr) (room : Nat) (p : ParamRef) : Statement (.trainStep h room p) := by
  intro g e w
  cases e
  exact of_io (first (first w))

theorem indexCreate (h : Hdr) (room : Nat) (p : ParamRef) : Statement (.indexCreate h room p) := by
  intro g e w
  cases e
  exact of_io (first (first w))

theorem indexDrop (h : Hdr) (room : Nat) (p : ParamRef) : Statement (.indexDrop h room p) := by
  intro g e w
  cases e
  exact of_io (first (first w))

theorem insertCommit (wid : Nat) : Statement (.insertCommit wid) := fun _ e => nomatch e

theorem indexSpaceFreed (serial : Nat) : Statement (.indexSpaceFreed serial) := fun _ e => nomatch e

theorem listFold (index list : Nat) : Statement (.listFold index list) := fun _ e => nomatch e

theorem queryFlashCutoff (run : Nat) : Statement (.queryFlashCutoff run) := fun _ e => nomatch e

theorem queryCoarseCutoff (run covered : Nat) : Statement (.queryCoarseCutoff run covered) := fun _ e => nomatch e

theorem queryRerankCutoff (run ranked : Nat) : Statement (.queryRerankCutoff run ranked) := fun _ e => nomatch e

theorem scanDeadlineEnd (run : Nat) : Statement (.scanDeadlineEnd run) := fun _ e => nomatch e

theorem valleyShareEnd (run valley : Nat) : Statement (.valleyShareEnd run valley) := fun _ e => nomatch e

theorem fill (run mxa : Nat) (d : Blob) : Statement (.fill run mxa d) := fun _ e => nomatch e

theorem fillDrainDone (mxa : Nat) : Statement (.fillDrainDone mxa) := fun _ e => nomatch e

theorem move (run mover : Nat) (d : Blob) : Statement (.move run mover d) := fun _ e => nomatch e

theorem moveDone (mover : Nat) : Statement (.moveDone mover) := fun _ e => nomatch e

theorem vuArithmetic (run vu : Nat) (op : VuArith) (ty : LaneType) (dst a b c : Nat) : Statement (.vuArithmetic run vu op ty dst a b c) := fun _ e => nomatch e

theorem vuFusedMultiplyAdd (run vu dst a b c : Nat) : Statement (.vuFusedMultiplyAdd run vu dst a b c) := fun _ e => nomatch e

theorem vuIntegerLogic (run vu : Nat) (op : VuLogic) (dst a b : Nat) : Statement (.vuIntegerLogic run vu op dst a b) := fun _ e => nomatch e

theorem vuFormatConversion (run vu : Nat) (store : Bool) (ty : LaneType) (fmt reg : Nat) (addr : BitVec 64) (scale : Option Nat) (lanes : Nat) : Statement (.vuFormatConversion run vu store ty fmt reg addr scale lanes) := fun _ e => nomatch e

theorem vuDivideSqrt (run vu : Nat) (op : VuDiv) (dst a b : Nat) : Statement (.vuDivideSqrt run vu op dst a b) := fun _ e => nomatch e

theorem vuTranscendental (run vu : Nat) (op : VuTrans) (dst a : Nat) : Statement (.vuTranscendental run vu op dst a) := fun _ e => nomatch e

theorem vuReduction (run vu : Nat) (op : VuReduce) (ty : LaneType) (dst first count : Nat) : Statement (.vuReduction run vu op ty dst first count) := fun _ e => nomatch e

theorem vuTableLookup (run vu dst idx : Nat) (wide : Bool) (width base : Nat) : Statement (.vuTableLookup run vu dst idx wide width base) := fun _ e => nomatch e

theorem vuScatterAdd (run vu : Nat) (ty : LaneType) (val idx : Nat) (base : BitVec 64) (lanes : Nat) : Statement (.vuScatterAdd run vu ty val idx base lanes) := fun _ e => nomatch e

theorem semaphoreWait (run : Nat) (e : Engine) (sem : Nat) : Statement (.semaphoreWait run e sem) := fun _ e => nomatch e

theorem semaphorePost (run sem : Nat) : Statement (.semaphorePost run sem) := fun _ e => nomatch e

theorem longSemWait (run : Nat) (e : Engine) : Statement (.longSemWait run e) := fun _ e => nomatch e

theorem bucketReady (room bucket : Nat) : Statement (.bucketReady room bucket) := fun _ e => nomatch e

theorem safePoint (e : Engine) : Statement (.safePoint e) := fun _ e => nomatch e

theorem sliceEnd (e : Engine) : Statement (.sliceEnd e) := fun _ e => nomatch e

theorem starveGrant (e : Engine) (run : Nat) : Statement (.starveGrant e run) := fun _ e => nomatch e

theorem watchdogFire (e : Engine) : Statement (.watchdogFire e) := fun _ e => nomatch e

theorem heartbeatMissed (core : Nat) : Statement (.heartbeatMissed core) := fun _ e => nomatch e

theorem dieReturn (die : Nat) (selfTestOk : Bool) : Statement (.dieReturn die selfTestOk) := fun _ e => nomatch e

theorem suspectReplay (die : Nat) (hang : Bool) : Statement (.suspectReplay die hang) := fun _ e => nomatch e

theorem replayWindowExpired (die : Nat) : Statement (.replayWindowExpired die) := fun _ e => nomatch e

theorem generationDropped (req : Nat) : Statement (.generationDropped req) := fun _ e => nomatch e

theorem lateReplyDrop (holder source tag : Nat) : Statement (.lateReplyDrop holder source tag) := fun _ e => nomatch e

theorem tier3ReadFailed (run : Nat) : Statement (.tier3ReadFailed run) := fun _ e => nomatch e

theorem flashReadDone (rid : Nat) (hardOk fullOk tagOk : Bool) : Statement (.flashReadDone rid hardOk fullOk tagOk) := fun _ e => nomatch e

theorem softSenseReadDone (rid : Nat) (ok : Bool) : Statement (.softSenseReadDone rid ok) := fun _ e => nomatch e

theorem readRecovery (rid : Nat) (bad : List Nat) (rowLost : Nat) : Statement (.readRecovery rid bad rowLost) := fun _ e => nomatch e

theorem groupProgramStart (stream : Stream) : Statement (.groupProgramStart stream) := fun _ e => nomatch e

theorem groupProgramDone (pid : Nat) (failed : List Nat) : Statement (.groupProgramDone pid failed) := fun _ e => nomatch e

theorem eraseDone (sb ch : Nat) (ok : Bool) : Statement (.eraseDone sb ch ok) := fun _ e => nomatch e

theorem readRefreshDue (sb ch : Nat) : Statement (.readRefreshDue sb ch) := fun _ e => nomatch e

theorem journalGroupProgram  : Statement (.journalGroupProgram) := fun _ e => nomatch e

theorem mapCheckpoint  : Statement (.mapCheckpoint) := fun _ e => nomatch e

theorem bellEdge (highNs : Nat) (b : Boundary) : Statement (.bellEdge highNs b) := fun _ e => nomatch e

theorem missedEdge (b : Boundary) : Statement (.missedEdge b) := fun _ e => nomatch e

theorem freeRunningBoundary (b : Boundary) : Statement (.freeRunningBoundary b) := fun _ e => nomatch e

theorem bellLost  : Statement (.bellLost) := fun _ e => nomatch e

theorem phaseClamp (b : Boundary) : Statement (.phaseClamp b) := fun _ e => nomatch e

theorem phaseFault  : Statement (.phaseFault) := fun _ e => nomatch e

theorem relockFromFollowing  : Statement (.relockFromFollowing) := fun _ e => nomatch e

theorem offNominal  : Statement (.offNominal) := fun _ e => nomatch e

theorem recessStarved  : Statement (.recessStarved) := fun _ e => nomatch e

theorem applyCopyDone (room : Nat) : Statement (.applyCopyDone room) := fun _ e => nomatch e

theorem recessStart  : Statement (.recessStart) := fun _ e => nomatch e

theorem classStart  : Statement (.classStart) := fun _ e => nomatch e

theorem bucketTimeout (room bucket participant : Nat) : Statement (.bucketTimeout room bucket participant) := fun _ e => nomatch e

theorem attemptRestart (room : Nat) : Statement (.attemptRestart room) := fun _ e => nomatch e

theorem headSilenceTimeout (room : Nat) : Statement (.headSilenceTimeout room) := fun _ e => nomatch e

theorem trainProgressSend (room : Nat) : Statement (.trainProgressSend room) := fun _ e => nomatch e

theorem portLinkLoss (port : Nat) : Statement (.portLinkLoss port) := fun _ e => nomatch e

theorem portDetect (port : Nat) : Statement (.portDetect port) := fun _ e => nomatch e

theorem portTrainDone (port lanes : Nat) : Statement (.portTrainDone port lanes) := fun _ e => nomatch e

theorem portIdentify (port : Nat) (far : PortIdentity) (echoes : List Nat) : Statement (.portIdentify port far echoes) := fun _ e => nomatch e

theorem portRetry (port : Nat) : Statement (.portRetry port) := fun _ e => nomatch e

theorem bellFlitReceived (port : Nat) (hd : FlitHdr) (f : BellFlit) : Statement (.bellFlitReceived port hd f) := fun _ e => nomatch e

theorem joinRequest (port : Nat) (hd : FlitHdr) (j : JoinReq) : Statement (.joinRequest port hd j) := fun _ e => nomatch e

theorem joinAdmit (port : Nat) (hd : FlitHdr) (a : JoinAnswer) : Statement (.joinAdmit port hd a) := fun _ e => nomatch e

theorem leaveMessage (port : Nat) (hd : FlitHdr) : Statement (.leaveMessage port hd) := fun _ e => nomatch e

theorem flowSetup (port : Nat) (hd : FlitHdr) (e : FlowEntry) : Statement (.flowSetup port hd e) := fun _ e => nomatch e

theorem nak (port seq : Nat) : Statement (.nak port seq) := fun _ e => nomatch e

theorem creditResync (port : Nat) (hd : FlitHdr) (counts : List Nat) : Statement (.creditResync port hd counts) := fun _ e => nomatch e

theorem parityAcknowledgement (port : Nat) (hd : FlitHdr) (a : ParityAck) : Statement (.parityAcknowledgement port hd a) := fun _ e => nomatch e

theorem trainStepMessage (port : Nat) (hd : FlitHdr) (m : TrainMsg) : Statement (.trainStepMessage port hd m) := fun _ e => nomatch e

theorem timetableSelectionMessage (port : Nat) (hd : FlitHdr) (tt bell : Nat) : Statement (.timetableSelectionMessage port hd tt bell) := fun _ e => nomatch e

theorem namespaceTableMessage (port : Nat) (hd : FlitHdr) (t : NsTable) : Statement (.namespaceTableMessage port hd t) := fun _ e => nomatch e

theorem plainWideQuery (port : Nat) (hd : FlitHdr) (q : PlainQuery) : Statement (.plainWideQuery port hd q) := fun _ e => nomatch e

theorem memberAnswer (port : Nat) (hd : FlitHdr) (a : MemberAnswer) : Statement (.memberAnswer port hd a) := fun _ e => nomatch e

theorem parityDelta (port : Nat) (hd : FlitHdr) (d : ParityDelta) : Statement (.parityDelta port hd d) := fun _ e => nomatch e

theorem rebuildStream (port : Nat) (hd : FlitHdr) (r : RebuildFlit) : Statement (.rebuildStream port hd r) := fun _ e => nomatch e

theorem proxyReadRequest (port : Nat) (hd : FlitHdr) (q : ProxyRead) : Statement (.proxyReadRequest port hd q) := fun _ e => nomatch e

theorem proxyReadData (port : Nat) (hd : FlitHdr) (d : ProxyData) : Statement (.proxyReadData port hd d) := fun _ e => nomatch e

theorem mirrorUpkeep (port : Nat) (hd : FlitHdr) (m : MirrorMsg) : Statement (.mirrorUpkeep port hd m) := fun _ e => nomatch e

theorem reductionScale (port : Nat) (hd : FlitHdr) (r : ScaleFlit) : Statement (.reductionScale port hd r) := fun _ e => nomatch e

theorem reductionSum (port : Nat) (hd : FlitHdr) (r : SumFlit) : Statement (.reductionSum port hd r) := fun _ e => nomatch e

theorem reductionGather (port : Nat) (hd : FlitHdr) (g : GatherFlit) : Statement (.reductionGather port hd g) := fun _ e => nomatch e

theorem sagWarning (mv : Nat) : Statement (.sagWarning mv) := fun _ e => nomatch e

theorem sagClear (mv : Nat) : Statement (.sagClear mv) := fun _ e => nomatch e

theorem powerLoss (mv : Nat) (f : FlushCost) : Statement (.powerLoss mv f) := fun _ e => nomatch e

theorem removal (openNs : Nat) (f : FlushCost) : Statement (.removal openNs f) := fun _ e => nomatch e

theorem pwrdisRaised (f : FlushCost) : Statement (.pwrdisRaised f) := fun _ e => nomatch e

theorem powerOn (mv holdupMj : Nat) (failedDies : List Nat) : Statement (.powerOn mv holdupMj failedDies) := fun _ e => nomatch e

theorem mateDetectClose  : Statement (.mateDetectClose) := fun _ e => nomatch e

theorem auxWarning (mv : Nat) : Statement (.auxWarning mv) := fun _ e => nomatch e

theorem auxReset (mv : Nat) : Statement (.auxReset mv) := fun _ e => nomatch e

theorem auxReturn (mv : Nat) (strapGnd : Bool) : Statement (.auxReturn mv strapGnd) := fun _ e => nomatch e

theorem powerSample (dw : Nat) : Statement (.powerSample dw) := fun _ e => nomatch e

theorem throttleStep  : Statement (.throttleStep) := fun _ e => nomatch e

theorem temperatureSample (sn : Sensor) (deg : Nat) (f : FlushCost) : Statement (.temperatureSample sn deg f) := fun _ e => nomatch e

theorem holdupMeasurement (mj : Nat) : Statement (.holdupMeasurement mj) := fun _ e => nomatch e

theorem arrayIdleGate (die : Nat) : Statement (.arrayIdleGate die) := fun _ e => nomatch e

theorem nvmSubsystemReset (viaMi : Bool) (value : BitVec 32) (f : FlushCost) : Statement (.nvmSubsystemReset viaMi value f) := fun _ e => nomatch e

theorem controllerEnable  : Statement (.controllerEnable) := fun _ e => nomatch e

theorem controllerLevelReset (cause : ClrCause) : Statement (.controllerLevelReset cause) := fun _ e => nomatch e

theorem surpriseLinkDown  : Statement (.surpriseLinkDown) := fun _ e => nomatch e

theorem shutdownNormal  : Statement (.shutdownNormal) := fun _ e => nomatch e

theorem shutdownAbrupt (f : FlushCost) : Statement (.shutdownAbrupt f) := fun _ e => nomatch e

theorem registerWrite (bar ofst width : Nat) (value : BitVec 64) : Statement (.registerWrite bar ofst width value) := fun _ e => nomatch e

theorem optKey1 (value : BitVec 16) : Statement (.optKey1 value) := fun _ e => nomatch e

theorem optKey2 (value : BitVec 16) : Statement (.optKey2 value) := fun _ e => nomatch e

theorem wordProgram (ofst width : Nat) (value : BitVec 64) : Statement (.wordProgram ofst width value) := fun _ e => nomatch e

theorem flagProgram (ofst width : Nat) (value : BitVec 64) : Statement (.flagProgram ofst width value) := fun _ e => nomatch e

theorem sectorErase (ofst width : Nat) (value : BitVec 64) : Statement (.sectorErase ofst width value) := fun _ e => nomatch e

theorem optReset  : Statement (.optReset) := fun _ e => nomatch e

theorem optOperationDone (verified : Bool) : Statement (.optOperationDone verified) := fun _ e => nomatch e

theorem nvmeMiCommand (m : MiCmd) : Statement (.nvmeMiCommand m) := fun _ e => nomatch e

theorem getVersion  : Statement (.getVersion) := fun _ e => nomatch e

theorem getCapabilities  : Statement (.getCapabilities) := fun _ e => nomatch e

theorem negotiateAlgorithms (asym hash : List SpdmAlg) : Statement (.negotiateAlgorithms asym hash) := fun _ e => nomatch e

theorem getDigests  : Statement (.getDigests) := fun _ e => nomatch e

theorem getCertificate (slot ofst len : Nat) : Statement (.getCertificate slot ofst len) := fun _ e => nomatch e

theorem challenge (slot : Nat) (nonce : BitVec 256) : Statement (.challenge slot nonce) := fun _ e => nomatch e

theorem getMeasurements (block : Nat) (signed : Bool) (nonce : BitVec 256) : Statement (.getMeasurements block signed nonce) := fun _ e => nomatch e

theorem spdmUnsupportedRequest (code : Nat) : Statement (.spdmUnsupportedRequest code) := fun _ e => nomatch e

theorem fruRead (ofst len : Nat) : Statement (.fruRead ofst len) := fun _ e => nomatch e

theorem followingPlainBoundary (b : Boundary) : Statement (.followingPlainBoundary b) := fun _ e => nomatch e

theorem electricalPresence (port : Nat) : Statement (.electricalPresence port) := fun _ e => nomatch e

theorem perstDeasserted (gts width : Nat) : Statement (.perstDeasserted gts width) := fun _ e => nomatch e

theorem pwrdisLowered  : Statement (.pwrdisLowered) := fun _ e => nomatch e

theorem inputOvervoltage (mv : Nat) (f : FlushCost) : Statement (.inputOvervoltage mv f) := fun _ e => nomatch e

theorem idleFlit (port : Nat) (hd : FlitHdr) : Statement (.idleFlit port hd) := fun _ e => nomatch e

theorem norEraseDone (verified : Bool) : Statement (.norEraseDone verified) := fun _ e => nomatch e

theorem firmwareCommitDone  : Statement (.firmwareCommitDone) := fun _ e => nomatch e

theorem supplyBelowResetThreshold (die : Nat) : Statement (.supplyBelowResetThreshold die) := fun _ e => nomatch e

theorem invalidCommandOpcode (h : Hdr) (opcode : Nat) : Statement (.invalidCommandOpcode h opcode) := by
  intro g e w
  cases e
  exact of_admin (first w)

theorem sendBlock (run port vc flits : Nat) : Statement (.sendBlock run port vc flits) := fun _ e => nomatch e

end Sys2Proof.Laws.Queue
end

