-- ==== Sys2Proof/Laws/State.lean ====
section
/-! SUPPORT. What each record update does to each part of the state: its own part takes the function, every other part stays. -/

namespace Sys2Proof.Machine

@[simp] theorem onHost_pending (f : HostSt → HostSt) (s : State) : (onHost f s).pending = s.pending := rfl
@[simp] theorem onHost_host (f : HostSt → HostSt) (s : State) : (onHost f s).host = f s.host := rfl
@[simp] theorem onHost_bell (f : HostSt → HostSt) (s : State) : (onHost f s).bell = s.bell := rfl
@[simp] theorem onHost_img (f : HostSt → HostSt) (s : State) : (onHost f s).img = s.img := rfl
@[simp] theorem onHost_nor (f : HostSt → HostSt) (s : State) : (onHost f s).nor = s.nor := rfl
@[simp] theorem onHost_fw (f : HostSt → HostSt) (s : State) : (onHost f s).fw = s.fw := rfl
@[simp] theorem onHost_sec (f : HostSt → HostSt) (s : State) : (onHost f s).sec = s.sec := rfl
@[simp] theorem onHost_ns (f : HostSt → HostSt) (s : State) : (onHost f s).ns = s.ns := rfl
@[simp] theorem onHost_ftl (f : HostSt → HostSt) (s : State) : (onHost f s).ftl = s.ftl := rfl
@[simp] theorem onHost_mem (f : HostSt → HostSt) (s : State) : (onHost f s).mem = s.mem := rfl
@[simp] theorem onHost_sched (f : HostSt → HostSt) (s : State) : (onHost f s).sched = s.sched := rfl
@[simp] theorem onHost_eng (f : HostSt → HostSt) (s : State) : (onHost f s).eng = s.eng := rfl
@[simp] theorem onHost_dies (f : HostSt → HostSt) (s : State) : (onHost f s).dies = s.dies := rfl
@[simp] theorem onHost_power (f : HostSt → HostSt) (s : State) : (onHost f s).power = s.power := rfl
@[simp] theorem onHost_idx (f : HostSt → HostSt) (s : State) : (onHost f s).idx = s.idx := rfl
@[simp] theorem onHost_query (f : HostSt → HostSt) (s : State) : (onHost f s).query = s.query := rfl
@[simp] theorem onHost_train (f : HostSt → HostSt) (s : State) : (onHost f s).train = s.train := rfl
@[simp] theorem onHost_plain (f : HostSt → HostSt) (s : State) : (onHost f s).plain = s.plain := rfl
@[simp] theorem onHost_free (f : HostSt → HostSt) (s : State) : (onHost f s).free = s.free := rfl

@[simp] theorem onBell_pending (f : BellSt → BellSt) (s : State) : (onBell f s).pending = s.pending := rfl
@[simp] theorem onBell_host (f : BellSt → BellSt) (s : State) : (onBell f s).host = s.host := rfl
@[simp] theorem onBell_bell (f : BellSt → BellSt) (s : State) : (onBell f s).bell = f s.bell := rfl
@[simp] theorem onBell_img (f : BellSt → BellSt) (s : State) : (onBell f s).img = s.img := rfl
@[simp] theorem onBell_nor (f : BellSt → BellSt) (s : State) : (onBell f s).nor = s.nor := rfl
@[simp] theorem onBell_fw (f : BellSt → BellSt) (s : State) : (onBell f s).fw = s.fw := rfl
@[simp] theorem onBell_sec (f : BellSt → BellSt) (s : State) : (onBell f s).sec = s.sec := rfl
@[simp] theorem onBell_ns (f : BellSt → BellSt) (s : State) : (onBell f s).ns = s.ns := rfl
@[simp] theorem onBell_ftl (f : BellSt → BellSt) (s : State) : (onBell f s).ftl = s.ftl := rfl
@[simp] theorem onBell_mem (f : BellSt → BellSt) (s : State) : (onBell f s).mem = s.mem := rfl
@[simp] theorem onBell_sched (f : BellSt → BellSt) (s : State) : (onBell f s).sched = s.sched := rfl
@[simp] theorem onBell_eng (f : BellSt → BellSt) (s : State) : (onBell f s).eng = s.eng := rfl
@[simp] theorem onBell_dies (f : BellSt → BellSt) (s : State) : (onBell f s).dies = s.dies := rfl
@[simp] theorem onBell_power (f : BellSt → BellSt) (s : State) : (onBell f s).power = s.power := rfl
@[simp] theorem onBell_idx (f : BellSt → BellSt) (s : State) : (onBell f s).idx = s.idx := rfl
@[simp] theorem onBell_query (f : BellSt → BellSt) (s : State) : (onBell f s).query = s.query := rfl
@[simp] theorem onBell_train (f : BellSt → BellSt) (s : State) : (onBell f s).train = s.train := rfl
@[simp] theorem onBell_plain (f : BellSt → BellSt) (s : State) : (onBell f s).plain = s.plain := rfl
@[simp] theorem onBell_free (f : BellSt → BellSt) (s : State) : (onBell f s).free = s.free := rfl

@[simp] theorem onImg_pending (f : ImgSt → ImgSt) (s : State) : (onImg f s).pending = s.pending := rfl
@[simp] theorem onImg_host (f : ImgSt → ImgSt) (s : State) : (onImg f s).host = s.host := rfl
@[simp] theorem onImg_bell (f : ImgSt → ImgSt) (s : State) : (onImg f s).bell = s.bell := rfl
@[simp] theorem onImg_img (f : ImgSt → ImgSt) (s : State) : (onImg f s).img = f s.img := rfl
@[simp] theorem onImg_nor (f : ImgSt → ImgSt) (s : State) : (onImg f s).nor = s.nor := rfl
@[simp] theorem onImg_fw (f : ImgSt → ImgSt) (s : State) : (onImg f s).fw = s.fw := rfl
@[simp] theorem onImg_sec (f : ImgSt → ImgSt) (s : State) : (onImg f s).sec = s.sec := rfl
@[simp] theorem onImg_ns (f : ImgSt → ImgSt) (s : State) : (onImg f s).ns = s.ns := rfl
@[simp] theorem onImg_ftl (f : ImgSt → ImgSt) (s : State) : (onImg f s).ftl = s.ftl := rfl
@[simp] theorem onImg_mem (f : ImgSt → ImgSt) (s : State) : (onImg f s).mem = s.mem := rfl
@[simp] theorem onImg_sched (f : ImgSt → ImgSt) (s : State) : (onImg f s).sched = s.sched := rfl
@[simp] theorem onImg_eng (f : ImgSt → ImgSt) (s : State) : (onImg f s).eng = s.eng := rfl
@[simp] theorem onImg_dies (f : ImgSt → ImgSt) (s : State) : (onImg f s).dies = s.dies := rfl
@[simp] theorem onImg_power (f : ImgSt → ImgSt) (s : State) : (onImg f s).power = s.power := rfl
@[simp] theorem onImg_idx (f : ImgSt → ImgSt) (s : State) : (onImg f s).idx = s.idx := rfl
@[simp] theorem onImg_query (f : ImgSt → ImgSt) (s : State) : (onImg f s).query = s.query := rfl
@[simp] theorem onImg_train (f : ImgSt → ImgSt) (s : State) : (onImg f s).train = s.train := rfl
@[simp] theorem onImg_plain (f : ImgSt → ImgSt) (s : State) : (onImg f s).plain = s.plain := rfl
@[simp] theorem onImg_free (f : ImgSt → ImgSt) (s : State) : (onImg f s).free = s.free := rfl

@[simp] theorem onNor_pending (f : NorSt → NorSt) (s : State) : (onNor f s).pending = s.pending := rfl
@[simp] theorem onNor_host (f : NorSt → NorSt) (s : State) : (onNor f s).host = s.host := rfl
@[simp] theorem onNor_bell (f : NorSt → NorSt) (s : State) : (onNor f s).bell = s.bell := rfl
@[simp] theorem onNor_img (f : NorSt → NorSt) (s : State) : (onNor f s).img = s.img := rfl
@[simp] theorem onNor_nor (f : NorSt → NorSt) (s : State) : (onNor f s).nor = f s.nor := rfl
@[simp] theorem onNor_fw (f : NorSt → NorSt) (s : State) : (onNor f s).fw = s.fw := rfl
@[simp] theorem onNor_sec (f : NorSt → NorSt) (s : State) : (onNor f s).sec = s.sec := rfl
@[simp] theorem onNor_ns (f : NorSt → NorSt) (s : State) : (onNor f s).ns = s.ns := rfl
@[simp] theorem onNor_ftl (f : NorSt → NorSt) (s : State) : (onNor f s).ftl = s.ftl := rfl
@[simp] theorem onNor_mem (f : NorSt → NorSt) (s : State) : (onNor f s).mem = s.mem := rfl
@[simp] theorem onNor_sched (f : NorSt → NorSt) (s : State) : (onNor f s).sched = s.sched := rfl
@[simp] theorem onNor_eng (f : NorSt → NorSt) (s : State) : (onNor f s).eng = s.eng := rfl
@[simp] theorem onNor_dies (f : NorSt → NorSt) (s : State) : (onNor f s).dies = s.dies := rfl
@[simp] theorem onNor_power (f : NorSt → NorSt) (s : State) : (onNor f s).power = s.power := rfl
@[simp] theorem onNor_idx (f : NorSt → NorSt) (s : State) : (onNor f s).idx = s.idx := rfl
@[simp] theorem onNor_query (f : NorSt → NorSt) (s : State) : (onNor f s).query = s.query := rfl
@[simp] theorem onNor_train (f : NorSt → NorSt) (s : State) : (onNor f s).train = s.train := rfl
@[simp] theorem onNor_plain (f : NorSt → NorSt) (s : State) : (onNor f s).plain = s.plain := rfl
@[simp] theorem onNor_free (f : NorSt → NorSt) (s : State) : (onNor f s).free = s.free := rfl

@[simp] theorem onFtl_pending (f : FtlSt → FtlSt) (s : State) : (onFtl f s).pending = s.pending := rfl
@[simp] theorem onFtl_host (f : FtlSt → FtlSt) (s : State) : (onFtl f s).host = s.host := rfl
@[simp] theorem onFtl_bell (f : FtlSt → FtlSt) (s : State) : (onFtl f s).bell = s.bell := rfl
@[simp] theorem onFtl_img (f : FtlSt → FtlSt) (s : State) : (onFtl f s).img = s.img := rfl
@[simp] theorem onFtl_nor (f : FtlSt → FtlSt) (s : State) : (onFtl f s).nor = s.nor := rfl
@[simp] theorem onFtl_fw (f : FtlSt → FtlSt) (s : State) : (onFtl f s).fw = s.fw := rfl
@[simp] theorem onFtl_sec (f : FtlSt → FtlSt) (s : State) : (onFtl f s).sec = s.sec := rfl
@[simp] theorem onFtl_ns (f : FtlSt → FtlSt) (s : State) : (onFtl f s).ns = s.ns := rfl
@[simp] theorem onFtl_ftl (f : FtlSt → FtlSt) (s : State) : (onFtl f s).ftl = f s.ftl := rfl
@[simp] theorem onFtl_mem (f : FtlSt → FtlSt) (s : State) : (onFtl f s).mem = s.mem := rfl
@[simp] theorem onFtl_sched (f : FtlSt → FtlSt) (s : State) : (onFtl f s).sched = s.sched := rfl
@[simp] theorem onFtl_eng (f : FtlSt → FtlSt) (s : State) : (onFtl f s).eng = s.eng := rfl
@[simp] theorem onFtl_dies (f : FtlSt → FtlSt) (s : State) : (onFtl f s).dies = s.dies := rfl
@[simp] theorem onFtl_power (f : FtlSt → FtlSt) (s : State) : (onFtl f s).power = s.power := rfl
@[simp] theorem onFtl_idx (f : FtlSt → FtlSt) (s : State) : (onFtl f s).idx = s.idx := rfl
@[simp] theorem onFtl_query (f : FtlSt → FtlSt) (s : State) : (onFtl f s).query = s.query := rfl
@[simp] theorem onFtl_train (f : FtlSt → FtlSt) (s : State) : (onFtl f s).train = s.train := rfl
@[simp] theorem onFtl_plain (f : FtlSt → FtlSt) (s : State) : (onFtl f s).plain = s.plain := rfl
@[simp] theorem onFtl_free (f : FtlSt → FtlSt) (s : State) : (onFtl f s).free = s.free := rfl

@[simp] theorem onMem_pending (f : MemSt → MemSt) (s : State) : (onMem f s).pending = s.pending := rfl
@[simp] theorem onMem_host (f : MemSt → MemSt) (s : State) : (onMem f s).host = s.host := rfl
@[simp] theorem onMem_bell (f : MemSt → MemSt) (s : State) : (onMem f s).bell = s.bell := rfl
@[simp] theorem onMem_img (f : MemSt → MemSt) (s : State) : (onMem f s).img = s.img := rfl
@[simp] theorem onMem_nor (f : MemSt → MemSt) (s : State) : (onMem f s).nor = s.nor := rfl
@[simp] theorem onMem_fw (f : MemSt → MemSt) (s : State) : (onMem f s).fw = s.fw := rfl
@[simp] theorem onMem_sec (f : MemSt → MemSt) (s : State) : (onMem f s).sec = s.sec := rfl
@[simp] theorem onMem_ns (f : MemSt → MemSt) (s : State) : (onMem f s).ns = s.ns := rfl
@[simp] theorem onMem_ftl (f : MemSt → MemSt) (s : State) : (onMem f s).ftl = s.ftl := rfl
@[simp] theorem onMem_mem (f : MemSt → MemSt) (s : State) : (onMem f s).mem = f s.mem := rfl
@[simp] theorem onMem_sched (f : MemSt → MemSt) (s : State) : (onMem f s).sched = s.sched := rfl
@[simp] theorem onMem_eng (f : MemSt → MemSt) (s : State) : (onMem f s).eng = s.eng := rfl
@[simp] theorem onMem_dies (f : MemSt → MemSt) (s : State) : (onMem f s).dies = s.dies := rfl
@[simp] theorem onMem_power (f : MemSt → MemSt) (s : State) : (onMem f s).power = s.power := rfl
@[simp] theorem onMem_idx (f : MemSt → MemSt) (s : State) : (onMem f s).idx = s.idx := rfl
@[simp] theorem onMem_query (f : MemSt → MemSt) (s : State) : (onMem f s).query = s.query := rfl
@[simp] theorem onMem_train (f : MemSt → MemSt) (s : State) : (onMem f s).train = s.train := rfl
@[simp] theorem onMem_plain (f : MemSt → MemSt) (s : State) : (onMem f s).plain = s.plain := rfl
@[simp] theorem onMem_free (f : MemSt → MemSt) (s : State) : (onMem f s).free = s.free := rfl

@[simp] theorem onSched_pending (f : SchedSt → SchedSt) (s : State) : (onSched f s).pending = s.pending := rfl
@[simp] theorem onSched_host (f : SchedSt → SchedSt) (s : State) : (onSched f s).host = s.host := rfl
@[simp] theorem onSched_bell (f : SchedSt → SchedSt) (s : State) : (onSched f s).bell = s.bell := rfl
@[simp] theorem onSched_img (f : SchedSt → SchedSt) (s : State) : (onSched f s).img = s.img := rfl
@[simp] theorem onSched_nor (f : SchedSt → SchedSt) (s : State) : (onSched f s).nor = s.nor := rfl
@[simp] theorem onSched_fw (f : SchedSt → SchedSt) (s : State) : (onSched f s).fw = s.fw := rfl
@[simp] theorem onSched_sec (f : SchedSt → SchedSt) (s : State) : (onSched f s).sec = s.sec := rfl
@[simp] theorem onSched_ns (f : SchedSt → SchedSt) (s : State) : (onSched f s).ns = s.ns := rfl
@[simp] theorem onSched_ftl (f : SchedSt → SchedSt) (s : State) : (onSched f s).ftl = s.ftl := rfl
@[simp] theorem onSched_mem (f : SchedSt → SchedSt) (s : State) : (onSched f s).mem = s.mem := rfl
@[simp] theorem onSched_sched (f : SchedSt → SchedSt) (s : State) : (onSched f s).sched = f s.sched := rfl
@[simp] theorem onSched_eng (f : SchedSt → SchedSt) (s : State) : (onSched f s).eng = s.eng := rfl
@[simp] theorem onSched_dies (f : SchedSt → SchedSt) (s : State) : (onSched f s).dies = s.dies := rfl
@[simp] theorem onSched_power (f : SchedSt → SchedSt) (s : State) : (onSched f s).power = s.power := rfl
@[simp] theorem onSched_idx (f : SchedSt → SchedSt) (s : State) : (onSched f s).idx = s.idx := rfl
@[simp] theorem onSched_query (f : SchedSt → SchedSt) (s : State) : (onSched f s).query = s.query := rfl
@[simp] theorem onSched_train (f : SchedSt → SchedSt) (s : State) : (onSched f s).train = s.train := rfl
@[simp] theorem onSched_plain (f : SchedSt → SchedSt) (s : State) : (onSched f s).plain = s.plain := rfl
@[simp] theorem onSched_free (f : SchedSt → SchedSt) (s : State) : (onSched f s).free = s.free := rfl

@[simp] theorem onTrain_pending (f : TrainSt → TrainSt) (s : State) : (onTrain f s).pending = s.pending := rfl
@[simp] theorem onTrain_host (f : TrainSt → TrainSt) (s : State) : (onTrain f s).host = s.host := rfl
@[simp] theorem onTrain_bell (f : TrainSt → TrainSt) (s : State) : (onTrain f s).bell = s.bell := rfl
@[simp] theorem onTrain_img (f : TrainSt → TrainSt) (s : State) : (onTrain f s).img = s.img := rfl
@[simp] theorem onTrain_nor (f : TrainSt → TrainSt) (s : State) : (onTrain f s).nor = s.nor := rfl
@[simp] theorem onTrain_fw (f : TrainSt → TrainSt) (s : State) : (onTrain f s).fw = s.fw := rfl
@[simp] theorem onTrain_sec (f : TrainSt → TrainSt) (s : State) : (onTrain f s).sec = s.sec := rfl
@[simp] theorem onTrain_ns (f : TrainSt → TrainSt) (s : State) : (onTrain f s).ns = s.ns := rfl
@[simp] theorem onTrain_ftl (f : TrainSt → TrainSt) (s : State) : (onTrain f s).ftl = s.ftl := rfl
@[simp] theorem onTrain_mem (f : TrainSt → TrainSt) (s : State) : (onTrain f s).mem = s.mem := rfl
@[simp] theorem onTrain_sched (f : TrainSt → TrainSt) (s : State) : (onTrain f s).sched = s.sched := rfl
@[simp] theorem onTrain_eng (f : TrainSt → TrainSt) (s : State) : (onTrain f s).eng = s.eng := rfl
@[simp] theorem onTrain_dies (f : TrainSt → TrainSt) (s : State) : (onTrain f s).dies = s.dies := rfl
@[simp] theorem onTrain_power (f : TrainSt → TrainSt) (s : State) : (onTrain f s).power = s.power := rfl
@[simp] theorem onTrain_idx (f : TrainSt → TrainSt) (s : State) : (onTrain f s).idx = s.idx := rfl
@[simp] theorem onTrain_query (f : TrainSt → TrainSt) (s : State) : (onTrain f s).query = s.query := rfl
@[simp] theorem onTrain_train (f : TrainSt → TrainSt) (s : State) : (onTrain f s).train = f s.train := rfl
@[simp] theorem onTrain_plain (f : TrainSt → TrainSt) (s : State) : (onTrain f s).plain = s.plain := rfl
@[simp] theorem onTrain_free (f : TrainSt → TrainSt) (s : State) : (onTrain f s).free = s.free := rfl

@[simp] theorem onIdx_pending (f : IdxSt → IdxSt) (s : State) : (onIdx f s).pending = s.pending := rfl
@[simp] theorem onIdx_host (f : IdxSt → IdxSt) (s : State) : (onIdx f s).host = s.host := rfl
@[simp] theorem onIdx_bell (f : IdxSt → IdxSt) (s : State) : (onIdx f s).bell = s.bell := rfl
@[simp] theorem onIdx_img (f : IdxSt → IdxSt) (s : State) : (onIdx f s).img = s.img := rfl
@[simp] theorem onIdx_nor (f : IdxSt → IdxSt) (s : State) : (onIdx f s).nor = s.nor := rfl
@[simp] theorem onIdx_fw (f : IdxSt → IdxSt) (s : State) : (onIdx f s).fw = s.fw := rfl
@[simp] theorem onIdx_sec (f : IdxSt → IdxSt) (s : State) : (onIdx f s).sec = s.sec := rfl
@[simp] theorem onIdx_ns (f : IdxSt → IdxSt) (s : State) : (onIdx f s).ns = s.ns := rfl
@[simp] theorem onIdx_ftl (f : IdxSt → IdxSt) (s : State) : (onIdx f s).ftl = s.ftl := rfl
@[simp] theorem onIdx_mem (f : IdxSt → IdxSt) (s : State) : (onIdx f s).mem = s.mem := rfl
@[simp] theorem onIdx_sched (f : IdxSt → IdxSt) (s : State) : (onIdx f s).sched = s.sched := rfl
@[simp] theorem onIdx_eng (f : IdxSt → IdxSt) (s : State) : (onIdx f s).eng = s.eng := rfl
@[simp] theorem onIdx_dies (f : IdxSt → IdxSt) (s : State) : (onIdx f s).dies = s.dies := rfl
@[simp] theorem onIdx_power (f : IdxSt → IdxSt) (s : State) : (onIdx f s).power = s.power := rfl
@[simp] theorem onIdx_idx (f : IdxSt → IdxSt) (s : State) : (onIdx f s).idx = f s.idx := rfl
@[simp] theorem onIdx_query (f : IdxSt → IdxSt) (s : State) : (onIdx f s).query = s.query := rfl
@[simp] theorem onIdx_train (f : IdxSt → IdxSt) (s : State) : (onIdx f s).train = s.train := rfl
@[simp] theorem onIdx_plain (f : IdxSt → IdxSt) (s : State) : (onIdx f s).plain = s.plain := rfl
@[simp] theorem onIdx_free (f : IdxSt → IdxSt) (s : State) : (onIdx f s).free = s.free := rfl

@[simp] theorem onQuery_pending (f : QuerySt → QuerySt) (s : State) : (onQuery f s).pending = s.pending := rfl
@[simp] theorem onQuery_host (f : QuerySt → QuerySt) (s : State) : (onQuery f s).host = s.host := rfl
@[simp] theorem onQuery_bell (f : QuerySt → QuerySt) (s : State) : (onQuery f s).bell = s.bell := rfl
@[simp] theorem onQuery_img (f : QuerySt → QuerySt) (s : State) : (onQuery f s).img = s.img := rfl
@[simp] theorem onQuery_nor (f : QuerySt → QuerySt) (s : State) : (onQuery f s).nor = s.nor := rfl
@[simp] theorem onQuery_fw (f : QuerySt → QuerySt) (s : State) : (onQuery f s).fw = s.fw := rfl
@[simp] theorem onQuery_sec (f : QuerySt → QuerySt) (s : State) : (onQuery f s).sec = s.sec := rfl
@[simp] theorem onQuery_ns (f : QuerySt → QuerySt) (s : State) : (onQuery f s).ns = s.ns := rfl
@[simp] theorem onQuery_ftl (f : QuerySt → QuerySt) (s : State) : (onQuery f s).ftl = s.ftl := rfl
@[simp] theorem onQuery_mem (f : QuerySt → QuerySt) (s : State) : (onQuery f s).mem = s.mem := rfl
@[simp] theorem onQuery_sched (f : QuerySt → QuerySt) (s : State) : (onQuery f s).sched = s.sched := rfl
@[simp] theorem onQuery_eng (f : QuerySt → QuerySt) (s : State) : (onQuery f s).eng = s.eng := rfl
@[simp] theorem onQuery_dies (f : QuerySt → QuerySt) (s : State) : (onQuery f s).dies = s.dies := rfl
@[simp] theorem onQuery_power (f : QuerySt → QuerySt) (s : State) : (onQuery f s).power = s.power := rfl
@[simp] theorem onQuery_idx (f : QuerySt → QuerySt) (s : State) : (onQuery f s).idx = s.idx := rfl
@[simp] theorem onQuery_query (f : QuerySt → QuerySt) (s : State) : (onQuery f s).query = f s.query := rfl
@[simp] theorem onQuery_train (f : QuerySt → QuerySt) (s : State) : (onQuery f s).train = s.train := rfl
@[simp] theorem onQuery_plain (f : QuerySt → QuerySt) (s : State) : (onQuery f s).plain = s.plain := rfl
@[simp] theorem onQuery_free (f : QuerySt → QuerySt) (s : State) : (onQuery f s).free = s.free := rfl

@[simp] theorem onPlain_pending (f : PlainSt → PlainSt) (s : State) : (onPlain f s).pending = s.pending := rfl
@[simp] theorem onPlain_host (f : PlainSt → PlainSt) (s : State) : (onPlain f s).host = s.host := rfl
@[simp] theorem onPlain_bell (f : PlainSt → PlainSt) (s : State) : (onPlain f s).bell = s.bell := rfl
@[simp] theorem onPlain_img (f : PlainSt → PlainSt) (s : State) : (onPlain f s).img = s.img := rfl
@[simp] theorem onPlain_nor (f : PlainSt → PlainSt) (s : State) : (onPlain f s).nor = s.nor := rfl
@[simp] theorem onPlain_fw (f : PlainSt → PlainSt) (s : State) : (onPlain f s).fw = s.fw := rfl
@[simp] theorem onPlain_sec (f : PlainSt → PlainSt) (s : State) : (onPlain f s).sec = s.sec := rfl
@[simp] theorem onPlain_ns (f : PlainSt → PlainSt) (s : State) : (onPlain f s).ns = s.ns := rfl
@[simp] theorem onPlain_ftl (f : PlainSt → PlainSt) (s : State) : (onPlain f s).ftl = s.ftl := rfl
@[simp] theorem onPlain_mem (f : PlainSt → PlainSt) (s : State) : (onPlain f s).mem = s.mem := rfl
@[simp] theorem onPlain_sched (f : PlainSt → PlainSt) (s : State) : (onPlain f s).sched = s.sched := rfl
@[simp] theorem onPlain_eng (f : PlainSt → PlainSt) (s : State) : (onPlain f s).eng = s.eng := rfl
@[simp] theorem onPlain_dies (f : PlainSt → PlainSt) (s : State) : (onPlain f s).dies = s.dies := rfl
@[simp] theorem onPlain_power (f : PlainSt → PlainSt) (s : State) : (onPlain f s).power = s.power := rfl
@[simp] theorem onPlain_idx (f : PlainSt → PlainSt) (s : State) : (onPlain f s).idx = s.idx := rfl
@[simp] theorem onPlain_query (f : PlainSt → PlainSt) (s : State) : (onPlain f s).query = s.query := rfl
@[simp] theorem onPlain_train (f : PlainSt → PlainSt) (s : State) : (onPlain f s).train = s.train := rfl
@[simp] theorem onPlain_plain (f : PlainSt → PlainSt) (s : State) : (onPlain f s).plain = f s.plain := rfl
@[simp] theorem onPlain_free (f : PlainSt → PlainSt) (s : State) : (onPlain f s).free = s.free := rfl

@[simp] theorem onPower_pending (f : PowerSt → PowerSt) (s : State) : (onPower f s).pending = s.pending := rfl
@[simp] theorem onPower_host (f : PowerSt → PowerSt) (s : State) : (onPower f s).host = s.host := rfl
@[simp] theorem onPower_bell (f : PowerSt → PowerSt) (s : State) : (onPower f s).bell = s.bell := rfl
@[simp] theorem onPower_img (f : PowerSt → PowerSt) (s : State) : (onPower f s).img = s.img := rfl
@[simp] theorem onPower_nor (f : PowerSt → PowerSt) (s : State) : (onPower f s).nor = s.nor := rfl
@[simp] theorem onPower_fw (f : PowerSt → PowerSt) (s : State) : (onPower f s).fw = s.fw := rfl
@[simp] theorem onPower_sec (f : PowerSt → PowerSt) (s : State) : (onPower f s).sec = s.sec := rfl
@[simp] theorem onPower_ns (f : PowerSt → PowerSt) (s : State) : (onPower f s).ns = s.ns := rfl
@[simp] theorem onPower_ftl (f : PowerSt → PowerSt) (s : State) : (onPower f s).ftl = s.ftl := rfl
@[simp] theorem onPower_mem (f : PowerSt → PowerSt) (s : State) : (onPower f s).mem = s.mem := rfl
@[simp] theorem onPower_sched (f : PowerSt → PowerSt) (s : State) : (onPower f s).sched = s.sched := rfl
@[simp] theorem onPower_eng (f : PowerSt → PowerSt) (s : State) : (onPower f s).eng = s.eng := rfl
@[simp] theorem onPower_dies (f : PowerSt → PowerSt) (s : State) : (onPower f s).dies = s.dies := rfl
@[simp] theorem onPower_power (f : PowerSt → PowerSt) (s : State) : (onPower f s).power = f s.power := rfl
@[simp] theorem onPower_idx (f : PowerSt → PowerSt) (s : State) : (onPower f s).idx = s.idx := rfl
@[simp] theorem onPower_query (f : PowerSt → PowerSt) (s : State) : (onPower f s).query = s.query := rfl
@[simp] theorem onPower_train (f : PowerSt → PowerSt) (s : State) : (onPower f s).train = s.train := rfl
@[simp] theorem onPower_plain (f : PowerSt → PowerSt) (s : State) : (onPower f s).plain = s.plain := rfl
@[simp] theorem onPower_free (f : PowerSt → PowerSt) (s : State) : (onPower f s).free = s.free := rfl

@[simp] theorem onDies'_pending (f : DieSt → DieSt) (s : State) : (onDies' f s).pending = s.pending := rfl
@[simp] theorem onDies'_host (f : DieSt → DieSt) (s : State) : (onDies' f s).host = s.host := rfl
@[simp] theorem onDies'_bell (f : DieSt → DieSt) (s : State) : (onDies' f s).bell = s.bell := rfl
@[simp] theorem onDies'_img (f : DieSt → DieSt) (s : State) : (onDies' f s).img = s.img := rfl
@[simp] theorem onDies'_nor (f : DieSt → DieSt) (s : State) : (onDies' f s).nor = s.nor := rfl
@[simp] theorem onDies'_fw (f : DieSt → DieSt) (s : State) : (onDies' f s).fw = s.fw := rfl
@[simp] theorem onDies'_sec (f : DieSt → DieSt) (s : State) : (onDies' f s).sec = s.sec := rfl
@[simp] theorem onDies'_ns (f : DieSt → DieSt) (s : State) : (onDies' f s).ns = s.ns := rfl
@[simp] theorem onDies'_ftl (f : DieSt → DieSt) (s : State) : (onDies' f s).ftl = s.ftl := rfl
@[simp] theorem onDies'_mem (f : DieSt → DieSt) (s : State) : (onDies' f s).mem = s.mem := rfl
@[simp] theorem onDies'_sched (f : DieSt → DieSt) (s : State) : (onDies' f s).sched = s.sched := rfl
@[simp] theorem onDies'_eng (f : DieSt → DieSt) (s : State) : (onDies' f s).eng = s.eng := rfl
@[simp] theorem onDies'_dies (f : DieSt → DieSt) (s : State) : (onDies' f s).dies = f s.dies := rfl
@[simp] theorem onDies'_power (f : DieSt → DieSt) (s : State) : (onDies' f s).power = s.power := rfl
@[simp] theorem onDies'_idx (f : DieSt → DieSt) (s : State) : (onDies' f s).idx = s.idx := rfl
@[simp] theorem onDies'_query (f : DieSt → DieSt) (s : State) : (onDies' f s).query = s.query := rfl
@[simp] theorem onDies'_train (f : DieSt → DieSt) (s : State) : (onDies' f s).train = s.train := rfl
@[simp] theorem onDies'_plain (f : DieSt → DieSt) (s : State) : (onDies' f s).plain = s.plain := rfl
@[simp] theorem onDies'_free (f : DieSt → DieSt) (s : State) : (onDies' f s).free = s.free := rfl

@[simp] theorem onDie_pending (n : Nat) (f : Die → Die) (s : State) : (onDie n f s).pending = s.pending := rfl
@[simp] theorem onDie_host (n : Nat) (f : Die → Die) (s : State) : (onDie n f s).host = s.host := rfl
@[simp] theorem onDie_bell (n : Nat) (f : Die → Die) (s : State) : (onDie n f s).bell = s.bell := rfl
@[simp] theorem onDie_img (n : Nat) (f : Die → Die) (s : State) : (onDie n f s).img = s.img := rfl
@[simp] theorem onDie_nor (n : Nat) (f : Die → Die) (s : State) : (onDie n f s).nor = s.nor := rfl
@[simp] theorem onDie_fw (n : Nat) (f : Die → Die) (s : State) : (onDie n f s).fw = s.fw := rfl
@[simp] theorem onDie_sec (n : Nat) (f : Die → Die) (s : State) : (onDie n f s).sec = s.sec := rfl
@[simp] theorem onDie_ns (n : Nat) (f : Die → Die) (s : State) : (onDie n f s).ns = s.ns := rfl
@[simp] theorem onDie_ftl (n : Nat) (f : Die → Die) (s : State) : (onDie n f s).ftl = s.ftl := rfl
@[simp] theorem onDie_mem (n : Nat) (f : Die → Die) (s : State) : (onDie n f s).mem = s.mem := rfl
@[simp] theorem onDie_sched (n : Nat) (f : Die → Die) (s : State) : (onDie n f s).sched = s.sched := rfl
@[simp] theorem onDie_eng (n : Nat) (f : Die → Die) (s : State) : (onDie n f s).eng = s.eng := rfl
@[simp] theorem onDie_power (n : Nat) (f : Die → Die) (s : State) : (onDie n f s).power = s.power := rfl
@[simp] theorem onDie_idx (n : Nat) (f : Die → Die) (s : State) : (onDie n f s).idx = s.idx := rfl
@[simp] theorem onDie_query (n : Nat) (f : Die → Die) (s : State) : (onDie n f s).query = s.query := rfl
@[simp] theorem onDie_train (n : Nat) (f : Die → Die) (s : State) : (onDie n f s).train = s.train := rfl
@[simp] theorem onDie_plain (n : Nat) (f : Die → Die) (s : State) : (onDie n f s).plain = s.plain := rfl
@[simp] theorem onDie_free (n : Nat) (f : Die → Die) (s : State) : (onDie n f s).free = s.free := rfl

@[simp] theorem onPort_pending (p : Nat) (f : Port → Port) (s : State) : (onPort p f s).pending = s.pending := rfl
@[simp] theorem onPort_host (p : Nat) (f : Port → Port) (s : State) : (onPort p f s).host = s.host := rfl
@[simp] theorem onPort_bell (p : Nat) (f : Port → Port) (s : State) : (onPort p f s).bell = s.bell := rfl
@[simp] theorem onPort_img (p : Nat) (f : Port → Port) (s : State) : (onPort p f s).img = s.img := rfl
@[simp] theorem onPort_nor (p : Nat) (f : Port → Port) (s : State) : (onPort p f s).nor = s.nor := rfl
@[simp] theorem onPort_fw (p : Nat) (f : Port → Port) (s : State) : (onPort p f s).fw = s.fw := rfl
@[simp] theorem onPort_sec (p : Nat) (f : Port → Port) (s : State) : (onPort p f s).sec = s.sec := rfl
@[simp] theorem onPort_ns (p : Nat) (f : Port → Port) (s : State) : (onPort p f s).ns = s.ns := rfl
@[simp] theorem onPort_ftl (p : Nat) (f : Port → Port) (s : State) : (onPort p f s).ftl = s.ftl := rfl
@[simp] theorem onPort_mem (p : Nat) (f : Port → Port) (s : State) : (onPort p f s).mem = s.mem := rfl
@[simp] theorem onPort_sched (p : Nat) (f : Port → Port) (s : State) : (onPort p f s).sched = s.sched := rfl
@[simp] theorem onPort_eng (p : Nat) (f : Port → Port) (s : State) : (onPort p f s).eng = s.eng := rfl
@[simp] theorem onPort_dies (p : Nat) (f : Port → Port) (s : State) : (onPort p f s).dies = s.dies := rfl
@[simp] theorem onPort_power (p : Nat) (f : Port → Port) (s : State) : (onPort p f s).power = s.power := rfl
@[simp] theorem onPort_idx (p : Nat) (f : Port → Port) (s : State) : (onPort p f s).idx = s.idx := rfl
@[simp] theorem onPort_query (p : Nat) (f : Port → Port) (s : State) : (onPort p f s).query = s.query := rfl
@[simp] theorem onPort_train (p : Nat) (f : Port → Port) (s : State) : (onPort p f s).train = s.train := rfl
@[simp] theorem onPort_free (p : Nat) (f : Port → Port) (s : State) : (onPort p f s).free = s.free := rfl

@[simp] theorem onPeer_pending (m : Nat) (f : Peer → Peer) (s : State) : (onPeer m f s).pending = s.pending := rfl
@[simp] theorem onPeer_host (m : Nat) (f : Peer → Peer) (s : State) : (onPeer m f s).host = s.host := rfl
@[simp] theorem onPeer_bell (m : Nat) (f : Peer → Peer) (s : State) : (onPeer m f s).bell = s.bell := rfl
@[simp] theorem onPeer_img (m : Nat) (f : Peer → Peer) (s : State) : (onPeer m f s).img = s.img := rfl
@[simp] theorem onPeer_nor (m : Nat) (f : Peer → Peer) (s : State) : (onPeer m f s).nor = s.nor := rfl
@[simp] theorem onPeer_fw (m : Nat) (f : Peer → Peer) (s : State) : (onPeer m f s).fw = s.fw := rfl
@[simp] theorem onPeer_sec (m : Nat) (f : Peer → Peer) (s : State) : (onPeer m f s).sec = s.sec := rfl
@[simp] theorem onPeer_ns (m : Nat) (f : Peer → Peer) (s : State) : (onPeer m f s).ns = s.ns := rfl
@[simp] theorem onPeer_ftl (m : Nat) (f : Peer → Peer) (s : State) : (onPeer m f s).ftl = s.ftl := rfl
@[simp] theorem onPeer_mem (m : Nat) (f : Peer → Peer) (s : State) : (onPeer m f s).mem = s.mem := rfl
@[simp] theorem onPeer_sched (m : Nat) (f : Peer → Peer) (s : State) : (onPeer m f s).sched = s.sched := rfl
@[simp] theorem onPeer_eng (m : Nat) (f : Peer → Peer) (s : State) : (onPeer m f s).eng = s.eng := rfl
@[simp] theorem onPeer_dies (m : Nat) (f : Peer → Peer) (s : State) : (onPeer m f s).dies = s.dies := rfl
@[simp] theorem onPeer_power (m : Nat) (f : Peer → Peer) (s : State) : (onPeer m f s).power = s.power := rfl
@[simp] theorem onPeer_idx (m : Nat) (f : Peer → Peer) (s : State) : (onPeer m f s).idx = s.idx := rfl
@[simp] theorem onPeer_query (m : Nat) (f : Peer → Peer) (s : State) : (onPeer m f s).query = s.query := rfl
@[simp] theorem onPeer_train (m : Nat) (f : Peer → Peer) (s : State) : (onPeer m f s).train = s.train := rfl
@[simp] theorem onPeer_free (m : Nat) (f : Peer → Peer) (s : State) : (onPeer m f s).free = s.free := rfl

@[simp] theorem onValley_pending (v : Nat) (f : ValleyStats → ValleyStats) (s : State) : (onValley v f s).pending = s.pending := rfl
@[simp] theorem onValley_host (v : Nat) (f : ValleyStats → ValleyStats) (s : State) : (onValley v f s).host = s.host := rfl
@[simp] theorem onValley_bell (v : Nat) (f : ValleyStats → ValleyStats) (s : State) : (onValley v f s).bell = s.bell := rfl
@[simp] theorem onValley_img (v : Nat) (f : ValleyStats → ValleyStats) (s : State) : (onValley v f s).img = s.img := rfl
@[simp] theorem onValley_nor (v : Nat) (f : ValleyStats → ValleyStats) (s : State) : (onValley v f s).nor = s.nor := rfl
@[simp] theorem onValley_fw (v : Nat) (f : ValleyStats → ValleyStats) (s : State) : (onValley v f s).fw = s.fw := rfl
@[simp] theorem onValley_sec (v : Nat) (f : ValleyStats → ValleyStats) (s : State) : (onValley v f s).sec = s.sec := rfl
@[simp] theorem onValley_ns (v : Nat) (f : ValleyStats → ValleyStats) (s : State) : (onValley v f s).ns = s.ns := rfl
@[simp] theorem onValley_ftl (v : Nat) (f : ValleyStats → ValleyStats) (s : State) : (onValley v f s).ftl = s.ftl := rfl
@[simp] theorem onValley_mem (v : Nat) (f : ValleyStats → ValleyStats) (s : State) : (onValley v f s).mem = s.mem := rfl
@[simp] theorem onValley_sched (v : Nat) (f : ValleyStats → ValleyStats) (s : State) : (onValley v f s).sched = s.sched := rfl
@[simp] theorem onValley_eng (v : Nat) (f : ValleyStats → ValleyStats) (s : State) : (onValley v f s).eng = s.eng := rfl
@[simp] theorem onValley_dies (v : Nat) (f : ValleyStats → ValleyStats) (s : State) : (onValley v f s).dies = s.dies := rfl
@[simp] theorem onValley_power (v : Nat) (f : ValleyStats → ValleyStats) (s : State) : (onValley v f s).power = s.power := rfl
@[simp] theorem onValley_idx (v : Nat) (f : ValleyStats → ValleyStats) (s : State) : (onValley v f s).idx = s.idx := rfl
@[simp] theorem onValley_train (v : Nat) (f : ValleyStats → ValleyStats) (s : State) : (onValley v f s).train = s.train := rfl
@[simp] theorem onValley_plain (v : Nat) (f : ValleyStats → ValleyStats) (s : State) : (onValley v f s).plain = s.plain := rfl
@[simp] theorem onValley_free (v : Nat) (f : ValleyStats → ValleyStats) (s : State) : (onValley v f s).free = s.free := rfl

@[simp] theorem onMxa_pending (n : Nat) (f : Mxa → Mxa) (s : State) : (onMxa n f s).pending = s.pending := rfl
@[simp] theorem onMxa_host (n : Nat) (f : Mxa → Mxa) (s : State) : (onMxa n f s).host = s.host := rfl
@[simp] theorem onMxa_bell (n : Nat) (f : Mxa → Mxa) (s : State) : (onMxa n f s).bell = s.bell := rfl
@[simp] theorem onMxa_img (n : Nat) (f : Mxa → Mxa) (s : State) : (onMxa n f s).img = s.img := rfl
@[simp] theorem onMxa_nor (n : Nat) (f : Mxa → Mxa) (s : State) : (onMxa n f s).nor = s.nor := rfl
@[simp] theorem onMxa_fw (n : Nat) (f : Mxa → Mxa) (s : State) : (onMxa n f s).fw = s.fw := rfl
@[simp] theorem onMxa_sec (n : Nat) (f : Mxa → Mxa) (s : State) : (onMxa n f s).sec = s.sec := rfl
@[simp] theorem onMxa_ns (n : Nat) (f : Mxa → Mxa) (s : State) : (onMxa n f s).ns = s.ns := rfl
@[simp] theorem onMxa_ftl (n : Nat) (f : Mxa → Mxa) (s : State) : (onMxa n f s).ftl = s.ftl := rfl
@[simp] theorem onMxa_mem (n : Nat) (f : Mxa → Mxa) (s : State) : (onMxa n f s).mem = s.mem := rfl
@[simp] theorem onMxa_sched (n : Nat) (f : Mxa → Mxa) (s : State) : (onMxa n f s).sched = s.sched := rfl
@[simp] theorem onMxa_dies (n : Nat) (f : Mxa → Mxa) (s : State) : (onMxa n f s).dies = s.dies := rfl
@[simp] theorem onMxa_power (n : Nat) (f : Mxa → Mxa) (s : State) : (onMxa n f s).power = s.power := rfl
@[simp] theorem onMxa_idx (n : Nat) (f : Mxa → Mxa) (s : State) : (onMxa n f s).idx = s.idx := rfl
@[simp] theorem onMxa_query (n : Nat) (f : Mxa → Mxa) (s : State) : (onMxa n f s).query = s.query := rfl
@[simp] theorem onMxa_train (n : Nat) (f : Mxa → Mxa) (s : State) : (onMxa n f s).train = s.train := rfl
@[simp] theorem onMxa_plain (n : Nat) (f : Mxa → Mxa) (s : State) : (onMxa n f s).plain = s.plain := rfl
@[simp] theorem onMxa_free (n : Nat) (f : Mxa → Mxa) (s : State) : (onMxa n f s).free = s.free := rfl

@[simp] theorem onVu_pending (n : Nat) (f : Vu → Vu) (s : State) : (onVu n f s).pending = s.pending := rfl
@[simp] theorem onVu_host (n : Nat) (f : Vu → Vu) (s : State) : (onVu n f s).host = s.host := rfl
@[simp] theorem onVu_bell (n : Nat) (f : Vu → Vu) (s : State) : (onVu n f s).bell = s.bell := rfl
@[simp] theorem onVu_img (n : Nat) (f : Vu → Vu) (s : State) : (onVu n f s).img = s.img := rfl
@[simp] theorem onVu_nor (n : Nat) (f : Vu → Vu) (s : State) : (onVu n f s).nor = s.nor := rfl
@[simp] theorem onVu_fw (n : Nat) (f : Vu → Vu) (s : State) : (onVu n f s).fw = s.fw := rfl
@[simp] theorem onVu_sec (n : Nat) (f : Vu → Vu) (s : State) : (onVu n f s).sec = s.sec := rfl
@[simp] theorem onVu_ns (n : Nat) (f : Vu → Vu) (s : State) : (onVu n f s).ns = s.ns := rfl
@[simp] theorem onVu_ftl (n : Nat) (f : Vu → Vu) (s : State) : (onVu n f s).ftl = s.ftl := rfl
@[simp] theorem onVu_mem (n : Nat) (f : Vu → Vu) (s : State) : (onVu n f s).mem = s.mem := rfl
@[simp] theorem onVu_sched (n : Nat) (f : Vu → Vu) (s : State) : (onVu n f s).sched = s.sched := rfl
@[simp] theorem onVu_dies (n : Nat) (f : Vu → Vu) (s : State) : (onVu n f s).dies = s.dies := rfl
@[simp] theorem onVu_power (n : Nat) (f : Vu → Vu) (s : State) : (onVu n f s).power = s.power := rfl
@[simp] theorem onVu_idx (n : Nat) (f : Vu → Vu) (s : State) : (onVu n f s).idx = s.idx := rfl
@[simp] theorem onVu_query (n : Nat) (f : Vu → Vu) (s : State) : (onVu n f s).query = s.query := rfl
@[simp] theorem onVu_train (n : Nat) (f : Vu → Vu) (s : State) : (onVu n f s).train = s.train := rfl
@[simp] theorem onVu_plain (n : Nat) (f : Vu → Vu) (s : State) : (onVu n f s).plain = s.plain := rfl
@[simp] theorem onVu_free (n : Nat) (f : Vu → Vu) (s : State) : (onVu n f s).free = s.free := rfl

@[simp] theorem setMover_pending (n : Nat) (m : Option Moving) (s : State) : (setMover n m s).pending = s.pending := rfl
@[simp] theorem setMover_host (n : Nat) (m : Option Moving) (s : State) : (setMover n m s).host = s.host := rfl
@[simp] theorem setMover_bell (n : Nat) (m : Option Moving) (s : State) : (setMover n m s).bell = s.bell := rfl
@[simp] theorem setMover_img (n : Nat) (m : Option Moving) (s : State) : (setMover n m s).img = s.img := rfl
@[simp] theorem setMover_nor (n : Nat) (m : Option Moving) (s : State) : (setMover n m s).nor = s.nor := rfl
@[simp] theorem setMover_fw (n : Nat) (m : Option Moving) (s : State) : (setMover n m s).fw = s.fw := rfl
@[simp] theorem setMover_sec (n : Nat) (m : Option Moving) (s : State) : (setMover n m s).sec = s.sec := rfl
@[simp] theorem setMover_ns (n : Nat) (m : Option Moving) (s : State) : (setMover n m s).ns = s.ns := rfl
@[simp] theorem setMover_ftl (n : Nat) (m : Option Moving) (s : State) : (setMover n m s).ftl = s.ftl := rfl
@[simp] theorem setMover_mem (n : Nat) (m : Option Moving) (s : State) : (setMover n m s).mem = s.mem := rfl
@[simp] theorem setMover_sched (n : Nat) (m : Option Moving) (s : State) : (setMover n m s).sched = s.sched := rfl
@[simp] theorem setMover_dies (n : Nat) (m : Option Moving) (s : State) : (setMover n m s).dies = s.dies := rfl
@[simp] theorem setMover_power (n : Nat) (m : Option Moving) (s : State) : (setMover n m s).power = s.power := rfl
@[simp] theorem setMover_idx (n : Nat) (m : Option Moving) (s : State) : (setMover n m s).idx = s.idx := rfl
@[simp] theorem setMover_query (n : Nat) (m : Option Moving) (s : State) : (setMover n m s).query = s.query := rfl
@[simp] theorem setMover_train (n : Nat) (m : Option Moving) (s : State) : (setMover n m s).train = s.train := rfl
@[simp] theorem setMover_plain (n : Nat) (m : Option Moving) (s : State) : (setMover n m s).plain = s.plain := rfl
@[simp] theorem setMover_free (n : Nat) (m : Option Moving) (s : State) : (setMover n m s).free = s.free := rfl

@[simp] theorem onNs_pending (f : List Ns → List Ns) (s : State) : (onNs f s).pending = s.pending := rfl
@[simp] theorem onNs_host (f : List Ns → List Ns) (s : State) : (onNs f s).host = s.host := rfl
@[simp] theorem onNs_bell (f : List Ns → List Ns) (s : State) : (onNs f s).bell = s.bell := rfl
@[simp] theorem onNs_img (f : List Ns → List Ns) (s : State) : (onNs f s).img = s.img := rfl
@[simp] theorem onNs_nor (f : List Ns → List Ns) (s : State) : (onNs f s).nor = s.nor := rfl
@[simp] theorem onNs_fw (f : List Ns → List Ns) (s : State) : (onNs f s).fw = s.fw := rfl
@[simp] theorem onNs_sec (f : List Ns → List Ns) (s : State) : (onNs f s).sec = s.sec := rfl
@[simp] theorem onNs_ftl (f : List Ns → List Ns) (s : State) : (onNs f s).ftl = s.ftl := rfl
@[simp] theorem onNs_mem (f : List Ns → List Ns) (s : State) : (onNs f s).mem = s.mem := rfl
@[simp] theorem onNs_sched (f : List Ns → List Ns) (s : State) : (onNs f s).sched = s.sched := rfl
@[simp] theorem onNs_eng (f : List Ns → List Ns) (s : State) : (onNs f s).eng = s.eng := rfl
@[simp] theorem onNs_dies (f : List Ns → List Ns) (s : State) : (onNs f s).dies = s.dies := rfl
@[simp] theorem onNs_power (f : List Ns → List Ns) (s : State) : (onNs f s).power = s.power := rfl
@[simp] theorem onNs_idx (f : List Ns → List Ns) (s : State) : (onNs f s).idx = s.idx := rfl
@[simp] theorem onNs_query (f : List Ns → List Ns) (s : State) : (onNs f s).query = s.query := rfl
@[simp] theorem onNs_train (f : List Ns → List Ns) (s : State) : (onNs f s).train = s.train := rfl
@[simp] theorem onNs_plain (f : List Ns → List Ns) (s : State) : (onNs f s).plain = s.plain := rfl
@[simp] theorem onNs_free (f : List Ns → List Ns) (s : State) : (onNs f s).free = s.free := rfl

@[simp] theorem onFtlStats_pending (f : FtlStats → FtlStats) (s : State) : (onFtlStats f s).pending = s.pending := rfl
@[simp] theorem onFtlStats_host (f : FtlStats → FtlStats) (s : State) : (onFtlStats f s).host = s.host := rfl
@[simp] theorem onFtlStats_bell (f : FtlStats → FtlStats) (s : State) : (onFtlStats f s).bell = s.bell := rfl
@[simp] theorem onFtlStats_img (f : FtlStats → FtlStats) (s : State) : (onFtlStats f s).img = s.img := rfl
@[simp] theorem onFtlStats_nor (f : FtlStats → FtlStats) (s : State) : (onFtlStats f s).nor = s.nor := rfl
@[simp] theorem onFtlStats_fw (f : FtlStats → FtlStats) (s : State) : (onFtlStats f s).fw = s.fw := rfl
@[simp] theorem onFtlStats_sec (f : FtlStats → FtlStats) (s : State) : (onFtlStats f s).sec = s.sec := rfl
@[simp] theorem onFtlStats_ns (f : FtlStats → FtlStats) (s : State) : (onFtlStats f s).ns = s.ns := rfl
@[simp] theorem onFtlStats_mem (f : FtlStats → FtlStats) (s : State) : (onFtlStats f s).mem = s.mem := rfl
@[simp] theorem onFtlStats_sched (f : FtlStats → FtlStats) (s : State) : (onFtlStats f s).sched = s.sched := rfl
@[simp] theorem onFtlStats_eng (f : FtlStats → FtlStats) (s : State) : (onFtlStats f s).eng = s.eng := rfl
@[simp] theorem onFtlStats_dies (f : FtlStats → FtlStats) (s : State) : (onFtlStats f s).dies = s.dies := rfl
@[simp] theorem onFtlStats_power (f : FtlStats → FtlStats) (s : State) : (onFtlStats f s).power = s.power := rfl
@[simp] theorem onFtlStats_idx (f : FtlStats → FtlStats) (s : State) : (onFtlStats f s).idx = s.idx := rfl
@[simp] theorem onFtlStats_query (f : FtlStats → FtlStats) (s : State) : (onFtlStats f s).query = s.query := rfl
@[simp] theorem onFtlStats_train (f : FtlStats → FtlStats) (s : State) : (onFtlStats f s).train = s.train := rfl
@[simp] theorem onFtlStats_plain (f : FtlStats → FtlStats) (s : State) : (onFtlStats f s).plain = s.plain := rfl
@[simp] theorem onFtlStats_free (f : FtlStats → FtlStats) (s : State) : (onFtlStats f s).free = s.free := rfl

@[simp] theorem onQStats_pending (f : QStats → QStats) (s : State) : (onQStats f s).pending = s.pending := rfl
@[simp] theorem onQStats_host (f : QStats → QStats) (s : State) : (onQStats f s).host = s.host := rfl
@[simp] theorem onQStats_bell (f : QStats → QStats) (s : State) : (onQStats f s).bell = s.bell := rfl
@[simp] theorem onQStats_img (f : QStats → QStats) (s : State) : (onQStats f s).img = s.img := rfl
@[simp] theorem onQStats_nor (f : QStats → QStats) (s : State) : (onQStats f s).nor = s.nor := rfl
@[simp] theorem onQStats_fw (f : QStats → QStats) (s : State) : (onQStats f s).fw = s.fw := rfl
@[simp] theorem onQStats_sec (f : QStats → QStats) (s : State) : (onQStats f s).sec = s.sec := rfl
@[simp] theorem onQStats_ns (f : QStats → QStats) (s : State) : (onQStats f s).ns = s.ns := rfl
@[simp] theorem onQStats_ftl (f : QStats → QStats) (s : State) : (onQStats f s).ftl = s.ftl := rfl
@[simp] theorem onQStats_mem (f : QStats → QStats) (s : State) : (onQStats f s).mem = s.mem := rfl
@[simp] theorem onQStats_sched (f : QStats → QStats) (s : State) : (onQStats f s).sched = s.sched := rfl
@[simp] theorem onQStats_eng (f : QStats → QStats) (s : State) : (onQStats f s).eng = s.eng := rfl
@[simp] theorem onQStats_dies (f : QStats → QStats) (s : State) : (onQStats f s).dies = s.dies := rfl
@[simp] theorem onQStats_power (f : QStats → QStats) (s : State) : (onQStats f s).power = s.power := rfl
@[simp] theorem onQStats_idx (f : QStats → QStats) (s : State) : (onQStats f s).idx = s.idx := rfl
@[simp] theorem onQStats_train (f : QStats → QStats) (s : State) : (onQStats f s).train = s.train := rfl
@[simp] theorem onQStats_plain (f : QStats → QStats) (s : State) : (onQStats f s).plain = s.plain := rfl
@[simp] theorem onQStats_free (f : QStats → QStats) (s : State) : (onQStats f s).free = s.free := rfl

@[simp] theorem hold_pending (h : Hdr) (c : Instr) (w : Why) (s : State) : (hold h c w s).pending = s.pending := rfl
@[simp] theorem hold_bell (h : Hdr) (c : Instr) (w : Why) (s : State) : (hold h c w s).bell = s.bell := rfl
@[simp] theorem hold_img (h : Hdr) (c : Instr) (w : Why) (s : State) : (hold h c w s).img = s.img := rfl
@[simp] theorem hold_nor (h : Hdr) (c : Instr) (w : Why) (s : State) : (hold h c w s).nor = s.nor := rfl
@[simp] theorem hold_fw (h : Hdr) (c : Instr) (w : Why) (s : State) : (hold h c w s).fw = s.fw := rfl
@[simp] theorem hold_sec (h : Hdr) (c : Instr) (w : Why) (s : State) : (hold h c w s).sec = s.sec := rfl
@[simp] theorem hold_ns (h : Hdr) (c : Instr) (w : Why) (s : State) : (hold h c w s).ns = s.ns := rfl
@[simp] theorem hold_ftl (h : Hdr) (c : Instr) (w : Why) (s : State) : (hold h c w s).ftl = s.ftl := rfl
@[simp] theorem hold_mem (h : Hdr) (c : Instr) (w : Why) (s : State) : (hold h c w s).mem = s.mem := rfl
@[simp] theorem hold_sched (h : Hdr) (c : Instr) (w : Why) (s : State) : (hold h c w s).sched = s.sched := rfl
@[simp] theorem hold_eng (h : Hdr) (c : Instr) (w : Why) (s : State) : (hold h c w s).eng = s.eng := rfl
@[simp] theorem hold_dies (h : Hdr) (c : Instr) (w : Why) (s : State) : (hold h c w s).dies = s.dies := rfl
@[simp] theorem hold_power (h : Hdr) (c : Instr) (w : Why) (s : State) : (hold h c w s).power = s.power := rfl
@[simp] theorem hold_idx (h : Hdr) (c : Instr) (w : Why) (s : State) : (hold h c w s).idx = s.idx := rfl
@[simp] theorem hold_query (h : Hdr) (c : Instr) (w : Why) (s : State) : (hold h c w s).query = s.query := rfl
@[simp] theorem hold_train (h : Hdr) (c : Instr) (w : Why) (s : State) : (hold h c w s).train = s.train := rfl
@[simp] theorem hold_plain (h : Hdr) (c : Instr) (w : Why) (s : State) : (hold h c w s).plain = s.plain := rfl
@[simp] theorem hold_free (h : Hdr) (c : Instr) (w : Why) (s : State) : (hold h c w s).free = s.free := rfl

@[simp] theorem logEvent_pending (e st : Nat) (r : Resource) (s : State) : (logEvent e st r s).pending = s.pending := rfl
@[simp] theorem logEvent_host (e st : Nat) (r : Resource) (s : State) : (logEvent e st r s).host = s.host := rfl
@[simp] theorem logEvent_bell (e st : Nat) (r : Resource) (s : State) : (logEvent e st r s).bell = s.bell := rfl
@[simp] theorem logEvent_img (e st : Nat) (r : Resource) (s : State) : (logEvent e st r s).img = s.img := rfl
@[simp] theorem logEvent_nor (e st : Nat) (r : Resource) (s : State) : (logEvent e st r s).nor = s.nor := rfl
@[simp] theorem logEvent_fw (e st : Nat) (r : Resource) (s : State) : (logEvent e st r s).fw = s.fw := rfl
@[simp] theorem logEvent_sec (e st : Nat) (r : Resource) (s : State) : (logEvent e st r s).sec = s.sec := rfl
@[simp] theorem logEvent_ns (e st : Nat) (r : Resource) (s : State) : (logEvent e st r s).ns = s.ns := rfl
@[simp] theorem logEvent_ftl (e st : Nat) (r : Resource) (s : State) : (logEvent e st r s).ftl = s.ftl := rfl
@[simp] theorem logEvent_mem (e st : Nat) (r : Resource) (s : State) : (logEvent e st r s).mem = s.mem := rfl
@[simp] theorem logEvent_sched (e st : Nat) (r : Resource) (s : State) : (logEvent e st r s).sched = s.sched := rfl
@[simp] theorem logEvent_eng (e st : Nat) (r : Resource) (s : State) : (logEvent e st r s).eng = s.eng := rfl
@[simp] theorem logEvent_power (e st : Nat) (r : Resource) (s : State) : (logEvent e st r s).power = s.power := rfl
@[simp] theorem logEvent_idx (e st : Nat) (r : Resource) (s : State) : (logEvent e st r s).idx = s.idx := rfl
@[simp] theorem logEvent_query (e st : Nat) (r : Resource) (s : State) : (logEvent e st r s).query = s.query := rfl
@[simp] theorem logEvent_train (e st : Nat) (r : Resource) (s : State) : (logEvent e st r s).train = s.train := rfl
@[simp] theorem logEvent_plain (e st : Nat) (r : Resource) (s : State) : (logEvent e st r s).plain = s.plain := rfl
@[simp] theorem logEvent_free (e st : Nat) (r : Resource) (s : State) : (logEvent e st r s).free = s.free := rfl


@[simp] theorem freeBytes_pending (n : Nat) (s : State) : (freeBytes n s).2.pending = s.pending := rfl
@[simp] theorem freeBytes_host (n : Nat) (s : State) : (freeBytes n s).2.host = s.host := rfl
@[simp] theorem freeBytes_bell (n : Nat) (s : State) : (freeBytes n s).2.bell = s.bell := rfl
@[simp] theorem freeBytes_img (n : Nat) (s : State) : (freeBytes n s).2.img = s.img := rfl
@[simp] theorem freeBytes_nor (n : Nat) (s : State) : (freeBytes n s).2.nor = s.nor := rfl
@[simp] theorem freeBytes_fw (n : Nat) (s : State) : (freeBytes n s).2.fw = s.fw := rfl
@[simp] theorem freeBytes_sec (n : Nat) (s : State) : (freeBytes n s).2.sec = s.sec := rfl
@[simp] theorem freeBytes_ns (n : Nat) (s : State) : (freeBytes n s).2.ns = s.ns := rfl
@[simp] theorem freeBytes_ftl (n : Nat) (s : State) : (freeBytes n s).2.ftl = s.ftl := rfl
@[simp] theorem freeBytes_mem (n : Nat) (s : State) : (freeBytes n s).2.mem = s.mem := rfl
@[simp] theorem freeBytes_sched (n : Nat) (s : State) : (freeBytes n s).2.sched = s.sched := rfl
@[simp] theorem freeBytes_eng (n : Nat) (s : State) : (freeBytes n s).2.eng = s.eng := rfl
@[simp] theorem freeBytes_dies (n : Nat) (s : State) : (freeBytes n s).2.dies = s.dies := rfl
@[simp] theorem freeBytes_power (n : Nat) (s : State) : (freeBytes n s).2.power = s.power := rfl
@[simp] theorem freeBytes_idx (n : Nat) (s : State) : (freeBytes n s).2.idx = s.idx := rfl
@[simp] theorem freeBytes_query (n : Nat) (s : State) : (freeBytes n s).2.query = s.query := rfl
@[simp] theorem freeBytes_train (n : Nat) (s : State) : (freeBytes n s).2.train = s.train := rfl
@[simp] theorem freeBytes_plain (n : Nat) (s : State) : (freeBytes n s).2.plain = s.plain := rfl

theorem getElem?_modifyAt {α : Type} (l : List α) (i j : Nat) (f : α → α) :
    (modifyAt l i f)[j]? = if j = i then l[j]?.map f else l[j]? := by
  induction l generalizing i j with
  | nil => cases j <;> simp [modifyAt]
  | cons x r ih =>
    cases i <;> cases j <;> simp [modifyAt]
    exact ih ..

@[simp] theorem modifyAt_getD_same {α : Type} (l : List α) (i : Nat) (f : α → α) (d : α) (h : i < l.length) :
    (modifyAt l i f).getD i d = f (l.getD i d) := by
  simp only [List.getD_eq_getElem?_getD, getElem?_modifyAt, if_true, List.getElem?_eq_getElem h, Option.map_some, Option.getD_some]

theorem modifyAt_getD_other {α : Type} (l : List α) (i j : Nat) (f : α → α) (d : α) (h : j ≠ i) :
    (modifyAt l i f).getD j d = l.getD j d := by
  simp only [List.getD_eq_getElem?_getD, getElem?_modifyAt, if_neg h]

end Sys2Proof.Machine
end

