-- ==== Sys2Proof/Tests/Slice0.lean ====
section
/-! SUPPORT. Tests: ill-formed commands are refused; states that meet the premises of each statement; single steps whose outcome the spec
gives. -/

namespace Sys2Proof.Tests

open Sys2Proof.Machine

/-! ### Small states -/

/-- An admin header, and one on I/O queue 1. -/
def adm : Hdr := ⟨0, 1, false, false, false⟩

def io : Hdr := ⟨1, 1, false, false, false⟩

/-- The reset state with the controller enabled and one pair of I/O queues. -/
def ready : State :=
  { State.reset with host := { HostSt.reset with en := true, rdy := true, sqs := [⟨1, 1, 64⟩], cqs := [⟨1, 1, 64⟩] } }

/-- The next state of a command. -/
def after (c : Instr) (s : State) : State :=
  match exec c s with
  | .next t => t
  | _ => s

/-- Status of the newest completion. -/
def lastStatus (s : State) : Option (Nat × Nat) := s.host.posted.getLast?.map fun c => (c.sct, c.sc)

def recovering : State := { ready with fw := { ready.fw with recovery := true } }

def sanitizing : State := { ready with sec := { ready.sec with sanitize := some ⟨true, 0, 1⟩ } }

/-- An Activate that changes classroom 0 is outstanding. -/
def activating : State :=
  { ready with img := { ready.img with activation := some ⟨adm, 1, Image.rom, Blob.zero 0, 2, [0], 0, false⟩ } }

/-- The active image is the resident one. -/
def resident : State :=
  { ready with img := { ready.img with source := 1, replicas := List.replicate 4 (some (Blob.zero 0)), record := some 0 } }

/-- Member 2 of a plain of four, alone with its reference member 0. -/
def member : State :=
  { ready with
    img := { ready.img with active := { Image.rom with plain := { PlainCfg.default with plainId := 9, members := 4 } } }
    plain := { ready.plain with
      own := .member
      member := 2
      reference := 0
      present := 0x5
      peers := ({ Peer.reset with state := .present, hops := 1 } : Peer) :: List.replicate 23 Peer.reset } }

def withLock (n : Nat) : State := { ready with img := { ready.img with active := { Image.rom with lock := n } } }

/-- One attached namespace of four units. -/
def withNs : State := { ready with ns := ⟨[⟨1, 0, 4, true⟩]⟩ }

def committing : State := { ready with fw := { ready.fw with commit := some ⟨some adm, 1, FwImage.shipped⟩ } }

/-- Eight tokens rejected, the last one `n` bells ago. -/
def rejected (n : Nat) : State :=
  { ready with
    sec := { ready.sec with rejects := 8, lastRejectBell := 5 }
    bell := { ready.bell with count := BitVec.ofNat 48 (5 + n) } }

/-- A descriptor list that names DRAM row 5 of channel 1, and one of an unknown type. -/
def rowToRetire : Blob := ⟨4096, [(0, 1#8), (1, 1#8), (4, 5#8)]⟩

def badRow : Blob := ⟨4096, [(0, 9#8)]⟩

/-! ### The queue, admission and reset -/

theorem witness_StepRunsFrontCommand :
    ({ ready with pending := [.flush io 1, .identify adm 1 0] } : State).pending = .flush io 1 :: [.identify adm 1 0] ∧
    ready.pending = [] := by decide

theorem test_step_takes_the_front :
    step { ready with pending := [.abort adm 1 7, .flush io 1] } = exec (.abort adm 1 7) { ready with pending := [.flush io 1] } := rfl

theorem test_idle_lets_a_tick_pass :
    (match step ready with | .next t => t.bell.tick | _ => 0) = 1 := by decide

/-- Each clause of admission is met: not served, wrong queue, recovery, a reserved field, a sanitize, ORD, a full drive, a classroom that is
not mapped, one that an Activate changes. -/
theorem witness_CommandsAreAdmittedInOrder :
    adminOf (.structureVerify adm) = some (adm, 0xC2) ∧ State.reset.fetches adm = false ∧ ready.fetches adm = true ∧
    ready.fw.recovery = false ∧ recovering.fetches adm = true ∧ recovering.fw.recovery = true ∧ recoveryAnswers 0xC2 = false ∧
    ready.fetches { adm with rsvd := true } = true ∧ sanitizing.fetches adm = true ∧ sanitizing.sec.sanitize.isSome = true ∧
    sanitizePermits 0xC2 = false ∧ ioOf (.flush io 1) = some (io, false) ∧ ioOf (.readWithProxy io 1 0 0 0) = some (io, true) ∧
    ready.fetches io = true ∧ io.sq ≠ 0 ∧ ({ ready with host := { ready.host with outs := [⟨1, 9, true, .reading⟩] } } : State).mustOrder io = true ∧
    ready.mustOrder io = false ∧ roomOf (.filteredScan io 7 ⟨73, 0, 64⟩) = some (io, 7) ∧ ready.acceptsIo io false = true ∧
    ready.room? 7 = none ∧ (ready.room? 0).isSome = true ∧ activating.activateHolds 0 = true ∧ ready.host.deletes = [] := by decide

theorem witness_a_full_drive :
    65536 ≤ ({ ready with host := { ready.host with outs := List.replicate 65536 ⟨2, 0, false, .reading⟩ } } : State).host.outs.length :=
  Nat.le_of_eq List.length_replicate.symm

theorem test_unserved_changes_nothing : exec (.flush io 1) State.reset = .next State.reset := rfl

theorem witness_StepsKeepTheInvariant : ∃ t, step ready = .next t := ⟨_, rfl⟩

/-! ### Structure image -/

/-- Lengths and offsets at their bounds, a stopped Load, and a Load while an Activate is outstanding. -/
theorem witness_StructureLoadStagesFrames :
    ready.accepts adm 0xC1 = true ∧ ready.activateBusy = false ∧ activating.accepts adm 0xC1 = true ∧ activating.activateBusy = true ∧
    (stageFrames [] 0 []).2 = none := by decide

theorem test_structure_load_length : lastStatus (after (.structureLoad adm 4095 0 (Blob.zero 0)) ready) = some (0, 2) := by decide

/-- A frame whose FRAME_COUNT is zero fails (R49, R51). -/
theorem test_frame_count_zero : frameOk [] 0 (Blob.zero 4096) = false := by
  have h : (Blob.zero 4096).le 4 2 = 0 := by decide
  simp [frameOk, h]

set_option maxRecDepth 20000 in
/-- The check value of CRC-32C for the nine ASCII digits 1 to 9. -/
theorem test_crc32c : crc32c [0x31#8, 0x32#8, 0x33#8, 0x34#8, 0x35#8, 0x36#8, 0x37#8, 0x38#8, 0x39#8] = 0xE3069283#32 := by decide

theorem witness_StructureActivateActions :
    ready.accepts adm 0xC2 = true ∧ ready.activateBusy = false ∧ activating.accepts adm 0xC2 = true ∧ activating.activateBusy = true ∧
    (match checkStaged ready with | .error _ => true | .ok _ => false) = true ∧ ready.img.source = 0 ∧
    ({ ready with img := { ready.img with source := 2 } } : State).activeResident = false ∧ ready.img.commit = none ∧
    ready.firstReplica = none ∧ ready.lockOk ready.romImage = true := by decide

/-- A resident image, on a drive alone and on a member of a plain of more than one whose section 07h differs. -/
theorem witness_StructureActivateActions_resident :
    resident.accepts adm 0xC2 = true ∧ resident.activateBusy = false ∧ resident.activeResident = true ∧ resident.img.source ≠ 0 ∧
    member.plainMember = true ∧ plainSame member.img.active Image.rom = false ∧ member.lockOk member.romImage = false := by decide

theorem test_activate_rom_default :
    (after (.activateRomDefault adm) ready).img.activation.map (fun a => (a.action, a.source, a.boundaries)) = some (5, 0, 0) := by decide

theorem test_activate_reserved : lastStatus (after (.structureActivateReserved adm 6) ready) = some (0, 2) := by decide

theorem witness_ActivateEnds :
    ({ activating with img := { activating.img with activation := activating.img.activation.map fun a => { a with boundaries := 100 } } } :
      State).img.activation.map (fun a => (a.inEffect, decide (100 ≤ a.boundaries))) = some (false, true) ∧
    ({ ready with img := { ready.img with commit := some ⟨Image.rom, Blob.zero 0, some adm⟩ } } : State).img.activation = none := by decide

/-! ### Admin commands -/

theorem witness_QueuesAreCreatedAndDeleted :
    ready.accepts adm 0x05 = true ∧ ready.accepts adm 0x01 = true ∧ ready.accepts adm 0x04 = true ∧ ready.accepts adm 0x00 = true ∧
    (∀ q ∈ ready.host.cqs, q.id ≠ 512) ∧ (∃ q ∈ ready.host.cqs, q.id = 1) ∧ (∀ q ∈ ready.host.sqs, q.id ≠ 512) ∧
    (∃ q ∈ ready.host.sqs, q.id = 1) ∧ (∃ q ∈ ready.host.sqs, q.cq = 1) ∧ ready.calm = true ∧ (∀ o ∈ ready.host.outs, o.sq ≠ 1) ∧
    (∀ q ∈ ({ ready with host := { ready.host with sqs := [] } } : State).host.sqs, q.cq ≠ 1) := by decide

theorem test_create_queue_512 :
    lastStatus (after (.createIoCompletionQueue adm 512 65535 512 true) ready) = some (0, 0) ∧
    lastStatus (after (.createIoCompletionQueue adm 512 1 513 true) ready) = some (1, 8) := by decide

theorem test_delete_submission_queue : (after (.deleteIoSubmissionQueue adm 1) ready).host.sqs.length = 0 := by decide

theorem witness_AbortLeavesTheCommandRunning :
    ready.accepts adm 0x08 = true ∧ ({ ready with host := { ready.host with aborts := [1, 2, 3] } } : State).host.aborts.length < 4 ∧
    4 ≤ ({ ready with host := { ready.host with aborts := [1, 2, 3, 4] } } : State).host.aborts.length := by decide

theorem test_fifth_abort :
    lastStatus (after (.abort adm 0 9) { ready with host := { ready.host with aborts := [1, 2, 3, 4] } }) = some (1, 3) := by decide

theorem witness_EventsMeetRequests :
    ready.accepts adm 0x0C = true ∧ 8 ≤ ({ ready with host := { ready.host with aers := [1, 2, 3, 4, 5, 6, 7, 8] } } : State).host.aers.length ∧
    (∀ e ∈ ({ ready with host := { ready.host with waiting := [⟨7, 0, 0xC4⟩], masked := [0xC4] } } : State).host.waiting, e.lid ∈ [0xC4]) ∧
    (⟨7, 0, 0xC4⟩ : Event).lid ∉ ready.host.masked ∧ (⟨7, 0, 0xC4⟩ : Event) ∉ ready.host.waiting := by decide

/-- A vendor event on log page C4h answers the oldest request (R83, R102). -/
theorem test_event_on_a_request :
    (raiseEvent ⟨7, 0, 0xC4⟩ { ready with host := { ready.host with aers := [5, 6] } }).host.posted.getLast?.map (fun c => (c.cid, c.dw0)) =
      some (5, 0xC40007) := by decide

theorem witness_SetFeaturesTakesOrRefuses :
    ready.accepts adm 0x09 = true ∧ ready.img.active.lock = 0 ∧ (withLock 1).img.active.lock = 1 ∧ 80 ≤ (withLock 1).img.active.envelopeW ∧
    1 < (withLock 2).img.active.lock ∧ firstBad (checks06 2 (policyBytes Policy.default)) = none ∧
    (firstBad (checks06 2 (Blob.zero 16))).isSome = true ∧ queryDefaultsOk (queryDefaultsData IdxDefaults.default) = true ∧
    queryDefaultsOk (Blob.zero 16) = false := by decide

theorem test_set_power_envelope :
    (after (.setPowerEnvelope adm false 80) ready).host.envelopeNext = some 80 ∧
    lastStatus (after (.setPowerEnvelope adm false 166) ready) = some (0, 2) := by decide

theorem test_set_power_management :
    (after (.setPowerManagement adm false 2) ready).host.powerState = 2 ∧
    lastStatus (after (.setPowerManagement adm false 3) ready) = some (0, 2) := by decide

theorem test_plain_membership_is_fixed : lastStatus (after (.setPlainMembership adm false) ready) = some (1, 0x0E) := by decide

theorem witness_GetFeaturesReadsTheFeature : ready.accepts adm 0x0A = true ∧ (0x0B : Nat) ∉ [0x01, 0x02, 0x07, 0xC0, 0xC1, 0xC2, 0xC3, 0xC4] := by
  decide

theorem test_number_of_queues :
    (after (.getFeatures adm 7 0) ready).host.posted.getLast?.map Completion.dw0 = some 0x01FF01FF := by decide

theorem witness_ManagementCommandsAndOpcodes :
    ready.accepts adm 0x1D = true ∧ ready.envelopeOk 80 = true ∧ adminOpcode 0x7F = false ∧ ready.power.mgmt = true ∧ ready.up = true ∧
    ready.fw.recovery = false ∧ ready.fetches adm = true ∧
    ({ ready with power := { ready.power with mgmt := false } } : State).power.mgmt = false := by decide

theorem test_unknown_opcode : lastStatus (after (.invalidCommandOpcode adm 0x7F) ready) = some (0, 1) := by decide

theorem witness_LogPagesAndIdentify :
    ready.accepts adm 0x02 = true ∧ ready.accepts adm 0x06 = true ∧ (ready.logPage 0xC4).isSome = true ∧ (ready.logPage 0xC7).isNone = true ∧
    (match ready.identifyData 1 0 with | .ok _ => true | .error _ => false) = true ∧
    (match ready.identifyData 0x7F 0 with | .ok _ => false | .error _ => true) = true := by decide

theorem test_unknown_log_page : lastStatus (after (.getLogPage adm 0xC7 0 0 true) ready) = some (1, 9) := by decide

theorem witness_NamespacesAreManaged :
    ready.accepts adm 0x0D = true ∧ ready.accepts adm 0x15 = true ∧ (spanList 1 64).find? (fun i => (ready.ns? i).isNone) = some 1 ∧
    (spanList 1 64).any (fun i => (withNs.ns? i).isNone) = true ∧ (withNs.ns? 1).isSome = true ∧ ready.ns? 64 = none := by decide

theorem test_namespace_attachment :
    lastStatus (after (.namespaceAttachment adm 65 true) ready) = some (0, 2) ∧
    lastStatus (after (.namespaceAttachment adm 1 true) withNs) = some (1, 0x18) ∧
    lastStatus (after (.namespaceAttachment adm 64 true) ready) = some (0, 0x0B) := by decide

theorem witness_FirmwareIsStagedAndCommitted :
    ready.accepts adm 0x11 = true ∧ ready.accepts adm 0x10 = true ∧ ready.fw.commit = none ∧ ready.stagedFirmware = none ∧ ready.up = true ∧
    committing.fw.commit.isSome = true ∧ committing.accepts adm 0x10 = true ∧ committing.accepts adm 0x11 = true := by decide

theorem test_firmware_commit :
    lastStatus (after (.firmwareCommitNoAction adm 1) ready) = some (1, 0x10) ∧
    lastStatus (after (.firmwareCommitRefused adm 3 0) ready) = some (0, 2) ∧
    lastStatus (after (.firmwareCommitReplace adm 1 2) ready) = some (1, 6) ∧
    lastStatus (after (.firmwareCommitReplace adm 1 1) ready) = some (1, 7) := by decide

theorem witness_MaintenanceUnlockChecksTheToken :
    ready.accepts adm 0xCA = true ∧ ready.sec.rejects < 8 ∧ ready.tokenFault ((Blob.zero 4096).fit 4096) = some 1 ∧
    8 ≤ (rejected 1023).sec.rejects ∧ bellsFrom (rejected 1023).sec.lastRejectBell (rejected 1023).bell.count < 1024 ∧
    1024 ≤ bellsFrom (rejected 1024).sec.lastRejectBell (rejected 1024).bell.count := by decide

theorem test_ninth_token :
    (after (.maintenanceUnlock adm (Blob.zero 4096)) (rejected 1023)).host.posted.getLast?.map (fun c => (c.sct, c.sc, c.dw0)) =
      some (7, 0xCA, 6) := by decide

theorem witness_RetireResourceTakesRowsOut :
    ready.accepts adm 0xC9 = true ∧ (retireList rowToRetire).all descriptorOk = true ∧ retireList rowToRetire ≠ [] ∧
    ready.retireWaits ((retireList rowToRetire).map resourceOf) = false ∧
    firstStanding ready 0 [] ((retireList rowToRetire).map resourceOf) = none ∧
    (List.range (retireList badRow).length).find? (fun i => !(descriptorOk ((retireList badRow).getD i (Blob.zero 16)))) = some 0 ∧
    ((retireList rowToRetire).map resourceOf).all (fun r => r.type == 1 && !(ready.isRetired r) && (ready.spanTaken r).isNone) = true := by decide

theorem witness_SelfTestFormatAndSanitize :
    ready.accepts adm 0x14 = true ∧ ready.accepts adm 0x80 = true ∧ ready.accepts adm 0x84 = true ∧ (withNs.ns.list.filter fun x => x.nsid == 1).length = 1 ∧
    ready.plain.own = .standalone ∧ ready.activateBusy = false ∧ ready.train.steps = [] ∧ member.plain.own ≠ .standalone ∧
    sanitizing.sec.sanitize.isSome = true ∧ sanitizing.up = true := by decide

theorem test_sanitize_on_a_member : lastStatus (after (.sanitizeCryptoErase adm) member) = some (0, 0x0C) := by decide
theorem test_format_field : lastStatus (after (.formatNvm adm 1 3) withNs) = some (0, 2) := by decide

/-! ### NVM and memory namespaces -/

/-- Unit 0 of namespace 1 in the write buffer, unit 1 in flash, unit 2 lost, unit 3 never written. -/
def stored : State :=
  { withNs with ftl := { withNs.ftl with
      map := [(0, .phys 5), (1, .phys 40), (2, .lost)]
      buf := [⟨5, 0, 1, 1, ⟨65536, [(0, 7#8), (4096, 9#8)]⟩, [], none, false, []⟩]
      flash := [(40, ⟨1, 1, 4, 1, 0, ⟨65536, [(1, 8#8)]⟩⟩)]
      nextId := 3 } }

/-- An open superblock of the host stream with room on every channel. -/
def writable : State :=
  { withNs with ftl := { withNs.ftl with
      sbs := [(0, ⟨0, .host, List.range 30, [30, 31], false, false⟩)]
      opens := [⟨0, .host, 0, List.replicate 32 3071, 767⟩]
      openSeq := 1 } }

/-- Critical Warning bit 3 is set: the media is read-only. -/
def readOnlyDrive : State := { withNs with host := { withNs.host with critWarn := 8 } }

/-- A deferred write error is to be reported on namespace 1. -/
def owing : State := { withNs with ftl := { withNs.ftl with defers := [⟨0, 1, 16, 16, 0, 1, false, [], 1⟩], deferTotal := 1 } }

theorem witness_ReadsComeFromBufferOrFlash :
    stored.acceptsIo io false = true ∧ stored.attached? 2 = none ∧ io.proxy = false ∧ (stored.attached? 1).isSome = true ∧
    4 * 16 < 63 + 1 + 1 ∧ (∀ j ∈ stored.ftl.jobs, j.jid < stored.ftl.nextId) ∧ (∀ r ∈ stored.ftl.reads, r.job < stored.ftl.nextId) ∧
    stored.mapOf (stored.slotOf ⟨1, 0, 4, true⟩ 15) = some (.phys 5) ∧ (stored.buffered 5).map (·.poison) = some [] ∧
    stored.deferredLba 1 15 = false ∧ stored.mapOf (stored.slotOf ⟨1, 0, 4, true⟩ 16) = some (.phys 40) ∧ stored.buffered 40 = none ∧
    (lookupNat stored.ftl.flash 40).isSome = true ∧ (stored.col (sbOf 40) (chOf 40)).erasing = none ∧
    stored.erasingBeside (sbOf 40) (chOf 40) = none ∧ (stored.die 1).state ≠ .failed ∧
    stored.mapOf (stored.slotOf ⟨1, 0, 4, true⟩ 47) = some .lost ∧ stored.mapOf (stored.slotOf ⟨1, 0, 4, true⟩ 63) = none ∧
    stored.deferredLba 1 63 = false := by decide

/-- LBA 1 of the buffered unit holds the bytes from 4,096 on (R318). -/
theorem test_read_from_the_buffer :
    (after (.nvmRead io 1 1 0) stored).host.posted.getLast?.map (fun c => (c.sct, c.sc, c.data.byte 0, c.data.len)) =
      some (0, 0, 9#8, 4096) := by decide

theorem test_read_of_a_lost_unit : lastStatus (after (.nvmRead io 1 32 0) stored) = some (2, 0x81) := by decide

theorem test_read_beyond_the_end : lastStatus (after (.nvmRead io 1 64 0) stored) = some (0, 0x80) := by decide

theorem test_read_from_flash_waits :
    (after (.nvmRead io 1 16 0) stored).host.posted.length = 0 ∧ (after (.nvmRead io 1 16 0) stored).ftl.reads.length = 1 := by decide

theorem witness_WritesTakeASlotAndSetTheMap :
    writable.acceptsIo io false = true ∧ writable.attached? 1 = some ⟨1, 0, 4, true⟩ ∧ readOnlyDrive.readOnly = true ∧
    readOnlyDrive.reportDue 1 = false ∧ writable.readOnly = false ∧ writable.reportDue 1 = false ∧ writable.power.through = false ∧
    0 < writable.bufferRoom ∧ (∀ j ∈ writable.ftl.jobs, j.jid < writable.ftl.nextId) ∧ writable.ns? 1 = some ⟨1, 0, 4, true⟩ ∧
    ((writable.ftl.opens.find? fun o => o.stream == .host).map fun o =>
      (writable.live o.sb).any fun ch => decide (o.row ch < 3072)) = some true := by decide

theorem test_write_to_a_read_only_drive :
    lastStatus (after (.writeZeroes io 1 0 15) readOnlyDrive) = some (0, 0x81) ∧
    lastStatus (after (.writeZeroes io 1 64 15) readOnlyDrive) = some (0, 0x80) := by decide

theorem test_write_zeroes_maps_the_unit :
    lastStatus (after (.writeZeroes io 1 16 15) writable) = some (0, 0) ∧ (after (.writeZeroes io 1 16 15) writable).ftl.map.length = 1 := by
  decide

theorem witness_DeallocateUnmapsAndFlushReports :
    stored.acceptsIo io false = true ∧ stored.attached? 1 = some ⟨1, 0, 4, true⟩ ∧ 3 < 4 ∧ stored.readOnly = false ∧
    readOnlyDrive.acceptsIo io false = true ∧ readOnlyDrive.readOnly = true ∧ stored.attached? 64 = none ∧ stored.reportDue 1 = false ∧
    (owing.attached? 1).isSome = true ∧ owing.reportDue 1 = true ∧ owing.reportDue 0xFFFFFFFF = true ∧ owing.acceptsIo io false = true := by decide

theorem test_flush_reports_once :
    lastStatus (after (.flush io 1) owing) = some (7, 0xC4) ∧ (after (.flush io 1) owing).reportDue 1 = false ∧
    lastStatus (after (.flush io 1) stored) = some (0, 0) := by decide

theorem test_deallocate_unmaps :
    (after (.datasetManagementDeallocate io 1 true [⟨16, 16⟩]) stored).mapOf 1 = none ∧
    (after (.datasetManagementDeallocate io 1 true [⟨16, 16⟩]) stored).mapOf 0 = some (.phys 5) := by decide

/-- A Read with PROXY set. -/
def prox : Hdr := { io with proxy := true }

/-- The member's view of member 0, with a namespace table of one namespace. -/
def withTable : State :=
  { member with plain := { member.plain with
      peers := modifyAt member.plain.peers 0 fun p => { p with table := [⟨1, 0, 2, 0⟩] } } }

theorem witness_ProxyReadsGoToTheirMember :
    withTable.acceptsIo prox true = true ∧ withTable.members ≤ 4 ∧ 3 < withTable.members ∧ withTable.isMember = true ∧
    0 ≠ withTable.plain.member ∧ (withTable.tableEntry 0 1).isSome = true ∧ 31 + 0 + 1 ≤ 2 * 16 ∧ (withTable.peer 0).state ≠ .absent ∧
    (withTable.peer 0).state ≠ .left := by decide

theorem test_proxy_of_no_member : lastStatus (after (.readWithProxy prox 1 0 0 4) withTable) = some (0, 2) := by decide

/-- A range set over the first 4 KiB of NSID 73 and of NSID 74; a poisoned granule and a lost span. -/
def ranged : State :=
  { ready with mem := { ready.mem with
      sets := [⟨0, 1, [⟨73, 0, 4096⟩, ⟨74, 0, 4096⟩]⟩]
      sram := ⟨[(0, 1#8), (63, 2#8)], [2]⟩
      lostSpans := [(73, 1024, 64)] } }

theorem witness_MemoryWriteStoresItsBytes :
    ranged.acceptsIo io false = true ∧ 2097152 < (Blob.zero 2097153).len ∧ memLen 73 < memLen 73 - 1 + (Blob.zero 2).len ∧
    ranged.inRange none 73 4096 1 = false ∧ ranged.inRange none 73 4095 1 = true ∧ ranged.spanLost 73 1024 1 = true ∧
    ranged.spanLost 73 4095 1 = false ∧ 4095 + 1 ≤ memLen 73 := by decide

/-- A write of two bytes changes those and no others, and keeps the mark of a granule that it covers in part (R361). -/
theorem test_memory_write :
    (after (.memoryWrite io 73 62 ⟨2, [(0, 9#8)]⟩) ranged).mem.sram = ⟨[(0, 1#8), (62, 9#8)], [2]⟩ ∧
    (after (.memoryWrite io 73 128 (Blob.zero 64)) ranged).mem.sram.poison = [] := by decide

theorem test_memory_write_beyond : lastStatus (after (.memoryWrite io 73 (memLen 73) (Blob.zero 1)) ranged) = some (0, 0x80) := by decide

theorem witness_MemoryReadReturnsTheBytes :
    ranged.acceptsIo io false = true ∧ memLen 74 < memLen 74 + 1 ∧ 63 + 1 ≤ memLen 73 ∧ ranged.spanLost 73 63 1 = false ∧
    (ranged.ram 73).badBytes 63 1 = [] ∧ (ranged.ram 73).badBytes 127 2 = [1] ∧ ranged.spanLost 73 127 2 = false := by decide

theorem test_memory_read_of_poison :
    lastStatus (after (.memoryRead io 73 127 2) ranged) = some (2, 0x81) ∧ lastStatus (after (.memoryRead io 73 126 2) ranged) = some (0, 0) := by
  decide

/-- Bytes that nothing has written read as zero (R442). -/
theorem test_unwritten_memory :
    (after (.memoryRead io 74 0 4) ready).host.posted.getLast?.map (fun c => (c.sct, c.sc, c.data)) = some (0, 0, ⟨4, []⟩) := by decide

theorem witness_MemoryCopyMovesTheBytes :
    ranged.acceptsIo io false = true ∧ ranged.inRange none 73 4096 1 = false ∧ ranged.inRange none 74 0 4096 = true ∧
    ranged.spanLost 74 0 4096 = false ∧ ranged.spanLost 73 0 64 = false ∧ (ranged.ram 73).badBytes 0 64 = [] ∧ 0 + 4096 ≤ memLen 74 := by decide

theorem witness_MemoryCopyMovesTheBytes_from_an_lba :
    let s := { stored with mem := ranged.mem }
    s.acceptsIo io false = true ∧ s.attached? 1 = some ⟨1, 0, 4, true⟩ ∧ s.ns? 1 = some ⟨1, 0, 4, true⟩ ∧ s.inRange none 74 0 4096 = true ∧
    s.spanLost 74 0 4096 = false ∧ (∀ j ∈ s.ftl.jobs, j.jid < s.ftl.nextId) ∧ s.mapOf (s.slotOf ⟨1, 0, 4, true⟩ 15) = some (.phys 5) ∧
    (s.buffered 5).map (·.poison) = some [] ∧ s.deferredLba 1 15 = false := by decide

theorem test_memory_copy :
    (after (.memoryCopy io 74 16 64 (.mem 73 0)) ranged).mem.dram.cells = [(16, 1#8), (79, 2#8)] := by decide

theorem witness_RangeSetsAreCreatedAndDeleted :
    ranged.acceptsRoom io 0 = true ∧ [(⟨74, 4096, 4096⟩ : MemRange)].all memRangeOk = true ∧ ranged.rangesClear [⟨74, 4096, 4096⟩] = true ∧
    ranged.quotaMode = false ∧ ranged.rangesClear [⟨73, 4095, 1⟩] = false ∧ ranged.freeRsid = 2 ∧
    (∃ r ∈ ranged.mem.sets, r.room = 0 ∧ r.id = 1) ∧ (∀ r ∈ ranged.mem.sets, ¬(r.room = 0 ∧ r.id = 2)) := by decide

theorem test_range_set_identifier :
    (after (.memoryRangeSetCreate io 0 [⟨74, 4096, 4096⟩]) ranged).host.posted.getLast?.map Completion.dw0 = some 2 := by decide

/-! ### Lessons, runs and engines -/

/-- A lesson in slot 2 of classroom 0 that takes one array, one vector unit and one mover, and may send. -/
def lesson : Lesson :=
  ⟨0, 2, Blob.zero 0, 0, true, false, 2, 1, 1, 1, 1, List.replicate 32 1, 1, 0, 0, 0, 0, [], [], 32, 10, [], [(32, 1)]⟩

/-- A run of that lesson on die 3. -/
def run0 : Run :=
  ⟨0, io, 0, 2, 2, 0, 3, [.mxa 0, .vu 0, .mover 0], List.replicate 32 1, [], none, [], [⟨0, 1, 3⟩], 0, [], false, [], false, false⟩

/-- The drive with that lesson loaded; with a run of it in progress, whose classroom has a segment of 4 KiB in tier 0 of die 3 and one in
tier 1. -/
def taught : State := { ready with sched := { ready.sched with lessons := [lesson] } }

def running : State :=
  { taught with
    sched := { taught.sched with runs := [run0], nextRun := 1, shared := [((0, 32), 1)] }
    mem := { taught.mem with segs := [⟨.run 0, .working, 0, 0, 3, 0, 4096, 0, false, []⟩, ⟨.run 0, .working, 0, 1, 0, 0, 4096, 0, false, []⟩]
                             sram := ⟨[(dieBase 3, 3#8), (dieBase 3 + 64, 5#8)], []⟩ } }

/-- A lesson image of 48 header bytes too few, and one whose header passes. -/
def shortImage : Blob := Blob.zero 0x100

def headerImage : Blob :=
  ⟨0x130, [(0, 0x56#8), (1, 0x51#8), (2, 0x4C#8), (3, 0x49#8), (4, 1#8), (6, 0x80#8), (8, 0x30#8), (9, 1#8), (0x10, 1#8)]⟩

theorem witness_ProgramsAreLoadedAndUnloaded :
    taught.acceptsRoom io 0 = true ∧ (taught.room? 0).map Room.slots = some 64 ∧ 0x3F < 0x40 ∧ 0x40 + 64 ≤ 0x80 ∧ taught.runsOf 0 2 = [] ∧
    running.acceptsRoom io 0 = true ∧ running.runsOf 0 2 ≠ [] ∧ (taught.lesson? 0 2).isSome = true ∧ (Blob.zero 0).len = 0 ∧
    shortImage.len ≠ 0 ∧ lessonHeaderOk shortImage = false := by decide

theorem test_load_program :
    lastStatus (after (.loadProgram io 0 0x3F shortImage) taught) = some (0, 2) ∧
    lastStatus (after (.loadProgram io 0 0x42 shortImage) running) = some (0, 0x0C) ∧
    (after (.loadProgram io 0 0x42 (Blob.zero 0)) taught).sched.lessons = [] := by decide

/-- A parameter block without windows. -/
def noWindows : ParamRef := ⟨74, 4096, 16⟩

/-- The lesson with a pinned segment on die 3. -/
def pinnedThere : State := { taught with mem := { taught.mem with segs := [⟨.lesson 0 2, .pinned, 0, 0, 3, 0, 4096, 0, false, []⟩] } }

theorem witness_LessonsAreActivatedAndRun :
    pinnedThere.acceptsRoom io 0 = true ∧ (pinnedThere.room? 0).map (fun r => (r.room, r.slots)) = some (0, 64) ∧ pinnedThere.lesson? 0 63 = none ∧
    (pinnedThere.lesson? 0 2).map (fun l => (l.quarantined, l.active)) = some (false, true) ∧
    (match paramBlock noWindows pinnedThere with | .ok b => parseWindows b | .error _ => none) = some [] ∧ 0 ≤ pinnedThere.windowLimit 0 ∧
    (pinnedThere.mapRun ⟨0, 4, 0xFF, 0xFF, 0xFF, 64, 4, 7⟩ lesson).map Prod.fst = some 3 ∧ (∀ d ∈ lesson.segs, d.kind ≠ .working) := by decide

theorem test_execute_program :
    lastStatus (after (.executeLesson io 0 0x43 noWindows) taught) = some (0, 2) ∧
    lastStatus (after (.executeLesson io 0 0x42 noWindows) { taught with sched := { taught.sched with
      lessons := [{ lesson with quarantined := true }] } }) = some (7, 0xC1) := by decide

/-- A fill of one INT8 product into INT32, and a move of one INT8 element from DRAM to tier 0. -/
def fillOne : Blob :=
  ⟨0x80, [(0, 1#8), (2, 1#8), (3, 1#8), (4, 10#8), (5, 8#8), (8, 1#8), (0xA, 1#8), (0xE, 255#8), (0xF, 255#8), (0x10, 1#8), (0x12, 1#8),
    (0x14, 1#8), (0x18, 64#8), (0x1C, 64#8), (0x20, 64#8), (0x37, 3#8), (0x38, 64#8), (0x3F, 3#8), (0x40, 128#8), (0x47, 3#8)]⟩

def moveOne : Blob :=
  ⟨0x40, [(0, 2#8), (1, 1#8), (2, 1#8), (4, 255#8), (5, 255#8), (8, 1#8), (0xC, 1#8), (0x17, 0x10#8), (0x18, 192#8), (0x1F, 3#8)]⟩

theorem witness_FillsAndDrains :
    running.mayIssue 0 (.mxa 0) = true ∧ running.run? 0 = some run0 ∧ 0 < running.eng.mxa.length ∧
    fillFieldsOk (engineDie (.mxa 0)) fillOne (parseFill fillOne) = true ∧ fillFollows (running.mxa 0) (parseFill fillOne) = true ∧
    (parseFill fillOne).waitSem = 255 ∧ fillAllowed running run0 (parseFill fillOne) = true ∧ running.up = true ∧
    running.dieServes (engineDie (.mxa 0)) = true ∧ (parseFill (Blob.zero 0x80)).drain = false := by decide

theorem witness_FillsAndDrains_in_a_like_state (x : Run) (t : State) (m : t.mem = running.mem) (i : t.img = running.img) (n : t.ns = running.ns)
    (r : x.room = run0.room) (w : x.windows = run0.windows) : fillAllowed t x (parseFill fillOne) = true := by
  cases t; cases x; simp only at m i n r w; subst m i n r w; rfl

theorem witness_MovesReadThenWrite :
    running.mayIssue 0 (.mover 0) = true ∧ moveFieldsOk (engineDie (.mover 0)) moveOne (parseMove moveOne) = true ∧
    0 < running.eng.movers.length ∧ running.eng.movers.getD 0 none = none ∧ (parseMove moveOne).waitSem = 255 ∧
    (parseMove moveOne).rows = 1 ∧ placeOf (parseMove moveOne).srcAddr = some (.dram 0) ∧ 0 + (parseMove moveOne).srcBytes ≤ len74 ∧
    (after (.move 0 0 moveOne) running).eng.movers.getD 0 none ≠ none := by decide

/-- Where the segments lie is all that an access asks of them. -/
theorem inSegment_agesAside {s t : State} (m : t.mem.agesAside = s.mem.agesAside) (room tier die o len : Nat) :
    t.inSegment room tier die o len = s.inSegment room tier die o len := by
  have key : ∀ u : State, u.inSegment room tier die o len = u.mem.agesAside.segs.any fun g => g.room == room && g.tier == tier &&
      (tier == 1 || g.die == die) && decide (g.base ≤ o ∧ o + len ≤ g.base + g.size) := fun u => by
    rw [MemSt.agesAside, List.any_map]; rfl
  rw [key, key, m]

theorem witness_MovesReadThenWrite_in_a_like_state (x : Run) (t : State) (m : t.mem.agesAside = running.mem.agesAside)
    (_ : t.img = running.img) (_ : t.ns = running.ns) (r : x.room = run0.room) (_ : x.windows = run0.windows) :
    t.accessOk x (parseMove moveOne).srcAddr (parseMove moveOne).srcBytes false = true ∧
    t.accessOk x (parseMove moveOne).dstAddr (parseMove moveOne).dstBytes true = true := by
  have p : placeOf (parseMove moveOne).srcAddr = some (.dram 0) := by decide
  have q : placeOf (parseMove moveOne).dstAddr = some (.sram 3 192) := by decide
  rw [State.accessOk, p, State.accessOk, q]
  dsimp only
  rw [inSegment_agesAside m, inSegment_agesAside m, r]
  decide

theorem witness_VectorOperationsWorkByLane :
    running.mayIssue 0 (.vu 0) = true ∧ 0 < running.eng.vu.length ∧ running.mayIssue 0 (.vu 7) = false ∧
    -2147483648 ≤ (0x7FFFFFFE#32).toInt + (1#32).toInt ∧ (0x7FFFFFFE#32).toInt + (1#32).toInt ≤ 2147483647 ∧
    (31#32).toNat < 32 ∧ 0x80000001#32 ≠ BitVec.intMin 32 := by decide

/-- 1.5 and 2: their sum, their product, and their product plus 1.5 with one rounding (R207, R221). -/
theorem test_vector_arithmetic :
    laneArith .add .fp32 0x3FC00000#32 0x40000000#32 0 = 0x40600000#32 ∧ laneArith .mul .fp32 0x3FC00000#32 0x40000000#32 0 = 0x40400000#32 ∧
    ffma 0x3FC00000#32 0x40000000#32 0x3FC00000#32 = 0x40900000#32 := by decide

theorem witness_VectorLoadsStoresAndReductions :
    running.mayIssue 0 (.vu 0) = true ∧ (running.run? 0).isSome = true ∧ Fmt.ofCode 1 = some .int8 ∧
    memSpan 0x0300000000000000 (fmtBytes 1 64) = some (73, dieBase 3) ∧ onDie0 (engineDie (.vu 0)) 0x0300000000000000 false = true ∧
    (∀ x, (claim (.vu 0) 0 running).run? 0 = some x → (claim (.vu 0) 0 running).accessOk x 0x0300000000000000 (fmtBytes 1 64) false = true) ∧
    (∀ i, i < 64 → (running.vu 0).bad 1 i = false) ∧ memSpan (scatterAddr 0x0300000000000000 0) 4 = some (73, dieBase 3) ∧
    onDie0 (engineDie (.vu 0)) (scatterAddr 0x0300000000000000 0) false = true ∧ (running.ram 73).badBytes (dieBase 3) 4 = [] ∧
    memSpan 0x0300000000002000 (fmtBytes 1 (min 64 64)) = some (73, dieBase 3 + 8192) ∧
    (claim (.vu 0) 0 running).accessOk run0 0x0300000000002000 (fmtBytes 1 (min 64 64)) false = false := by
  refine ⟨by decide, by decide, by decide, by decide, by decide, ?_, by decide, by decide, by decide, by decide, by decide, by decide⟩
  intro x e; cases e; decide

/-- INT8 -1 loads as the INT32 -1, BF16 3.0 as the FP32 3.0 (R219). -/
theorem test_vector_load : loadLane .int8 .int32 0 0xFF = 0xFFFFFFFF#32 ∧ loadLane .bf16 .fp32 0 0x4040 = 0x40400000#32 := by decide

/-- A run that waits on semaphore 0, since bell 0; the bell is 1,024. -/
def waiting : State :=
  { running with
    bell := { running.bell with count := 1024 }
    sched := { running.sched with runs := [{ run0 with waits := [⟨.vu 0, 0, 0, false, none⟩] }] } }

theorem witness_SemaphoresCountAndBlock :
    running.mayIssue 0 (.vu 0) = true ∧ 0 < running.semCount run0 32 ∧ 0 < running.semCount run0 31 ∧ 31 < run0.sems.length ∧
    running.semCount { run0 with sems := 0 :: run0.sems } 0 = 0 ∧ running.up = true ∧ run0.rerun = false ∧ running.dieServes run0.die = true ∧
    running.semCount run0 32 < 65535 ∧ (∀ x ∈ running.sched.runs, x.waits = []) ∧
    (waiting.run? 0).bind (fun r => r.waits.find? fun w => w.engine == .vu 0 && !w.counted && decide (w.since + 1024 ≤ waiting.bell.count.toNat)) =
      some ⟨.vu 0, 0, 0, false, none⟩ := by decide

theorem test_semaphores :
    (after (.semaphoreWait 0 (.vu 0) 32) running).sched.shared = [] ∧ (after (.semaphorePost 0 32) running).sched.shared = [((0, 32), 2)] ∧
    (after (.longSemWait 0 (.vu 0)) waiting).sched.longWaits = 1 := by decide

/-- Two runs on the array of die 3: `a` holds it until position `stop`, `b` has been ready since bell 0. -/
def contested (prioB : Nat) (stop : Nat) (grace : Bool) : State :=
  { running with
    bell := { running.bell with count := 16 }
    sched := { running.sched with
      runs := [run0, { run0 with id := 1, pri := prioB, ready := [(.vu 0, 0)] }]
      engines := [⟨.vu 0, some 0, stop, grace⟩] } }

theorem witness_EnginesPassOnAtSafePoints :
    (contested 3 99999 false).atSafePoint (.vu 0) = true ∧ (contested 3 99999 false).atSafePoint (.me 0) = false ∧
    (contested 3 99999 false).slot? (.vu 0) = some ⟨.vu 0, some 0, 99999, false⟩ ∧
    (let s := contested 3 99999 false
     (s.topRun ((s.readyOn (.vu 0)).filter fun y => s.outranks y run0 && s.rank y != s.rank run0)).map Run.id) = some 1 ∧
    (let s := contested 2 16384 false
     reached 16384 s.pos = true ∧ s.topRun ((s.readyOn (.vu 0)).filter fun y => s.outranks y run0 && s.rank y != s.rank run0) = none ∧
       (s.nextEqual (.vu 0) run0).map Run.id = some 1) ∧
    (let s := { contested 2 0 false with sched := { (contested 2 0 false).sched with engines := [] } }
     s.slot? (.vu 0) = none ∧ (s.topRun (s.readyOn (.vu 0))).map Run.id = some 1) ∧
    0 + 16 ≤ (contested 1 99999 false).bell.count.toNat ∧ reached 99999 (contested 3 99999 true).pos = false := by decide

theorem test_engines_pass_on :
    (after (.safePoint (.vu 0)) (contested 3 99999 false)).holder (.vu 0) = some 1 ∧
    (after (.safePoint (.vu 0)) (contested 3 99999 true)).holder (.vu 0) = some 0 ∧
    (after (.sliceEnd (.vu 0)) (contested 2 16384 false)).holder (.vu 0) = some 1 ∧
    (after (.starveGrant (.vu 0) 1) (contested 1 99999 false)).holder (.vu 0) = some 1 ∧
    (after (.starveGrant (.vu 0) 1) (contested 1 99999 false)).sched.starveGrants = 1 := by decide

/-- Port 0 is Up. -/
def linked : State :=
  { running with plain := { running.plain with ports := modifyAt running.plain.ports 0 fun p => { p with state := .up } } }

theorem witness_SendsAndTier3Failures :
    linked.run? 0 = some run0 ∧ linked.lesson? 0 2 = some lesson ∧ linked.up = true ∧ lesson.sends = true ∧ run0.rerun = false ∧
    (linked.room? 0).map Room.plain = some true ∧ (linked.port 0).state = .up ∧ (⟨0, 1, 3⟩ : Window) ∈ run0.windows ∧
    (⟨0, 1, 3⟩ : Window).access.testBit 0 = true := by decide

theorem test_send_block : (after (.sendBlock 0 0 0 1) linked) = linked ∧ (after (.sendBlock 0 0 1 193) linked) = linked := ⟨rfl, rfl⟩

theorem test_tier3_read_failed :
    lastStatus (after (.tier3ReadFailed 0) linked) = some (0, 4) ∧ (after (.tier3ReadFailed 0) linked).mem.stats.failT3 = 1 := by decide

/-! ### Indexes, queries and training -/

/-- A block of bytes at offset 4,096 of NSID 74, and a reference to its first `n` bytes. -/
def blocked (b : List (Nat × Byte)) (s : State) : State :=
  { s with mem := { s.mem with dram := ⟨b.map fun c => (4096 + c.1, c.2), []⟩ } }

def pb (n : Nat) : ParamRef := ⟨74, 4096, n⟩

/-- What holds of the parameter block. -/
def blockHas (n : Nat) (s : State) (p : Blob → Bool) : Bool :=
  match paramBlock (pb n) s with
  | .ok b => p b
  | .error _ => false

/-- Centroid data of one list in 32 dimensions: eight subspaces of one code word each, which is zero. -/
def cent1 : CentData := ⟨[List.replicate 32 0], [0], List.replicate 8 [List.replicate 4 0], [], [[0]], [0]⟩

/-- An entry, one pending in list 0, and index 1 with centroid data and with one entry in list 0. -/
def entry7 : Entry := ⟨7, Blob.zero 0, List.replicate 8 0, [], []⟩

def pend0 : Pend := ⟨0, 0, entry7, 0, 0, false, false⟩

def index1 : Index := ⟨1, 0, 32, 1, 8, false, 0, 0, 0, false, 0, .trained, some cent1, [(0, ⟨1, [entry7], [], [1], [2], [], false⟩)], [], []⟩

/-- A drive with that index, with its vectors kept in full, and with it untrained. -/
def indexed : State := { ready with idx := { ready.idx with live := [index1], nextSerial := 1 } }

def withVectors : State := { ready with idx := { ready.idx with live := [{ index1 with full := 8 }] } }

def untrained : State := { ready with idx := { ready.idx with live := [{ index1 with cent := none, state := .untrained, lists := [] }] } }

/-- Sixteen indexes. -/
def crowded : State := { ready with idx := { ready.idx with live := (List.range 16).map fun n => { index1 with num := n, serial := n } } }

/-- The same with the media read-only. -/
def readOnly (s : State) : State := { s with host := { s.host with critWarn := 8 } }

/-- An Insert of one entry waits for its commit. -/
def inserting : State :=
  { indexed with idx := { indexed.idx with waiting := [⟨0, io, 0, 0, [pend0], [], 0, false, false, none⟩] } }

/-- Index Create of number 1 with 32 dimensions, one centroid, eight subspaces, no coarse codes, metric 0; and with coarse codes of a reserve. -/
def create1 : List (Nat × Byte) := [(1, 1#8), (2, 32#8), (4, 1#8), (8, 8#8)]

def createCoarse : List (Nat × Byte) := create1 ++ [(9, 1#8), (0x10, 16#8)]

theorem witness_IndexesAreBuiltAndChanged_create :
    ready.acceptsRoom io 0 = true ∧ (match paramBlock ⟨1, 0, 32⟩ ready with | .error _ => true | .ok _ => false) = true ∧
    blockHas 0x1F ready (fun b => decide (b.len < 0x20)) = true ∧ blockHas 0x20 (blocked [(0, 2#8)] ready) (fun b => decide (1 < b.le 0 1)) = true ∧
    blockHas 0x20 ready (fun b => b.le 0 1 == 0 && !(ready.createFieldsOk b)) = true ∧
    blockHas 0x20 (blocked create1 indexed) (fun b => indexed.createFieldsOk b && (indexed.index? (b.le 1 1)).isSome) = true ∧
    blockHas 0x20 (blocked (create1 ++ [(0xD, 0#8)]) ready) (fun b => ready.createFieldsOk b && (ready.index? (b.le 1 1)).isNone &&
      orDefault 1 (b.le 9 1) ready.host.queryDef.coarse == 0) = true ∧
    16 ≤ crowded.working.length ∧
    blockHas 0x20 (blocked createCoarse ready) (fun b => ready.createFieldsOk b && orDefault 1 (b.le 9 1) ready.host.queryDef.coarse == 1 &&
      b.le 0x10 4 != 0xFFFFFFFF && decide (b.le 0x10 4 ≤ ready.coarseFree)) = true ∧
    ({ ready with idx := { ready.idx with live := [{ index1 with reserve := coarseStore }] } } : State).coarseFree < 16 := by decide

/-- A drop of that index has committed and is not published yet. -/
def dropping : State := { inserting with idx := { inserting.idx with queue := [⟨0, .drop 0⟩] } }

theorem witness_IndexesAreBuiltAndChanged_dropping :
    dropping.dropQueued 0 = true ∧ inserting.dropQueued 0 = false ∧ dropping.index? 1 = some index1 ∧
    (dropping.idx.waiting.find? fun x => x.wid == 0).isSome = true := by decide

theorem witness_IndexesAreBuiltAndChanged_drop :
    blockHas 0x20 (blocked [(0, 1#8), (1, 16#8)] indexed) (fun b => b.le 0 1 == 1 && decide (15 < b.le 1 1)) = true ∧
    blockHas 0x20 (blocked [(0, 1#8), (1, 15#8)] indexed) (fun b => decide (b.le 1 1 ≤ 15) && b.zeroAt 2 30 && (indexed.index? (b.le 1 1)).isNone) =
      true ∧
    (indexed.index? 1).isSome = true ∧ indexed.dropQueued 0 = false ∧
    ({ indexed with idx := { indexed.idx with queue := [⟨1, .drop 0⟩] } } : State).dropQueued 0 = true := by decide

/-- Train of index 1 from 256 vectors in 32 dimensions at NSID 73 offset 0, and its counterparts. -/
def train1 : List (Nat × Byte) := [(0, 1#8), (2, 8#8), (3, 1#8), (5, 1#8), (8, 73#8)]

theorem witness_IndexesAreBuiltAndChanged_train :
    blockHas 0x20 ready (fun b => !(indexTrainFieldsOk b)) = true ∧
    blockHas 0x20 (blocked train1 untrained) (fun b => indexTrainFieldsOk b && b.le 4 4 == 256 && b.le 1 1 == 0 &&
      (match sourceBytes (b.le 8 4) (b.le 0x10 8) (b.le 4 4 * (32 * compBytes (b.le 2 1))) (blocked train1 untrained) with
        | .ok _ => true | .error _ => false)) = true ∧
    untrained.index? 0 = none ∧ (untrained.index? 1).map (fun x => (x.num, x.cent.isNone, x.entryCount, x.centroids)) = some (1, true, 0, 1) ∧
    (readOnly untrained).readOnly = true ∧ untrained.readOnly = false ∧ untrained.retraining 0 = false ∧ untrained.stepUses 1 = false ∧
    255 < 256 ∧ 0 < index1.entryCount ∧ vecBad 0 [0x7FC00000#32] = true ∧ vecBad 0 [0#32] = false ∧
    blockHas 0x20 (blocked [(0, 1#8), (1, 1#8), (3, 1#8), (5, 1#8)] withVectors) (fun b => indexTrainFieldsOk b && b.le 1 1 == 1) = true ∧
    (withVectors.index? 1).map (fun x => (x.full, x.state)) = some (8, .trained) ∧
    (index1.lists.flatMap fun l => (l.2.entries.zipIdx).filter fun e => !l.2.dead.contains e.2).length +
      (index1.pending.filter fun p => !p.dead).length = 1 := by decide

/-- Insert of one record of 72 bytes at NSID 73 offset 0 in format 8; Delete of one identifier. -/
def insert1 : List (Nat × Byte) := [(0, 1#8), (1, 8#8), (4, 1#8), (8, 73#8)]

def delete1 : List (Nat × Byte) := [(0, 1#8), (4, 1#8), (8, 73#8)]

theorem witness_IndexesAreBuiltAndChanged_insert :
    blockHas 0x20 ready (fun b => !(insertFieldsOk b)) = true ∧
    blockHas 0x20 (blocked [(0, 1#8), (1, 8#8), (8, 73#8)] indexed) (fun b => insertFieldsOk b && b.le 4 4 == 0) = true ∧
    blockHas 0x20 (blocked insert1 indexed) (fun b => insertFieldsOk b && b.le 4 4 == 1 && indexed.index? (b.le 0 1) == some index1 &&
      decide (b.le 4 4 * index1.pendBytes ≤ 268435456) &&
      (match sourceBytes (b.le 8 4) (b.le 0x10 8) (b.le 4 4 * recordBytes index1 (b.le 1 1)) (blocked insert1 indexed) with
        | .ok d => !(vecBad 0 (readVec d 8 32 8)) | .error _ => false)) = true ∧
    index1.cent.isSome = true ∧ 268435456 < 40000 * ({ index1 with dim := 2048, full := 10 } : Index).pendBytes ∧ indexed.entriesNow + 1 ≤ 4000000000 ∧
    indexed.readOnly = false ∧ (readOnly indexed).readOnly = true ∧ (untrained.index? 1).map (fun x => x.cent.isNone) = some true := by decide

theorem witness_IndexesAreBuiltAndChanged_commit :
    inserting.up = true ∧ ((inserting.idx.waiting.find? fun x => x.wid == 0).map fun w => (w.serial, w.embed, w.rest, w.ents.length)) =
      some (0, none, [], 1) ∧
    (∀ x ∈ inserting.idx.waiting, x.wid ≠ 1) ∧ (inserting.working.find? fun x => x.serial == 0) = some index1 ∧
    (({ inserting with idx := { inserting.idx with live := [] } } : State).working.find? fun x => x.serial == 0) = none ∧
    inserting.pendingUsed + 1 * index1.pendBytes ≤ 536870912 ∧ inserting.changeFits (1 * index1.pendBytes) = true ∧
    inserting.mirrors index1 = false ∧ inserting.stepHolds 1 = false := by decide

theorem witness_IndexesAreBuiltAndChanged_delete :
    blockHas 0x20 (blocked [(1, 1#8)] ready) (fun b => !(deleteFieldsOk b)) = true ∧
    blockHas 0x20 (blocked [(8, 73#8)] ready) (fun b => deleteFieldsOk b && b.le 4 4 == 0) = true ∧
    blockHas 0x20 (blocked delete1 indexed) (fun b => deleteFieldsOk b && b.le 4 4 == 1 && indexed.changeFits (b.le 4 4 * 16) &&
      (match sourceBytes (b.le 8 4) (b.le 0x10 8) (b.le 4 4 * 16) (blocked delete1 indexed) with
        | .ok d => d.zeroAt 12 4 && decide (d.le 8 4 < index1.centroids) | .error _ => false)) = true ∧
    ({ indexed with idx := { indexed.idx with dropped := [index1] } } : State).idx.dropped = [index1] ∧ indexed.indexUsed 0 = false := by decide

set_option maxRecDepth 20000 in
theorem witness_IndexesAreBuiltAndChanged_no_room :
    ({ indexed with ftl := { indexed.ftl with staging := [⟨false, 0, none, 0, false, List.replicate 1024 0⟩] } } : State).changeFits 16 = false := by
  decide

/-- A fold of list 0 is due 64 bells after the oldest pending entry; with vectors kept, it takes three units. -/
def foldable : State :=
  { writable with
    idx := { ready.idx with live := [{ index1 with pending := [pend0] }] }
    bell := { ready.bell with count := 64 } }

theorem witness_IndexesAreBuiltAndChanged_fold :
    foldable.up = true ∧ (∀ x ∈ foldable.idx.live, x.num ≠ 2) ∧ (foldable.idx.live.find? fun x => x.num == 1).map (·.serial) = some 0 ∧
    foldable.readOnly = false ∧ (readOnly foldable).readOnly = true ∧ foldable.ftl.exhausted = false ∧ foldable.stepHolds 1 = false ∧
    foldable.folding 0 0 = false ∧ foldable.dropQueued 0 = false ∧ (∃ p ∈ [pend0], p.list = 0 ∧ p.bell + 64 ≤ foldable.bell.count.toNat) ∧
    (∀ p ∈ [pend0], p.list = 0 → indexed.bell.count.toNat < p.bell + 64) ∧ index1.unitsFor 2 ≤ foldable.bufferRoom ∧
    foldable.mirrors index1 = false := by decide

set_option maxRecDepth 20000 in
theorem witness_IndexesAreBuiltAndChanged_fold_places :
    (placeList { index1 with pending := [pend0] } 0 2 [entry7, entry7] [] false [] foldable).isSome = true := by
  unfold placeList State.freeSlots State.poolSlots userSlots
  generalize Config.isL240 = b
  cases b <;> rfl

theorem zero_byte (n i : Nat) : (Blob.zero n).byte i = 0 := by
  unfold Blob.byte
  split <;> rfl

theorem zero_le (n a : Nat) : (Blob.zero n).le a 2 = 0 := by
  show leNat [(Blob.zero n).byte (a + 0), (Blob.zero n).byte (a + 1)] = 0
  rw [zero_byte, zero_byte]
  rfl

theorem zero_vectors (i : Nat) : vecBad 0 (readVec (Blob.zero 16384) i 32 8) = false := by
  have h : readVec (Blob.zero 16384) i 32 8 = (List.range 32).map fun _ => vecElem 8 0 := by
    simp only [readVec, show compBytes 8 = 2 from rfl, zero_le]
  rw [h]
  decide

/-- 256 vectors of zeros from empty memory. -/
theorem witness_IndexesAreBuiltAndChanged_vectors :
    ((List.range 256).map fun i => readVec (Blob.zero 16384) (i * (32 * compBytes 8)) 32 8).all (fun x => !(vecBad 0 x)) = true := by
  simp only [List.all_map, List.all_eq_true, Function.comp_apply, zero_vectors, Bool.not_false, implies_true]

/-- 256 live entries. -/
theorem witness_IndexesAreBuiltAndChanged_live :
    (((List.replicate 256 entry7).zipIdx).filter fun e => !(List.contains [] e.2)).length = 256 := by
  have h (l : List (Entry × Nat)) : (l.filter fun e => !(List.contains [] e.2)) = l := List.filter_eq_self.mpr fun _ _ => rfl
  rw [h, List.length_zipIdx, List.length_replicate]

/-- An encoder lesson of 32 components with its objects in namespace 1, and a range set for the results. -/
def embedding : State :=
  { stored with
    idx := indexed.idx
    sched := { ready.sched with lessons := [{ lesson with inKind := 1, inFmt := 8, outDim := 32 }] }
    mem := { ready.mem with sets := [⟨0, 1, [⟨74, 0, 65536⟩]⟩] } }

/-- Embed and Insert of the reference at offset 8,192 of NSID 74, whose object is LBA 0 to `e`, with the lesson of slot 2. -/
def embed1 (a e : Nat) : List (Nat × Byte) :=
  [(0, 1#8), (1, 2#8), (4, 1#8), (8, 74#8), (0xC, 255#8), (0xD, 255#8), (0x11, 0x20#8), (0x18, 74#8), (0x1A, 0#8),
    (0x1000, 1#8), (0x1004, 1#8), (0x1008, BitVec.ofNat 8 a), (0x1010, BitVec.ofNat 8 e)]

def embedRecs (s : State) : Blob :=
  match sourceBytes 74 8192 (embedRecord index1) s with
  | .ok d => d
  | .error _ => Blob.zero 0

theorem witness_IndexesAreBuiltAndChanged_embed :
    embedding.acceptsRoom io 0 = true ∧ (embedding.room? 0).map (fun r => (r.valley, r.me)) = some (true, 255) ∧
    embedding.power.supplySag = false ∧ blockHas 0x3F embedding (fun b => decide (b.len < 0x40)) = true ∧
    blockHas 0x40 (blocked [(1, 64#8)] embedding) (fun b => !(embedding.embedFieldsOk 0 b)) = true ∧
    blockHas 0x40 (blocked [(8, 74#8), (0x18, 74#8)] embedding) (fun b => embedding.embedFieldsOk 0 b && b.le 4 4 == 0) = true ∧
    blockHas 0x40 (blocked (embed1 0 0) embedding) (fun b => embedding.embedFieldsOk 0 b && b.le 4 4 == 1 && b.le 0xC 2 == 0xFFFF) = true ∧
    embedding.index? 1 = some index1 ∧ embedding.index? 0 = none ∧ embedding.readOnly = false ∧ (readOnly embedding).readOnly = true ∧
    (embedding.lesson? 0 2).map (fun l => (l.quarantined, encoderOk l index1)) = some (false, true) := by decide

theorem witness_IndexesAreBuiltAndChanged_embed_reads :
    (let s := blocked (embed1 0 0) embedding
     let r := (embedRecs s).slice 0 32
     refOk s r = true ∧ refSuits { lesson with inKind := 1, inFmt := 8, outDim := 32 } (parseRef r) = true ∧ s.refSlots (parseRef r) = [0] ∧
     (let x := openJob (.embed io 0 (Blob.zero 0x40) (embedRecs s)) [0] (begin' io .program s)
      (x.2.job? x.1).map (·.wait)) = some []) ∧
    (let s := blocked (embed1 16 16) embedding
     s.refSlots (parseRef ((embedRecs s).slice 0 32)) = [1] ∧
     (let x := openJob (.embed io 0 (Blob.zero 0x40) (embedRecs s)) [1] (begin' io .program s)
      (x.2.job? x.1).map (·.wait)) = some [1]) ∧
    refOk (blocked (embed1 16 0) embedding) ((embedRecs (blocked (embed1 16 0) embedding)).slice 0 32) = false := by decide

/-- The scanned range is the block of units from LBA `a` to `b` of namespace 1 in records of 8 bytes; results at offset 0 of NSID 74, where
the classroom has a range set. -/
def scan1 (a b : Nat) : List (Nat × Byte) :=
  [(0, 1#8), (4, 3#8), (5, 1#8), (8, BitVec.ofNat 8 a), (0x10, BitVec.ofNat 8 b), (0x20, 74#8), (0x30, 0xFF#8), (0x31, 0x0F#8)]

def scanning : State := { stored with mem := { ready.mem with sets := [⟨0, 1, [⟨74, 0, 65536⟩]⟩] } }

def noValley : State :=
  { ready with img := { ready.img with active := { Image.rom with rooms := [⟨0, 4, 0xFF, 0xFF, 0xFF, 64, 4, 6⟩] } } }

/-- A scan that has been told to end at position 5, with nothing left to read, and with a unit being read. -/
def scanRun : ScanRun :=
  ⟨0, io, 0, 1, 3, 1, false, [], 0, 0, false, 74, 0, 100, 0, 0, 0, some 5, [2, 3], [], [], [], 0, 0, 0, 0, 0, 0⟩

def scanOn (r : ScanRun) : State := { scanning with query := { ready.query with scans := [r] } }

def late (s : State) : State := { s with bell := { s.bell with count := 1 } }

theorem witness_ScansAndQueriesRun_scan :
    noValley.acceptsRoom io 0 = true ∧ (noValley.room? 0).map Room.valley = some false ∧ scanning.acceptsRoom io 0 = true ∧
    (scanning.room? 0).map Room.valley = some true ∧ blockHas 0x3F scanning (fun b => decide (b.len < 0x40)) = true ∧
    blockHas 0x40 scanning (fun b => (parseScan io 0 b scanning).isNone) = true ∧
    blockHas 0x40 (blocked (scan1 0 15) scanning) (fun b => (parseScan io 0 b (blocked (scan1 0 15) scanning)).any fun x => x.todo == [0]) = true ∧
    blockHas 0x40 (blocked (scan1 48 63) scanning) (fun b => (parseScan io 0 b (blocked (scan1 48 63) scanning)).any fun x => x.todo == []) = true ∧
    scanning.query.scans = [] ∧ scanning.query.runs = [] ∧ scanning.ftl.jobs = [] ∧ scanning.ftl.reads = [] ∧
    scanning.ns? 1 = some ⟨1, 0, 4, true⟩ ∧ scanning.mapOf (scanning.slotOf ⟨1, 0, 4, true⟩ 0) = some (.phys 5) ∧
    (scanning.buffered 5).isSome = true ∧ reached 5 scanning.pos = false := by decide

theorem witness_ScansAndQueriesRun_unit :
    ({ scanRun with todo := [] } : ScanRun).mode = 1 ∧ scanRun.matched = 0 ∧ scanRun.scanned = 0 ∧ scanRun.poisoned = 0 ∧ scanRun.recs = [] ∧
    (⟨0, Blob.zero 65536, [], false⟩ : UnitData).poison = [] := by decide

theorem witness_ScansAndQueriesRun_scan_deadline :
    (∀ x ∈ (scanOn scanRun).query.scans, x.id ≠ 1) ∧ (scanOn scanRun).query.scans = [scanRun] ∧ (scanOn scanRun).query.runs = [] ∧
    reached 5 (scanOn scanRun).pos = false ∧ reached 5 (late (scanOn scanRun)).pos = true ∧ scanRun.busy = [] ∧
    ({ scanRun with busy := [1] } : ScanRun).busy ≠ [] := by decide

/-- A query of index 1 with one vector of BF16 at offset 0 of NSID 73, defaults but for RERANK, results at offset 0 of NSID 74. -/
def query1 (scope fmt : Byte) : List (Nat × Byte) :=
  [(0, 1#8), (1, scope), (3, fmt), (4, 1#8), (6, 10#8), (8, 1#8), (0x14, 74#8), (0x20, 0xFF#8), (0x21, 0x0F#8), (0x30, 73#8)]

def querying : State := { scanning with idx := untrained.idx }

def noEngine : State :=
  { ready with img := { ready.img with active := { Image.rom with rooms := [⟨0, 4, 0xFF, 0xFF, 0, 64, 4, 7⟩] } } }

theorem witness_ScansAndQueriesRun_query_checks :
    blockHas 0x40 scanning (fun b => !(queryFieldsOk b scanning)) = true ∧
    blockHas 0x40 (blocked (query1 0 255) noEngine) (fun b => queryFieldsOk b noEngine && b.le 3 1 == 255) = true ∧
    (noEngine.room? 0).map (fun r => (r.valley, r.me)) = some (true, 0) ∧ noEngine.acceptsRoom io 0 = true ∧
    blockHas 0x40 (blocked (query1 1 8) querying) (fun b => queryFieldsOk b querying && b.le 1 1 == 1 && b.le 3 1 == 8) = true ∧
    querying.isMember = false ∧
    blockHas 0x40 (blocked (query1 0 8) querying) (fun b => queryFieldsOk b querying && b.le 1 1 == 0 && b.le 0xA 1 == 0 && b.le 0x10 4 == 0 &&
      (queryParams b querying).1 == 10 && (queryParams b querying).2.2.1 == 0 && b.le 2 1 == 0 &&
      decide (b.le 4 2 * (64 + 32 * 10) ≤ b.le 0x20 8 + 1 - b.le 0x18 8) &&
      querying.outputOk 0 (b.le 0x14 4) (b.le 0x18 8) (b.le 0x20 8 + 1 - b.le 0x18 8) &&
      (match sourceBytes (b.le 0x30 4) (b.le 0x38 8) (b.le 4 2 * 32 * compBytes (b.le 3 1)) querying with
        | .ok d => (queryVectors 0 32 8 1 d).isSome | .error _ => false)) = true ∧
    (querying.idx.live.find? fun x => x.num == 1).map (fun x => (x.cent, x.dim, x.metric, x.full, x.attrLen)) = some (none, 32, 0, 0, 0) ∧
    (∀ x ∈ querying.idx.live, x.num ≠ 2) ∧
    blockHas 0x40 (blocked (query1 0 8 ++ [(2, 2#8)]) querying) (fun b => queryFieldsOk b querying && b.le 2 1 == 2) = true ∧
    querying.query.scans = [] ∧ querying.query.runs = [] := by decide

/-- A query that owns its index, with cut-offs at positions 5, 6 and 7 and one share on valley 3. -/
def queryRun : QRun :=
  { id := 0, room := 0, reply := .host io 74 0 0, wide := false, owner := 0, view := index1, exhaustive := 0, k := 10, nprobe := 1, rerank := 0
    preds := [], admitBell := 0, admitTick := 0, tau := 0, cuts := some (5, 6, 7)
    one := [⟨List.replicate 32 0, [0], 1, [], 5, false, [], zeroCounters⟩]
    shares := [⟨3, [⟨0, 0, 5, [0], 2, []⟩], 0, true, false⟩]
    rerankCut := none, coarseCut := none, asked := [], answered := [], mirrored := [], answers := [], own := false }

def queryOn (r : QRun) : State := { scanning with idx := indexed.idx, query := { ready.query with runs := [r] } }

theorem witness_ScansAndQueriesRun_cut_offs :
    (∀ x ∈ (queryOn queryRun).query.runs, x.id ≠ 1) ∧ (queryOn queryRun).qrun? 0 = some queryRun ∧ queryRun.cuts.isSome = true ∧
    reached 5 (queryOn queryRun).pos = false ∧ reached 5 (late (queryOn queryRun)).pos = true ∧ reached 6 (late (queryOn queryRun)).pos = true ∧
    (∀ sh ∈ queryRun.shares, ∀ z ∈ sh.pieces, z.users.Nodup) ∧
    (queryOn { queryRun with own := true, cuts := none }).qrun? 0 = some { queryRun with own := true, cuts := none } ∧
    (late (queryOn { queryRun with own := true })).query.runs = [{ queryRun with own := true }] := by decide

theorem witness_ScansAndQueriesRun_shares :
    (queryOn queryRun).up = true ∧ (queryOn queryRun).query.scans = [] ∧ queryRun.view.cent.isSome = true ∧
    (∀ x ∈ queryRun.shares, x.valley ≠ 4) ∧ (⟨3, [⟨0, 0, 5, [0], 2, []⟩], 0, true, false⟩ : QShare) ∈ queryRun.shares ∧
    (∀ p ∈ (⟨3, [⟨0, 0, 5, [0], 2, []⟩], 0, true, false⟩ : QShare).pieces, 2 ≤ p.stage) ∧
    (∃ x ∈ (queryRun.shares ++ [⟨4, [], 0, true, false⟩]), x.valley ≠ 3 ∧ x.ended = false) := by decide

/-- A flit header with its checksum, on VC 1, which port 0 of a member expects next. -/
def flit (src dst : Byte) : FlitHdr :=
  let h : FlitHdr := ⟨2, 1, src, dst, 0, 0, 0, 0, 0, true⟩
  { h with crc := crc32c (hdrBytes h) }

def inPlain (s : State) : State :=
  { s with
    img := member.img
    plain := { member.plain with ports := modifyAt member.plain.ports 0 fun p => { p with state := .up } } }

theorem hears_flit (s : State) (src dst : Byte) (u : s.up = true) (p : ((s.port 0).state == .up) = true) (q : (s.port 0).rxSeq = 0) :
    s.hears 0 (flit src dst) = true := by
  simp only [State.hears, u, p, q]
  simp [flit, hdrIntact, hdrBytes]

/-- A query of a shard that this member owns, and its answer. -/
def shard : PlainQuery :=
  { qid := 7, index := 1, dim := 32, subspaces := 8, metric := 0, exhaustive := 0, k := 10, nprobe := 1, rerank := 0, deadline := 0
    admitBell := 0, admitTick := 0, owner := 2, vectors := [List.replicate 32 0], preds := [] }

theorem witness_ScansAndQueriesRun_plain :
    (inPlain querying).hears 0 (flit 0 2) = true ∧ (flit 0 2).dst.toNat = (inPlain querying).plain.member ∧
    shard.owner = (inPlain querying).plain.member ∧ (flit 0 2).src.toNat ≠ (inPlain querying).plain.member ∧
    (∀ x ∈ (inPlain querying).idx.live, x.num ≠ 2) ∧ (inPlain querying).query.runs = [] ∧ (inPlain querying).query.scans = [] ∧
    ((inPlain querying).idx.live.find? fun x => x.num == 1).map (fun x => (x.dim, x.m, x.metric, x.cent)) = some (32, 8, 0, none) ∧
    (∀ r ∈ (queryOn queryRun).query.runs, r.id ≠ 7 ∧ (r.own = false ∨ r.asked ≠ [])) ∧
    (queryOn { queryRun with id := 7, wide := true, asked := [0, 1] }).query.runs.map (fun r => r.asked.erase 0) = [[1]] ∧
    (queryOn { queryRun with id := 7, wide := true, own := true, asked := [0] }).query.runs.map (fun r => r.asked.erase 0) = [[]] :=
  ⟨hears_flit _ _ _ (by decide) (by decide) (by decide), by decide⟩

/-- A Train Step of one bucket of KIND 4 whose gradient is at offset 0 of NSID 73, with its table at offset 8,192 of NSID 74. -/
def step1 (scope : Byte) : List (Nat × Byte) :=
  [(0, 2#8), (1, scope), (4, 1#8), (6, 255#8), (8, 1#8), (0xC, 9#8), (0x10, 73#8), (0x20, 74#8), (0x24, 74#8), (0x29, 0x20#8),
    (0x1002, 4#8), (0x1004, 1#8), (0x100F, 3#8)]

/-- A drive with a training lesson in slot 2 and range sets over the block and over die 3's share of tier 0. -/
def training : State :=
  { ready with
    sched := { ready.sched with lessons := [{ lesson with flags := 4 }] }
    mem := { ready.mem with sets := [⟨0, 1, [⟨74, 0, 65536⟩, ⟨73, dieBase 3, 65536⟩]⟩] } }

def trainBlock (n : Nat) (s : State) (p : Blob → Blob → Bool) : Bool :=
  blockHas n s fun b => match sourceBytes (b.le 0x20 4) (b.le 0x28 8) (b.le 4 2 * 64) s with
    | .ok tb => p b tb
    | .error _ => false

def noTraining : State :=
  { ready with img := { ready.img with active := { Image.rom with rooms := [⟨0, 4, 0xFF, 0xFF, 0xFF, 64, 4, 1⟩] } } }

/-- The bucket, and the step it is of: attempt 1 of step 9, headed by member 0, this drive being member 0. -/
def bucket : Bucket :=
  ⟨0, 4, 0, 1, 0x0300000000000000, 0, 0, 0, 0, false, [], none, [], [], none, [], [], some 0, false⟩

def tstep : TStep :=
  { makeStep 0 0 (some io) (Blob.zero 0x80) (Blob.zero 64) [0] ready with
    stepId := 9, buckets := [bucket], attempt := 1, phase := .running, run := some 0, heard := [(0, 0), (1, 0)], outNsid := 74, maxAttempts := 4 }

def stepOn (t : TStep) : State := { training with train := { ready.train with steps := [t] } }

theorem witness_TrainStepsRunByAttempts_admission :
    training.acceptsRoom io 0 = true ∧ (training.room? 0).map (fun r => (r.train, r.plain)) = some (true, true) ∧
    noTraining.acceptsRoom io 0 = true ∧ (noTraining.room? 0).map (fun r => (r.train, r.plain)) = some (false, false) ∧
    (match paramBlock ⟨1, 0, 128⟩ training with | .error _ => true | .ok _ => false) = true ∧
    blockHas 0x7F training (fun b => decide (b.len < 0x80)) = true ∧ blockHas 0x80 training (fun b => !(trainFieldsOk training 0 b)) = true ∧
    trainBlock 0x80 (blocked (step1 0) training) (fun b tb => trainFieldsOk training 0 b && b.le 1 1 == 0 && b.le 7 1 == 0 &&
      training.inRange (some 0) (b.le 0x20 4) (b.le 0x28 8) (b.le 4 2 * 64) && b.le 0 1 == 2 &&
      (training.tableFault 0 (b.le 2 1) (b.le 1 1) (b.le 4 2) tb).isNone) = true ∧
    trainBlock 0x80 (blocked (step1 0 ++ [(0x1028, 8#8)]) training) (fun b tb =>
      (training.tableFault 0 (b.le 2 1) (b.le 1 1) (b.le 4 2) tb).isSome) = true ∧
    trainBlock 0x80 (blocked (step1 1) training) (fun b tb => trainFieldsOk training 0 b && b.le 1 1 == 1 &&
      (training.tableFault 0 (b.le 2 1) (b.le 1 1) (b.le 4 2) tb).isNone) = true ∧
    training.isMember = false ∧ (training.trainLesson 0 2).isSome = true ∧ (training.trainLesson 0 3).isSome = false ∧
    training.step? 0 = none ∧ ((stepOn tstep).step? 0).isSome = true ∧
    (let s := inPlain training
     s.acceptsRoom io 0 = true ∧ s.isMember = true ∧ s.me = 2 ∧ s.plain.member = s.me ∧ s.members = 4 ∧ s.isPresent 0 = true) := by decide

/-- EX_KIND 2 with one example, the reference at offset 8,448 of NSID 74 to LBA 0 of namespace 1, with SAMPLE `f` in its place; and EX_KIND 1. -/
def stepRefs (f : Byte) : List (Nat × Byte) :=
  [(0, 2#8), (4, 1#8), (6, 255#8), (7, 2#8), (8, 1#8), (0xC, 9#8), (0x10, 74#8), (0x19, 0x21#8), (0x20, 74#8), (0x24, 74#8), (0x29, 0x20#8),
    (0x1002, 4#8), (0x1004, 1#8), (0x100F, 3#8), (0x1100, 1#8), (0x1104, 1#8), (0x1105, f)]

def stepIndex (n : Byte) : List (Nat × Byte) :=
  [(0, 2#8), (4, 1#8), (6, 255#8), (7, 1#8), (8, 1#8), (0xC, 9#8), (0x14, n), (0x20, 74#8), (0x24, 74#8), (0x29, 0x20#8),
    (0x1002, 4#8), (0x1004, 1#8), (0x100F, 3#8)]

/-- The same drive with an index and with objects in namespace 1. -/
def trainingOn : State :=
  { stored with
    idx := indexed.idx
    sched := training.sched
    mem := training.mem }

theorem witness_TrainStepsRunByAttempts_examples :
    (let s := blocked (stepRefs 0) trainingOn
     trainBlock 0x80 s (fun b tb => trainFieldsOk s 0 b && b.le 7 1 == 2 && (s.tableFault 0 (b.le 2 1) (b.le 1 1) (b.le 4 2) tb).isNone &&
       (match sourceBytes (b.le 0x10 4) (b.le 0x18 8) (b.le 8 4 * 32) s with
        | .ok d => refOk s (d.slice 0 32) && (parseRef (d.slice 0 32)).sample == 0
        | .error _ => false))) = true ∧
    (let s := blocked (stepRefs 1) trainingOn
     trainBlock 0x80 s (fun b _ => trainFieldsOk s 0 b &&
       (match sourceBytes (b.le 0x10 4) (b.le 0x18 8) (b.le 8 4 * 32) s with
        | .ok d => ((List.range (b.le 8 4)).find? fun i => !(refOk s (d.slice (i * 32) 32)) || (parseRef (d.slice (i * 32) 32)).sample != 0) == some 0
        | .error _ => false))) = true ∧
    (let s := blocked (stepIndex 1) trainingOn
     trainBlock 0x80 s (fun b _ => trainFieldsOk s 0 b && s.idx.live.any fun x => x.num == b.le 0x14 1)) = true ∧
    (let s := blocked (stepIndex 2) trainingOn
     trainBlock 0x80 s (fun b _ => trainFieldsOk s 0 b && s.idx.live.all fun x => x.num != b.le 0x14 1)) = true := by decide

theorem witness_CommandsAreAdmittedInOrder_copy :
    (let s := stepOn { tstep with phase := .copying 1 }
     s.acceptsIo io false = true ∧ (s.room? 0).isSome = true ∧ s.activateHolds 0 = false ∧ s.copyHolds 0 = true) ∧
    startsRun (.indexCreate io 0 ⟨1, 0, 32⟩) = true ∧ roomOf (.indexCreate io 0 ⟨1, 0, 32⟩) = some (io, 0) := by decide

theorem witness_TrainStepsRunByAttempts_end :
    (stepOn tstep).up = true ∧ (stepOn tstep).step? 0 = some tstep ∧ tstep.bucket? 0 = some bucket ∧ tstep.phase = .running ∧
    tstep.run.isSome = true ∧ ({ bucket with ready := true } : Bucket).ready = true ∧ (stepOn tstep).heads tstep = true ∧
    tstep.hdr = some io ∧ (inPlain (stepOn tstep)).heads tstep = false ∧ (stepOn tstep).dieServes 0 = true ∧
    (stepOn tstep).dieServes 3 = true ∧ (stepOn tstep).dieServes 4 = true ∧
    memSpan 0x0300000000000000 4 = some (73, dieBase 3) ∧ ({ tstep with phase := .copying 1 } : TStep).phase = .copying 1 ∧
    (let b : Bucket := { bucket with kind := 0, wFmt := 10, weight := 0x0300000000000040, next := 0x0300000000000080 }
     b.kind = 0 ∧ memSpan b.next (b.elems * b.wBytes) = some (73, dieBase 3 + 128) ∧
     memSpan b.weight (b.elems * b.wBytes) = some (73, dieBase 3 + 64)) := by decide

theorem witness_TrainStepsRunByAttempts_attempts :
    (0 : Nat) ∈ tstep.participants ∧ bucket.opened = some 0 ∧ lookupNat tstep.heard 0 = some 0 ∧ (0 : Nat) ∉ bucket.commits ∧
    min (ticksFrom 0 (stepOn tstep).pos) (ticksFrom 0 (stepOn tstep).pos) < (stepOn tstep).img.active.watch.bucketTimeout ∧
    (late (stepOn tstep)).img.active.watch.bucketTimeout ≤ min (ticksFrom 0 (late (stepOn tstep)).pos) (ticksFrom 0 (late (stepOn tstep)).pos) ∧
    (stepOn tstep).me ∈ ({ tstep with phase := .aborted, readyFrom := [0] } : TStep).readyFrom ∧
    (∀ p ∈ tstep.participants, p ∈ [0]) ∧ (∃ p ∈ [0, 1], p ∉ [0]) ∧ tstep.attempt < tstep.maxAttempts ∧ 4 ≤ ({ tstep with attempt := 4 } : TStep).attempt ∧
    ({ tstep with participants := [0, 1], scope := 1 } : TStep).count = 2 ∧ [0, 1].filter [0].contains = [(stepOn tstep).me] ∧
    tstep.scope = 0 := by decide

theorem witness_TrainStepsRunByAttempts_members :
    let s := inPlain (stepOn tstep)
    s.up = true ∧ s.step? 0 = some tstep ∧ s.heads tstep = false ∧ ticksFrom tstep.headHeard s.pos < s.img.active.watch.bucketTimeout ∧
    (late s).img.active.watch.bucketTimeout ≤ ticksFrom tstep.headHeard (late s).pos ∧ tstep.phase = .running ∧ s.servesAttempt tstep = true := by
  decide

/-- Two participants, 0 and 2, of a step that member 0 heads; this drive is member 2. -/
def shared : TStep := { tstep with participants := [0, 2], scope := 1 }

def serving : State := inPlain (stepOn shared)

theorem witness_BucketsAreReducedExactly :
    ([0x3F800000#32, 0xBF800000#32].length ≤ 2) ∧ 2 ≤ 24 ∧ (∀ g ∈ [0x3F800000#32, 0#32], ∀ x, expOf g = some x → x ≤ (0#32).toInt) ∧
    [0#32, 0x3F800000#32].Perm [0x3F800000#32, 0#32] ∧ serving.hears 0 (flit 0 2) = true ∧
    (flit 0 2).dst.toNat = serving.plain.member := by
  refine ⟨by decide, by decide, ?_, .swap _ _ _, hears_flit _ _ _ (by decide) (by decide) (by decide), by decide⟩
  intro g m x e
  rcases List.mem_cons.mp m with rfl | m
  · cases (show expOf 0x3F800000#32 = some 0 from by decide).symm.trans e; decide
  · rcases List.mem_cons.mp m with rfl | m
    · cases (show expOf 0#32 = none from by decide).symm.trans e
    · cases m

theorem witness_BucketsAreReducedExactly_flits :
    (takeHeader 0 (flit 0 2) serving).flitStep 0 9 1 0 = some (shared, bucket) ∧ (takeHeader 0 (flit 0 2) serving).flitStep 0 9 2 0 = none ∧
    serving.heads shared = false ∧ 1 < shared.count ∧ bucket.ready = false ∧ ({ bucket with eMax := some 0 } : Bucket).eMax.isSome = true ∧
    serving.placeIn shared = 1 ∧ (∀ t, serving.step? 0 = some t → t.attempt ≠ 2) ∧ serving.step? 0 = some shared ∧
    shared.head = (flit 0 2).src.toNat ∧ shared.phase = .running ∧ serving.me ∉ [0, 1] ∧
    (let s := { serving with plain := { serving.plain with member := 0 } }
     s.heads shared = true ∧ s.step? 0 = some shared ∧ (flit 2 0).dst.toNat = s.plain.member) ∧
    ({ shared with phase := .aborted } : TStep).phase = .aborted ∧ 2 ^ 47 ≤ bellsFrom (BitVec.ofNat 48 1) serving.bell.count ∧
    bellsFrom (BitVec.ofNat 48 0) serving.bell.count < 2 ^ 47 := by
  refine ⟨by decide, by decide, by decide, by decide, by decide, by decide, by decide, ?_, by decide, by decide, by decide, by decide, by decide, rfl, by decide, by decide⟩
  intro t e
  cases (show serving.step? 0 = some shared from by decide).symm.trans e
  decide

/-! ### Dies, media and the bell -/

/-- Die `d` changed. -/
def withDie (d : Nat) (f : Die → Die) (s : State) : State :=
  { s with dies := { s.dies with dies := modifyAt s.dies.dies d f } }

theorem ready_shaped : ready.shaped := by unfold State.shaped; decide

theorem witness_DieResetsAreCountedAndCleared :
    ready.shaped ∧ ready.up = true ∧ ready.dieServes 0 = true ∧ ready.dieServes 3 = true ∧ watched (.mxa 0) = true ∧
    engineDie (.mxa 0) = 3 ∧ (ready.die 3).state ≠ .replaying ∧
    (withDie 3 (fun x => { x with state := .resetting }) ready).dieServes 3 = false :=
  ⟨ready_shaped, by decide⟩

/-- A supply below its threshold resets die 3: its part of tier 0 reads zero, and the count goes up (R12, R368). -/
theorem test_die_reset :
    (after (.supplyBelowResetThreshold 3) running).die 3 =
      { running.die 3 with state := .resetting, gen := 1, resets := 1, lastCause := 3 } ∧
    (after (.supplyBelowResetThreshold 3) running).mem.sram.cells.get (dieBase 3) = 0 ∧
    ((after (.watchdogFire (.mxa 0)) running).die 3).suspects = [0] := by decide

/-- Die 3 in reset, with run 0 as its suspect, in replay of it, and failed. -/
def resetting (d : Nat) : State := withDie d (fun x => { x with state := .resetting }) ready

def suspected : State := withDie 3 (fun x => { x with state := .resetting, suspects := [0] }) running

def replaying : State := withDie 3 (fun x => { x with state := .replaying, suspects := [0] }) running

/-- Die 3 in reset with a pinned segment of a loaded lesson. -/
def pinnedReset : State := withDie 3 (fun x => { x with state := .resetting }) pinnedThere

theorem witness_DiesReturnReplayOrFail_pinned :
    pinnedReset.up = true ∧ (pinnedReset.die 3).state = .resetting ∧ pinnedReset.sched.runs = [] ∧ (pinnedReset.die 3).suspects = [] ∧
    (pinnedReset.die 3).replayed = false ∧ (pinnedReset.die 3).quarantined = false ∧
    pinnedReset.pinnedOn 3 = [⟨.lesson 0 2, .pinned, 0, 0, 3, 0, 4096, 0, false, []⟩] ∧ (pinnedReset.lesson? 0 2).isSome = true ∧
    (resetting 3).pinnedOn 3 = [] := by decide

theorem witness_DiesReturnReplayOrFail :
    pinnedReset.shaped ∧ (resetting 0).shaped ∧ (resetting 3).shaped ∧ suspected.shaped ∧ replaying.shaped := by
  unfold State.shaped; decide

theorem witness_DiesReturnReplayOrFail_return :
    (resetting 3).up = true ∧ ((resetting 3).die 3).state = .resetting ∧ ((resetting 0).die 0).state = .resetting ∧
    ((resetting 1).die 1).state = .resetting ∧ (resetting 3).sched.runs = [] ∧ ((resetting 3).die 3).suspects = [] ∧
    ((resetting 3).die 3).replayed = false ∧ ((resetting 3).die 3).quarantined = false ∧ (suspected.die 3).suspects = [0] ∧
    (suspected.run? 0).isSome = true ∧ (ready.die 3).state ≠ .resetting := by decide

theorem witness_DiesReturnReplayOrFail_replay :
    replaying.up = true ∧ (replaying.die 3).state = .replaying ∧ (replaying.die 3).suspects = [0] ∧ (replaying.run? 0).isSome = true ∧
    ({ replaying with sched := { replaying.sched with runs := [] } } : State).sched.runs = [] := by decide

/-- A run on die 3, which is in reset for more than REPLAY_WINDOW, and a segment that no run owns. -/
def gone : State :=
  withDie 3 (fun x => { x with state := .resetting }) { taught with sched := { running.sched with runs := [run0] }, bell := { ready.bell with count := 4 } }

theorem witness_DiesReturnReplayOrFail_move :
    gone.dieGone 3 = true ∧ (resetting 3).dieGone 3 = false ∧ run0.on 3 = true ∧ run0.train = false ∧ (gone.room? 0).isSome = true ∧
    gone.lesson? 0 2 = some lesson ∧ (gone.room? 0).bind (fun r => gone.mapOn r lesson 4) = some [.mxa 4, .vu 4, .mover 2] ∧
    (∀ g ∈ gone.mem.segs, g.owner ≠ .run run0.id) ∧ (gone.die 3).suspects = [] ∧ (gone.die 3).replayed = false := by decide

/-- A request of die 0 to die 3 under generation 0, which is past. -/
def request : DieReq := ⟨5, 0, 3, 0, 0, 0⟩

def asked : State :=
  withDie 3 (fun x => { x with gen := 1 }) { running with dies := { ready.dies with reqs := [request] }, bell := { ready.bell with count := 4 } }

theorem witness_DiesReturnReplayOrFail_requests :
    asked.shaped ∧ request.holder < 5 ∧ (asked.dies.reqs.find? fun y => y.id == 5) = some request ∧ request.tag ≠ (asked.die 3).gen ∧
    reached (request.issued + asked.img.active.watch.replyTimeout) asked.pos = true ∧ (asked.dies.reqs.find? fun y => y.id == 6) = none ∧
    (asked.run? 0).map Run.train = some false ∧ ((withDie 3 (fun x => { x with state := .failed }) asked).die 3).state = .failed ∧
    BitVec.ofNat 8 0 ≠ (asked.die 3).gen ∧ BitVec.ofNat 8 1 = (asked.die 3).gen :=
  ⟨by unfold State.shaped; decide, by decide⟩

/-- A Read of LBA 16 waits for the page at slot 40 of channel 8, which is in stage `g` after `n` soft-sense reads. -/
def pageRead (g : ReadStage) (n : Nat) : State :=
  { stored with ftl := { stored.ftl with jobs := [⟨0, .nvmRead io 1 16 0, [1], []⟩], reads := [⟨1, 0, 1, 40, g, n⟩] } }

theorem witness_ReadsComeBackDecodedOrRecovered :
    (pageRead .hard 0).up = true ∧ (pageRead .hard 0).read? 1 = some ⟨1, 0, 1, 40, .hard, 0⟩ ∧
    (pageRead .hard 0).job? 0 = some ⟨0, .nvmRead io 1 16 0, [1], []⟩ ∧ (pageRead .hard 0).ns? 1 = some ⟨1, 0, 4, true⟩ ∧
    1 = (pageRead .hard 0).slotOf ⟨1, 0, 4, true⟩ 16 ∧ (pageRead .hard 0).deferredLba 1 16 = false ∧ (pageRead .hard 0).query.scans = [] ∧
    (pageRead .hard 0).query.runs = [] ∧ (pageRead .hard 0).readServes ⟨1, 0, 1, 40, .hard, 0⟩ = true ∧
    (pageRead .soft 6).read? 1 = some ⟨1, 0, 1, 40, .soft, 6⟩ ∧ (pageRead .soft 6).readServes ⟨1, 0, 1, 40, .soft, 6⟩ = true ∧
    (pageRead .recover 7).read? 1 = some ⟨1, 0, 1, 40, .recover, 7⟩ ∧
    ((pageRead .recover 7).die (if chOf 40 < 16 then 1 else 2)).state ≠ .failed ∧ (pageRead .recover 7).isMember = false ∧ 0 / 64 = 16 % 16 ∧
    63 / 64 = 16 % 16 := by decide

theorem test_page_reads :
    ((after (.flashReadDone 1 true false true) (pageRead .hard 0)).host.posted.getLast?.map fun c => (c.sct, c.sc, c.data.byte 1)) = some (0, 0, 8#8) ∧
    (after (.softSenseReadDone 1 false) (pageRead .soft 5)).read? 1 = some ⟨1, 0, 1, 40, .soft, 6⟩ ∧
    (after (.softSenseReadDone 1 false) (pageRead .soft 6)).read? 1 = some ⟨1, 0, 1, 40, .recover, 7⟩ ∧
    lastStatus (after (.readRecovery 1 [63] 3) (pageRead .recover 7)) = some (2, 0x81) ∧
    lastStatus (after (.readRecovery 1 [64] 3) (pageRead .recover 7)) = some (0, 0) := by decide

/-- Group 0 of superblock 0 is full; it is being programmed, with a unit of channel 0 in it. -/
def fullGroup : State :=
  { writable with ftl := { writable.ftl with opens := [⟨0, .host, 0, List.replicate 32 4, 0⟩] } }

def unit0 : BufUnit := ⟨0, 3, 1, 1, Blob.zero 65536, [], none, false, []⟩

def programming : State :=
  { writable with ftl := { writable.ftl with progs := [⟨0, 0, 0, .host⟩], buf := [unit0], map := [(3, .phys 0)] } }

theorem witness_GroupsErasesAndJournalEnd_groups :
    fullGroup.up = true ∧ fullGroup.power.through = false ∧ fullGroup.plain.own = .standalone ∧
    ((fullGroup.ftl.opens.find? fun o => o.stream == .host && fullGroup.groupFull o).map fun o => (o.sb, o.started)) = some (0, 0) ∧
    (∀ u ∈ fullGroup.groupUnits 0 0, u.poison = []) ∧ (∀ o ∈ fullGroup.ftl.opens, o.stream = .index → fullGroup.groupFull o = false) ∧
    (programming.ftl.progs.find? fun p => p.pid == 0) = some ⟨0, 0, 0, .host⟩ ∧ programming.ftl.writes = [] ∧
    programming.groupUnits 0 0 = [unit0] ∧ unit0.source = none ∧ unit0.poison = [] ∧ [unit0.pslot].Nodup ∧
    programming.mapOf 3 = some (.phys 0) ∧ (programming.sb? 0).any (fun y => y.data.contains 0) = true ∧
    (programming.ftl.progs.find? fun p => p.pid == 1) = none := by decide

/-- A programmed unit is in flash, and the map is as it was (R318). -/
theorem test_group_programmed :
    (lookupNat (after (.groupProgramDone 0 []) programming).ftl.flash 0).map (fun f => f.lsn) = some 3 ∧
    (after (.groupProgramDone 0 []) programming).mapOf 3 = some (.phys 0) := by decide

/-- Column 4 of superblock 0 under erase; column 0 of an index superblock read `n` times, where refresh is due after 10. -/
def erasing : State := { writable with ftl := { writable.ftl with cols := [(4, ⟨7, false, false, 0, some ⟨0, 0⟩, false⟩)] } }

def readOften (n : Nat) : State :=
  { writable with
    ftl := { writable.ftl with sbs := [(0, ⟨0, .index, List.range 30, [30, 31], false, false⟩)], cols := [(0, ⟨7, false, false, n, none, false⟩)] }
    host := { ready.host with policy := { Policy.default with readRefresh := 10 } } }

theorem witness_GroupsErasesAndJournalEnd_columns :
    (erasing.col 0 4).erasing = some ⟨0, 0⟩ ∧ (erasing.col 0 5).erasing = none ∧ (readOften 9).up = true ∧
    ((readOften 9).sb? 0).map (·.stream) = some .index ∧ (writable.sb? 0).map (·.stream) = some .host ∧
    0 < (readOften 9).host.policy.readRefresh ∧ ((readOften 9).col 0 0).reads < (readOften 9).host.policy.readRefresh ∧
    (readOften 10).host.policy.readRefresh ≤ ((readOften 10).col 0 0).reads ∧ ((readOften 19).col 0 0).reads < 2 * (readOften 19).host.policy.readRefresh ∧
    colKey 0 0 ∉ (readOften 10).ftl.refreshCols ∧ 2 * (readOften 20).host.policy.readRefresh ≤ ((readOften 20).col 0 0).reads := by decide

theorem test_erase :
    (after (.eraseDone 0 4 true) erasing).col 0 4 = ⟨8, false, false, 0, none, true⟩ ∧ ((after (.eraseDone 0 4 false) erasing).col 0 4).retired = true := by
  decide

theorem witness_GroupsErasesAndJournalEnd_journal :
    ringGroup ≤ (((List.replicate ringGroup (⟨true, 0, none, 0, true, []⟩ : JRec))).filter (·.ready)).length ∧
    (ready.ftl.staging.filter (·.ready)).length < ringGroup ∧ ready.power.through = false ∧ ready.bell.inRecess = false ∧
    ({ ready with bell := { ready.bell with inRecess := true }, ftl := { ready.ftl with ckptAge := 1000 } } : State).bell.inRecess = true :=
  ⟨by rw [List.filter_eq_self.mpr (fun x m => by rw [(List.mem_replicate.mp m).2])]; exact Nat.le_of_eq List.length_replicate.symm, by decide⟩

/-! #### The bell -/

/-- The drive in a bell state, at a tick and `h` ticks past the last. -/
def bellAt (m : BellMode) (tick h : Nat) : State := { ready with bell := { ready.bell with mode := m, tick := tick, held := h } }

theorem witness_BoundariesEndTheBell :
    (bellAt .locked 512 0).bellRuns = true ∧ (bellAt .locked 512 0).windowOpen = true ∧ (bellAt .locked 511 0).windowOpen = false ∧
    (bellAt .locked 1023 64).windowOpen = true ∧ (bellAt .locked 1023 65).windowOpen = false ∧ (bellAt .locked 512 0).bell.earlyEdge = false ∧
    (bellAt .locked 512 0).refNext = none ∧ (bellAt .freeRunning 0 0).bell.mode = .freeRunning ∧ (bellAt .following 0 0).bell.mode = .following ∧
    (bellAt .locked 0 0).boundaryQuiet = true ∧ clampDue ⟨0, none, 0⟩ (bellAt .locked 512 0) = false := by decide

/-- Member 2 of a plain, Locked, whose reference member's boundary was 3 ms ago. -/
def clamped : State :=
  { member with
    bell := { ready.bell with mode := .locked }
    plain := { member.plain with peers := modifyAt member.plain.peers 0 fun p => { p with nextNs := some 0 } } }

theorem witness_BoundariesEndTheBell_clamp : clamped.bellRuns = true ∧ clamped.bell.mode = .locked ∧ clampDue ⟨3000000, none, 0⟩ clamped = true := by
  decide

/-- An edge in the window ends the bell with the count one higher; a glitch of less than 1 µs is counted (R64). -/
theorem test_bell_edge :
    (after (.bellEdge 1000 ⟨16000000, none, 0⟩) (bellAt .locked 512 0)).bell.count = 1 ∧
    (after (.bellEdge 999 ⟨16000000, none, 0⟩) (bellAt .locked 512 0)).bell.glitches = 1 ∧
    (after (.bellEdge 1000 ⟨16000000, none, 0⟩) (bellAt .freeRunning 3 0)).bell.mode = .locked := by decide

theorem witness_MissedEdgesEndTheBell :
    (bellAt .locked 1023 65).bellRuns = true ∧ (bellAt .locked 1023 65).bell.mode = .locked ∧ 65 ≤ (bellAt .locked 1023 65).bell.held ∧
    (bellAt .locked 1023 64).bell.held < 65 ∧ (bellAt .following 1023 65).bell.mode ≠ .locked ∧ (bellAt .locked 1023 65).boundaryQuiet = true := by decide

theorem test_missed_edge :
    ((after (.missedEdge ⟨17000000, none, 0⟩) (bellAt .locked 1023 65)).bell.missed, (after (.missedEdge ⟨17000000, none, 0⟩) (bellAt .locked 1023 65)).bell.tick) =
      (1, 0) := by decide

/-- A selection of timetable 0 under way, made for the host by member 2. -/
def selecting : State := { member with bell := { ready.bell with selected := some ⟨0, 4, 0, 2, some adm⟩ } }

/-- The bell changed. -/
def withBell (f : BellSt → BellSt) : State := { ready with bell := f ready.bell }

theorem witness_BellEventsAndSelections_loss :
    (withBell fun b => { b with mode := .locked, lost := true, localNs := 3000 * ready.img.active.periodUs }).bellRuns = true ∧
    (withBell fun b => { b with mode := .locked, lost := true, localNs := 3000 * ready.img.active.periodUs }).edgeLate = true ∧
    (withBell fun b => { b with mode := .locked, lost := true, localNs := 3000 * ready.img.active.periodUs }).isMember = false ∧
    (withBell fun b => { b with mode := .locked, localNs := 3000 * ready.img.active.periodUs - 1 }).edgeLate = false ∧
    (withBell fun b => { b with mode := .freeRunning, lost := false, localNs := 3000 * ready.img.active.periodUs }).edgeLate = true := by decide

theorem witness_BellEventsAndSelections_runs :
    (withBell fun b => { b with mode := .locked, clampRun := 3 }).bell.clampRun = 3 ∧
    (withBell fun b => { b with mode := .following, nearRun := 8 }).bell.nearRun = 8 ∧
    (withBell fun b => { b with offRun := 8 }).bell.offNominal = false ∧
    (withBell fun b => { b with inRun := 8, offNominal := true }).bell.offNominal = true ∧
    (withBell fun b => { b with noRecess := 1024 }).bell.starved = false ∧ ready.bell.noRecess < 1024 := by decide

/-- The timetable begins with class and ends with recess. -/
theorem witness_BellEventsAndSelections_recess :
    ready.recessNow = false ∧ (withBell fun b => { b with tick := 1023 }).recessNow = true ∧ ready.bell.inRecess = false ∧
    (withBell fun b => { b with inRecess := true }).recessNow = false ∧ ready.freeAtMost (ready.host.policy.gcCrit - 1) = false := by decide

theorem witness_BellEventsAndSelections_select :
    ready.accepts adm 0x09 = true ∧ 0 < ready.img.active.timetables.length ∧ ready.img.active.timetables.length ≤ 8 ∧ ready.bell.selected = none ∧
    selecting.accepts adm 0x09 = true ∧ selecting.bell.selected.isSome = true ∧ ready.plainMember = false ∧ member.plainMember = true ∧
    member.bell.selected = none ∧ member.accepts adm 0x09 = true := by decide

theorem witness_BellEventsAndSelections_messages :
    (inPlain ready).hears 0 (flit 0 2) = true ∧ (inPlain selecting).hears 0 (flit 0 2) = true ∧
    (flit 0 2).dst.toNat = (inPlain ready).plain.member ∧ (inPlain ready).plainMember = true ∧ 0 < (inPlain ready).img.active.timetables.length ∧
    (inPlain ready).bell.selected = none ∧ (inPlain selecting).bell.selected = some ⟨0, 4, 0, 2, some adm⟩ ∧
    BitVec.ofNat 48 0 = (0 : BitVec 48) ∧ (flit 0 2).src.toNat < 2 ∧ (4 : BitVec 48) ≠ BitVec.ofNat 48 5 ∧ 2 ≤ (flit 3 2).src.toNat :=
  ⟨hears_flit _ _ _ (by decide) (by decide) (by decide), hears_flit _ _ _ (by decide) (by decide) (by decide), by decide⟩

theorem test_bell_events :
    (after .bellLost (withBell fun b => { b with mode := .locked, lost := true, localNs := 3000 * ready.img.active.periodUs })).bell.mode = .freeRunning ∧
    (after .phaseFault (withBell fun b => { b with mode := .locked, clampRun := 3 })).bell.phaseFault = true ∧
    (after .relockFromFollowing (withBell fun b => { b with mode := .following, nearRun := 8 })).bell.mode = .locked := by decide

/-! ### Ports and the plain -/

/-- Member 2 with port 0 Up, which expects SEQ `n`. -/
def expecting (n : Nat) : State :=
  { member with plain := { member.plain with ports := modifyAt member.plain.ports 0 fun p => { p with state := .up, rxSeq := n } } }

theorem witness_FlitsAreTakenInOrder :
    flitOf (.idleFlit 0 (flit 0 2)) = some (0, flit 0 2) ∧ member.up = true ∧ (member.port 0).state ≠ .up ∧ ((expecting 0).port 0).state = .up ∧
    hdrIntact { flit 0 2 with fecOk := false } = false ∧
    ((flit 0 2).seq.toNat ≠ ((expecting 65535).port 0).rxSeq ∧ ((flit 0 2).seq.toNat + 65536 - ((expecting 65535).port 0).rxSeq) % 65536 < 32768) ∧
    32768 ≤ ((flit 0 2).seq.toNat + 65536 - ((expecting 1).port 0).rxSeq) % 65536 ∧
    hdrIntact (flit 0 2) = true := by
  refine ⟨rfl, by decide, by decide, by decide, rfl, by decide, by decide, ?_⟩
  simp [flit, hdrIntact, hdrBytes]

theorem witness_FlitsAreTakenInOrder_pass :
    relayed (.flowSetup 0 (flit 0 3) ⟨1, .copy, 0, 0, 0⟩) = some (0, flit 0 3, .flowSetup ⟨1, .copy, 0, 0, 0⟩) ∧ (expecting 0).hears 0 (flit 0 3) = true ∧
    (flit 0 3).dst.toNat ≠ (takeHeader 0 (flit 0 3) (expecting 0)).plain.member ∧ (flit 0 3).dst ≠ 0xFF#8 ∧ (expecting 0).plain.ports.length = 4 ∧
    (flit 0 2).dst.toNat = (expecting 0).plain.member ∧ (flit 0 0xFF).dst = 0xFF#8 ∧
    (List.range 8).map (fun i => ((takeHeader 0 (flit 0 2) (expecting 0)).port 0).sent.getD i 0 - [].getD i 0) =
      ((takeHeader 0 (flit 0 2) (expecting 0)).port 0).inFlight := by
  refine ⟨rfl, hears_flit _ _ _ (by decide) (by decide) (by decide), by decide, by decide, by decide, by decide, by decide, by decide⟩

/-- A flit sent that waits for its acknowledgement. -/
def kept (n : Nat) : Sent := ⟨0, 2, 0, n, 0, 0, 0, .idle, 0, 0⟩

theorem witness_FlitsAreTakenInOrder_nak :
    let s := { member with plain := { member.plain with ports := modifyAt member.plain.ports 0 fun p => { p with
      state := .up, replay := [(kept 4, 0), (kept 5, 6)] } } }
    s.up = true ∧ (s.port 0).state = .up ∧ (s.port 0).replay = [(kept 4, 0)] ++ [(kept 5, 6)] ∧ (∀ x ∈ [(kept 4, 0)], x.1.seq ≠ 5) ∧
    (∀ x ∈ [(kept 5, 6)], x.2 < 7) ∧ ((kept 5).seq = 5) := by decide

/-- Port 0 of member 2 in a state, after `f` failures. -/
def portAt (p : PortState) (f : Nat) : State :=
  { member with plain := { member.plain with ports := modifyAt member.plain.ports 0 fun x => { x with state := p, failRun := f } } }

theorem witness_PortsComeUpAndGoDown :
    (portAt .down 2).up = true ∧ (portAt .down 2).shaped ∧ (portAt .down 2).fw.recovery = false ∧ (portAt .down 2).portWired 0 = true ∧
    ((portAt .down 3).port 0).failRun = 3 ∧ ready.portWired 0 = false ∧ ((portAt .detect 0).port 0).state = .detect ∧
    ((portAt .train 0).port 0).state = .train ∧ ((portAt .align 0).port 0).state = .align ∧ ((portAt .miswired 0).port 0).state = .miswired ∧
    (portAt .up 0).query.runs = [] ∧ (portAt .align 0).plain.join = none ∧ (portAt .align 0).identityOk 0 ⟨0, 1, 1, 0⟩ = false :=
  ⟨by decide, by unfold State.shaped; decide, by decide⟩

/-- Port 0 of member 2 is wired to port 1 of member 1 in a ring. -/
theorem witness_PortsComeUpAndGoDown_identity :
    (portAt .align 0).identityOk 0 ⟨9, 1, 1, sectionHash (portAt .align 0).img.active⟩ = true := by
  have h : ∀ x : BitVec 256, (x == x) = true := fun x => beq_self_eq_true x
  unfold State.identityOk
  simp only [h]
  decide

/-- A trip of 861 ns keeps the full rate of 49.6 GB/s; twice that halves it (R290). -/
theorem test_rate : rateAt 861 false = 496 ∧ rateAt 1722 false = 248 ∧ rateAt 861 true = 248 := by decide

/-- A drive alone, with the image of a plain of four whose number is 9. -/
def alone : State := { ready with img := member.img }

/-- Its join data as member 2 in a mode, waiting at most 5 bells; the membership record of member 2. -/
def joinData (mode : Byte) : Blob := ⟨4096, [(0, 9#8), (8, 2#8), (9, mode), (0xC, 5#8)]⟩

def recorded : State := { alone with nor := ready.nor.writeBlock (5 * 1024 + 1) 0x85 1 (Blob.concat [fld 8 9, fld 1 2, fld 1 4]) [] }

/-- A join in that mode has begun at bell 0. -/
def joining : State :=
  { alone with plain := { alone.plain with own := .joining, join := some ⟨some adm, 2, 2, 0, 5, false, none⟩ } }

def withPort (s : State) : State :=
  { s with plain := { s.plain with ports := modifyAt s.plain.ports 0 fun p => { p with state := .up } } }

def atBell (n : Nat) (s : State) : State := { s with bell := { s.bell with count := BitVec.ofNat 48 n } }

theorem zeroAt_of_short (n : Nat) (b : Byte) : (⟨n, [(0, 9#8), (8, 2#8), (9, b), (0xC, 5#8)]⟩ : Blob).zeroAt 0x10 4080 = true := by
  rfl

theorem witness_MembersJoinAndLeave_join :
    alone.accepts adm 0xC5 = true ∧ joinFieldsOk alone.img.active.plain (joinData 0) = true ∧ joinFieldsOk alone.img.active.plain (joinData 1) = true ∧
    joinFieldsOk alone.img.active.plain (joinData 2) = true ∧ joinFieldsOk alone.img.active.plain (joinData 3) = false ∧
    joining.accepts adm 0xC5 = true ∧ joining.plain.own = .joining ∧ member.accepts adm 0xC5 = true ∧ member.plain.own = .member ∧
    ready.img.active.plain.members ≤ 1 ∧ 1 < alone.img.active.plain.members ∧ withNs.ns.list ≠ [] ∧ alone.ns.list = [] ∧ alone.idx.live = [] ∧
    alone.idx.queue = [] ∧ alone.recordHolds 2 = false ∧ (joinData 1).le 8 1 = 2 ∧ (joinData 1).le 9 1 = 1 := by decide

set_option maxRecDepth 20000 in
theorem witness_MembersJoinAndLeave_record : recorded.nor.membership = some (9, 2, 4) := by decide

theorem witness_MembersJoinAndLeave_wait :
    alone.plain.join = none ∧ joining.plain.own = .joining ∧ joining.upPorts = [] ∧
    1000000 ≤ bellsFrom 0 (atBell 1000 joining).bell.count * joining.img.active.periodUs ∧ (withPort joining).upPorts ≠ [] ∧
    bellsFrom 0 5 ≤ bellsFrom 0 (atBell 5 (withPort joining)).bell.count ∧ bellsFrom 0 (atBell 4 (withPort joining)).bell.count < bellsFrom 0 5 ∧
    alone.nor.membership = none ∧ recorded.up = true ∧ recorded.img.active.plain.flags.testBit 1 = true ∧ recorded.plain.own = .standalone ∧
    (withPort recorded).upPorts ≠ [] := by decide

theorem witness_MembersJoinAndLeave_leave :
    alone.accepts adm 0xC6 = true ∧ member.accepts adm 0xC6 = true ∧ member.leaveReady = true ∧
    ({ member with plain := { member.plain with own := .leaving } } : State).accepts adm 0xC6 = true ∧
    ({ member with train := { ready.train with steps := [tstep] } } : State).leaveReady = false := by decide

theorem witness_MembersJoinAndLeave_messages :
    (inPlain ready).hears 0 (flit 0 2) = true ∧ (inPlain ready).shaped ∧ ((inPlain ready).peer 0).state ≠ .left ∧
    (inPlain ready).query.runs = [] ∧ (inPlain ready).plain.proxies = [] ∧ (withPort joining).hears 0 (flit 0 2) = true ∧
    (flit 0 2).dst.toNat = 2 ∧ (flit 0 2).src.toNat ≠ 2 ∧ (0, (7 : BitVec 48)) ∉ (inPlain ready).plain.seen ∧ 0 < (inPlain ready).members :=
  ⟨hears_flit _ _ _ (by decide) (by decide) (by decide), by unfold State.shaped; decide, by decide, by decide, by decide,
    hears_flit _ _ _ (by decide) (by decide) (by decide), by decide⟩

/-- The reference member is asked by member 3, which is not yet present; its certificate fails. -/
theorem witness_MembersJoinAndLeave_request :
    let s := { inPlain ready with plain := { (inPlain ready).plain with reference := 2, blocks := 10 } }
    s.plain.own = .member ∧ s.plain.reference = s.plain.member ∧ (9 : BitVec 64) = s.img.active.plain.plainId ∧ 3 < s.members ∧
    s.joinFault ⟨9, 3, 0, 10, true, false⟩ = none ∧ s.joinFault ⟨9, 3, 0, 10, false, false⟩ = some 9 ∧
    s.joinFault ⟨9, 3, 0, 9, true, false⟩ = some 6 := by decide

/-- The parity code of R303: stripes of 3 data and 1 parity slots, all members present, this drive being member 2. -/
def coded : State :=
  { inPlain stored with
    plain := { (inPlain stored).plain with present := 0xF }
    img := { (inPlain stored).img with active := { member.img.active with plain := { member.img.active.plain with parityK := 3, parityM := 1 } } } }

theorem witness_ParityProxiesAndMirrorsAreServed :
    (inPlain stored).hears 0 (flit 0 2) = true ∧ (flit 0 2).dst.toNat = (inPlain stored).plain.member ∧ (inPlain stored).plain.own ≠ .leaving ∧
    (inPlain stored).plain.early = [] ∧ deltaTurn none 1 = 1 ∧ deltaTurn (some 4) 4 = 0 ∧ deltaTurn (some 4) 5 = 1 ∧ deltaTurn (some 4) 6 = 2 ∧
    deltaTurn (some 4) 3 = 0 ∧ (inPlain stored).parity? = none ∧ coded.parity? = some (3, 1) ∧ (coded.planFor 1 1).isSome = true ∧
    (coded.planFor 2 1).isSome = true ∧ (∀ x ∈ coded.plain.recover, x.1 ≠ 1) ∧ coded.plain.proxies = [] :=
  ⟨hears_flit _ _ _ (by decide) (by decide) (by decide), by decide⟩

theorem witness_ParityProxiesAndMirrorsAreServed_reads :
    (inPlain stored).ns? 1 = some ⟨1, 0, 4, true⟩ ∧ 15 < 4 * 16 ∧ (∀ j ∈ (inPlain stored).ftl.jobs, j.jid < (inPlain stored).ftl.nextId) ∧
    (inPlain stored).mapOf ((inPlain stored).slotOf ⟨1, 0, 4, true⟩ 15) = some (.phys 5) ∧
    ((inPlain stored).buffered 5).map (·.poison) = some [] ∧ (inPlain stored).deferredLba 1 15 = false ∧
    (([⟨4, io, 1, 1, 0, 0, [], []⟩] : List Proxy).find? fun x => x.tag == 4 && x.want.isEmpty) = some ⟨4, io, 1, 1, 0, 0, [], []⟩ ∧
    63 < (0 + 1) * 64 ∧ (([] : List Proxy).find? fun x => x.tag == 4 && x.want.isEmpty) = none := by decide

/-- The coefficient of data position 0 in parity 0 is the inverse of 3, F4h under the polynomial of R294. -/
theorem test_parity_coefficient : parityCoef 0 0 = 0xF4#8 ∧ gfMul 0xF4 3 = 1 := by decide

/-! ### Power, resets, the option flash and SPDM -/

/-- Power changed; off; with a temperature reading. -/
def withPower (f : PowerSt → PowerSt) (s : State) : State := { s with power := f s.power }

def off : State := withPower (fun p => { p with down := .noPower }) ready

theorem witness_PowerLossFlushesAndResets :
    ready.power.down = .up ∧ 9599 < 9600 ∧ 1000 ≤ 1000 ∧ ready.power.mated = true ∧ 14500 < 14501 ∧ off.power.down = .noPower := by decide

theorem test_power_loss :
    (after (.powerLoss 9599 ⟨3, 4, true⟩) ready).power.down = .noPower ∧ (after (.powerLoss 9600 ⟨3, 4, true⟩) ready).power.down = .up ∧
    (after (.powerLoss 9599 ⟨3, 4, true⟩) ready).ftl.flushMark = true := by decide

theorem witness_SuppliesWarnAndReturn :
    ready.up = true ∧ ready.power.supplySag = false ∧ (withPower (fun p => { p with supplySag := true }) ready).power.supplySag = true ∧
    ready.power.auxSag = false ∧ off.power.mated = true ∧ off.power.pwrdis = false ∧ 11200 < 11201 ∧ 14500 ≤ 14500 ∧
    (∀ d, d < 5 → (off.die d).state ≠ .failed) := by decide

theorem test_supplies :
    (after (.sagWarning 10799) ready).power.supplySag = true ∧ (after (.sagWarning 10800) ready).power.supplySag = false ∧
    (after (.powerOn 11200 900 []) off).up = false := by decide

/-- Samples whose mean is `dw` tenths of a watt, with steps taken. -/
def drawing (dw : Nat) (steps : List Nat) : State := withPower (fun p => { p with samples := [dw], powerSteps := steps }) ready

theorem witness_ThrottleFollowsPowerAndHeat_power :
    (drawing (10 * ready.capW) [0, 0, 0]).up = true ∧ (drawing (10 * ready.capW) [0, 0, 0]).power.temps = [] ∧ (drawing (10 * ready.capW) [0, 0, 0]).power.thermalSteps = [0, 0, 0] ∧
    10 * (drawing (10 * ready.capW + 1) [0, 0, 0]).capW < (drawing (10 * ready.capW + 1) [0, 0, 0]).meanDw ∧ (drawing (10 * ready.capW) [0, 0, 0]).meanDw ≤ 10 * (drawing (10 * ready.capW) [0, 0, 0]).capW ∧
    0 < ready.floors.getD 0 0 ∧ ready.floors.getD 0 0 ≤ 20 ∧ (drawing 1651 [20, 8, 5]).power.envelopeExceeded = false ∧
    (withPower (fun p => { p with belowRun := 1000 }) (drawing 1 [1, 0, 0])).power.belowRun = 1000 ∧ ready.power.belowRun < 1000 ∧
    ready.power.supplySag = false := by decide

theorem witness_ThrottleFollowsPowerAndHeat_heat :
    (withPower (fun p => { p with temps := [(.nand 0, 70)] }) ready).power.temps = [(.nand 0, 70)] ∧
    (withPower (fun p => { p with temps := [(.die 3, 100)] }) ready).power.temps = [(.die 3, 100)] ∧ ready.meanDw ≤ 10 * ready.capW ∧
    ready.power.thermalSteps = [0, 0, 0] ∧ ready.power.down = .up ∧ 105 ≤ 114 ∧ ready.dieServes 3 = true ∧ 3 ∉ ready.eng.gated ∧
    (let s := { ready with eng := { ready.eng with idleBells := [1000, 0] } }
     s.img.active.idleGate ≤ s.eng.idleBells.getD 0 0 ∧ s.eng.idleBells.getD 1 0 < s.img.active.idleGate) ∧ ready.img.active.idleGate ≠ 0 := by decide

theorem witness_HotBankWritesThrough :
    ready.power.down = .up ∧ ready.up = true ∧ ready.power.bankHot = false ∧
    (withPower (fun p => { p with bankHot := true }) ready).power.bankHot = true := by decide

/-- Above 70 °C write-through is in force; it ends below 65 °C with a measurement of 1.5 J after that (R421). -/
theorem test_hot_bank :
    let f : FlushCost := ⟨0, 0, true⟩
    let hot := after (.temperatureSample .bank 71 f) ready
    hot.power.through = true ∧ (after (.holdupMeasurement 1500) hot).power.through = true ∧
    (after (.temperatureSample .bank 64 f) hot).power.through = true ∧
    (after (.holdupMeasurement 1500) (after (.temperatureSample .bank 64 f) hot)).power.through = false := by decide

/-- Nothing of a host command but one Read in progress. -/
def reading : State := { ready with host := { ready.host with outs := [⟨1, 9, true, .reading⟩] } }

theorem witness_ResetsAndShutdownsLeaveWhatTheyKeep :
    ready.up = true ∧ ready.host.link = true ∧ ready.power.mgmt = true ∧ (∀ d, d < 5 → (ready.die d).state ≠ .failed) ∧ ready.host.perst = false ∧
    off.up = false ∧ ready.host.en = true ∧ ClrCause.flr ≠ .ccEn ∧ State.reset.host.en = false ∧
    ({ ready with host := { ready.host with link := false } } : State).host.link = false ∧ ready.serving = true ∧ ready.host.shst = 0 ∧
    ready.host.held = [] ∧ ready.host.outs = [] ∧ reading.serving = true ∧ (⟨1, 9, true, .reading⟩ : Out) ∈ reading.host.outs ∧
    off.serving = false := by decide

theorem test_resets :
    (after (.controllerLevelReset .flr) ready).host.link = true ∧
    (after (.perstDeasserted 16 8) State.reset).host.link = true ∧ (after .shutdownNormal ready).host.shst = 2 := by decide

/-- The option aperture in Maintenance state at a step of the sequence. -/
def aperture (n : Nat) : State := { ready with nor := { ready.nor with maint := true, seq := n } }

theorem witness_OptionCyclesAreTakenInOrder :
    (aperture 2).up = true ∧ (aperture 2).host.link = true ∧ (aperture 2).host.perst = false ∧ ready.nor.maint = false ∧
    (aperture 0).nor.hostBusy = false ∧ (aperture 0).nor.seq = 0 ∧ (aperture 1).nor.seq = 1 ∧ (aperture 2).nor.maint = true ∧
    ({ aperture 0 with nor := { (aperture 0).nor with hostBusy := true } } : State).nor.hostBusy = true ∧
    (aperture 2).nor.refuses (3 * 8192 + 8191) = false ∧ (aperture 2).nor.refuses (6 * 8192) = false ∧
    ((aperture 2).nor.program (3 * 8192 + 9) 0).refuses (3 * 8192 + 9) = true ∧ 65536 * 3 / 65536 = 3 ∧ (65536 * 7 - 1) / 65536 = 6 ∧
    (aperture 2).nor.fwBusy = false := by decide

theorem test_option_cycles :
    (after (.optKey1 0x4D5A) (aperture 0)).nor.seq = 1 ∧ (after (.optKey2 0x4D5A) (aperture 1)).nor.err = 1 ∧
    (after (.optKey1 0x4D5A) ready).nor.err = 2 ∧ (after (.wordProgram (5 * 65536 + 8) 8 0) (aperture 2)).nor.err = 2 ∧
    (after (.wordProgram (3 * 65536) 8 0) (aperture 2)).nor.err = 3 := by decide

theorem witness_RegisterWritesKeepToTheirRegisters : ready.up = true ∧ ready.host.link = true ∧ ready.host.perst = false := by decide

/-- A host operation or one of the drive's own under way. -/
def hostOp (o : HostNorOp) : State := { ready with nor := { ready.nor with hostBusy := true, hostOp := some o } }

def fwOp (o : FwNorOp) : State := { ready with nor := { ready.nor with fwBusy := true, fwOp := some o } }

theorem witness_OptionOperationsEndInTheArray :
    (hostOp (.word 24577 5)).nor.fwBusy = false ∧ (hostOp (.word 24577 5)).nor.later = [] ∧
    (∀ x ∈ (hostOp (.word 24577 5)).nor.sectors, x.2.state = .opened → 16 ≤ x.1 → x.1 ∈ (hostOp (.word 24577 5)).nor.window) ∧
    (hostOp (.word 24577 5)).nor.hostOp = some (.word 24577 5) ∧ (hostOp (.word 24577 5)).nor.refuses 24577 = false ∧
    (hostOp (.flag 24584 5)).nor.hostOp = some (.flag 24584 5) ∧ 24584 / 8 % 1024 ≠ 1023 ∧ (hostOp (.flag 24584 5)).nor.refuses 24584 = false ∧
    (hostOp (.erase 3 (some 7))).nor.hostOp = some (.erase 3 (some 7)) ∧ (fwOp ⟨20, 4, 7, .journal⟩).nor.fwOp = some ⟨20, 4, 7, .journal⟩ ∧
    (fwOp ⟨20, 4, 7, .journal⟩).nor.later = [] ∧ (fwOp ⟨20, 4, 7, .journal⟩).nor.hostOp = none ∧
    (∀ x ∈ (fwOp ⟨20, 4, 7, .journal⟩).nor.sectors, x.2.state = .opened → 16 ≤ x.1 → x.1 ∈ (fwOp ⟨20, 4, 7, .journal⟩).nor.window ∨ x.1 = 20) ∧
    ((fwOp ⟨20, 4, 7, .journal⟩).nor.sectors.map Prod.fst).Pairwise (· < ·) := by decide

/-- A program leaves old AND value (R340). -/
theorem test_word_program :
    (after (.optOperationDone true) (hostOp (.word 24577 5))).nor.word 24577 = 5 ∧
    (after (.optOperationDone true) (hostOp (.word 24577 5))).nor.hostBusy = false := by decide

/-- The responder in a phase. -/
def talking (p : SpdmPhase) : State := { ready with sec := { ready.sec with spdm := p } }

theorem witness_SpdmAnswersInItsPhase :
    (talking .versioned).spdmServed = true ∧ (talking .versioned).sec.spdm = .versioned ∧ (talking .capable).sec.spdm = .capable ∧
    SpdmAlg.ecdsaP256 ∈ [SpdmAlg.other 3, .ecdsaP256] ∧ SpdmAlg.sha256 ∈ [SpdmAlg.sha256] ∧ SpdmAlg.sha256 ∉ [SpdmAlg.other 0] ∧
    (talking .negotiated).sec.spdm = .negotiated ∧ (talking .negotiated).nor.readable 0 = true ∧ off.spdmServed = false ∧
    (talking .negotiated).sec.spdm ≠ .capable := by decide

/-! ### Worked examples of the spec -/

/-- Three members and one element: E is 59, the sum is 2⁵⁹ + 2³⁶ in any order, and it is 3F80_0001h in FP32 (spec 12). -/
theorem test_three_members :
    sharedExp 3 0 = 59 ∧ toFx64 59 0x3F800000#32 = 0x0800000000000000#64 ∧ toFx64 59 0x33800000#32 = 0x0000000800000000#64 ∧
    fromFx64 59 0x0800001000000000#64 = 0x3F800001#32 ∧
    fadd (fadd 0x3F800000#32 0x33800000#32) 0x33800000#32 = 0x3F800000#32 ∧
    fadd 0x3F800000#32 (fadd 0x33800000#32 0x33800000#32) = 0x3F800001#32 := by decide

/-- FP32 values stored in E4M3, E5M2, FP16 and BF16 (spec 10). -/
def storedAs (x : F32) : List Nat := [fE4M3, fE5M2, fFP16, fBF16].map fun f => f.encode (f32 x)

theorem test_floating_formats :
    storedAs 0x3DCCCCCD#32 = [0x1D, 0x2E, 0x2E66, 0x3DCD] ∧ storedAs 0x43960000#32 = [0x79, 0x5D, 0x5CB0, 0x4396] ∧
    storedAs 0x43FA0000#32 = [0x7E, 0x60, 0x5FD0, 0x43FA] ∧ storedAs 0x49742400#32 = [0x7E, 0x7B, 0x7C00, 0x4974] ∧
    storedAs 0x80000000#32 = [0, 0, 0, 0] ∧ storedAs 0xFFC01234#32 = [0x7F, 0x7E, 0x7E00, 0x7FC0] := by decide

/-- Four addresses (spec 5): SRAM of array die B at 1 MiB, DRAM at 5 GiB, neither flash nor a window of tier 3. -/
theorem test_four_addresses :
    memSpan 0x0400000000100000 1 = some (73, dieBase 4 + 0x100000) ∧ dieBase 4 = 0x3C00000 ∧ dieBase 0 = 0x7800000 ∧
    memSpan 0x1000000140000000 1 = some (74, 0x140000000) ∧ memSpan 0x20300001000A0000 1 = none ∧ memSpan 0x3007000000002000 1 = none := by decide

/-- Member `n` of a staggered plain of twelve at a tick, under the ROM default's timetable (spec 3). -/
def staggered (n tick : Nat) : State :=
  { member with
    img := { member.img with active := { member.img.active with layout := 1, staggerStep := 85 } }
    plain := { member.plain with member := n }
    bell := { ready.bell with tick := tick } }

theorem test_staggered :
    (staggered 0 818).recessNow = false ∧ (staggered 0 819).recessNow = true ∧ (staggered 1 84).recessNow = true ∧
    (staggered 1 85).recessNow = false ∧ (staggered 3 49).recessNow = false ∧ (staggered 3 50).recessNow = true ∧
    (staggered 3 254).recessNow = true ∧ (staggered 3 255).recessNow = false ∧ (staggered 11 730).recessNow = true ∧
    (staggered 11 934).recessNow = true ∧ (staggered 11 935).recessNow = false := by decide

/-- An insert at 9,311:1,023 is published at 9,313, one at 9,311:1,022 at 9,312 (R81). -/
theorem test_publish_at :
    ({ ready with bell := { ready.bell with count := 9311, tick := 1023 } } : State).publishAt = 9313 ∧
    ({ ready with bell := { ready.bell with count := 9311, tick := 1022 } } : State).publishAt = 9312 := by decide

/-! ### Well-formed commands -/

/-! One ill-formed command for each check of `Instr.wellFormed`: an operand one past its field, a byte string not in canonical form, a header
of the other queue. -/

def illFormed1 : List Instr :=
  [.structureLoad io 0 0 ⟨0, []⟩, .structureLoad adm (2 ^ 32) 0 ⟨0, []⟩, .structureLoad adm 0 (2 ^ 64) ⟨0, []⟩,
    .structureLoad adm 0 0 ⟨0, [(0, 1#8)]⟩, .structureVerify io, .structureVerifyActivate io, .structureActivateResidentCommit io,
    .makeActiveResident io, .activateResidentImage io, .activateRomDefault io, .structureActivateReserved io 0,
    .structureActivateReserved adm 8, .plainJoin io ⟨0, []⟩, .plainJoin adm ⟨0, [(0, 1#8)]⟩, .plainLeave io, .retireResource io ⟨0, []⟩,
    .retireResource adm ⟨0, [(0, 1#8)]⟩, .maintenanceUnlock io ⟨0, []⟩, .maintenanceUnlock adm ⟨0, [(0, 1#8)]⟩,
    .createIoSubmissionQueue io 0 0 0 false, .createIoSubmissionQueue adm (2 ^ 16) 0 0 false,
    .createIoSubmissionQueue adm 0 (2 ^ 16) 0 false, .createIoSubmissionQueue adm 0 0 (2 ^ 16) false,
    .createIoCompletionQueue io 0 0 0 false, .createIoCompletionQueue adm (2 ^ 16) 0 0 false,
    .createIoCompletionQueue adm 0 (2 ^ 16) 0 false, .createIoCompletionQueue adm 0 0 (2 ^ 16) false, .deleteIoSubmissionQueue io 0,
    .deleteIoSubmissionQueue adm (2 ^ 16), .deleteIoCompletionQueue io 0, .deleteIoCompletionQueue adm (2 ^ 16),
    .getLogPage io 0 0 0 false, .getLogPage adm 256 0 0 false, .getLogPage adm 0 (2 ^ 32) 0 false, .getLogPage adm 0 0 (2 ^ 64) false,
    .identify io 0 0, .identify adm 256 0, .identify adm 0 (2 ^ 32), .abort io 0 0, .abort adm (2 ^ 16) 0]

def illFormed2 : List Instr :=
  [.abort adm 0 (2 ^ 16), .setPowerEnvelope io false 0, .setPowerEnvelope adm false 256, .timetableSelect io false 0,
    .timetableSelect adm false 4, .setMediaPolicy io false ⟨0, []⟩, .setMediaPolicy adm false ⟨0, [(0, 1#8)]⟩,
    .setPlainMembership io false, .setQueryDefaults io false ⟨0, []⟩, .setQueryDefaults adm false ⟨0, [(0, 1#8)]⟩,
    .setPowerManagement io false 0, .setPowerManagement adm false 32, .setArbitration io false 0 0 0 0, .setArbitration adm false 8 0 0 0,
    .setArbitration adm false 0 256 0 0, .setArbitration adm false 0 0 256 0, .setArbitration adm false 0 0 0 256,
    .setNumberOfQueues io false 0 0, .setNumberOfQueues adm false (2 ^ 16) 0, .setNumberOfQueues adm false 0 (2 ^ 16),
    .getFeatures io 0 0, .getFeatures adm 256 0, .getFeatures adm 0 8, .asynchronousEventRequest io, .namespaceManagement io (.delete 0),
    .namespaceManagement adm (.create (2 ^ 64) 0 0 0), .namespaceManagement adm (.create 0 (2 ^ 64) 0 0),
    .namespaceManagement adm (.create 0 0 (2 ^ 8) 0), .namespaceManagement adm (.create 0 0 0 (2 ^ 8)),
    .namespaceManagement adm (.delete (2 ^ 32)), .namespaceAttachment io 0 false, .namespaceAttachment adm (2 ^ 32) false,
    .firmwareImageDownload io 0 ⟨0, []⟩, .firmwareImageDownload adm (2 ^ 64) ⟨0, []⟩, .firmwareImageDownload adm 0 ⟨0, [(0, 1#8)]⟩,
    .firmwareCommitReplace io 0 0, .firmwareCommitReplace adm 8 0, .firmwareCommitReplace adm 0 8, .firmwareCommitNoAction io 0,
    .firmwareCommitNoAction adm 8]

def illFormed3 : List Instr :=
  [.firmwareCommitRefused io 0 0, .firmwareCommitRefused adm 8 0, .firmwareCommitRefused adm 0 8, .deviceSelfTest io 0,
    .deviceSelfTest adm 16, .nvmeMiSendReceive io .status, .nvmeMiSendReceive adm (.setEnvelope 256),
    .nvmeMiSendReceive adm (.setPower 32), .nvmeMiSendReceive adm (.admin 256), .formatNvm io 0 0, .formatNvm adm (2 ^ 32) 0,
    .formatNvm adm 0 8, .sanitizeCryptoErase io, .sanitizeBlockErase io, .nvmRead adm 0 0 0, .nvmRead io (2 ^ 32) 0 0,
    .nvmRead io 0 (2 ^ 64) 0, .nvmRead io 0 0 (2 ^ 16), .readWithProxy adm 0 0 0 0, .readWithProxy io (2 ^ 32) 0 0 0,
    .readWithProxy io 0 (2 ^ 64) 0 0, .readWithProxy io 0 0 (2 ^ 16) 0, .readWithProxy io 0 0 0 32, .nvmWrite adm 0 0 0 ⟨0, []⟩,
    .nvmWrite io (2 ^ 32) 0 0 ⟨0, []⟩, .nvmWrite io 0 (2 ^ 64) 0 ⟨0, []⟩, .nvmWrite io 0 0 (2 ^ 16) ⟨0, []⟩,
    .nvmWrite io 0 0 0 ⟨0, [(0, 1#8)]⟩, .writeZeroes adm 0 0 0, .writeZeroes io (2 ^ 32) 0 0, .writeZeroes io 0 (2 ^ 64) 0,
    .writeZeroes io 0 0 (2 ^ 16), .datasetManagementDeallocate adm 0 false [⟨0, 0⟩],
    .datasetManagementDeallocate io (2 ^ 32) false [⟨0, 0⟩], .datasetManagementDeallocate io 0 false [],
    .datasetManagementDeallocate io 0 false (List.replicate 257 ⟨0, 0⟩), .datasetManagementDeallocate io 0 false [⟨2 ^ 64, 0⟩],
    .datasetManagementDeallocate io 0 false [⟨0, 2 ^ 32⟩], .flush adm 0, .flush io (2 ^ 32)]

def illFormed4 : List Instr :=
  [.memoryRead adm 0 0 0, .memoryRead io (2 ^ 32) 0 0, .memoryRead io 0 (2 ^ 64) 0, .memoryRead io 0 0 (2 ^ 32),
    .memoryWrite adm 0 0 ⟨0, []⟩, .memoryWrite io (2 ^ 32) 0 ⟨0, []⟩, .memoryWrite io 0 (2 ^ 64) ⟨0, []⟩,
    .memoryWrite io 0 0 ⟨0, [(0, 1#8)]⟩, .memoryCopy adm 0 0 0 (.mem 0 0), .memoryCopy io (2 ^ 32) 0 0 (.mem 0 0),
    .memoryCopy io 0 (2 ^ 64) 0 (.mem 0 0), .memoryCopy io 0 0 (2 ^ 32) (.mem 0 0), .memoryCopy io 0 0 0 (.nvm (2 ^ 32) 0 0),
    .memoryCopy io 0 0 0 (.nvm 0 (2 ^ 64) 0), .memoryCopy io 0 0 0 (.nvm 0 0 (2 ^ 64)), .memoryCopy io 0 0 0 (.mem (2 ^ 32) 0),
    .memoryCopy io 0 0 0 (.mem 0 (2 ^ 64)), .memoryRangeSetCreate adm 0 [], .memoryRangeSetCreate io 8 [],
    .memoryRangeSetCreate io 0 [⟨2 ^ 32, 0, 0⟩], .memoryRangeSetCreate io 0 [⟨0, 2 ^ 64, 0⟩], .memoryRangeSetCreate io 0 [⟨0, 0, 2 ^ 64⟩],
    .memoryRangeSetDelete adm 0 0, .memoryRangeSetDelete io 8 0, .memoryRangeSetDelete io 0 (2 ^ 16), .loadProgram adm 0 0 ⟨0, []⟩,
    .loadProgram io 8 0 ⟨0, []⟩, .loadProgram io 0 (2 ^ 16) ⟨0, []⟩, .loadProgram io 0 0 ⟨0, [(0, 1#8)]⟩,
    .programActivationManagement adm 0 0 false, .programActivationManagement io 8 0 false,
    .programActivationManagement io 0 (2 ^ 16) false, .executeLesson adm 0 0 ⟨0, 0, 0⟩, .executeLesson io 8 0 ⟨0, 0, 0⟩,
    .executeLesson io 0 (2 ^ 16) ⟨0, 0, 0⟩, .executeLesson io 0 0 ⟨2 ^ 32, 0, 0⟩, .executeLesson io 0 0 ⟨0, 2 ^ 64, 0⟩,
    .executeLesson io 0 0 ⟨0, 0, 2 ^ 32⟩, .filteredScan adm 0 ⟨0, 0, 0⟩, .filteredScan io 8 ⟨0, 0, 0⟩]

def illFormed5 : List Instr :=
  [.filteredScan io 0 ⟨2 ^ 32, 0, 0⟩, .vectorQuery adm 0 ⟨0, 0, 0⟩, .vectorQuery io 8 ⟨0, 0, 0⟩, .vectorQuery io 0 ⟨2 ^ 32, 0, 0⟩,
    .indexInsert adm 0 ⟨0, 0, 0⟩, .indexInsert io 8 ⟨0, 0, 0⟩, .indexInsert io 0 ⟨2 ^ 32, 0, 0⟩, .embedAndInsert adm 0 ⟨0, 0, 0⟩,
    .embedAndInsert io 8 ⟨0, 0, 0⟩, .embedAndInsert io 0 ⟨2 ^ 32, 0, 0⟩, .indexDelete adm 0 ⟨0, 0, 0⟩, .indexDelete io 8 ⟨0, 0, 0⟩,
    .indexDelete io 0 ⟨2 ^ 32, 0, 0⟩, .indexTrain adm 0 ⟨0, 0, 0⟩, .indexTrain io 8 ⟨0, 0, 0⟩, .indexTrain io 0 ⟨2 ^ 32, 0, 0⟩,
    .trainStep adm 0 ⟨0, 0, 0⟩, .trainStep io 8 ⟨0, 0, 0⟩, .trainStep io 0 ⟨2 ^ 32, 0, 0⟩, .indexCreate adm 0 ⟨0, 0, 0⟩,
    .indexCreate io 8 ⟨0, 0, 0⟩, .indexCreate io 0 ⟨2 ^ 32, 0, 0⟩, .indexDrop adm 0 ⟨0, 0, 0⟩, .indexDrop io 8 ⟨0, 0, 0⟩,
    .indexDrop io 0 ⟨2 ^ 32, 0, 0⟩, .listFold 16 0, .listFold 0 (2 ^ 20), .valleyShareEnd 0 32, .fill 0 8 ⟨0, []⟩,
    .fill 0 0 ⟨0, [(0, 1#8)]⟩, .fillDrainDone 8, .move 0 4 ⟨0, []⟩, .move 0 0 ⟨0, [(0, 1#8)]⟩, .moveDone 4,
    .vuArithmetic 0 8 .add .fp32 0 0 0 0, .vuArithmetic 0 0 .add .fp32 32 0 0 0, .vuArithmetic 0 0 .add .fp32 0 32 0 0,
    .vuArithmetic 0 0 .add .fp32 0 0 32 0, .vuArithmetic 0 0 .add .fp32 0 0 0 32, .vuFusedMultiplyAdd 0 8 0 0 0 0]

def illFormed6 : List Instr :=
  [.vuFusedMultiplyAdd 0 0 32 0 0 0, .vuFusedMultiplyAdd 0 0 0 32 0 0, .vuFusedMultiplyAdd 0 0 0 0 32 0, .vuFusedMultiplyAdd 0 0 0 0 0 32,
    .vuIntegerLogic 0 8 .shl 0 0 0, .vuIntegerLogic 0 0 .shl 32 0 0, .vuIntegerLogic 0 0 .shl 0 32 0, .vuIntegerLogic 0 0 .shl 0 0 32,
    .vuFormatConversion 0 8 false .fp32 0 0 0 none 0, .vuFormatConversion 0 0 false .fp32 16 0 0 none 0,
    .vuFormatConversion 0 0 false .fp32 0 32 0 none 0, .vuFormatConversion 0 0 false .fp32 0 0 0 (some 32) 0,
    .vuFormatConversion 0 0 false .fp32 0 0 0 none 128, .vuDivideSqrt 0 8 .div 0 0 0, .vuDivideSqrt 0 0 .div 32 0 0,
    .vuDivideSqrt 0 0 .div 0 32 0, .vuDivideSqrt 0 0 .div 0 0 32, .vuTranscendental 0 8 .exp2 0 0, .vuTranscendental 0 0 .exp2 32 0,
    .vuTranscendental 0 0 .exp2 0 32, .vuReduction 0 8 .sum .fp32 0 0 0, .vuReduction 0 0 .sum .fp32 32 0 0,
    .vuReduction 0 0 .sum .fp32 0 32 0, .vuReduction 0 0 .sum .fp32 0 0 64, .vuTableLookup 0 8 0 0 false 0 0,
    .vuTableLookup 0 0 32 0 false 0 0, .vuTableLookup 0 0 0 32 false 0 0, .vuTableLookup 0 0 0 0 false 32 0,
    .vuTableLookup 0 0 0 0 false 0 (2 ^ 16), .vuScatterAdd 0 8 .fp32 0 0 0 0, .vuScatterAdd 0 0 .fp32 32 0 0 0,
    .vuScatterAdd 0 0 .fp32 0 32 0 0, .vuScatterAdd 0 0 .fp32 0 0 0 128, .semaphoreWait 0 (.mxa 8) 0, .semaphoreWait 0 (.vu 8) 0,
    .semaphoreWait 0 (.me 8) 0, .semaphoreWait 0 (.mover 4) 0, .semaphoreWait 0 (.valley 32) 0, .semaphoreWait 0 (.mxa 0) 64,
    .semaphorePost 0 64]

def illFormed7 : List Instr :=
  [.longSemWait 0 (.mxa 8), .bucketReady 8 0, .bucketReady 0 (2 ^ 12), .safePoint (.mxa 8), .sliceEnd (.mxa 8), .starveGrant (.mxa 8) 0,
    .watchdogFire (.mxa 8), .heartbeatMissed 8, .dieReturn 8 false, .suspectReplay 8 false, .replayWindowExpired 8, .lateReplyDrop 8 0 0,
    .lateReplyDrop 0 8 0, .lateReplyDrop 0 0 256, .eraseDone (2 ^ 16) 0 false, .eraseDone 0 32 false, .readRefreshDue (2 ^ 16) 0,
    .readRefreshDue 0 32, .applyCopyDone 8, .bucketTimeout 8 0 0, .bucketTimeout 0 (2 ^ 12) 0, .bucketTimeout 0 0 32, .attemptRestart 8,
    .headSilenceTimeout 8, .trainProgressSend 8, .portLinkLoss 4, .portDetect 4, .portTrainDone 4 0, .portTrainDone 0 128,
    .portIdentify 4 ⟨0, 0, 0, 0⟩ [], .portRetry 4, .bellFlitReceived 4 (flit 0 2) ⟨0, .locked, 0, 0⟩,
    .joinRequest 4 (flit 0 2) ⟨0, 0, 0, 0, true, false⟩, .joinAdmit 4 (flit 0 2) (.refused 1), .leaveMessage 4 (flit 0 2),
    .flowSetup 4 (flit 0 2) ⟨0, .copy, 0, 0, 0⟩, .nak 4 0, .creditResync 4 (flit 0 2) [], .parityAcknowledgement 4 (flit 0 2) ⟨0, 0⟩,
    .trainStepMessage 4 (flit 0 2) (.progress 0 0)]

def illFormed8 : List Instr :=
  [.timetableSelectionMessage 4 (flit 0 2) 0 0, .timetableSelectionMessage 0 (flit 0 2) 4 0,
    .timetableSelectionMessage 0 (flit 0 2) 0 (2 ^ 48), .namespaceTableMessage 4 (flit 0 2) ⟨0, []⟩, .plainWideQuery 4 (flit 0 2) shard,
    .memberAnswer 4 (flit 0 2) ⟨0, 0, false, true, [], []⟩, .parityDelta 4 (flit 0 2) ⟨0, 0, 0, 0, 0, ⟨0, []⟩⟩,
    .rebuildStream 4 (flit 0 2) ⟨0, 0, 0, 0, true, ⟨0, []⟩, []⟩, .proxyReadRequest 4 (flit 0 2) ⟨0, 0, 0, 0⟩,
    .proxyReadData 4 (flit 0 2) ⟨0, ⟨0, []⟩, []⟩, .mirrorUpkeep 4 (flit 0 2) (.confirmPending 0),
    .reductionScale 4 (flit 0 2) ⟨0, 0, 0, 0, 0, 1⟩, .reductionSum 4 (flit 0 2) ⟨0, 0, 0, 0, 0, [], false, false⟩,
    .reductionGather 4 (flit 0 2) ⟨0, ⟨0, []⟩⟩, .temperatureSample (.die 5) 0 ⟨0, 0, true⟩, .temperatureSample (.nand 32) 0 ⟨0, 0, true⟩,
    .temperatureSample (.dram 4) 0 ⟨0, 0, true⟩, .arrayIdleGate 8, .registerWrite 8 0 0 0, .registerWrite 0 (2 ^ 64) 0 0,
    .registerWrite 0 0 32 0, .wordProgram (2 ^ 64) 0 0, .wordProgram 0 32 0, .flagProgram (2 ^ 64) 0 0, .flagProgram 0 32 0,
    .sectorErase (2 ^ 64) 0 0, .sectorErase 0 32 0, .nvmeMiCommand (.setEnvelope 256), .nvmeMiCommand (.setPower 32),
    .nvmeMiCommand (.admin 256), .getCertificate 8 0 0, .getCertificate 0 (2 ^ 64) 0, .getCertificate 0 0 (2 ^ 32), .challenge 8 0,
    .getMeasurements 256 false 0, .fruRead (2 ^ 9) 0, .fruRead 0 (2 ^ 9), .electricalPresence 4, .perstDeasserted 0 32,
    .idleFlit 4 (flit 0 2)]

def illFormed9 : List Instr :=
  [.supplyBelowResetThreshold 8, .invalidCommandOpcode io 0, .invalidCommandOpcode adm 256, .sendBlock 0 4 0 0, .sendBlock 0 0 4 0,
    .sendBlock 0 0 0 256]

set_option maxRecDepth 20000 in
theorem test_ill_formed_refused :
    (illFormed1.all fun c => !c.wellFormed) = true ∧
    (illFormed2.all fun c => !c.wellFormed) = true ∧
    (illFormed3.all fun c => !c.wellFormed) = true ∧
    (illFormed4.all fun c => !c.wellFormed) = true ∧
    (illFormed5.all fun c => !c.wellFormed) = true ∧
    (illFormed6.all fun c => !c.wellFormed) = true ∧
    (illFormed7.all fun c => !c.wellFormed) = true ∧
    (illFormed8.all fun c => !c.wellFormed) = true ∧
    (illFormed9.all fun c => !c.wellFormed) = true := by decide

/-! Every command of the table with its operands zero, or the least there is. -/

def spelled1 : List Instr :=
  [.structureLoad adm 0 0 ⟨0, []⟩, .structureVerify adm, .structureVerifyActivate adm, .structureActivateResidentCommit adm,
    .makeActiveResident adm, .activateResidentImage adm, .activateRomDefault adm, .structureActivateReserved adm 0,
    .activateStructureBusy, .residentCommitDone, .plainJoin adm ⟨0, []⟩, .joinWaitExpired, .autoJoin, .plainLeave adm,
    .retireResource adm ⟨0, []⟩, .maintenanceUnlock adm ⟨0, []⟩, .createIoSubmissionQueue adm 0 0 0 false,
    .createIoCompletionQueue adm 0 0 0 false, .deleteIoSubmissionQueue adm 0, .deleteIoCompletionQueue adm 0, .getLogPage adm 0 0 0 false,
    .identify adm 0 0, .abort adm 0 0, .setPowerEnvelope adm false 0, .timetableSelect adm false 0, .setMediaPolicy adm false ⟨0, []⟩,
    .setPlainMembership adm false, .setQueryDefaults adm false ⟨0, []⟩, .setPowerManagement adm false 0,
    .setArbitration adm false 0 0 0 0, .setNumberOfQueues adm false 0 0, .getFeatures adm 0 0, .asynchronousEventRequest adm,
    .namespaceManagement adm (.delete 0), .namespaceAttachment adm 0 false, .firmwareImageDownload adm 0 ⟨0, []⟩,
    .firmwareCommitReplace adm 0 0, .firmwareCommitNoAction adm 0, .firmwareCommitRefused adm 0 0, .deviceSelfTest adm 0,
    .nvmeMiSendReceive adm .status, .formatNvm adm 0 0, .sanitizeCryptoErase adm, .sanitizeBlockErase adm, .sanitizeDone,
    .nvmRead io 0 0 0, .readWithProxy io 0 0 0 0, .nvmWrite io 0 0 0 ⟨0, []⟩, .writeZeroes io 0 0 0,
    .datasetManagementDeallocate io 0 false [⟨0, 0⟩], .flush io 0, .memoryRead io 0 0 0, .memoryWrite io 0 0 ⟨0, []⟩,
    .memoryCopy io 0 0 0 (.mem 0 0), .memoryRangeSetCreate io 0 [], .memoryRangeSetDelete io 0 0, .loadProgram io 0 0 ⟨0, []⟩,
    .programActivationManagement io 0 0 false, .executeLesson io 0 0 ⟨0, 0, 0⟩, .filteredScan io 0 ⟨0, 0, 0⟩, .vectorQuery io 0 ⟨0, 0, 0⟩,
    .indexInsert io 0 ⟨0, 0, 0⟩, .embedAndInsert io 0 ⟨0, 0, 0⟩, .indexDelete io 0 ⟨0, 0, 0⟩, .indexTrain io 0 ⟨0, 0, 0⟩,
    .trainStep io 0 ⟨0, 0, 0⟩, .indexCreate io 0 ⟨0, 0, 0⟩, .indexDrop io 0 ⟨0, 0, 0⟩, .insertCommit 0, .indexSpaceFreed 0]

def spelled2 : List Instr :=
  [.listFold 0 0, .queryFlashCutoff 0, .queryCoarseCutoff 0 0, .queryRerankCutoff 0 0, .scanDeadlineEnd 0, .valleyShareEnd 0 0,
    .fill 0 0 ⟨0, []⟩, .fillDrainDone 0, .move 0 0 ⟨0, []⟩, .moveDone 0, .vuArithmetic 0 0 .add .fp32 0 0 0 0,
    .vuFusedMultiplyAdd 0 0 0 0 0 0, .vuIntegerLogic 0 0 .shl 0 0 0, .vuFormatConversion 0 0 false .fp32 0 0 0 none 0,
    .vuDivideSqrt 0 0 .div 0 0 0, .vuTranscendental 0 0 .exp2 0 0, .vuReduction 0 0 .sum .fp32 0 0 0, .vuTableLookup 0 0 0 0 false 0 0,
    .vuScatterAdd 0 0 .fp32 0 0 0 0, .semaphoreWait 0 (.mxa 0) 0, .semaphorePost 0 0, .longSemWait 0 (.mxa 0), .bucketReady 0 0,
    .safePoint (.mxa 0), .sliceEnd (.mxa 0), .starveGrant (.mxa 0) 0, .watchdogFire (.mxa 0), .heartbeatMissed 0, .dieReturn 0 false,
    .suspectReplay 0 false, .replayWindowExpired 0, .generationDropped 0, .lateReplyDrop 0 0 0, .tier3ReadFailed 0,
    .flashReadDone 0 false false false, .softSenseReadDone 0 false, .readRecovery 0 [] 0, .groupProgramStart .host,
    .groupProgramDone 0 [], .eraseDone 0 0 false, .readRefreshDue 0 0, .journalGroupProgram, .mapCheckpoint, .bellEdge 0 ⟨0, none, 0⟩,
    .missedEdge ⟨0, none, 0⟩, .freeRunningBoundary ⟨0, none, 0⟩, .bellLost, .phaseClamp ⟨0, none, 0⟩, .phaseFault, .relockFromFollowing,
    .offNominal, .recessStarved, .applyCopyDone 0, .recessStart, .classStart, .bucketTimeout 0 0 0, .attemptRestart 0,
    .headSilenceTimeout 0, .trainProgressSend 0, .portLinkLoss 0, .portDetect 0, .portTrainDone 0 0, .portIdentify 0 ⟨0, 0, 0, 0⟩ [],
    .portRetry 0, .bellFlitReceived 0 (flit 0 2) ⟨0, .locked, 0, 0⟩, .joinRequest 0 (flit 0 2) ⟨0, 0, 0, 0, true, false⟩,
    .joinAdmit 0 (flit 0 2) (.refused 1), .leaveMessage 0 (flit 0 2), .flowSetup 0 (flit 0 2) ⟨0, .copy, 0, 0, 0⟩, .nak 0 0]

def spelled3 : List Instr :=
  [.creditResync 0 (flit 0 2) [], .parityAcknowledgement 0 (flit 0 2) ⟨0, 0⟩, .trainStepMessage 0 (flit 0 2) (.progress 0 0),
    .timetableSelectionMessage 0 (flit 0 2) 0 0, .namespaceTableMessage 0 (flit 0 2) ⟨0, []⟩, .plainWideQuery 0 (flit 0 2) shard,
    .memberAnswer 0 (flit 0 2) ⟨0, 0, false, true, [], []⟩, .parityDelta 0 (flit 0 2) ⟨0, 0, 0, 0, 0, ⟨0, []⟩⟩,
    .rebuildStream 0 (flit 0 2) ⟨0, 0, 0, 0, true, ⟨0, []⟩, []⟩, .proxyReadRequest 0 (flit 0 2) ⟨0, 0, 0, 0⟩,
    .proxyReadData 0 (flit 0 2) ⟨0, ⟨0, []⟩, []⟩, .mirrorUpkeep 0 (flit 0 2) (.confirmPending 0),
    .reductionScale 0 (flit 0 2) ⟨0, 0, 0, 0, 0, 1⟩, .reductionSum 0 (flit 0 2) ⟨0, 0, 0, 0, 0, [], false, false⟩,
    .reductionGather 0 (flit 0 2) ⟨0, ⟨0, []⟩⟩, .sagWarning 0, .sagClear 0, .powerLoss 0 ⟨0, 0, true⟩, .removal 0 ⟨0, 0, true⟩,
    .pwrdisRaised ⟨0, 0, true⟩, .powerOn 0 0 [], .mateDetectClose, .auxWarning 0, .auxReset 0, .auxReturn 0 false, .powerSample 0,
    .throttleStep, .temperatureSample .bank 0 ⟨0, 0, true⟩, .holdupMeasurement 0, .arrayIdleGate 0,
    .nvmSubsystemReset false 0 ⟨0, 0, true⟩, .controllerEnable, .controllerLevelReset .flr, .surpriseLinkDown, .shutdownNormal,
    .shutdownAbrupt ⟨0, 0, true⟩, .registerWrite 0 0 0 0, .optKey1 0, .optKey2 0, .wordProgram 0 0 0, .flagProgram 0 0 0,
    .sectorErase 0 0 0, .optReset, .optOperationDone false, .nvmeMiCommand .status, .getVersion, .getCapabilities,
    .negotiateAlgorithms [] [], .getDigests, .getCertificate 0 0 0, .challenge 0 0, .getMeasurements 0 false 0, .spdmUnsupportedRequest 0,
    .fruRead 0 0, .followingPlainBoundary ⟨0, none, 0⟩, .electricalPresence 0, .perstDeasserted 0 0, .pwrdisLowered,
    .inputOvervoltage 0 ⟨0, 0, true⟩, .idleFlit 0 (flit 0 2), .norEraseDone false, .firmwareCommitDone, .supplyBelowResetThreshold 0,
    .invalidCommandOpcode adm 0, .sendBlock 0 0 0 0]

theorem test_well_formed_accepted :
    (spelled1.all Instr.wellFormed) = true ∧
    (spelled2.all Instr.wellFormed) = true ∧
    (spelled3.all Instr.wellFormed) = true := by decide

theorem test_no_word_spells_a_command (n w : Nat) : decodeTableWord n w = none := rfl

end Sys2Proof.Tests
end

/-! PROOFS of the family 00_scope: the admission of commands (O2) and the die reset (O41). -/

section
namespace Sys2Proof.Machine

/-! ### O2: admission of admin commands -/

/-- Every admin command of the table is its own effect behind the admission of its opcode. -/
theorem exec_admin {c : Instr} {h : Hdr} {op : Nat} (hc : adminOf c = some (h, op)) :
    ∃ k, ∀ s, exec c s = .next (admitAdmin h op k s) := by
  unfold adminOf at hc
  split at hc <;> cases hc <;> exact ⟨_, fun _ => rfl⟩

section
variable {s : State} {h : Hdr} {op : Nat} (k : State → State)

theorem admitAdmin_not_fetched (hn : s.fetches h = false ∨ h.sq ≠ 0) : admitAdmin h op k s = s := by
  unfold admitAdmin
  rw [if_pos]
  rcases hn with hf | hq
  · simp [hf]
  · simp [hq]

theorem admitAdmin_in_recovery (hf : s.fetches h = true) (hq : h.sq = 0) (hr : s.fw.recovery = true)
    (ha : recoveryAnswers op = false) : admitAdmin h op k s = finish h stInvalidOpcode s := by
  simp [admitAdmin, hf, hq, hr, ha]

theorem admitAdmin_reserved_field (hf : s.fetches h = true) (hq : h.sq = 0)
    (hr : s.fw.recovery = false ∨ recoveryAnswers op = true) (hz : (h.rsvd || h.ord || h.proxy) = true) :
    admitAdmin h op k s = finish h stInvalidField s := by
  have hpass : (s.fw.recovery && !recoveryAnswers op) = false := by rcases hr with hr | hr <;> simp [hr]
  simp only [admitAdmin, hf, hq, hpass, hz]
  rfl

theorem admitAdmin_in_sanitize (hf : s.fetches h = true) (hq : h.sq = 0)
    (hr : s.fw.recovery = false ∨ recoveryAnswers op = true) (hz : (h.rsvd || h.ord || h.proxy) = false)
    (hs : s.sec.sanitize.isSome = true) (hp : sanitizePermits op = false) : admitAdmin h op k s = finish h stSanitizing s := by
  have hpass : (s.fw.recovery && !recoveryAnswers op) = false := by rcases hr with hr | hr <;> simp [hr]
  simp only [admitAdmin, hf, hq, hpass, hz, hs, hp]
  rfl

end

/-! ### Admission of I/O commands -/

/-- Every command to a compute namespace is its own effect behind the admission to its classroom. -/
theorem exec_room {c : Instr} {h : Hdr} {room : Nat} (hc : roomOf c = some (h, room)) :
    ∃ k, ∀ s, exec c s = .next (admitRoom h c room k s) := by
  unfold roomOf at hc
  split at hc <;> cases hc <;> exact ⟨_, fun _ => rfl⟩

/-- Every I/O command of the table is its own effect behind I/O admission; that of a compute namespace goes on in `admitRoom`. -/
theorem exec_io {c : Instr} {h : Hdr} {proxyOk : Bool} (hc : ioOf c = some (h, proxyOk)) :
    ∃ k, ∀ s, exec c s = .next (admitIo h c proxyOk k s) := by
  unfold ioOf at hc
  split at hc
  next hroom =>
    cases hc
    obtain ⟨k, hk⟩ := exec_room hroom
    exact ⟨_, hk⟩
  next => split at hc <;> cases hc <;> exact ⟨_, fun _ => rfl⟩

section
variable {s : State} {h : Hdr} {proxyOk : Bool} (c : Instr) (k : State → State)

theorem admitIo_not_fetched (hn : s.fetches h = false ∨ h.sq = 0) : admitIo h c proxyOk k s = s := by
  unfold admitIo
  rw [if_pos]
  rcases hn with hf | hq
  · simp [hf]
  · simp [hq]

theorem admitIo_must_order (hf : s.fetches h = true) (hq : h.sq ≠ 0) (ho : s.mustOrder h = true) :
    admitIo h c proxyOk k s = hold h c .order s := by
  simp [admitIo, hf, hq, ho]

theorem admitIo_full (hf : s.fetches h = true) (hq : h.sq ≠ 0) (ho : s.mustOrder h = false) (hl : 65536 ≤ s.host.outs.length) :
    admitIo h c proxyOk k s = hold h c .resource s := by
  simp [admitIo, hf, hq, ho, hl]

theorem admitIo_reserved_field (hf : s.fetches h = true) (hq : h.sq ≠ 0) (ho : s.mustOrder h = false)
    (hl : s.host.outs.length < 65536) (hz : (h.rsvd || (h.proxy && !proxyOk)) = true) :
    admitIo h c proxyOk k s = finish h stInvalidField s := by
  unfold admitIo
  rw [if_neg (by simp [hf, hq]), if_neg (by simp [ho]), if_neg (by omega), if_pos hz]

theorem admitIo_in_sanitize (hf : s.fetches h = true) (hq : h.sq ≠ 0) (ho : s.mustOrder h = false)
    (hl : s.host.outs.length < 65536) (hz : (h.rsvd || (h.proxy && !proxyOk)) = false) (hs : s.sec.sanitize.isSome = true) :
    admitIo h c proxyOk k s = finish h stSanitizing s := by
  unfold admitIo
  rw [if_neg (by simp [hf, hq]), if_neg (by simp [ho]), if_neg (by omega), if_neg (by simp [hz]), if_pos hs]

end

/-! ### Admission to a classroom, behind I/O admission -/

section
variable {s : State} {h : Hdr} {room : Nat} (c : Instr) (k : Room → State → State) (ok : s.acceptsIo h false = true)
include ok

theorem admitRoom_not_mapped (hr : s.room? room = none) : admitRoom h c room k s = finish h stInvalidNs s := by
  unfold admitRoom
  rw [admitIo_accepts _ _ ok]
  simp [hr]

theorem admitRoom_activate_holds {r : Room} (hr : s.room? room = some r) (ha : s.activateHolds room = true) :
    admitRoom h c room k s = hold h c (.activate room) s := by
  unfold admitRoom
  rw [admitIo_accepts _ _ ok]
  simp [hr, ha]

theorem admitRoom_copy_holds {r : Room} (hr : s.room? room = some r) (ha : s.activateHolds room = false)
    (hc : startsRun c = true) (hp : s.copyHolds room = true) : admitRoom h c room k s = hold h c .resource s := by
  unfold admitRoom
  rw [admitIo_accepts _ _ ok]
  simp [hr, ha, hc, hp]

end

/-! ### The clauses of O2 -/

/-- R9, R89, R97, R307, R396, R406: what an admin command meets, in order. -/
theorem admin_admitted_in_order {c : Instr} {h : Hdr} {op : Nat} (s : State) (hc : adminOf c = some (h, op)) :
    (s.fetches h = false ∨ h.sq ≠ 0 → exec c s = .next s) ∧
    (s.fetches h = true → h.sq = 0 →
      (s.fw.recovery = true → recoveryAnswers op = false → exec c s = .next (finish h stInvalidOpcode s)) ∧
      (s.fw.recovery = false ∨ recoveryAnswers op = true →
        ((h.rsvd || h.ord || h.proxy) = true → exec c s = .next (finish h stInvalidField s)) ∧
        ((h.rsvd || h.ord || h.proxy) = false → s.sec.sanitize.isSome = true → sanitizePermits op = false →
          exec c s = .next (finish h stSanitizing s)))) := by
  obtain ⟨k, hk⟩ := exec_admin hc
  rw [hk]
  exact ⟨fun hn => congrArg _ (admitAdmin_not_fetched k hn), fun hf hq =>
    ⟨fun hr ha => congrArg _ (admitAdmin_in_recovery k hf hq hr ha), fun hr =>
      ⟨fun hz => congrArg _ (admitAdmin_reserved_field k hf hq hr hz),
       fun hz hs hp => congrArg _ (admitAdmin_in_sanitize k hf hq hr hz hs hp)⟩⟩⟩

/-- R9, R95, R97, R307, R406: what an I/O command meets, in order. -/
theorem io_admitted_in_order {c : Instr} {h : Hdr} {proxyOk : Bool} (s : State) (hc : ioOf c = some (h, proxyOk)) :
    (s.fetches h = false ∨ h.sq = 0 → exec c s = .next s) ∧
    (s.fetches h = true → h.sq ≠ 0 →
      (s.mustOrder h = true → exec c s = .next (hold h c .order s)) ∧
      (s.mustOrder h = false →
        (65536 ≤ s.host.outs.length → exec c s = .next (hold h c .resource s)) ∧
        (s.host.outs.length < 65536 →
          ((h.rsvd || (h.proxy && !proxyOk)) = true → exec c s = .next (finish h stInvalidField s)) ∧
          ((h.rsvd || (h.proxy && !proxyOk)) = false → s.sec.sanitize.isSome = true →
            exec c s = .next (finish h stSanitizing s))))) := by
  obtain ⟨k, hk⟩ := exec_io hc
  rw [hk]
  exact ⟨fun hn => congrArg _ (admitIo_not_fetched c k hn), fun hf hq =>
    ⟨fun ho => congrArg _ (admitIo_must_order c k hf hq ho), fun ho =>
      ⟨fun hl => congrArg _ (admitIo_full c k hf hq ho hl), fun hl =>
        ⟨fun hz => congrArg _ (admitIo_reserved_field c k hf hq ho hl hz),
         fun hz hs => congrArg _ (admitIo_in_sanitize c k hf hq ho hl hz hs)⟩⟩⟩⟩

/-- R34, R56, R276: what a command to a compute namespace meets behind I/O admission. -/
theorem room_admitted_in_order {c : Instr} {h : Hdr} {room : Nat} {s : State} (hc : roomOf c = some (h, room))
    (ok : s.acceptsIo h false = true) :
    (s.room? room = none → exec c s = .next (finish h stInvalidNs s)) ∧
    (∀ r, s.room? room = some r → s.activateHolds room = true → exec c s = .next (hold h c (.activate room) s)) ∧
    (∀ r, s.room? room = some r → s.activateHolds room = false → startsRun c = true → s.copyHolds room = true →
      exec c s = .next (hold h c .resource s)) := by
  obtain ⟨k, hk⟩ := exec_room hc
  rw [hk]
  exact ⟨fun hr => congrArg _ (admitRoom_not_mapped c k ok hr),
    fun _ hr ha => congrArg _ (admitRoom_activate_holds c k ok hr ha),
    fun _ hr ha hs hp => congrArg _ (admitRoom_copy_holds c k ok hr ha hs hp)⟩

/-- An opcode that is not of the table, on the admin queue and elsewhere (R89). -/
theorem invalid_opcode_admitted (h : Hdr) (op : Nat) (s : State) :
    (s.fetches h = true → h.sq = 0 → exec (.invalidCommandOpcode h op) s = .next (finish h stInvalidOpcode s)) ∧
    (s.fetches h = false ∨ h.sq ≠ 0 → exec (.invalidCommandOpcode h op) s = .next s) := by
  have he : exec (.invalidCommandOpcode h op) s =
      .next (if s.fetches h && h.sq == 0 then finish h stInvalidOpcode s else s) := rfl
  rw [he]
  refine ⟨fun hf hq => ?_, fun hn => ?_⟩
  · simp [hf, hq]
  · rcases hn with hf | hq
    · simp [hf]
    · simp [hq]

/-- Without a queue deletion under way, a completion posts one entry and one message and ends its command (R86, R97). -/
theorem finish_noDeletes (h : Hdr) (st : Status) {s : State} (hd : s.host.deletes = []) : ∃ t, finish h st s = { s with
      host := t
      power := { s.power with activeNs := some s.bell.localNs } } ∧
    t.posted = s.host.posted ++ [⟨h.sq, h.cid, st.1, st.2, 0, Blob.zero 0⟩] ∧ t.msix = s.host.msix ++ [s.vectorOf h.sq] ∧
    (∀ o, o ∈ t.outs ↔ o ∈ s.host.outs ∧ ¬(o.sq = h.sq ∧ o.cid = h.cid)) ∧
    t = { s.host with
      outs := t.outs
      posted := t.posted
      msix := t.msix } := by
  refine ⟨(finish h st s).host, ?_⟩
  rw [finish, post_noDeletes _ _ _ _ _ hd]
  refine ⟨post1_frame .., rfl, rfl, fun o => ?_, rfl⟩
  simp only [post1, List.mem_filter, Bool.not_eq_true', ← Bool.not_eq_true, Bool.and_eq_true, beq_iff_eq]

/-- Settles O2: each command of the table is its own effect behind one of three admissions, and each admission is an ordered list of checks. -/
theorem commandsAreAdmittedInOrder : Obligations.CommandsAreAdmittedInOrder :=
  ⟨fun _ _ _ s hc => admin_admitted_in_order s hc, invalid_opcode_admitted, fun _ _ _ s hc => io_admitted_in_order s hc,
    fun _ _ _ _ hc ok => room_admitted_in_order hc ok, fun h st _ hd => finish_noDeletes h st hd⟩

/-! ### O41: a die reset whose share is written again in the same step -/

/-- The training lesson of classroom 0, run 0, on array 0 of die 3. -/
def hangingRun : Run where
  id := 0
  hdr := ⟨1, 1, false, false, false⟩
  room := 0
  slot := 0
  pri := 0
  admitted := 0
  die := 3
  engines := [.mxa 0]
  sems := []
  holds := []
  raised := none
  waits := []
  windows := []
  done := 0
  ready := []
  wrotePoison := false
  resume := []
  train := true
  rerun := false

/-- A Train Step that this drive heads alone, in its second attempt: run 0 is its suspect (R280), and its result header goes to offset 0 of
NSID 73, where the share of die 3 begins. -/
def suspectStep : TStep :=
  { makeStep 0 0 (some ⟨1, 1, false, false, false⟩) (Blob.zero 0x80) (Blob.zero 0) [0] State.reset with
    outNsid := 73, attempt := 2, maxAttempts := 4, phase := .running, run := some 0, suspect := true }

/-- The drive in that attempt, with a range set of the classroom over the result header's place. -/
def secondHang : State :=
  { State.reset with
    mem := { State.reset.mem with sets := [⟨0, 1, [⟨73, 0, 4096⟩]⟩] }
    sched := { State.reset.sched with runs := [hangingRun] }
    train := { State.reset.train with steps := [suspectStep] } }

/-- The place of the result header is one that the admission of a Train Step accepts (R262). -/
theorem secondHang_output_accepted : secondHang.outputOk 0 suspectStep.outNsid suspectStep.outFirst 64 = true := by decide

/-- The step's command ends with Program Faulted, and its result header, whose OUTCOME at byte 5 is 2 (R277, R280), is written after the
share was cleared. -/
theorem secondHang_watchdog_writes_outcome : (watchdog (.mxa 0) secondHang).mem.sram.cells.get 5 = 2 := by decide

/-- Refutes O41: a watchdog on the second hang of a Train Step's lesson resets the die and then ends the step's command, whose result header
may lie in the share that the reset has just cleared. There the share does not read zero after the step: byte 5 holds OUTCOME 2. -/
theorem not_dieResetsAreCountedAndCleared : ¬ Obligations.DieResetsAreCountedAndCleared := by
  intro ⟨hreset, _⟩
  obtain ⟨t, ht, -, -, -, -, -, -, -, hzero, -⟩ := hreset secondHang 3 1 (.watchdogFire (.mxa 0)) (by unfold State.shaped; decide)
    (by decide) (by decide) (by decide) (.inr (.inr ⟨.mxa 0, rfl, by decide, by decide, by decide, rfl⟩))
  have hstate : watchdog (.mxa 0) secondHang = t := Host.Outcome.next.inj ht
  have hclear : t.mem.sram.cells.get 5 = 0 := hzero (.inr (.inl rfl)) 5 (by decide) (by decide)
  rw [← hstate, secondHang_watchdog_writes_outcome] at hclear
  exact absurd hclear (by decide)

end Sys2Proof.Machine
end

/-! PROOFS of the family 02_structure_image: Structure Activate (O6), Set Features (O11), the reset state (O4) and the ends of an
activation and a resident commit (O7). -/

section
namespace Sys2Proof.Machine

/-! ### O6: admission of Structure Activate -/

/-- Every form of Structure Activate is its own effect behind the check that no other is outstanding (R57). -/
theorem exec_activate {c : Instr} {h : Hdr} (hc : adminOf c = some (h, 0xC2)) :
    ∃ k, ∀ s, exec c s = .next (admitActivate h k s) := by
  unfold adminOf at hc
  split at hc <;> cases hc <;> exact ⟨_, fun _ => rfl⟩

section
variable {s : State} {h : Hdr} (ok : s.accepts h 0xC2 = true)
include ok

theorem admitActivate_busy (k : State → State) (hb : s.activateBusy = true) : admitActivate h k s = finish h stBusy s := by
  unfold admitActivate
  rw [admitAdmin_accepts _ ok, if_pos hb]

theorem admitActivate_free (k : State → State) (hb : s.activateBusy = false) : admitActivate h k s = k s := by
  unfold admitActivate
  rw [admitAdmin_accepts _ ok, if_neg (by simp [hb])]

/-- R57: each ACTION is refused while an Activate is outstanding. -/
theorem activate_refused_while_busy {c : Instr} (hb : s.activateBusy = true) (hc : adminOf c = some (h, 0xC2)) :
    exec c s = .next (finish h stBusy s) := by
  obtain ⟨k, hk⟩ := exec_activate hc
  rw [hk, admitActivate_busy ok k hb]

variable (hb : s.activateBusy = false)
include hb

theorem exec_structureVerify : exec (.structureVerify h) s = .next (verifyCore h s) :=
  congrArg _ (admitActivate_free ok _ hb)

theorem exec_structureVerifyActivate : exec (.structureVerifyActivate h) s = .next (activateStaged h 1 s) :=
  congrArg _ (admitActivate_free ok _ hb)

theorem exec_structureActivateResidentCommit : exec (.structureActivateResidentCommit h) s = .next (activateStaged h 2 s) :=
  congrArg _ (admitActivate_free ok _ hb)

theorem exec_makeActiveResident : exec (.makeActiveResident h) s = .next (residentCore h s) :=
  congrArg _ (admitActivate_free ok _ hb)

theorem exec_activateResidentImage : exec (.activateResidentImage h) s = .next (activateResidentCore h s) :=
  congrArg _ (admitActivate_free ok _ hb)

theorem exec_activateRomDefault : exec (.activateRomDefault h) s = .next (activateRomCore h s) :=
  congrArg _ (admitActivate_free ok _ hb)

theorem exec_structureActivateReserved (a : Nat) :
    exec (.structureActivateReserved h a) s = .next (finish h stInvalidField s) :=
  congrArg _ (admitActivate_free ok _ hb)

end

/-! ### The plain lock (R55) -/

theorem lockOk_eq_false {s : State} {i : Image} (hm : s.plainMember = true) (hd : plainSame s.img.active i = false) :
    s.lockOk i = false := by
  simp [State.lockOk, hm, hd]

theorem checkStaged_locked {s : State} {i : Image} {b : Blob} (hv : verifyStaged s.env s.img.staged = .ok (i, b))
    (hl : s.lockOk i = false) : checkStaged s = .error (stPlainLocked, 0) := by
  simp [checkStaged, hv, hl]

/-! ### An activation put outstanding (R56 step 2) -/

theorem startActivation_eq (h : Hdr) (action source : Nat) (i : Image) (b : Blob) (s : State) :
    startActivation h action source i b s = { begin' h .admin s with img := { s.img with
      activation := some ⟨h, action, i, b, source, changedRooms s.img.active i, 0, false⟩ } } := by
  simp only [startActivation, onImg, begin'_img]

theorem begin'_onImg (h : Hdr) (k : OutKind) (f : ImgSt → ImgSt) (s : State) :
    begin' h k (onImg f s) = onImg f (begin' h k s) := by
  simp only [begin', apply_ite (onImg f)]
  rfl

/-- Reading the replicas notes at most which of them to rewrite (R59). -/
theorem noteReplicas_frame (s : State) :
    noteReplicas s = onImg (fun m => { m with rewrite := (noteReplicas s).img.rewrite }) s := by
  unfold noteReplicas
  split <;> rfl

theorem noteReplicas_lockOk (i : Image) (s : State) : (noteReplicas s).lockOk i = s.lockOk i := by
  rw [noteReplicas_frame]
  rfl

/-! ### The staged image: ACTION 0, 1 and 2 -/

section
variable {s : State} {h : Hdr} (ok : s.accepts h 0xC2 = true) (hb : s.activateBusy = false)
include ok hb

/-- A staged image that fails a check is refused alike by the three ACTIONs that verify it (R52, R53). -/
theorem staged_image_refused {st : Status} {dw0 : Nat} (he : checkStaged s = .error (st, dw0)) :
    ∀ c ∈ [Instr.structureVerify h, .structureVerifyActivate h, .structureActivateResidentCommit h],
      exec c s = .next (finishDw h st dw0 s) := by
  simp [exec_structureVerify ok hb, exec_structureVerifyActivate ok hb, exec_structureActivateResidentCommit ok hb,
    verifyCore, activateStaged, he]

theorem staged_image_plain_locked {i : Image} {b : Blob} (hv : verifyStaged s.env s.img.staged = .ok (i, b))
    (hm : s.plainMember = true) (hd : plainSame s.img.active i = false) :
    ∀ c ∈ [Instr.structureVerify h, .structureVerifyActivate h, .structureActivateResidentCommit h],
      exec c s = .next (finish h stPlainLocked s) :=
  staged_image_refused ok hb (checkStaged_locked hv (lockOk_eq_false hm hd))

/-- A staged image that passes: ACTION 0 completes, ACTION 1 and 2 put an activation outstanding (R52, R56). -/
theorem staged_image_taken {i : Image} {b : Blob} (hv : checkStaged s = .ok (i, b)) :
    exec (.structureVerify h) s = .next (finish h stOk s) ∧
    exec (.structureVerifyActivate h) s = .next { begin' h .admin s with img := { s.img with
      activation := some ⟨h, 1, i, b, 2, changedRooms s.img.active i, 0, false⟩ } } ∧
    exec (.structureActivateResidentCommit h) s = .next { begin' h .admin s with img := { s.img with
      activation := some ⟨h, 2, i, b, 2, changedRooms s.img.active i, 0, false⟩ } } := by
  simp [exec_structureVerify ok hb, exec_structureVerifyActivate ok hb, exec_structureActivateResidentCommit ok hb,
    verifyCore, activateStaged, hv, startActivation_eq]

/-! ### The image in force: ACTION 3 -/

theorem makeActiveResident_of_rom (hs : s.img.source = 0) :
    exec (.makeActiveResident h) s = .next (finish h stSequence s) := by
  rw [exec_makeActiveResident ok hb, residentCore, if_pos hs]

theorem makeActiveResident_of_resident (hr : s.activeResident = true) :
    exec (.makeActiveResident h) s = .next (finish h stOk s) := by
  have hs : s.img.source ≠ 0 := by
    intro h0
    simp [State.activeResident, h0] at hr
  rw [exec_makeActiveResident ok hb, residentCore, if_neg hs, if_pos hr]

theorem makeActiveResident_begins_commit (hs : s.img.source ≠ 0) (hr : s.activeResident = false) (hc : s.img.commit = none) :
    exec (.makeActiveResident h) s = .next { begin' h .admin s with img := { s.img with
      commit := some ⟨s.img.active, s.img.stream, some h⟩ } } := by
  simp [exec_makeActiveResident ok hb, residentCore, hs, hr, hc, onImg]

/-! ### The resident image: ACTION 4 -/

theorem activateResidentImage_without_replica (hn : s.firstReplica = none) :
    exec (.activateResidentImage h) s = .next (finish h stSequence s) := by
  simp [exec_activateResidentImage ok hb, activateResidentCore, hn]

theorem activateResidentImage_plain_locked {x : Image × Blob} (hx : s.firstReplica = some x) (hl : s.lockOk x.1 = false) :
    exec (.activateResidentImage h) s = .next (finish h stPlainLocked (noteReplicas s)) := by
  simp [exec_activateResidentImage ok hb, activateResidentCore, hx, noteReplicas_lockOk, hl]

/-- The activation of the resident image is outstanding; beside it, only the replicas to rewrite may have changed (R52, R59). -/
theorem activateResidentImage_taken {i : Image} {b : Blob} (hx : s.firstReplica = some (i, b)) (hl : s.lockOk i = true) :
    ∃ t, exec (.activateResidentImage h) s = .next t ∧
      t.img.activation = some ⟨h, 4, i, b, 1, changedRooms s.img.active i, 0, false⟩ ∧
      t = { begin' h .admin s with img := { s.img with activation := t.img.activation, rewrite := t.img.rewrite } } := by
  have hstart : exec (.activateResidentImage h) s = .next (startActivation h 4 1 i b (noteReplicas s)) := by
    simp [exec_activateResidentImage ok hb, activateResidentCore, hx, noteReplicas_lockOk, hl]
  refine ⟨_, hstart, ?_, ?_⟩ <;> rw [startActivation_eq, noteReplicas_frame, begin'_onImg] <;> rfl

/-! ### The ROM default: ACTION 5 -/

theorem activateRomDefault_taken (hl : s.lockOk s.romImage = true) :
    exec (.activateRomDefault h) s = .next { begin' h .admin s with img := { s.img with
      activation := some ⟨h, 5, s.romImage, Blob.zero 0, 0, changedRooms s.img.active s.romImage, 0, false⟩ } } := by
  rw [exec_activateRomDefault ok hb, activateRomCore, if_pos hl, startActivation_eq]

theorem activateRomDefault_plain_locked (hl : s.lockOk s.romImage = false) :
    exec (.activateRomDefault h) s = .next (finish h stPlainLocked s) := by
  simp [exec_activateRomDefault ok hb, activateRomCore, hl]

end

/-- Settles O6: each clause is the lemma of its ACTION. -/
theorem structureActivateActions : Obligations.StructureActivateActions := by
  intro h s ok
  refine ⟨fun hb c hc => activate_refused_while_busy ok hb ?_, fun hb => ⟨exec_structureActivateReserved ok hb,
    fun _ _ => staged_image_refused ok hb, fun _ _ => staged_image_taken ok hb, fun _ _ => staged_image_plain_locked ok hb,
    fun _ _ hx hm hd => activateResidentImage_plain_locked ok hb hx (lockOk_eq_false hm hd), makeActiveResident_of_rom ok hb,
    makeActiveResident_of_resident ok hb, makeActiveResident_begins_commit ok hb, activateResidentImage_without_replica ok hb,
    fun _ _ => activateResidentImage_taken ok hb, activateRomDefault_taken ok hb, activateRomDefault_plain_locked ok hb⟩⟩
  have hrows : ∀ c ∈ [Instr.structureVerify h, .structureVerifyActivate h, .structureActivateResidentCommit h,
      .makeActiveResident h, .activateResidentImage h, .activateRomDefault h, .structureActivateReserved h 6,
      .structureActivateReserved h 7], adminOf c = some (h, 0xC2) := by simp [adminOf]
  exact hrows c hc

/-! ### O11: Set Features -/

section
variable {s : State} {h : Hdr} (ok : s.accepts h 0x09 = true)
include ok

theorem admitSet_saved (k : State → State) : admitSet h true k s = finish h stNotSaveable s := by
  unfold admitSet
  rw [admitAdmin_accepts _ ok, if_pos rfl]

theorem admitSet_unsaved (k : State → State) : admitSet h false k s = k s := by
  unfold admitSet
  rw [admitAdmin_accepts _ ok, if_neg Bool.false_ne_true]

/-- No feature is saveable (R105): each is refused with SV set, whatever its value. -/
theorem set_features_not_saveable (w : Nat) (d : Blob) (n : Nat) :
    ∀ c ∈ [Instr.setPowerEnvelope h true w, .timetableSelect h true n, .setMediaPolicy h true d, .setPlainMembership h true,
        .setQueryDefaults h true d, .setPowerManagement h true n, .setArbitration h true n n n n, .setNumberOfQueues h true n n],
      exec c s = .next (finish h stNotSaveable s) := by
  have hrow (k : State → State) : (.next (admitSet h true k s) : Res) = .next (finish h stNotSaveable s) :=
    congrArg _ (admitSet_saved ok k)
  simp only [List.forall_mem_cons]
  exact ⟨hrow _, hrow _, hrow _, hrow _, hrow _, hrow _, hrow _, hrow _, List.forall_mem_nil _⟩

theorem exec_setPowerEnvelope (w : Nat) :
    exec (.setPowerEnvelope h false w) s = .next (finish h (setEnvelope w s).1 (setEnvelope w s).2) :=
  congrArg _ (admitSet_unsaved ok _)

theorem setPowerEnvelope_taken {w : Nat} (he : s.envelopeOk w = true) :
    exec (.setPowerEnvelope h false w) s = .next (finish h stOk { s with host := { s.host with envelopeNext := some w } }) := by
  rw [exec_setPowerEnvelope ok, setEnvelope, if_pos he]
  rfl

theorem setPowerEnvelope_refused {w : Nat} (he : s.envelopeOk w = false) :
    exec (.setPowerEnvelope h false w) s = .next (finish h stInvalidField s) := by
  rw [exec_setPowerEnvelope ok, setEnvelope, if_neg (by simp [he])]

theorem exec_setMediaPolicy (d : Blob) : exec (.setMediaPolicy h false d) s =
    .next (if (firstBad (checks06 2 d)).isSome then finish h stInvalidField s
      else finish h stOk { s with host := { s.host with policyNext := some (parsePolicy d) } }) :=
  congrArg _ (admitSet_unsaved ok _)

theorem setMediaPolicy_taken {d : Blob} (hd : firstBad (checks06 2 d) = none) :
    exec (.setMediaPolicy h false d) s =
      .next (finish h stOk { s with host := { s.host with policyNext := some (parsePolicy d) } }) := by
  rw [exec_setMediaPolicy ok, if_neg (by simp [hd])]

theorem setMediaPolicy_refused {d : Blob} (hd : (firstBad (checks06 2 d)).isSome = true) :
    exec (.setMediaPolicy h false d) s = .next (finish h stInvalidField s) := by
  rw [exec_setMediaPolicy ok, if_pos hd]

theorem setPlainMembership_refused : exec (.setPlainMembership h false) s = .next (finish h stNotChangeable s) :=
  congrArg _ (admitSet_unsaved ok _)

theorem exec_setQueryDefaults (d : Blob) : exec (.setQueryDefaults h false d) s =
    .next (if !queryDefaultsOk d then finish h stInvalidField s
      else finish h stOk { s with host := { s.host with
        queryDefNext := some ⟨s.host.queryDef.centroids, s.host.queryDef.subspaces, s.host.queryDef.coarse, d.le 0 2, d.le 2 2,
          d.le 4 4, d.le 8 4, d.le 12 1⟩ } }) :=
  congrArg _ (admitSet_unsaved ok _)

theorem setQueryDefaults_taken {d : Blob} (hd : queryDefaultsOk d = true) :
    exec (.setQueryDefaults h false d) s = .next (finish h stOk { s with host := { s.host with
      queryDefNext := some ⟨s.host.queryDef.centroids, s.host.queryDef.subspaces, s.host.queryDef.coarse, d.le 0 2, d.le 2 2, d.le 4 4,
        d.le 8 4, d.le 12 1⟩ } }) := by
  rw [exec_setQueryDefaults ok, if_neg (by simp [hd])]

theorem setQueryDefaults_refused {d : Blob} (hd : queryDefaultsOk d = false) :
    exec (.setQueryDefaults h false d) s = .next (finish h stInvalidField s) := by
  rw [exec_setQueryDefaults ok, if_pos (by simp [hd])]

theorem exec_setPowerManagement (ps : Nat) :
    exec (.setPowerManagement h false ps) s = .next (finish h (setPower ps s).1 (setPower ps s).2) :=
  congrArg _ (admitSet_unsaved ok _)

theorem setPowerManagement_taken {ps : Nat} (hp : ps ≤ 2) :
    exec (.setPowerManagement h false ps) s = .next (finish h stOk { s with host := { s.host with powerState := ps } }) := by
  rw [exec_setPowerManagement ok, setPower, if_pos hp]
  rfl

theorem setPowerManagement_refused {ps : Nat} (hp : 2 < ps) :
    exec (.setPowerManagement h false ps) s = .next (finish h stInvalidField s) := by
  rw [exec_setPowerManagement ok, setPower, if_neg (by omega)]

theorem exec_setArbitration (burst lpw mpw hpw : Nat) : exec (.setArbitration h false burst lpw mpw hpw) s =
    .next (if 7 < burst ∨ 255 < lpw ∨ 255 < mpw ∨ 255 < hpw then finish h stInvalidField s
      else finish h stOk { s with host := { s.host with arb := (burst, lpw, mpw, hpw) } }) :=
  congrArg _ (admitSet_unsaved ok _)

theorem setArbitration_taken {burst lpw mpw hpw : Nat} (hb : burst ≤ 7) (hl : lpw ≤ 255) (hm : mpw ≤ 255) (hh : hpw ≤ 255) :
    exec (.setArbitration h false burst lpw mpw hpw) s =
      .next (finish h stOk { s with host := { s.host with arb := (burst, lpw, mpw, hpw) } }) := by
  rw [exec_setArbitration ok, if_neg (by omega)]

theorem setNumberOfQueues_answers (nsq ncq : Nat) :
    exec (.setNumberOfQueues h false nsq ncq) s = .next (finishDw h stOk 0x01FF01FF s) :=
  congrArg _ (admitSet_unsaved ok _)

end

/-- R43: an envelope is allowed where it lies within 80 W to 165 W, and LOCK is 0 or does not let it rise above the image's. -/
theorem envelopeOk_iff (s : State) (w : Nat) : s.envelopeOk w = true ↔
    80 ≤ w ∧ w ≤ 165 ∧ (s.img.active.lock = 0 ∨ s.img.active.lock = 1 ∧ w ≤ s.img.active.envelopeW) := by
  simp [State.envelopeOk, and_assoc]

/-- Settles O11: each clause is the lemma of its feature, with `envelopeOk_iff` for the three of the power envelope. -/
theorem setFeaturesTakesOrRefuses : Obligations.SetFeaturesTakesOrRefuses := by
  intro h s ok
  refine ⟨set_features_not_saveable ok,
    fun w hlock hlo hhi => setPowerEnvelope_taken ok ((envelopeOk_iff s w).mpr ⟨hlo, hhi, .inl hlock⟩),
    fun w hlock hlo hhi hw => setPowerEnvelope_taken ok ((envelopeOk_iff s w).mpr ⟨hlo, hhi, .inr ⟨hlock, hw⟩⟩),
    fun w hw => setPowerEnvelope_refused ok ?_,
    fun _ => setMediaPolicy_taken ok, fun _ => setMediaPolicy_refused ok, setPlainMembership_refused ok,
    fun _ => setQueryDefaults_taken ok, fun _ => setQueryDefaults_refused ok,
    fun _ => setPowerManagement_taken ok, fun _ => setPowerManagement_refused ok,
    fun _ _ _ _ => setArbitration_taken ok, setNumberOfQueues_answers ok⟩
  rw [Bool.eq_false_iff, ne_eq, envelopeOk_iff]
  omega

/-! ### O4: the reset state -/

theorem reset_tickLegal : State.reset.tickLegal := Nat.zero_le _

theorem reset_shaped : State.reset.shaped := by
  unfold State.shaped
  decide

/-- R442: no byte of either memory namespace has been written. -/
theorem reset_ram_reads_zero (nsid a : Nat) : (State.reset.ram nsid).cells.get a = 0 := by
  unfold State.ram
  split <;> rfl

/-- A list of one value reads as that value at every index, the default being the same. -/
theorem getD_replicate_self {α : Type} (n i : Nat) (d : α) : (List.replicate n d).getD i d = d := by
  rw [List.getD_eq_getElem?_getD, List.getElem?_replicate]
  split <;> rfl

theorem reset_port_down (p : Nat) : (State.reset.port p).state = .down := by
  have hp : State.reset.port p = Port.reset := getD_replicate_self _ _ _
  rw [hp]
  rfl

theorem reset_lastStep (room : Nat) : State.reset.train.lastStep.getD room 0 = 0 :=
  getD_replicate_self _ _ _

/-- Settles O4: the three parts of the invariant, the tables by their lemmas, every other value as reset names it. -/
theorem resetLeavesTheSpecsValues : Obligations.ResetLeavesTheSpecsValues :=
  ⟨reset_tickLegal, reset_shaped, canonical_reset, rfl, rfl, rfl, rfl, rfl, rfl, rfl, rfl, rfl, rfl, reset_ram_reads_zero,
    rfl, rfl, rfl, rfl, reset_port_down, rfl, rfl, rfl, rfl, rfl, rfl, rfl, rfl, rfl, rfl, rfl, rfl, rfl, rfl, rfl, rfl,
    reset_lastStep, rfl, rfl, rfl, fun _ => rfl⟩

/-! ### O7: the ends of an activation and of a resident commit -/

@[simp] theorem norRecord_img (kind : Nat) (p : Blob) (flags : List Nat) (s : State) :
    (norRecord kind p flags s).2.img = s.img := rfl

section
variable {s : State}

theorem activateStructureBusy_ends {a : Activation} (ha : s.img.activation = some a) (he : a.inEffect = false)
    (hn : 100 ≤ a.boundaries) :
    exec .activateStructureBusy s = .next (finish a.hdr stBusy { s with img := { s.img with activation := none } }) := by
  simp [exec, execActivateStructureBusy, ha, he, hn, onImg]

theorem activateStructureBusy_waits (hw : ∀ a, s.img.activation = some a → a.inEffect = true ∨ a.boundaries < 100) :
    exec .activateStructureBusy s = .next s := by
  cases ha : s.img.activation with
  | none => simp [exec, execActivateStructureBusy, ha]
  | some a =>
    have hnot : (!a.inEffect && decide (100 ≤ a.boundaries)) = false := by
      rcases hw a ha with he | hn
      · simp [he]
      · simp [hn]
    simp [exec, execActivateStructureBusy, ha, hnot]

theorem residentCommitDone_without_commit (hc : s.img.commit = none) : exec .residentCommitDone s = .next s := by
  simp [exec, execResidentCommitDone, hc]

/-- The drive with the commit record in the journal and the image in its four replicas (R58), before the command completes. -/
def State.recorded (s : State) (c : ResCommit) : State :=
  { s with
      nor := (norRecord 3 (Blob.concat [fld 8 c.image.imageId.toNat, Blob.ofBytes (beBytes 32 c.image.digest.toNat)]) [] s).2.nor
      img := { s.img with
        commit := none
        replicas := List.replicate 4 (some c.stream)
        record := some c.image.digest
        rewrite := []
        source := if s.img.active.digest = c.image.digest ∧ s.img.source ≠ 0 then 1 else s.img.source } }

/-- A commit that a command waits for, with no activation outstanding, completes that command. -/
theorem residentCommitDone_eq {c : ResCommit} {h : Hdr} (hc : s.img.commit = some c) (hcmd : c.cmd = some h)
    (hact : s.img.activation = none) : exec .residentCommitDone s = .next (finish h stOk (s.recorded c)) := by
  have hend : endCommit c s = finish h stOk (s.recorded c) := by
    simp only [endCommit, hcmd, finish_img, onImg_img, norRecord_img, hact]
    rfl
  simp only [exec, execResidentCommitDone, hc, hend]

end

/-- Settles O7: the last clause holds of `State.recorded`. -/
theorem activateEnds : Obligations.ActivateEnds :=
  ⟨fun _ _ => activateStructureBusy_ends, fun _ => activateStructureBusy_waits, fun _ => residentCommitDone_without_commit,
    fun c _ s hc hcmd hact => ⟨s.recorded c, residentCommitDone_eq hc hcmd hact, rfl, rfl, rfl, rfl, rfl, rfl⟩⟩

end Sys2Proof.Machine
end

/-! PROOFS of the family 03_bell_and_timetable: the step (O1) and what every step keeps (O3). -/

section
namespace Sys2Proof.Machine

/-! ### O1 and O3: what every command keeps -/

/-- The command takes effect, and keeps what every step keeps. -/
def Runs (s : State) (o : Res) : Prop := ∃ t, o = .next t ∧ Keeps s t

theorem Keeps.ite {r t u : State} {c : Prop} [Decidable c] (ht : Keeps r t) (hu : Keeps r u) : Keeps r (if c then t else u) := by
  split
  · exact ht
  · exact hu

/-- The security state may be given anew. -/
theorem Keeps.sec {r s : State} (f : SecSt → SecSt) (k : Keeps r s) : Keeps r { s with sec := f s.sec } :=
  upd_keeps ⟨rfl, rfl, rfl, rfl, rfl, rfl, rfl, rfl, rfl, rfl⟩ k

namespace Runs
variable {s t : State} {k : State → State}

theorem of (h : Keeps s t) : Runs s (.next t) := ⟨t, rfl, h⟩

theorem guard {c : Prop} [Decidable c] (h : Keeps s t) : Runs s (.next (if c then t else s)) := of (.ite h (.refl s))

theorem except {c : Prop} [Decidable c] (h : Keeps s t) : Runs s (.next (if c then s else t)) := of (.ite (.refl s) h)

theorem admin {h : Hdr} {op : Nat} (hk : ∀ r s, Keeps r s → Keeps r (k s)) : Runs s (.next (admitAdmin h op k s)) :=
  of (admitAdmin_keeps _ _ _ _ _ hk (.refl s))

theorem activate {h : Hdr} (hk : ∀ r s, Keeps r s → Keeps r (k s)) : Runs s (.next (admitActivate h k s)) :=
  of (admitActivate_keeps _ _ _ _ hk (.refl s))

theorem set {h : Hdr} {sv : Bool} (hk : ∀ r s, Keeps r s → Keeps r (k s)) : Runs s (.next (admitSet h sv k s)) :=
  of (admitSet_keeps _ _ _ _ _ hk (.refl s))

theorem commit {h : Hdr} {fs : Nat} (hk : ∀ r s, Keeps r s → Keeps r (k s)) : Runs s (.next (admitCommit h fs k s)) :=
  of (admitCommit_keeps _ _ _ _ _ hk (.refl s))

theorem io {h : Hdr} {c : Instr} {p : Bool} (hk : ∀ r s, Keeps r s → Keeps r (k s)) : Runs s (.next (admitIo h c p k s)) :=
  of (admitIo_keeps _ _ _ _ _ _ hk (.refl s))

theorem room {h : Hdr} {c : Instr} {n : Nat} {k : Room → State → State} (hk : ∀ r a s, Keeps r s → Keeps r (k a s)) :
    Runs s (.next (admitRoom h c n k s)) := of (admitRoom_keeps _ _ _ _ _ _ hk (.refl s))

theorem flit {port : Nat} {hd : FlitHdr} (hk : ∀ r s, Keeps r s → Keeps r (k s)) : Runs s (.next (receive port hd k s)) :=
  of (receive_keeps _ _ _ _ _ hk (.refl s))

theorem message {port : Nat} {hd : FlitHdr} {b : Payload} (hk : ∀ r s, Keeps r s → Keeps r (k s)) :
    Runs s (.next (receiveFor port hd b k s)) := of (receiveFor_keeps _ _ _ _ _ _ hk (.refl s))

theorem vector {run vu : Nat} (hk : ∀ r s, Keeps r s → Keeps r (k s)) : Runs s (.next (vuOp run vu k s)) :=
  of (vuOp_keeps _ _ _ _ _ hk (.refl s))

theorem spdm {p : SpdmPhase} (hk : ∀ r s, Keeps r s → Keeps r (k s)) : Runs s (.next (spdmIn p k s)) :=
  of (spdmIn_keeps _ _ _ _ hk (.refl s))

end Runs

/-- A program with a parameter block, behind the admission to its classroom. -/
theorem Runs.program {s : State} {h : Hdr} {c : Instr} {n len : Nat} {p : ParamRef} {k : Room → Blob → State → State}
    (hk : ∀ r a b s, Keeps r s → Keeps r (k a b s)) :
    Runs s (.next (admitRoom h c n (fun a s => withBlock h p len (k a) s) s)) :=
  room fun r a s ks => withBlock_keeps r _ _ _ _ s (fun r b s => hk r a b s) ks

/-! #### Commands whose effect is made of several cases -/

section
variable (s : State)

theorem vuReduction_runs (run vu : Nat) (op : VuReduce) (ty : LaneType) (dst first count : Nat) :
    Runs s (execVuReduction run vu op ty dst first count s) := .vector fun r s => onVu_keeps r _ _ s

theorem vuTableLookup_runs (run vu dst idx : Nat) (wide : Bool) (width base : Nat) :
    Runs s (execVuTableLookup run vu dst idx wide width base s) := .vector fun r s => onVu_keeps r _ _ s

theorem vuScatterAdd_runs (run vu : Nat) (ty : LaneType) (val idx : Nat) (base : BitVec 64) (lanes : Nat) :
    Runs s (execVuScatterAdd run vu ty val idx base lanes s) := by
  refine .guard ?_
  have kc : Keeps s (claim (.vu vu) run s) := claim_keeps _ _ _ _ (.refl s)
  dsimp only
  split
  · exact kc
  · split
    · exact opDone_keeps _ _ _ (.ite (onRun_keeps _ _ _ _ (scatterLanes_keeps _ _ _ _ _ _ _ _ kc)) (scatterLanes_keeps _ _ _ _ _ _ _ _ kc))
    · exact denyRun_keeps _ _ _ kc

theorem fillDrainDone_runs (mxa : Nat) : Runs s (execFillDrainDone mxa s) := by
  refine .except ?_
  split
  · exact .refl s
  next ht => exact endOp_keeps _ _ _ _ (writeDrain_keeps _ _ _ _ _ _ ht (.refl s))

theorem moveDone_runs (mover : Nat) : Runs s (execMoveDone mover s) := by
  refine .except ?_
  split
  · exact .refl s
  next m _ =>
    have kw : Keeps s (writeMove m s) := writeMove_keeps _ _ _ (.refl s)
    split
    · exact .refl s
    · refine endOp_keeps _ _ _ _ (setMover_keeps _ _ _ _ ?_)
      split
      · exact kw.trans (onDies'_keeps _ (fun d => { d with reqs := _ }) _ rfl (.refl _))
      · exact kw

theorem semaphoreWait_runs (run : Nat) (e : Engine) (sem : Nat) : Runs s (execSemaphoreWait run e sem s) := by
  refine .guard ?_
  split
  · exact .refl s
  · exact .ite (takeSem_keeps _ _ _ _ (claim_keeps _ _ _ _ (.refl s))) (blockOn_keeps _ _ _ _ _ _ (.refl s))

theorem semaphorePost_runs (run sem : Nat) : Runs s (execSemaphorePost run sem s) := by
  refine .of ?_
  split
  · exact .ite (postSem_keeps _ _ _ _ (.refl s)) (.refl s)
  · exact .refl s

theorem longSemWait_runs (run : Nat) (e : Engine) : Runs s (execLongSemWait run e s) := by
  refine .of ?_
  split
  · exact .refl s
  · split
    · exact .refl s
    · exact onSched_keeps _ _ _ (onRun_keeps _ _ _ _ (.refl s))

theorem sliceEnd_runs (e : Engine) : Runs s (execSliceEnd e s) := by
  refine .of ?_
  split
  · exact .ite (chooseRun_keeps _ _ _ (.refl s)) (.refl s)
  · exact .refl s

theorem starveGrant_runs (e : Engine) (run : Nat) : Runs s (execStarveGrant e run s) := by
  refine .of ?_
  split
  · exact .refl s
  · refine .ite (onSched_keeps _ _ _ (takeAndResume_keeps _ _ _ _ ?_)) (.refl s)
    split
    · exact makeReady_keeps _ _ _ _ (onRoomStats_keeps _ _ _ _ (onSched_keeps _ _ _ (.refl s)))
    · exact onRoomStats_keeps _ _ _ _ (onSched_keeps _ _ _ (.refl s))

theorem sendBlock_runs (run port vc flits : Nat) : Runs s (execSendBlock run port vc flits s) := by
  refine .of ?_
  split
  · exact .refl s
  · split
    · exact .refl s
    · exact .ite (opDone_keeps _ _ _ (sendMany_keeps _ _ _ _ _ (onSched_keeps _ _ _ (.refl s)))) (.refl s)

theorem tier3ReadFailed_runs (run : Nat) : Runs s (execTier3ReadFailed run s) := by
  refine .of ?_
  split
  · exact .refl s
  · exact .ite (endRun_keeps _ _ _ _ (onMem_keeps _ _ _ rfl rfl (.refl s))) (.refl s)

theorem namespaceManagement_runs (h : Hdr) (op : NsOp) : Runs s (execNamespaceManagement h op s) :=
  .admin fun r s k => match op with
    | .create _ _ _ _ => createNs_keeps r _ _ _ _ _ s k
    | .delete _ => deleteNs_keeps r _ _ s k

theorem indexSpaceFreed_runs (serial : Nat) : Runs s (execIndexSpaceFreed serial s) := by
  refine .of ?_
  split
  · exact .refl s
  next ix _ =>
    refine .ite (.refl s) (releaseSlots_keeps _ _ _ ?_)
    exact upd_keeps ⟨rfl, rfl, rfl, rfl, rfl, rfl, rfl, rfl, rfl, rfl⟩ (onIdx_keeps _ _ _ (.refl s))

theorem insertCommit_runs (wid : Nat) : Runs s (execInsertCommit wid s) := by
  refine .of ?_
  split
  · exact .refl s
  · refine .ite (.refl s) ?_
    split
    · exact endWaiting_keeps _ _ _ _ (.refl s)
    · exact .ite (.refl s) (.ite (endWaiting_keeps _ _ _ _ (.refl s)) (commitGroup_keeps _ _ _ _ (.refl s)))

theorem embedAndInsert_runs (h : Hdr) (room : Nat) (p : ParamRef) : Runs s (execEmbedAndInsert h room p s) :=
  .room fun r _ s k => .ite (finish_keeps r _ _ s k) (.ite (hold_keeps r _ _ _ s k)
    (withBlock_keeps r _ _ _ _ s (fun r b s => embedCore_keeps r _ _ b s) k))

theorem filteredScan_runs (h : Hdr) (room : Nat) (p : ParamRef) : Runs s (execFilteredScan h room p s) :=
  .room fun r _ s k => .ite (finish_keeps r _ _ s k) (withBlock_keeps r _ _ _ _ s (fun r b s => scanCore_keeps r _ _ b s) k)

theorem vectorQuery_runs (h : Hdr) (room : Nat) (p : ParamRef) : Runs s (execVectorQuery h room p s) :=
  .room fun r _ s k => .ite (finish_keeps r _ _ s k) (withBlock_keeps r _ _ _ _ s (fun r b s => queryCore_keeps r _ _ b s) k)

theorem scanDeadlineEnd_runs (run : Nat) : Runs s (execScanDeadlineEnd run s) := by
  refine .of ?_
  split
  · exact .refl s
  · split
    · exact .refl s
    · exact .ite (.refl s) (pump_keeps _ _ (onScan_keeps _ _ _ _ (.refl s)))

theorem queryFlashCutoff_runs (run : Nat) : Runs s (execQueryFlashCutoff run s) := by
  refine .of ?_
  split
  · exact .refl s
  · exact .ite (.refl s) (onQRun_keeps _ _ _ _ (.refl s))

theorem queryCoarseCutoff_runs (run covered : Nat) : Runs s (execQueryCoarseCutoff run covered s) := by
  refine .of ?_
  split
  · exact .refl s
  · split
    · exact .refl s
    · exact .ite (.refl s) (cutCoarse_keeps _ _ _ _ (.refl s))

theorem queryRerankCutoff_runs (run ranked : Nat) : Runs s (execQueryRerankCutoff run ranked s) := by
  refine .of ?_
  split
  · exact .refl s
  · split
    · exact .refl s
    · exact .ite (.refl s) (settleHeads_keeps _ _ (onQRun_keeps _ _ _ _ (.refl s)))

theorem portIdentify_runs (port : Nat) (far : PortIdentity) (echoes : List Nat) : Runs s (execPortIdentify port far echoes s) :=
  .except (.ite (onPort_keeps _ _ _ _ (.refl s)) (sendJoin_keeps _ _ (onPort_keeps _ _ _ _ (.refl s))))

theorem nak_runs (port seq : Nat) : Runs s (execNak port seq s) := by
  have kp := fun f => onPort_keeps s port f s (.refl s)
  exact .except (.ite (dropLink_keeps _ _ _ (kp _)) ((kp _).trans (onPlain_keeps _ (fun p => { p with tx := _ }) _ rfl rfl (.refl _))))

theorem readWithProxy_runs (h : Hdr) (nsid slba nlb target : Nat) : Runs s (execReadWithProxy h nsid slba nlb target s) :=
  .io fun r s k => .ite (proxyCore_keeps r _ _ _ _ _ s k) (readCore_keeps r _ _ _ _ s k)

theorem creditResync_runs (port : Nat) (hd : FlitHdr) (counts : List Nat) : Runs s (execCreditResync port hd counts s) :=
  .flit fun r s k => .ite k (drainQueue_keeps r _ _ _ (onPort_keeps r _ _ s k))

theorem flowSetup_runs (port : Nat) (hd : FlitHdr) (e : FlowEntry) : Runs s (execFlowSetup port hd e s) :=
  .message fun r s => onPlain_keeps r (fun p => { p with flows := p.flows.filter (fun x => x.flow != e.flow) ++ [e] }) s rfl rfl

theorem reductionGather_runs (port : Nat) (hd : FlitHdr) (g : GatherFlit) : Runs s (execReductionGather port hd g s) := by
  refine .flit fun r s k => ?_
  have kp := onPlain_keeps r (fun p => { p with gathered := p.gathered ++ [(g.flow, g.data)] }) s rfl rfl k
  exact .ite kp (passOn_keeps r _ _ _ _ kp)

theorem plainLeave_runs (h : Hdr) : Runs s (execPlainLeave h s) := by
  refine .admin fun r s k => ?_
  split
  · exact finish_keeps r _ _ s k
  · exact finish_keeps r _ _ s k
  · exact finish_keeps r _ _ s k
  · exact tryLeave_keeps r _ (plainEvent_keeps r _ (onPlain_keeps r _ _ rfl rfl (begin'_keeps r _ _ s k)))
  · exact tryLeave_keeps r _ (plainEvent_keeps r _ (onPlain_keeps r _ _ rfl rfl (begin'_keeps r _ _ s k)))

theorem joinWaitExpired_runs : Runs s (execJoinWaitExpired s) := by
  refine .of ?_
  split
  · exact .refl s
  · exact .ite (.refl s) (.ite (failJoin_keeps _ _ _ (.refl s)) (.ite (failJoin_keeps _ _ _ (.refl s)) (.refl s)))

theorem autoJoin_runs : Runs s (execAutoJoin s) := by
  refine .of ?_
  split
  · exact .ite (beginJoin_keeps _ _ _ _ _ _ (.refl s)) (.refl s)
  · exact .refl s

theorem joinAdmit_runs (port : Nat) (hd : FlitHdr) (a : JoinAnswer) : Runs s (execJoinAdmit port hd a s) :=
  .flit fun r s k => .ite (takeAdmit_keeps r _ s k) (.ite k (passOn_keeps r _ _ _ s k))

theorem joinRequest_runs (port : Nat) (hd : FlitHdr) (j : JoinReq) : Runs s (execJoinRequest port hd j s) := by
  have relay : ∀ r s, Keeps r s → Keeps r (if s.plain.reference = s.plain.member then takeRequest j s
      else match s.route s.plain.reference with
        | some (p, _) => sendFlit true ⟨p, hd.src.toNat, s.plain.reference, 0, 0, s.outClass (isChord port) 0 p, 0, .joinRequest j, 0, 0⟩ s
        | none => s) := by
    intro r s k
    refine .ite (takeRequest_keeps r _ s k) ?_
    split
    · exact sendFlit_keeps r _ _ s k
    · exact k
  refine .flit fun r s k => ?_
  split
  · exact k
  · exact k
  · split
    · exact .ite (takeRequest_keeps r _ _ (becomeMember_keeps r _ _ _ (onPlain_keeps r _ s rfl rfl k))) k
    · exact k
  · exact relay r s k
  · exact relay r s k

theorem bellFlitReceived_runs (port : Nat) (hd : FlitHdr) (f : BellFlit) : Runs s (execBellFlitReceived port hd f s) := by
  refine .flit fun r s k => .ite k ?_
  have kf := passOn_keeps r port { hd with dst := 0xFF#8 } (.bell f) _
    (onPlain_keeps r (fun p => { p with seen := ((hd.src.toNat, f.count) :: p.seen).take 96 }) s rfl rfl k)
  exact .ite kf (noteBell_keeps r _ _ _ kf)

theorem bucketTimeout_runs (room bucket participant : Nat) : Runs s (execBucketTimeout room bucket participant s) := by
  refine .of ?_
  split
  · exact .refl s
  · refine .ite (.refl s) ?_
    split
    · exact .refl s
    · split
      · exact .refl s
      · exact .ite (.refl s) (sayReady_keeps _ _ _ (abortHere_keeps _ _ _ (tellOthers_keeps _ _ _ _ (onStep_keeps _ _ _ _ (.refl s)))))

theorem attemptRestart_runs (room : Nat) : Runs s (execAttemptRestart room s) := by
  refine .of ?_
  split
  · exact .refl s
  · refine .ite (.refl s) (.ite (giveUpStep_keeps _ _ _ _ (.refl s)) (.ite ?_ ?_))
    · split
      · exact giveUpStep_keeps _ _ _ _ (onStep_keeps _ _ _ _ (.refl s))
      · exact onStep_keeps _ _ _ _ (.refl s)
    · exact startAttempt_keeps _ _ _ _ _ (onStep_keeps _ _ _ _ (.refl s))

theorem headSilenceTimeout_runs (room : Nat) : Runs s (execHeadSilenceTimeout room s) := by
  refine .of ?_
  split
  · exact .refl s
  · exact .ite (removeStep_keeps _ _ _ (stopAttempt_keeps _ _ _ (.refl s))) (.refl s)

theorem trainProgressSend_runs (room : Nat) : Runs s (execTrainProgressSend room s) := by
  refine .of ?_
  split
  · exact .refl s
  · exact .ite (.refl s) (.ite (tellOthers_keeps _ _ _ _ (onStep_keeps _ _ _ _ (.refl s))) (sendTo_keeps _ _ _ _ _ (.refl s)))

theorem applyCopyDone_runs (room : Nat) : Runs s (execApplyCopyDone room s) := by
  refine .of ?_
  split
  · exact .refl s
  · split
    · exact .ite (.refl s) (endStep_keeps _ _ _ _ _ _ (onTrain_keeps _ _ _
        (.fold _ _ _ (fun r s b k => copyBucket_keeps r _ b s k) (.refl s))))
    · exact .refl s

theorem activateStructureBusy_runs : Runs s (execActivateStructureBusy s) := by
  refine .of ?_
  split
  · exact .ite (finish_keeps _ _ _ _ (onImg_keeps _ _ _ (.refl s))) (.refl s)
  · exact .refl s

theorem residentCommitDone_runs : Runs s (execResidentCommitDone s) := by
  refine .of ?_
  split
  · exact endCommit_keeps _ _ _ (.refl s)
  · exact .refl s

theorem abort_runs (h : Hdr) (asq acid : Nat) : Runs s (execAbort h asq acid s) :=
  .admin fun r s k => .ite (finish_keeps r _ _ s k) (onHost_keeps r _ _ (begin'_keeps r _ _ s k))

theorem asynchronousEventRequest_runs (h : Hdr) : Runs s (execAsynchronousEventRequest h s) := by
  refine .admin fun r s k => .ite (finish_keeps r _ _ s k) ?_
  split
  · exact finishDw_keeps r _ _ _ _ (onHost_keeps r _ s k)
  · exact onHost_keeps r _ _ (begin'_keeps r _ _ s k)

theorem getFeatures_runs (h : Hdr) (fid sel : Nat) : Runs s (execGetFeatures h fid sel s) := by
  refine .admin fun r s k => ?_
  split
  · exact finish_keeps r _ _ s k
  · exact .ite (finishDw_keeps r _ _ _ s k) (.ite (finish_keeps r _ _ s k) (post_keeps r _ _ _ _ _ s k))

theorem nvmeMiCommand_runs (m : MiCmd) : Runs s (execNvmeMiCommand m s) := by
  refine .except (respond_keeps _ _ _ ?_)
  split
  · exact miCore_keeps _ _ _ (.refl s)
  · split
    · exact .refl s
    · exact .refl s

theorem suspectReplay_runs (die : Nat) (hang : Bool) : Runs s (execSuspectReplay die hang s) := by
  refine .except (.ite (hangAgain_keeps _ _ _ (.refl s)) ?_)
  split
  · exact .ite (.refl s) (replayNext_keeps _ _ _ _ (onDie_keeps _ _ _ _ (countReplay_keeps _ _ (.refl s))))
  · exact replayNext_keeps _ _ _ _ (.refl s)

theorem generationDropped_runs (req : Nat) : Runs s (execGenerationDropped req s) := by
  refine .of ?_
  split
  · exact .ite (dropGeneration_keeps _ _ _ (.refl s)) (.refl s)
  · exact .refl s

theorem flashReadDone_runs (rid : Nat) (hardOk fullOk tagOk : Bool) : Runs s (execFlashReadDone rid hardOk fullOk tagOk s) := by
  refine .of ?_
  split
  · exact .ite (readDone_keeps _ _ _ _ _ _ (.refl s)) (.refl s)
  · exact .refl s

theorem softSenseReadDone_runs (rid : Nat) (ok : Bool) : Runs s (execSoftSenseReadDone rid ok s) := by
  refine .of ?_
  split
  · exact .ite (softDone_keeps _ _ _ _ (.refl s)) (.refl s)
  · exact .refl s

theorem readRecovery_runs (rid : Nat) (bad : List Nat) (rowLost : Nat) : Runs s (execReadRecovery rid bad rowLost s) := by
  refine .of ?_
  split
  · exact .ite (recoverRead_keeps _ _ _ _ _ (.refl s)) (.refl s)
  · exact .refl s

theorem phaseFault_runs : Runs s (execPhaseFault s) :=
  .guard (renewReference_keeps _ _ (onBell_keeps _ _ _ rfl (.ite (.refl s) (vendorEvent_keeps _ _ _ (.refl s)))))

theorem offNominal_runs : Runs s (execOffNominal s) :=
  .except (.ite (vendorEvent_keeps _ _ _ (onBell_keeps _ _ _ rfl (.refl s))) (.ite (onBell_keeps _ _ _ rfl (.refl s)) (.refl s)))

theorem getVersion_runs : Runs s (execGetVersion s) :=
  .except (spdmAnswer_keeps _ _ _ _ (.sec (fun c => { c with spdm := .versioned, transcript := Blob.zero 0 }) (.refl s)))

theorem getCapabilities_runs : Runs s (execGetCapabilities s) :=
  .spdm fun r _ k => spdmAnswer_keeps r _ _ _ (k.sec fun c => { c with spdm := .capable })

theorem negotiateAlgorithms_runs (asym hash : List SpdmAlg) : Runs s (execNegotiateAlgorithms asym hash s) :=
  .spdm fun r _ k => spdmAnswer_keeps r _ _ _ (.ite (k.sec fun c => { c with spdm := .negotiated }) k)

theorem getDigests_runs : Runs s (execGetDigests s) :=
  .spdm fun r s k => .ite (spdmError_keeps r _ _ s k) (spdmAnswer_keeps r _ _ s k)

theorem getCertificate_runs (slot ofst len : Nat) : Runs s (execGetCertificate slot ofst len s) :=
  .spdm fun r s k => .ite (spdmError_keeps r _ _ _ (degradeReliability_keeps r s k))
    (.ite (spdmError_keeps r _ _ s k) (spdmAnswer_keeps r _ _ s k))

theorem challenge_runs (slot : Nat) (nonce : BitVec 256) : Runs s (execChallenge slot nonce s) :=
  .spdm fun r s k => .ite (spdmError_keeps r _ _ _ (degradeReliability_keeps r s k))
    (.ite (spdmError_keeps r _ _ s k) (spdmSigned_keeps r _ _ _ (spdmNonce_keeps r s k)))

theorem getMeasurements_runs (block : Nat) (signed : Bool) (nonce : BitVec 256) : Runs s (execGetMeasurements block signed nonce s) := by
  refine .spdm fun r s k => ?_
  split
  · exact spdmError_keeps r _ _ s k
  · have kn := spdmNonce_keeps r s k
    exact .ite (spdmSigned_keeps r _ _ _ kn) (spdmAnswer_keeps r _ _ _ kn)

theorem sanitizeDone_runs : Runs s (execSanitizeDone s) := by
  refine .of ?_
  split
  · exact .refl s
  next z _ =>
    have ke : Keeps s (writeCheckpoint (if z.block then blockErase s else s)) :=
      writeCheckpoint_keeps _ _ (.ite (blockErase_keeps _ _ (.refl s)) (.refl s))
    have kf := norFlag_keeps s z.record 1 _ (ke.sec (fun c => { c with sanitize := none }))
    exact .ite (.refl s) (onHost_keeps _ _ _ (.ite (norBlock_keeps _ _ _ _ _ kf) kf))

theorem auxWarning_runs (mv : Nat) : Runs s (execAuxWarning mv s) :=
  have kp := fun f => onPower_keeps s f s (.refl s)
  .guard (.ite (vendorEvent_keeps _ _ _ (kp _)) (kp _))

theorem powerSample_runs (dw : Nat) : Runs s (execPowerSample dw s) := by
  have kp := fun f g => onPower_keeps s f _ (onPower_keeps s g s (.refl s))
  exact .except (.ite (arrayToFloor_keeps _ _ (onPower_keeps _ _ _ (kp _ _))) (kp _ _))

theorem temperatureSample_runs (sn : Sensor) (deg : Nat) (f : FlushCost) : Runs s (execTemperatureSample sn deg f s) := by
  have kp := fun f => onPower_keeps s f s (.refl s)
  refine .of ?_
  dsimp only
  split
  · exact .ite (bankReading_keeps _ _ _ (kp _)) (dieReading_keeps _ _ _ _ (kp _))
  · exact .ite (coldStart_keeps _ _ _ _ (kp _)) (kp _)
  · exact kp _

theorem controllerLevelReset_runs (cause : ClrCause) : Runs s (execControllerLevelReset cause s) := by
  have kr := fun f => onHost_keeps s f _ (controllerReset_keeps s s (.refl s))
  refine .except ?_
  cases cause with
  | ccEn => exact .ite (controllerReset_keeps _ _ (.refl s)) (.refl s)
  | flr => exact kr _
  | hotReset => exact kr _
  | linkDown => exact kr _
  | perst => exact kr _

theorem firmwareCommitDone_runs : Runs s (execFirmwareCommitDone s) := by
  refine .of ?_
  split
  · exact .refl s
  next c _ =>
    have ke : Keeps s (endFirmwareCommit c s) := endFirmwareCommit_keeps _ _ _ (.refl s)
    exact .ite (.refl s) (.ite (coldStart_keeps _ _ _ _ (wholeReset_keeps _ _ _ (controllerReset_keeps _ _ ke))) ke)

end

/-! #### The table of commands -/

/-- Every command of the table takes effect and keeps what every step keeps. -/
theorem exec_runs (c : Instr) (s : State) : Runs s (exec c s) :=
  match c with
  | .structureLoad _ _ _ _ => .admin fun r s => loadCore_keeps r _ _ _ _ s
  | .structureVerify _ => .activate fun r s => verifyCore_keeps r _ s
  | .structureVerifyActivate _ => .activate fun r s => activateStaged_keeps r _ _ s
  | .structureActivateResidentCommit _ => .activate fun r s => activateStaged_keeps r _ _ s
  | .makeActiveResident _ => .activate fun r s => residentCore_keeps r _ s
  | .activateResidentImage _ => .activate fun r s => activateResidentCore_keeps r _ s
  | .activateRomDefault _ => .activate fun r s => activateRomCore_keeps r _ s
  | .structureActivateReserved _ _ => .activate fun r s => finish_keeps r _ _ s
  | .activateStructureBusy => activateStructureBusy_runs s
  | .residentCommitDone => residentCommitDone_runs s
  | .plainJoin _ _ => .admin fun r s => joinCore_keeps r _ _ s
  | .joinWaitExpired => joinWaitExpired_runs s
  | .autoJoin => autoJoin_runs s
  | .plainLeave h => plainLeave_runs s h
  | .retireResource _ _ => .admin fun r s => retireCore_keeps r _ _ s
  | .maintenanceUnlock _ _ => .admin fun r s => unlockCore_keeps r _ _ s
  | .createIoSubmissionQueue _ _ _ _ _ => .admin fun r s => createSq_keeps r _ _ _ _ _ s
  | .createIoCompletionQueue _ _ _ _ _ => .admin fun r s => createCq_keeps r _ _ _ _ _ s
  | .deleteIoSubmissionQueue _ _ => .admin fun r s => deleteSq_keeps r _ _ s
  | .deleteIoCompletionQueue _ _ => .admin fun r s => deleteCq_keeps r _ _ s
  | .getLogPage _ _ _ _ _ => .admin fun r s => logCore_keeps r _ _ _ _ _ s
  | .identify _ _ _ => .admin fun r s => identifyCore_keeps r _ _ _ s
  | .abort h asq acid => abort_runs s h asq acid
  | .setPowerEnvelope _ _ _ => .set fun r s k => finish_keeps r _ _ _ (setEnvelope_keeps r _ s k)
  | .timetableSelect _ _ _ => .set fun r s => selectTimetable_keeps r _ _ s
  | .setMediaPolicy _ _ _ => .set fun r s k => .ite (finish_keeps r _ _ s k) (finish_keeps r _ _ _ (onHost_keeps r _ s k))
  | .setPlainMembership _ _ => .set fun r s => finish_keeps r _ _ s
  | .setQueryDefaults _ _ _ => .set fun r s k => .ite (finish_keeps r _ _ s k) (finish_keeps r _ _ _ (onHost_keeps r _ s k))
  | .setPowerManagement _ _ _ => .set fun r s k => finish_keeps r _ _ _ (setPower_keeps r _ s k)
  | .setArbitration _ _ _ _ _ _ => .set fun r s k => .ite (finish_keeps r _ _ s k) (finish_keeps r _ _ _ (onHost_keeps r _ s k))
  | .setNumberOfQueues _ _ _ _ => .set fun r s => finishDw_keeps r _ _ _ s
  | .getFeatures h fid sel => getFeatures_runs s h fid sel
  | .asynchronousEventRequest h => asynchronousEventRequest_runs s h
  | .namespaceManagement h op => namespaceManagement_runs s h op
  | .namespaceAttachment _ _ _ => .admin fun r s => attachNs_keeps r _ _ _ s
  | .firmwareImageDownload _ _ _ => .admin fun r s => downloadCore_keeps r _ _ _ s
  | .firmwareCommitReplace _ _ _ => .commit fun r s => replaceCore_keeps r _ _ s
  | .firmwareCommitNoAction _ _ => .commit fun r s => finish_keeps r _ _ s
  | .firmwareCommitRefused _ _ _ => .commit fun r s => finish_keeps r _ _ s
  | .deviceSelfTest _ _ => .admin fun r s => selfTestCore_keeps r _ _ s
  | .nvmeMiSendReceive _ _ => .admin fun r s k => post_keeps r _ _ _ _ _ _ (miCore_keeps r _ s k)
  | .formatNvm _ _ _ => .admin fun r s => formatCore_keeps r _ _ _ s
  | .sanitizeCryptoErase _ => .admin fun r s => sanitizeCore_keeps r _ _ s
  | .sanitizeBlockErase _ => .admin fun r s => sanitizeCore_keeps r _ _ s
  | .sanitizeDone => sanitizeDone_runs s
  | .nvmRead _ _ _ _ => .io fun r s => readCore_keeps r _ _ _ _ s
  | .readWithProxy h nsid slba nlb target => readWithProxy_runs s h nsid slba nlb target
  | .nvmWrite _ _ _ _ _ => .io fun r s => writeCore_keeps r _ _ _ _ _ _ s
  | .writeZeroes _ _ _ _ => .io fun r s => writeZeroesCore_keeps r _ _ _ _ s
  | .datasetManagementDeallocate _ _ _ _ => .io fun r s => deallocateCore_keeps r _ _ _ _ s
  | .flush _ _ => .io fun r s => flushCore_keeps r _ _ s
  | .memoryRead _ _ _ _ => .io fun r s => memoryReadCore_keeps r _ _ _ _ s
  | .memoryWrite _ _ _ _ => .io fun r s => memoryWriteCore_keeps r _ _ _ _ s
  | .memoryCopy _ _ _ _ _ => .io fun r s => memoryCopyCore_keeps r _ _ _ _ _ s
  | .memoryRangeSetCreate _ _ _ => .room fun r _ s => createSet_keeps r _ _ _ s
  | .memoryRangeSetDelete _ _ _ => .room fun r _ s => deleteSet_keeps r _ _ _ s
  | .loadProgram _ _ _ _ => .room fun r _ s => loadProgramCore_keeps r _ _ _ _ s
  | .programActivationManagement _ _ _ _ => .room fun r _ s => activationCore_keeps r _ _ _ _ s
  | .executeLesson _ _ _ _ => .room fun r _ s => executeCore_keeps r _ _ _ _ _ s
  | .filteredScan h room p => filteredScan_runs s h room p
  | .vectorQuery h room p => vectorQuery_runs s h room p
  | .indexInsert _ _ _ => .program fun r _ _ s => insertCore_keeps r _ _ _ s
  | .embedAndInsert h room p => embedAndInsert_runs s h room p
  | .indexDelete _ _ _ => .program fun r _ _ s => deleteCore_keeps r _ _ _ s
  | .indexTrain _ _ _ => .program fun r _ _ s => trainCore_keeps r _ _ s
  | .trainStep _ _ _ => .program fun r _ _ s => trainStepCore_keeps r _ _ _ s
  | .indexCreate _ _ _ => .program fun r _ _ s => indexProgram_keeps r _ _ s
  | .indexDrop _ _ _ => .program fun r _ _ s => indexProgram_keeps r _ _ s
  | .insertCommit wid => insertCommit_runs s wid
  | .indexSpaceFreed serial => indexSpaceFreed_runs s serial
  | .listFold _ _ => .guard (foldList_keeps _ _ _ _ (.refl s))
  | .queryFlashCutoff run => queryFlashCutoff_runs s run
  | .queryCoarseCutoff run covered => queryCoarseCutoff_runs s run covered
  | .queryRerankCutoff run ranked => queryRerankCutoff_runs s run ranked
  | .scanDeadlineEnd run => scanDeadlineEnd_runs s run
  | .valleyShareEnd _ _ => .guard (endShare_keeps _ _ _ _ (.refl s))
  | .fill _ _ _ => .guard (issueBehind_keeps _ _ _ _ _ _ (.refl s))
  | .fillDrainDone mxa => fillDrainDone_runs s mxa
  | .move _ _ _ => .guard (issueBehind_keeps _ _ _ _ _ _ (.refl s))
  | .moveDone mover => moveDone_runs s mover
  | .vuArithmetic _ _ _ _ _ _ _ _ => .vector fun r s => vuLanes_keeps r _ _ _ _ s
  | .vuFusedMultiplyAdd _ _ _ _ _ _ => .vector fun r s => vuLanes_keeps r _ _ _ _ s
  | .vuIntegerLogic _ _ _ _ _ _ => .vector fun r s => vuLanes_keeps r _ _ _ _ s
  | .vuFormatConversion _ _ _ _ _ _ _ _ _ => .guard (vuTransfer_keeps _ _ _ _ _ _ _ _ _ _ _ (claim_keeps _ _ _ _ (.refl s)))
  | .vuDivideSqrt _ _ _ _ _ _ => .vector fun r s => vuLanes_keeps r _ _ _ _ s
  | .vuTranscendental _ _ _ _ _ => .vector fun r s => vuLanes_keeps r _ _ _ _ s
  | .vuReduction run vu op ty dst first count => vuReduction_runs s run vu op ty dst first count
  | .vuTableLookup run vu dst idx wide width base => vuTableLookup_runs s run vu dst idx wide width base
  | .vuScatterAdd run vu ty val idx base lanes => vuScatterAdd_runs s run vu ty val idx base lanes
  | .semaphoreWait run e sem => semaphoreWait_runs s run e sem
  | .semaphorePost run sem => semaphorePost_runs s run sem
  | .longSemWait run e => longSemWait_runs s run e
  | .bucketReady _ _ => .guard (postBucket_keeps _ _ _ _ (.refl s))
  | .safePoint _ => .guard (chooseRun_keeps _ _ _ (.refl s))
  | .sliceEnd e => sliceEnd_runs s e
  | .starveGrant e run => starveGrant_runs s e run
  | .watchdogFire _ => .of (watchdog_keeps _ _ _ (.refl s))
  | .heartbeatMissed _ => .guard (dieReset_keeps _ _ _ _ _ (.refl s))
  | .dieReturn _ _ => .of (dieReturn_keeps _ _ _ _ (.refl s))
  | .suspectReplay die hang => suspectReplay_runs s die hang
  | .replayWindowExpired _ => .guard (moveRuns_keeps _ _ _ (.refl s))
  | .generationDropped req => generationDropped_runs s req
  | .lateReplyDrop _ _ _ => .guard (onDie_keeps _ _ _ _ (.refl s))
  | .tier3ReadFailed run => tier3ReadFailed_runs s run
  | .flashReadDone rid hardOk fullOk tagOk => flashReadDone_runs s rid hardOk fullOk tagOk
  | .softSenseReadDone rid ok => softSenseReadDone_runs s rid ok
  | .readRecovery rid bad rowLost => readRecovery_runs s rid bad rowLost
  | .groupProgramStart _ => .guard (startNextGroup_keeps _ _ _ (.refl s))
  | .groupProgramDone _ _ => .of (endGroup_keeps _ _ _ _ (.refl s))
  | .eraseDone _ _ _ => .of (endErase_keeps _ _ _ _ _ (.refl s))
  | .readRefreshDue _ _ => .guard (refreshDue_keeps _ _ _ _ (.refl s))
  | .journalGroupProgram => .guard (programJournal_keeps _ _ (.refl s))
  | .mapCheckpoint => .guard (writeCheckpoint_keeps _ _ (.refl s))
  | .bellEdge _ _ => .guard (bellEdge_keeps _ _ _ _ (.refl s))
  | .missedEdge _ => .guard (boundary_keeps _ _ _ _ _ (onBell_keeps _ _ _ rfl (.refl s)))
  | .freeRunningBoundary _ => .guard (boundary_keeps _ _ _ _ _ (onBell_keeps _ _ _ rfl (.refl s)))
  | .bellLost => .guard (loseBell_keeps _ _ (.refl s))
  | .phaseClamp _ => .guard (boundary_keeps _ _ _ _ _ (onBell_keeps _ _ _ rfl (.refl s)))
  | .phaseFault => phaseFault_runs s
  | .relockFromFollowing => .guard (renewReference_keeps _ _ (onBell_keeps _ _ _ rfl (.refl s)))
  | .offNominal => offNominal_runs s
  | .recessStarved => .guard (vendorEvent_keeps _ _ _ (onBell_keeps _ _ _ rfl (.refl s)))
  | .applyCopyDone room => applyCopyDone_runs s room
  | .recessStart => .guard (startRecess_keeps _ _ (.refl s))
  | .classStart => .guard (gcInClass_keeps _ _ (endRecess_keeps _ _ (.refl s)))
  | .bucketTimeout room bucket participant => bucketTimeout_runs s room bucket participant
  | .attemptRestart room => attemptRestart_runs s room
  | .headSilenceTimeout room => headSilenceTimeout_runs s room
  | .trainProgressSend room => trainProgressSend_runs s room
  | .portLinkLoss _ => .guard (dropLink_keeps _ _ _ (.refl s))
  | .portDetect _ => .guard (onPort_keeps _ _ _ _ (.refl s))
  | .portTrainDone _ _ => .except (.ite (onPort_keeps _ _ _ _ (.refl s)) (onPort_keeps _ _ _ _ (.refl s)))
  | .portIdentify port far echoes => portIdentify_runs s port far echoes
  | .portRetry _ => .guard (onPort_keeps _ _ _ _ (.refl s))
  | .bellFlitReceived port hd f => bellFlitReceived_runs s port hd f
  | .joinRequest port hd j => joinRequest_runs s port hd j
  | .joinAdmit port hd a => joinAdmit_runs s port hd a
  | .leaveMessage _ _ => .flit fun r s => peerLeft_keeps r _ _ s
  | .flowSetup port hd e => flowSetup_runs s port hd e
  | .nak port seq => nak_runs s port seq
  | .creditResync port hd counts => creditResync_runs s port hd counts
  | .parityAcknowledgement _ _ _ =>
    .message fun r s k => tryLeave_keeps r _ (releaseBuffers_keeps r _ (onFtl_keeps r _ _ (onPlain_keeps r _ s rfl rfl k)))
  | .trainStepMessage _ _ _ => .message fun r s => takeTrain_keeps r _ _ s
  | .timetableSelectionMessage _ _ _ _ => .message fun r s => takeSelection_keeps r _ _ _ s
  | .namespaceTableMessage _ _ _ => .message fun r s => onPeer_keeps r _ _ s
  | .plainWideQuery _ _ _ => .message fun r s => serveShard_keeps r _ _ _ s
  | .memberAnswer _ _ _ => .message fun r s => takeAnswer_keeps r _ s
  | .parityDelta _ _ _ => .message fun r s k => takeEarly_keeps r _ _ _ (takeDelta_keeps r _ _ s k)
  | .rebuildStream _ _ _ => .message fun r s => takeStreamFlit_keeps r _ s
  | .proxyReadRequest _ _ _ => .message fun r s => serveProxy_keeps r _ _ _ s
  | .proxyReadData _ _ _ => .message fun r s => endProxy_keeps r _ s
  | .mirrorUpkeep _ _ _ => .message fun r s => takeMirror_keeps r _ _ s
  | .reductionScale _ _ _ => .message fun r s => takeScale_keeps r _ _ s
  | .reductionSum _ _ _ => .message fun r s => takeSum_keeps r _ s
  | .reductionGather port hd g => reductionGather_runs s port hd g
  | .sagWarning _ =>
    .guard (arrayToFloor_keeps _ _ (vendorEvent_keeps _ _ _
      (onHost_keeps _ (fun t => { t with msix := t.msix ++ [0] }) _ (onPower_keeps _ _ _ (.refl s)))))
  | .sagClear _ => .guard (onPower_keeps _ _ _ (.refl s))
  | .powerLoss _ _ => .guard (powerLoss_keeps _ _ _ (onPower_keeps _ _ _ (.refl s)))
  | .removal _ _ => .guard (powerLoss_keeps _ _ _ (onPower_keeps _ _ _ (.refl s)))
  | .pwrdisRaised _ => .of (powerLoss_keeps _ _ _ (onPower_keeps _ _ _ (.refl s)))
  | .powerOn _ _ _ => .guard (coldStart_keeps _ _ _ _ (onHost_keeps _ (fun t => { t with perst := true }) _ (onPower_keeps _ _ _ (.refl s))))
  | .mateDetectClose => .of (onPower_keeps _ _ _ (.refl s))
  | .auxWarning mv => auxWarning_runs s mv
  | .auxReset _ => .guard (onPower_keeps _ _ _ (.refl s))
  | .auxReturn _ _ => .guard (onPower_keeps _ _ _ (.refl s))
  | .powerSample dw => powerSample_runs s dw
  | .throttleStep => .guard (thermalStep_keeps _ _ (powerStep_keeps _ _ (.refl s)))
  | .temperatureSample sn deg f => temperatureSample_runs s sn deg f
  | .holdupMeasurement _ => .guard (measureBank_keeps _ _ _ (.refl s))
  | .arrayIdleGate _ => .guard (upd_keeps ⟨rfl, rfl, rfl, rfl, rfl, rfl, rfl, rfl, rfl, rfl⟩ (.refl s))
  | .nvmSubsystemReset _ _ _ =>
    .guard (coldStart_keeps _ _ _ _ (wholeReset_keeps _ _ _ (flushContent_keeps _ _ _ (controllerReset_keeps _ _ (.refl s)))))
  | .controllerEnable => .guard (onHost_keeps _ _ _ (.refl s))
  | .controllerLevelReset cause => controllerLevelReset_runs s cause
  | .surpriseLinkDown => .guard (onHost_keeps _ _ _ (controllerReset_keeps _ _ (.refl s)))
  | .shutdownNormal => .guard (tryShutdown_keeps _ _ (onHost_keeps _ _ _ (.refl s)))
  | .shutdownAbrupt _ => .guard (onHost_keeps _ _ _ (.ite (flushAll_keeps _ _ (.refl s)) (endPrograms_keeps _ _ (.refl s))))
  | .registerWrite _ _ _ _ => .of (.ite (aperWrite_keeps _ _ _ _ _ (.refl s)) (.ite (onHost_keeps _ _ _ (.refl s)) (.refl s)))
  | .optKey1 _ => .of (aperWrite_keeps _ _ _ _ _ (.refl s))
  | .optKey2 _ => .of (aperWrite_keeps _ _ _ _ _ (.refl s))
  | .wordProgram _ _ _ => .of (aperWrite_keeps _ _ _ _ _ (aperWrite_keeps _ _ _ _ _ (.refl s)))
  | .flagProgram _ _ _ => .of (aperWrite_keeps _ _ _ _ _ (aperWrite_keeps _ _ _ _ _ (.refl s)))
  | .sectorErase _ _ _ => .of (aperWrite_keeps _ _ _ _ _ (aperWrite_keeps _ _ _ _ _ (.refl s)))
  | .optReset => .of (aperWrite_keeps _ _ _ _ _ (.refl s))
  | .optOperationDone _ => .of (optDone_keeps _ _ _ (.refl s))
  | .nvmeMiCommand m => nvmeMiCommand_runs s m
  | .getVersion => getVersion_runs s
  | .getCapabilities => getCapabilities_runs s
  | .negotiateAlgorithms asym hash => negotiateAlgorithms_runs s asym hash
  | .getDigests => getDigests_runs s
  | .getCertificate slot ofst len => getCertificate_runs s slot ofst len
  | .challenge slot nonce => challenge_runs s slot nonce
  | .getMeasurements block signed nonce => getMeasurements_runs s block signed nonce
  | .spdmUnsupportedRequest _ => .guard (spdmError_keeps _ _ _ _ (.refl s))
  | .fruRead _ _ => .guard (respond_keeps _ _ _ (.refl s))
  | .followingPlainBoundary _ => .guard (boundary_keeps _ _ _ _ _ (onBell_keeps _ _ _ rfl (.refl s)))
  | .electricalPresence _ => .guard (onPort_keeps _ _ _ _ (.refl s))
  | .perstDeasserted _ _ => .of (onHost_keeps _ _ _ (.refl s))
  | .pwrdisLowered => .of (onPower_keeps _ _ _ (.refl s))
  | .inputOvervoltage _ _ => .guard (powerLoss_keeps _ _ _ (onPower_keeps _ _ _ (.refl s)))
  | .idleFlit _ _ => .flit fun _ _ k => k
  | .norEraseDone _ => .of (norEraseEnd_keeps _ _ _ (.refl s))
  | .firmwareCommitDone => firmwareCommitDone_runs s
  | .supplyBelowResetThreshold _ => .guard (dieReset_keeps _ _ _ _ _ (.refl s))
  | .invalidCommandOpcode _ _ => .guard (finish_keeps _ _ _ _ (.refl s))
  | .sendBlock run port vc flits => sendBlock_runs s run port vc flits

/-! #### The idle block -/

theorem endHeld_keeps {s t : State} (again : List Held) (k : Keeps s t) (i : Nat) : Keeps s (tryHeld.putBack s i t again) := by
  have kh := onHost_keeps s (fun h => { h with
    held := t.host.held.take i ++ again ++ s.host.held.drop (i + 1), deletes := s.host.deletes }) t k
  exact .fold _ _ _ (fun r s d k => finishDelete_keeps r s d k) kh

/-- A command that waits and now starts. -/
theorem tryHeld_keeps {s t : State} {i : Nat} {c : Held} (h : tryHeld s i c = .ok t) : Keeps s t := by
  have kept := onHost_keeps s (fun h => { h with held := h.held.take i, deletes := [] }) s (.refl s)
  obtain ⟨u, hu, ku⟩ := exec_runs c.cmd (onHost (fun h => { h with held := h.held.take i, deletes := [] }) s)
  have kp := fun again => endHeld_keeps again (kept.trans ku) i
  unfold tryHeld at h
  dsimp only at h
  rw [show exec c.cmd { s with host := { s.host with held := s.host.held.take i, deletes := [] } } = .next u from hu] at h
  dsimp only at h
  split at h
  · split at h
    · cases h
    · cases h
      exact kp _
  · cases h
    exact kp _

theorem releaseFrom_keeps (r : State) (l : List (Nat × Held)) (s : State) (k : Keeps r s) : Keeps r (releaseFrom l s).1 := by
  induction l generalizing s with
  | nil => exact k
  | cons x l ih =>
    unfold releaseFrom
    split
    next t ht => exact k.trans (tryHeld_keeps ht)
    next w _ =>
      exact ih _ (onHost_keeps r (fun h => { h with held := modifyAt h.held x.1 fun y => { y with why := w } }) s k)

theorem idle_keeps (s : State) : Keeps s (idle s) := by
  have kr : Keeps s (if s.serving then releaseFrom s.heldOrder s else (s, false)).1 := by
    split
    · exact releaseFrom_keeps _ _ _ (.refl s)
    · exact .refl s
  unfold idle
  exact .ite (.refl s) (.ite kr (passTick_keeps _ _ (ofItself_keeps _ _ kr)))

/-! #### The step -/

/-- Settles O1: a step is by definition one of two, and every command of the table takes effect. -/
theorem stepRunsFrontCommand : Obligations.StepRunsFrontCommand :=
  ⟨fun _ _ _ hp => by rw [step, hp], fun _ hp => by rw [step, hp], fun c s =>
    have ⟨t, ht, _⟩ := exec_runs c s
    ⟨t, ht⟩⟩

theorem step_of_command {c : Instr} {rest : List Instr} {s : State} (hp : s.pending = c :: rest) :
    step s = exec c { s with pending := rest } := stepRunsFrontCommand.1 c rest s hp

theorem step_of_empty {s : State} (hp : s.pending = []) : step s = .next (idle s) := stepRunsFrontCommand.2.1 s hp

/-- Settles O3, by the two kinds of step: `exec_runs` for the command in front, `idle_keeps` for a tick. -/
theorem stepsKeepTheInvariant : Obligations.StepsKeepTheInvariant := by
  intro s t hst
  cases hp : s.pending with
  | nil =>
    rw [step_of_empty hp] at hst
    cases hst
    have k := idle_keeps s
    exact ⟨k.pending.trans hp, k.tick, k.shape, k.memory⟩
  | cons c rest =>
    obtain ⟨u, hu, k⟩ := exec_runs c { s with pending := rest }
    rw [step_of_command hp, hu] at hst
    cases hst
    exact ⟨k.pending, k.tick, k.shape, k.memory⟩

end Sys2Proof.Machine
end

/-! PROOFS, shared: what sending leaves alone, and what leaves the bell alone. -/

section
namespace Sys2Proof.Machine

/-! ### Sending changes the ports and the record of what was sent -/

/-- From one state to another only the ports and the record of what was sent, passed on or dropped have changed. -/
def Sends (s t : State) : Prop :=
  t = { s with plain := { s.plain with
    ports := t.plain.ports
    tx := t.plain.tx
    forwarded := t.plain.forwarded
    unrouted := t.plain.unrouted } }

namespace Sends
variable {s t u : State}

theorem refl (s : State) : Sends s s := rfl

theorem trans (h : Sends s t) (k : Sends t u) : Sends s u := by
  unfold Sends at h k ⊢
  rw [k, h]

theorem ite {c : Prop} [Decidable c] (ht : Sends s t) (hu : Sends s u) : Sends s (if c then t else u) := by
  split
  · exact ht
  · exact hu

theorem foldl {α : Type} {f : State → α → State} (hf : ∀ s a, Sends s (f s a)) (l : List α) (s : State) : Sends s (l.foldl f s) := by
  induction l generalizing s with
  | nil => exact refl s
  | cons a r ih => exact (hf s a).trans (ih _)

theorem host (h : Sends s t) : t.host = s.host := (congrArg State.host h :)
theorem bell (h : Sends s t) : t.bell = s.bell := (congrArg State.bell h :)
theorem img (h : Sends s t) : t.img = s.img := (congrArg State.img h :)
theorem ns (h : Sends s t) : t.ns = s.ns := (congrArg State.ns h :)
theorem ftl (h : Sends s t) : t.ftl = s.ftl := (congrArg State.ftl h :)
theorem query (h : Sends s t) : t.query = s.query := (congrArg State.query h :)
theorem own (h : Sends s t) : t.plain.own = s.plain.own := congrArg (·.plain.own) h
theorem member (h : Sends s t) : t.plain.member = s.plain.member := congrArg (·.plain.member) h
theorem reference (h : Sends s t) : t.plain.reference = s.plain.reference := congrArg (·.plain.reference) h
theorem peers (h : Sends s t) : t.plain.peers = s.plain.peers := congrArg (·.plain.peers) h
theorem join (h : Sends s t) : t.plain.join = s.plain.join := congrArg (·.plain.join) h
theorem seen (h : Sends s t) : t.plain.seen = s.plain.seen := congrArg (·.plain.seen) h
theorem proxies (h : Sends s t) : t.plain.proxies = s.plain.proxies := congrArg (·.plain.proxies) h
theorem admissions (h : Sends s t) : t.plain.admissions = s.plain.admissions := congrArg (·.plain.admissions) h
theorem plainKey (h : Sends s t) : t.plain.plainKey = s.plain.plainKey := congrArg (·.plain.plainKey) h
theorem peer (h : Sends s t) (m : Nat) : t.peer m = s.peer m := congrArg (·.peer m) h
theorem members (h : Sends s t) : t.members = s.members := (congrArg State.members h :)
theorem joinFault (h : Sends s t) (j : JoinReq) : t.joinFault j = s.joinFault j := congrArg (·.joinFault j) h

end Sends

theorem onPort_sends (p : Nat) (f : Port → Port) (s : State) : Sends s (onPort p f s) := rfl

theorem unrouted_sends (s : State) : Sends s { s with plain := { s.plain with unrouted := s.plain.unrouted + 1 } } := rfl

theorem transmit_sends (fwd : Bool) (x : Sent) (s : State) : Sends s (transmit fwd x s) := by
  unfold transmit
  exact .ite rfl rfl

theorem drainQueue_sends (port n : Nat) (s : State) : Sends s (drainQueue port n s) := by
  induction n generalizing s with
  | zero => exact .refl s
  | succ n ih =>
    unfold drainQueue
    split
    · exact .refl s
    · exact ((onPort_sends _ _ s).trans (transmit_sends _ _ _)).trans (ih _)

theorem sendFlit_sends (fwd : Bool) (x : Sent) (s : State) : Sends s (sendFlit fwd x s) := by
  unfold sendFlit
  exact .ite (transmit_sends fwd x s) (onPort_sends _ _ s)

theorem sendPort_sends (port dst flow : Nat) (b : Payload) (s : State) : Sends s (sendPort port dst flow b s) := by
  unfold sendPort
  split
  · exact .refl s
  · exact sendFlit_sends _ _ s

theorem sendTo_sends (dst flow : Nat) (b : Payload) (s : State) : Sends s (sendTo dst flow b s) := by
  unfold sendTo
  split
  · exact sendPort_sends _ _ _ _ s
  · exact unrouted_sends s

theorem flood_sends (b : Payload) (s : State) : Sends s (flood b s) := .foldl (fun s p => sendPort_sends p _ _ b s) _ s

theorem passOn_sends (inPort : Nat) (hd : FlitHdr) (b : Payload) (s : State) : Sends s (passOn inPort hd b s) := by
  unfold passOn
  split
  · exact .foldl (fun s p => sendFlit_sends _ _ s) _ s
  · split
    · exact sendFlit_sends _ _ s
    · exact unrouted_sends s

theorem takeHeader_sends (port : Nat) (hd : FlitHdr) (s : State) : Sends s (takeHeader port hd s) :=
  (onPort_sends _ _ s).trans (drainQueue_sends _ _ _)

theorem sendTable_sends (s : State) : Sends s (sendTable s) := by
  unfold sendTable
  split
  · exact .foldl (fun s m => sendTo_sends m 0 _ s) _ s
  · exact .refl s

theorem sendBell_sends (s : State) : Sends s (sendBell s) := by
  have resync : ∀ s, Sends s (s.upPorts.foldl (fun s p => sendPort p 0xFF 0 (.resync (s.port p).received) s) s) := fun s =>
    .foldl (fun s p => sendPort_sends p 0xFF 0 _ s) _ s
  unfold sendBell
  dsimp only
  split
  · exact (flood_sends _ s).trans (resync _)
  · exact resync s

end Sys2Proof.Machine
end

/-! PROOFS, shared: the operations that leave the bell alone. A boundary runs them after it has begun the bell (R80). -/

section
namespace Sys2Proof.Machine

section
variable {α β : Type}

theorem foldl_bell {f : State → α → State} {l : List α} {s : State} (hf : ∀ s a, (f s a).bell = s.bell) :
    (l.foldl f s).bell = s.bell := by
  induction l generalizing s with
  | nil => rfl
  | cons a r ih => exact ih.trans (hf s a)

/-- A fold over a pair of a value and a state. -/
theorem foldl_pair_bell {f : β × State → α → β × State} {l : List α} {p : β × State} (hf : ∀ p a, (f p a).2.bell = p.2.bell) :
    (l.foldl f p).2.bell = p.2.bell := by
  induction l generalizing p with
  | nil => rfl
  | cons a r ih => exact ih.trans (hf p a)

theorem ite_bell {s t u : State} {c : Prop} [Decidable c] (ht : t.bell = s.bell) (hu : u.bell = s.bell) :
    (if c then t else u).bell = s.bell := by
  split
  · exact ht
  · exact hu

theorem ite_pair_bell {s : State} {p q : β × State} {c : Prop} [Decidable c] (hp : p.2.bell = s.bell) (hq : q.2.bell = s.bell) :
    (if c then p else q).2.bell = s.bell := by
  split
  · exact hp
  · exact hq

end

section
variable (s : State)

theorem sendTo_bell (dst flow : Nat) (b : Payload) : (sendTo dst flow b s).bell = s.bell := (sendTo_sends dst flow b s).bell
theorem plainEvent_bell : (plainEvent s).bell = s.bell := vendorEvent_bell _ s
theorem finishUnrecovered_bell (h : Hdr) (d : Blob) (nsid lba : Nat) : (finishUnrecovered h d nsid lba s).bell = s.bell := post_bell ..
theorem memWrite_bell (nsid ofst : Nat) (d : Blob) : (memWrite nsid ofst d s).bell = s.bell := by
  unfold memWrite setRam
  exact ite_bell rfl rfl

/-! ### Flash -/

theorem onSb_bell (sb : Nat) (f : Sb → Sb) : (onSb sb f s).bell = s.bell := by
  unfold onSb
  split
  · rfl
  · rfl

theorem openStream_bell (st : Stream) {s t : State} (h : openStream st s = some t) : t.bell = s.bell := by
  simp only [openStream, Option.ite_none_left_eq_some] at h
  obtain ⟨-, h⟩ := h
  split at h
  · cases h
  · cases h
    refine foldl_bell fun s ch => ?_
    exact ite_bell rfl rfl

theorem recordRange_bell (cause : Nat) (x : Nat × Nat × Nat) : (recordRange cause x s).bell = s.bell := vendorEvent_bell _ _

theorem recordLosses_bell (cause : Nat) (l : List Nat) : (recordLosses cause l s).bell = s.bell :=
  foldl_bell (fun s x => recordRange_bell s cause x)

theorem markStale_bell (lsn member : Nat) : (markStale lsn member s).bell = s.bell := by
  unfold markStale
  split
  · exact ite_bell rfl rfl
  · rfl

theorem sendDeltas_bell (recess : Bool) (lsn wc : Nat) (c : Blob) : (sendDeltas recess lsn wc c s).2.bell = s.bell := by
  refine foldl_pair_bell fun p a => ?_
  dsimp only
  split
  · exact markStale_bell ..
  · exact ite_bell rfl (sendTo_bell ..)

theorem dropPoisoned_bell (us : List BufUnit) : (dropPoisoned us s).2.bell = s.bell := by
  refine foldl_pair_bell fun p a => ?_
  dsimp only
  split
  · rfl
  · split
    · rfl
    · rfl

theorem startGroup_bell (sb g : Nat) (st : Stream) : (startGroup sb g st s).bell = s.bell := by
  refine (foldl_bell fun s u => ?_).trans ((recordLosses_bell _ ..).trans (dropPoisoned_bell s _))
  exact sendDeltas_bell s ..

theorem startAll_bell (sb n : Nat) : (startAll sb n s).bell = s.bell := by
  induction n generalizing s with
  | zero => rfl
  | succ n ih =>
    unfold startAll
    split
    · rfl
    · exact ite_bell ((ih _).trans (startGroup_bell ..)) rfl

theorem closeSb_bell (o : OpenSb) : (closeSb o s).bell = s.bell := (onSb_bell _ ..).trans (startAll_bell s ..)

end

theorem allocHost_bell {n p : Nat} {s t : State} (h : allocHost n s = some (p, t)) : t.bell = s.bell := by
  induction n generalizing s with
  | zero => cases h
  | succ n ih =>
    unfold allocHost at h
    split at h
    · split at h
      next ho => exact (ih h).trans (openStream_bell _ ho)
      · cases h
    · split at h
      · cases h
        rfl
      · exact (ih h).trans (closeSb_bell ..)

theorem allocOn_bell {st : Stream} {ch n p : Nat} {s t : State} (h : allocOn st ch n s = some (p, t)) : t.bell = s.bell := by
  induction n generalizing s with
  | zero => cases h
  | succ n ih =>
    unfold allocOn at h
    dsimp only at h
    split at h
    · cases h
      rfl
    · split at h
      · split at h
        next ho => exact (ih h).trans (openStream_bell _ ho)
        · cases h
      · split at h
        · exact (ih h).trans (closeSb_bell ..)
        · cases h

theorem allocSlot_bell {st : Stream} {ch p : Nat} {s t : State} (h : allocSlot st ch s = some (p, t)) : t.bell = s.bell := by
  unfold allocSlot at h
  split at h
  · exact allocHost_bell h
  · exact allocOn_bell h

theorem placeUnit_bell {st : Stream} {ch lsn kind wc p : Nat} {d : Blob} {poison : List Nat} {source : Option Nat} {s t : State}
    (h : placeUnit st ch lsn kind wc d poison source s = some (p, t)) : t.bell = s.bell := by
  unfold placeUnit at h
  split at h
  · cases h
  next ha =>
    cases h
    exact (allocSlot_bell ha :)

theorem writeUnit_bell {st : Stream} {ch lsn kind p : Nat} {d : Blob} {poison : List Nat} {s t : State}
    (h : writeUnit st ch lsn kind d poison s = some (p, t)) : t.bell = s.bell := by
  unfold writeUnit at h
  dsimp only [bumpCount] at h
  split at h
  · cases h
  next hp =>
    cases h
    exact (placeUnit_bell hp :)

section
variable (s : State)

theorem issueRead_bell (job lsn p : Nat) : (issueRead job lsn p s).bell = s.bell := by
  unfold issueRead
  extract_lets sb ch waited counted stage
  split
  · rfl
  · have hwaited : waited.bell = s.bell := by
      unfold waited
      split
      · exact ite_bell rfl rfl
      · rfl
    have hcounted : counted.bell = waited.bell := by
      unfold counted
      split
      · exact ite_bell rfl rfl
      · rfl
    exact hcounted.trans hwaited

theorem askUnit_bell (job lsn : Nat) : (askUnit job lsn s).bell = s.bell := by
  unfold askUnit
  split
  · rfl
  · rfl
  · split
    · rfl
    · split
      · exact issueRead_bell s ..
      · rfl

theorem openJob_bell (k : JobKind) (l : List Nat) : (openJob k l s).2.bell = s.bell :=
  foldl_bell (fun s x => askUnit_bell s _ x)

theorem openSlotJob_bell (k : JobKind) (lsn p : Nat) : (openSlotJob k lsn p s).2.bell = s.bell := by
  unfold openSlotJob
  dsimp only
  split
  · rfl
  · exact issueRead_bell ..

theorem finishCopy_bell (p : Nat) (st : Stream) (j : Job) : (finishCopy p st j s).bell = s.bell := by
  unfold finishCopy
  dsimp only
  split
  · refine ite_bell rfl (ite_bell rfl ?_)
    split
    next hp => exact (placeUnit_bell hp :)
    · rfl
  · rfl

theorem startCopies_bell (l : List (Nat × Nat)) : (startCopies l s).bell = s.bell := by
  refine foldl_bell fun s x => ite_bell rfl ?_
  have hopen := openSlotJob_bell s (.copy x.2 (s.copyStream x.2)) x.1 x.2
  dsimp only
  split
  · exact ite_bell ((finishCopy_bell ..).trans hopen) hopen
  · exact hopen

theorem startErases_bell : (startErases s).bell = s.bell := by
  exact foldl_bell fun s x => foldl_bell fun s ch => rfl

/-! ### Lessons, memory and indexes -/

theorem dropRun_bell (r : Run) : (dropRun r s).bell = s.bell := by
  unfold dropRun
  extract_lets +onlyGivenNames released
  have hreleased : released.bell = s.bell := foldl_bell fun s e => ite_bell rfl rfl
  exact hreleased

theorem unloadLesson_bell (l : Lesson) : (unloadLesson l s).bell = s.bell := rfl

theorem unmapSlot_bell (lsn : Nat) : (unmapSlot lsn s).bell = s.bell := by
  unfold unmapSlot
  split
  · rfl
  · exact sendDeltas_bell _ ..

theorem releaseSlots_bell (l : List Nat) : (releaseSlots l s).bell = s.bell := foldl_bell (fun s x => unmapSlot_bell s x)

theorem staleCentroids_bell (num : Nat) : (staleCentroids num s).bell = s.bell := rfl

theorem publishOne_bell (p : Publish) : (publishOne p s).bell = s.bell := by
  unfold publishOne
  dsimp only
  split
  · split
    · rfl
    · rfl
  · split
    · exact releaseSlots_bell _ _
    · rfl
  · split
    · exact releaseSlots_bell _ _
    · rfl
  · split
    · exact releaseSlots_bell _ _
    · rfl
  · rfl

theorem publishDue_bell (n : Nat) : (publishDue n s).bell = s.bell := by
  induction n generalizing s with
  | zero => rfl
  | succ n ih =>
    unfold publishDue
    split
    · exact (ih _).trans (publishOne_bell s _)
    · rfl

theorem sendMirror_bell (ix : Index) (m : MirrorMsg) : (sendMirror ix m s).bell = s.bell := by
  unfold sendMirror
  exact ite_bell rfl (ite_bell (sendTo_bell ..) rfl)

end

theorem writeIndexUnits_bell {l : List ((Nat × Blob) × Nat)} {s t : State} (h : writeIndexUnits l s = some t) : t.bell = s.bell := by
  induction l generalizing s with
  | nil =>
    cases h
    rfl
  | cons x r ih =>
    unfold writeIndexUnits at h
    split at h
    next hw => exact (ih h).trans (writeUnit_bell hw)
    · cases h

section
variable (s : State)

/-! ### Scans and queries -/

theorem settleScan_bell (id : Nat) : (settleScan id s).bell = s.bell := by
  unfold settleScan
  split
  · rfl
  · exact ite_bell rfl ((finish_bell ..).trans (memWrite_bell ..))

theorem dropQRun_bell (id : Nat) : (dropQRun id s).bell = s.bell := by
  unfold dropQRun
  split
  · rfl
  · exact ite_bell rfl (ite_bell rfl (releaseSlots_bell _ _))

theorem writeResult_bell (r : QRun) (nsid first i : Nat) (tag : BitVec 64) (late un : Bool) (a m : Nat) (cs : List Cand) (c : QCounters) :
    (writeResult r nsid first i tag late un a m cs c s).bell = s.bell := memWrite_bell ..

theorem finishQuery_bell (r : QRun) : (finishQuery r s).bell = s.bell := by
  unfold finishQuery
  split
  · refine (dropQRun_bell _ _).trans ((finish_bell ..).trans ?_)
    exact foldl_bell (fun s i => writeResult_bell s ..)
  · refine (dropQRun_bell _ _).trans ?_
    split
    · exact sendTo_bell ..
    · rfl

theorem settleQuery_bell (id : Nat) : (settleQuery id s).bell = s.bell := by
  unfold settleQuery
  split
  · rfl
  · exact ite_bell (finishQuery_bell s _) rfl

theorem endShard_bell (id : Nat) : (endShard id s).bell = s.bell := by
  unfold endShard
  split
  · rfl
  · exact ite_bell rfl (settleQuery_bell ..)

theorem absorbScan_bell (id u : Nat) (j : Job) : (absorbScan id u j s).bell = s.bell := by
  unfold absorbScan
  dsimp only
  split
  · rfl
  · rfl

theorem issueScan_bell (id v n : Nat) : (issueScan id v n s).bell = s.bell := by
  induction n generalizing s with
  | zero => rfl
  | succ n ih =>
    have more : ∀ {t : State}, t.bell = s.bell → (if t.channelFree v then issueScan id v n t else t).bell = s.bell :=
      fun h => ite_bell ((ih _).trans h) h
    unfold issueScan
    split
    · rfl
    · refine ite_bell rfl ?_
      split
      · rfl
      · split
        · rfl
        next u _ =>
          extract_lets lsn taken
          split
          · exact ih _
          · have hopen := openJob_bell (onScan id (fun r => { r with busy := r.busy ++ [u] }) taken) (.scan id v u) [lsn]
            refine more ?_
            split
            · exact ite_bell ((absorbScan_bell ..).trans hopen) hopen
            · exact hopen

theorem absorbPiece_bell (id v l j : Nat) (job : Job) : (absorbPiece id v l j job s).bell = s.bell := by
  unfold absorbPiece
  dsimp only
  split
  · rfl
  · rfl

theorem issuePieces_bell (id v n : Nat) : (issuePieces id v n s).bell = s.bell := by
  induction n generalizing s with
  | zero => rfl
  | succ n ih =>
    have more : ∀ {t : State}, t.bell = s.bell → (if t.channelFree v then issuePieces id v n t else t).bell = s.bell :=
      fun h => ite_bell ((ih _).trans h) h
    unfold issuePieces
    split
    · rfl
    · split
      · rfl
      next p _ =>
        have hopen := openJob_bell (onPieces id v (changeFirst (· == p) fun p => { p with stage := 1 }) s) (.piece id v p.list p.piece) [p.lsn]
        refine more ?_
        split
        · exact ite_bell ((absorbPiece_bell ..).trans hopen) hopen
        · exact hopen

theorem takeStream_bell (v : Nat) (c : Nat × Nat × Bool) : (takeStream v c s).bell = s.bell := by
  unfold takeStream
  exact ite_bell rfl rfl

theorem pumpValley_bell (v : Nat) : (pumpValley s v).bell = s.bell := by
  refine foldl_pair_bell fun p c => ?_
  have htake := takeStream_bell p.2 v c
  dsimp only
  split
  · rfl
  · split
    · exact htake
    · split
      · exact (issueScan_bell ..).trans htake
      · exact (issuePieces_bell ..).trans htake

theorem settleHeads_bell : (settleHeads s).bell = s.bell := foldl_bell (fun s r => settleQuery_bell s r.id)

theorem pump_bell : (pump s).bell = s.bell := by
  have hvalleys : ((List.range 32).foldl pumpValley s).bell = s.bell := foldl_bell pumpValley_bell
  have hscans : ∀ t (l : List Nat), (l.foldl (fun s id => settleScan id s) t).bell = t.bell := fun t l =>
    foldl_bell fun s id => settleScan_bell s id
  unfold pump
  generalize (List.range 32).foldl pumpValley s = t at hvalleys ⊢
  exact ite_bell rfl ((settleHeads_bell _).trans ((hscans (endStreams t) _).trans hvalleys))

theorem launch_bell (id : Nat) : (launch id s).bell = s.bell := by
  unfold launch
  split
  · rfl
  · exact (pump_bell _).trans ((settleHeads_bell _).trans (endShard_bell _ id))

theorem serveShard_bell (port src : Nat) (q : PlainQuery) : (serveShard port src q s).bell = s.bell := by
  unfold serveShard
  extract_lets +onlyGivenNames mirrored ix none' deny
  have hdeny : (deny s).bell = s.bell := by
    exact ite_bell rfl (sendTo_bell ..)
  clear_value ix
  split
  · exact hdeny
  · exact ite_bell hdeny (launch_bell _ _)

theorem askShard_bell (r : QRun) (owner : Nat) : (askShard r owner s).bell = s.bell := by
  unfold askShard
  extract_lets b ask
  have hask : ∀ m, (ask m s).bell = s.bell := fun m => sendTo_bell ..
  exact ite_bell (hask _) (ite_bell rfl (ite_bell (serveShard_bell ..) (ite_bell (hask _) rfl)))

theorem queryLost_bell (m : Nat) : (queryLost m s).bell = s.bell := by
  refine (settleHeads_bell _).trans (foldl_bell fun s r => ?_)
  exact ite_bell (askShard_bell ..) rfl

/-! ### The plain -/

theorem setPeer_bell (m : Nat) (st : PeerState) : (setPeer m st s).bell = s.bell := by
  unfold setPeer
  exact ite_bell rfl (plainEvent_bell _)

theorem settleIsolation_bell : (settleIsolation s).bell = s.bell := by
  unfold settleIsolation
  exact ite_bell (ite_bell (plainEvent_bell _) rfl) (ite_bell (plainEvent_bell _) rfl)

theorem sendNext_bell (r : RebuildFlit) (l : List (Nat × Byte)) : (sendNext r l s).2.bell = s.bell := by
  unfold sendNext
  split
  · rfl
  · dsimp only
    split
    · exact sendTo_bell ..
    · split
      · rfl
      · exact sendTo_bell ..

theorem gatherProxy_bell (units : List UnitData) (keyAt : Nat → Nat) (l : List Nat) : (gatherProxy units keyAt l s).2.2.bell = s.bell := by
  induction l generalizing s with
  | nil => rfl
  | cons a r ih =>
    exact (ih _).trans (ite_pair_bell rfl rfl)

theorem finishProxy_bell (x : Proxy) : (finishProxy x s).bell = s.bell := by
  unfold finishProxy
  extract_lets +onlyGivenNames t
  split
  · exact finish_bell ..
  next e _ =>
    split
    next d bad u hg =>
    have hu : u.bell = s.bell := (congrArg (·.2.2.bell) hg).symm.trans (gatherProxy_bell t ..)
    split
    next d' v hd =>
    have hv : v.bell = s.bell := (congrArg (·.2.bell) hd).symm.trans (ite_pair_bell hu hu)
    dsimp only
    split
    · exact (finishData_bell ..).trans hv
    · exact (finishUnrecovered_bell ..).trans hv

theorem settleProxies_bell : (settleProxies s).bell = s.bell := foldl_bell fun s x => finishProxy_bell s x

theorem giveProxies_bell (u : UnitData) : (giveProxies u s).bell = s.bell := settleProxies_bell _

theorem storeRebuilt_bell (key : Nat) (u : UnitData) : (storeRebuilt key u s).bell = s.bell := by
  unfold storeRebuilt
  split
  · rfl
  · dsimp only
    split
    · rfl
    · split
      · split
        next hw => exact (writeUnit_bell hw :)
        · rfl
      · split
        · rfl
        · split
          next hw => exact (writeUnit_bell hw :)
          · rfl

theorem deliverRebuilt_bell (r : RebuildFlit) : (deliverRebuilt r s).2.bell = s.bell := by
  unfold deliverRebuilt
  dsimp only
  split
  · rfl
  · exact ite_pair_bell (giveProxies_bell ..) (storeRebuilt_bell ..)

theorem startStream_bell (key : Nat) : (startStream key s).2.bell = s.bell := by
  unfold startStream
  split
  · extract_lets +onlyGivenNames n mine r r'
    split
    next done t ht =>
    have hsent : t.bell = s.bell := (congrArg (·.2.bell) ht).symm.trans (sendNext_bell s ..)
    split
    · exact (deliverRebuilt_bell ..).trans hsent
    · exact hsent
  · exact giveProxies_bell ..

theorem rebuildFor_bell (x : Proxy) (e : NsTableEntry) : (rebuildFor x e s).bell = s.bell := foldl_bell fun s k => startStream_bell s k

theorem memberGone_bell (m : Nat) : (memberGone m s).bell = s.bell := by
  refine (foldl_bell fun s x => ?_).trans (queryLost_bell s m)
  split
  · exact rebuildFor_bell ..
  · exact finish_bell ..

theorem admitJoiners_bell : (admitJoiners s).bell = s.bell := by
  refine foldl_bell fun s a => ?_
  exact (sendTo_bell ..).trans (setPeer_bell ..)

theorem sendBell_bell : (sendBell s).bell = s.bell := (sendBell_sends s).bell

theorem rollCall_bell : (rollCall s).bell = s.bell := by
  have hgone : ∀ (s : State) m, (if 2 ≤ (s.peer m).silent then memberGone m (setPeer m .absent s)
      else onPeer m (fun p => { p with silent := p.silent + 1 }) s).bell = s.bell := fun s m =>
    ite_bell ((memberGone_bell ..).trans (setPeer_bell ..)) rfl
  refine foldl_bell fun s m => ?_
  dsimp only
  rw [onPeer_bell]
  refine ite_bell ?_ ?_
  · split
    · exact setPeer_bell ..
    · exact setPeer_bell ..
    · exact ite_bell rfl (setPeer_bell ..)
    · rfl
  · split
    · exact setPeer_bell ..
    · exact setPeer_bell ..
    · exact hgone s m
    · rfl

theorem adoptPresent_bell : (adoptPresent s).bell = s.bell := by
  unfold adoptPresent
  split
  · rfl
  · refine foldl_bell fun s m => ?_
    dsimp only
    refine ite_bell (ite_bell rfl ((sendTo_bell ..).trans (setPeer_bell ..))) ?_
    split
    · exact setPeer_bell ..
    · exact setPeer_bell ..
    · exact ite_bell ((memberGone_bell ..).trans (setPeer_bell ..)) rfl
    · rfl

theorem plainBoundary_bell : (plainBoundary s).bell = s.bell :=
  ite_bell rfl ((settleIsolation_bell _).trans (ite_bell ((admitJoiners_bell _).trans (rollCall_bell s)) (adoptPresent_bell s)))

/-! ### Train Steps -/

theorem stopAttempt_bell (t : TStep) : (stopAttempt t s).bell = s.bell := by
  unfold stopAttempt
  dsimp only
  rw [onStep, onTrain_bell]
  split
  · split
    · exact dropRun_bell ..
    · rfl
  · rfl

theorem endStep_bell (t : TStep) (st : Status) (outcome bell : Nat) : (endStep t st outcome bell s).bell = s.bell := by
  unfold endStep
  extract_lets +onlyGivenNames loss stopped
  have hstopped : stopped.bell = s.bell := stopAttempt_bell s t
  clear_value stopped
  refine ite_bell hstopped ?_
  split
  · exact (finish_bell ..).trans ((memWrite_bell ..).trans hstopped)
  · exact (memWrite_bell ..).trans hstopped

theorem applyPart_bell (b : Bucket) : (applyPart b s).bell = s.bell := by
  unfold applyPart
  split
  · rfl
  · split
    · rfl
    · refine (sendMirror_bell ..).trans ?_
      split
      next hw => exact (writeIndexUnits_bell hw :)
      · rfl

theorem applyStep_bell (t : TStep) : (applyStep t s).bell = s.bell := by
  unfold applyStep
  split
  · exact ite_bell rfl (ite_bell (endStep_bell ..) (ite_bell (endStep_bell ..) (foldl_bell fun s b => applyPart_bell s b)))
  · rfl

theorem trainBoundary_bell : (trainBoundary s).bell = s.bell := foldl_bell fun s t => applyStep_bell s t

end
end Sys2Proof.Machine
end

/-! PROOFS of the family 03_bell_and_timetable: the tick that a boundary sets. -/

section
namespace Sys2Proof.Machine

/-! ### The tick after a boundary -/

/-- Both states stand at one tick of their bell, and have held its last tick as long (R63, R66). -/
def SameTick (s t : State) : Prop := t.bell.tick = s.bell.tick ∧ t.bell.held = s.bell.held

namespace SameTick
variable {s t u : State}

theorem of_bell (h : t.bell = s.bell) : SameTick s t := ⟨congrArg (·.tick) h, congrArg (·.held) h⟩

theorem trans (h : SameTick s t) (k : SameTick t u) : SameTick s u := ⟨k.1.trans h.1, k.2.trans h.2⟩

theorem ite {c : Prop} [Decidable c] (ht : SameTick s t) (hu : SameTick s u) : SameTick s (if c then t else u) := by
  split
  · exact ht
  · exact hu

end SameTick

section
variable (s : State)

theorem stampBell_sameTick (b : Boundary) : SameTick s (stampBell b s) :=
  .trans (t := onBell _ s) ⟨rfl, rfl⟩ (.of_bell (sendBell_bell _))

theorem changeRooms_bell (changed : List Nat) (i : Image) : (changeRooms changed i s).bell = s.bell :=
  foldl_bell fun s l => unloadLesson_bell s l

theorem commitActivation_bell (a : Activation) : (commitActivation a s).bell = s.bell := ite_bell rfl rfl

theorem takeEffect_sameTick (a : Activation) : SameTick s (takeEffect a s) := by
  have hput : SameTick s (putImage a.image a.stream a.source (changeRooms a.changed a.image s)) :=
    .trans (.of_bell (changeRooms_bell s a.changed a.image)) ⟨rfl, rfl⟩
  unfold takeEffect
  extract_lets +onlyGivenNames sel old put ended
  have hended : ended.bell = put.bell := by
    unfold ended sel
    split
    · split
      · exact finish_bell ..
      · rfl
    · rfl
  change SameTick s put at hput
  clear_value ended put
  dsimp only
  have hraised := fun x (h : HostSt) => (raiseEvent_bell x { ended with host := h }).trans hended
  split
  · exact hput.trans (.of_bell ((commitActivation_bell ..).trans (hraised _ _)))
  · exact hput.trans (.of_bell ((finish_bell ..).trans (hraised _ _)))

theorem activationBoundary_sameTick : SameTick s (activationBoundary s) := by
  unfold activationBoundary
  split
  · exact ⟨rfl, rfl⟩
  · exact .ite ⟨rfl, rfl⟩ (.ite ⟨rfl, rfl⟩ (takeEffect_sameTick s _))

theorem selectionBoundary_sameTick : SameTick s (selectionBoundary s) := by
  unfold selectionBoundary
  split
  · exact ⟨rfl, rfl⟩
  · extract_lets ended
    have hended : SameTick s ended := by
      unfold ended
      split
      · exact .trans (t := onBell _ s) ⟨rfl, rfl⟩ (.of_bell (finish_bell ..))
      · exact ⟨rfl, rfl⟩
    exact hended.trans (.ite ⟨rfl, rfl⟩ ⟨rfl, rfl⟩)

theorem checkFollowing_sameTick : SameTick s (checkFollowing s) := .ite ⟨rfl, rfl⟩ ⟨rfl, rfl⟩

theorem gcInClass_sameTick : SameTick s (gcInClass s) := by
  unfold gcInClass
  split
  · split
    · exact .trans (t := if s.bell.classGc then s else onBell (fun b => { b with
          classGc := true, classGcBells := bump32 b.classGcBells }) s)
        (.ite ⟨rfl, rfl⟩ ⟨rfl, rfl⟩) (.of_bell ((startErases_bell _).trans (startCopies_bell ..)))
    · exact ⟨rfl, rfl⟩
  · exact ⟨rfl, rfl⟩

theorem carryRecess_sameTick : SameTick s (carryRecess s) :=
  .ite (.ite ⟨rfl, rfl⟩ (.trans (t := endRecess s) ⟨rfl, rfl⟩ (gcInClass_sameTick _))) ⟨rfl, rfl⟩

theorem turnBell_tick : (turnBell s).bell.tick = 0 ∧ (turnBell s).bell.held = 0 := ⟨rfl, rfl⟩

theorem applyFeatures_bell : (applyFeatures s).bell = s.bell := rfl

theorem countWaits_bell : (countWaits s).bell = s.bell := rfl

theorem recordBell_sameTick (b : Boundary) (ticks source : Nat) : SameTick s (recordBell b ticks source s) := ⟨rfl, rfl⟩

/-- Everything that a boundary does after step 1 of R80 leaves the tick at which it has set the bell. -/
theorem boundary_sameTick (source ticks : Nat) (b : Boundary) : SameTick (turnBell s) (boundary source ticks b s) := by
  unfold boundary
  extract_lets stamped selected recorded published
  have hselected : SameTick stamped selected :=
    ((activationBoundary_sameTick stamped).trans (.of_bell (applyFeatures_bell _))).trans (selectionBoundary_sameTick _)
  have hrecorded : SameTick selected recorded := (recordBell_sameTick selected b ticks source).trans (.of_bell (countWaits_bell _))
  have hpublished : SameTick recorded published := .of_bell ((trainBoundary_bell _).trans (publishDue_bell recorded _))
  clear_value recorded published
  have hlast : SameTick published (pump (carryRecess (checkFollowing (plainBoundary published)))) :=
    (((SameTick.of_bell (plainBoundary_bell published)).trans (checkFollowing_sameTick _)).trans (carryRecess_sameTick _)).trans
      (.of_bell (pump_bell _))
  exact ((((stampBell_sameTick (turnBell s) b).trans hselected).trans hrecorded).trans hpublished).trans hlast

/-- R65, R66: a boundary begins the bell at tick 0 and takes no command. -/
theorem boundary_begins_bell (source ticks : Nat) (b : Boundary) :
    (boundary source ticks b s).bell.tick = 0 ∧ (boundary source ticks b s).bell.held = 0 ∧
      (boundary source ticks b s).pending = s.pending := by
  obtain ⟨htick, hheld⟩ := boundary_sameTick s source ticks b
  exact ⟨htick, hheld, (boundary_keeps s source ticks b s (.refl s)).pending⟩

end
end Sys2Proof.Machine
end

/-! PROOFS of the family 03_bell_and_timetable: what ends a bell (O45, O46). -/

section
namespace Sys2Proof.Machine

/-! ### Boundaries with no work but the bell's own -/

/-- What `boundaryQuiet` says, part by part. -/
theorem boundaryQuiet_iff (s : State) : s.boundaryQuiet = true ↔
    s.plain.own = .standalone ∧ s.plain.join = none ∧ s.plain.reference = 0xFF ∧ s.upPorts = [] ∧ s.img.activation = none ∧
      s.bell.selected = none ∧ s.idx.queue = [] ∧ s.train.steps = [] ∧ s.query.scans = [] ∧ s.query.runs = [] ∧
      s.bell.inRecess = false := by
  simp [State.boundaryQuiet, and_assoc]

section
variable {s t : State}

/-- Quiet goes from a state to one that has kept all that it speaks of. -/
theorem boundaryQuiet_of_eq (h : s.boundaryQuiet = true) (hplain : t.plain = s.plain) (himg : t.img = s.img) (hidx : t.idx = s.idx)
    (htrain : t.train = s.train) (hquery : t.query = s.query) (hsel : t.bell.selected = s.bell.selected)
    (hrec : t.bell.inRecess = s.bell.inRecess) : t.boundaryQuiet = true := by
  simpa only [State.boundaryQuiet, State.upPorts, State.port, hplain, himg, hidx, htrain, hquery, hsel, hrec] using h

theorem isMember_of_quiet (h : s.boundaryQuiet = true) : s.isMember = false := by
  obtain ⟨hown, -⟩ := (boundaryQuiet_iff s).1 h
  simp [State.isMember, hown]

theorem nextCount_of_quiet (h : s.boundaryQuiet = true) : nextCount s = (s.bell.count + 1, s) := by
  obtain ⟨-, hjoin, -⟩ := (boundaryQuiet_iff s).1 h
  simp [nextCount, hjoin, isMember_of_quiet h]

theorem sendBell_of_quiet (h : s.boundaryQuiet = true) : sendBell s = s := by
  obtain ⟨hown, -, -, hports, -⟩ := (boundaryQuiet_iff s).1 h
  simp [sendBell, isMember_of_quiet h, hown, hports]

theorem activationBoundary_of_quiet (h : s.boundaryQuiet = true) : activationBoundary s = s := by
  obtain ⟨-, -, -, -, hact, -⟩ := (boundaryQuiet_iff s).1 h
  simp [activationBoundary, hact]

theorem selectionBoundary_of_quiet (h : s.boundaryQuiet = true) : selectionBoundary s = s := by
  obtain ⟨-, -, -, -, -, hsel, -⟩ := (boundaryQuiet_iff s).1 h
  simp [selectionBoundary, hsel]

theorem publishDue_of_quiet (h : s.boundaryQuiet = true) : publishDue (s.idx.queue.length + 1) s = s := by
  obtain ⟨-, -, -, -, -, -, hqueue, -⟩ := (boundaryQuiet_iff s).1 h
  simp [publishDue, hqueue]

theorem trainBoundary_of_quiet (h : s.boundaryQuiet = true) : trainBoundary s = s := by
  obtain ⟨-, -, -, -, -, -, -, hsteps, -⟩ := (boundaryQuiet_iff s).1 h
  simp [trainBoundary, hsteps]

theorem plainBoundary_of_quiet (h : s.boundaryQuiet = true) : plainBoundary s = s := by
  obtain ⟨hown, -⟩ := (boundaryQuiet_iff s).1 h
  simp [plainBoundary, isMember_of_quiet h, hown]

theorem carryRecess_of_quiet (h : s.boundaryQuiet = true) : carryRecess s = s := by
  obtain ⟨-, -, -, -, -, -, -, -, -, -, hrecess⟩ := (boundaryQuiet_iff s).1 h
  simp [carryRecess, hrecess]

theorem pump_of_quiet (h : s.boundaryQuiet = true) : pump s = s := by
  obtain ⟨-, -, -, -, -, -, -, -, hscans, hruns, -⟩ := (boundaryQuiet_iff s).1 h
  simp [pump, hscans, hruns]

theorem turnBell_quiet (h : s.boundaryQuiet = true) : (turnBell s).boundaryQuiet = true := by
  unfold turnBell
  rw [nextCount_of_quiet h]
  exact boundaryQuiet_of_eq h rfl rfl rfl rfl rfl rfl rfl

theorem checkFollowing_quiet (h : s.boundaryQuiet = true) : (checkFollowing s).boundaryQuiet = true := by
  unfold checkFollowing
  split
  · exact boundaryQuiet_of_eq h rfl rfl rfl rfl rfl rfl rfl
  · exact h

/-- The count that a quiet boundary takes, and what its first step leaves alone (R65, R78). -/
theorem turnBell_of_quiet (h : s.boundaryQuiet = true) : turnBell s = { s with
    ftl := (turnBell s).ftl
    eng := (turnBell s).eng
    bell := { s.bell with
      count := s.bell.count + 1
      tick := 0
      held := 0
      earlyEdge := false
      offRun := (turnBell s).bell.offRun
      inRun := (turnBell s).bell.inRun
      noRecess := if s.bell.hadRecess then 0 else s.bell.noRecess + 1
      hadRecess := false
      classGc := false } } := by
  simp only [turnBell, nextCount_of_quiet h]
  rfl

theorem turnBell_ftl_of_quiet (h : s.boundaryQuiet = true) :
    (turnBell s).ftl.map = s.ftl.map ∧ (turnBell s).ftl.ckptAge = s.ftl.ckptAge + 1 := by
  simp only [turnBell, nextCount_of_quiet h]
  exact ⟨rfl, rfl⟩

/-- The first two steps of a quiet boundary: the bell turns, and takes its stamp. -/
def quietTurn (b : Boundary) (s : State) : State :=
  let now := s.bell.boundNs + b.elapsedNs
  onBell (fun x => { x with stamp := b.ptm.getD now, ptmValid := b.ptm.isSome, localNs := now, boundNs := now }) (turnBell s)

theorem quietTurn_quiet (h : s.boundaryQuiet = true) (b : Boundary) : (quietTurn b s).boundaryQuiet = true :=
  boundaryQuiet_of_eq (turnBell_quiet h) rfl rfl rfl rfl rfl rfl rfl

theorem stampBell_of_quiet (h : s.boundaryQuiet = true) (b : Boundary) : stampBell b (turnBell s) = quietTurn b s := by
  have hbound : (turnBell s).bell.boundNs = s.bell.boundNs := by rw [turnBell_of_quiet h]
  rw [stampBell, hbound]
  exact sendBell_of_quiet (quietTurn_quiet h b)

/-- Outside a plain the history holds phase 0 (R83). -/
theorem recordBell_of_not_member (h : s.isMember = false) (b : Boundary) (ticks source : Nat) : recordBell b ticks source s =
    onBell (fun x => { x with
      history := (⟨x.count, x.stamp, b.elapsedNs, 0, ticks, source, x.timetable⟩ :: x.history).take 256 }) s := by
  simp [recordBell, h]

/-- A drive in Following runs free where there is no reference to follow (R70). -/
theorem checkFollowing_of_quiet (h : s.boundaryQuiet = true) : checkFollowing s = { s with bell := { s.bell with
    mode := if s.bell.mode = .following then .freeRunning else s.bell.mode
    slots := (checkFollowing s).bell.slots } } := by
  obtain ⟨-, -, href, -⟩ := (boundaryQuiet_iff s).1 h
  unfold checkFollowing
  by_cases hmode : s.bell.mode = .following <;> simp [hmode, href, onBell]

/-- A quiet boundary is the bell's own work: the turn, the pending features, the history entry, and the end of Following. -/
theorem boundary_of_quiet (h : s.boundaryQuiet = true) (source ticks : Nat) (b : Boundary) :
    boundary source ticks b s =
      checkFollowing (countWaits (recordBell b ticks source (applyFeatures (quietTurn b s)))) := by
  have hturn := quietTurn_quiet h b
  have hfeatures : (applyFeatures (quietTurn b s)).boundaryQuiet = true := boundaryQuiet_of_eq hturn rfl rfl rfl rfl rfl rfl rfl
  have hrecord : (countWaits (recordBell b ticks source (applyFeatures (quietTurn b s)))).boundaryQuiet = true :=
    boundaryQuiet_of_eq hturn rfl rfl rfl rfl rfl rfl rfl
  have hend := checkFollowing_quiet hrecord
  rw [boundary, stampBell_of_quiet h, activationBoundary_of_quiet hturn,
    selectionBoundary_of_quiet hfeatures, publishDue_of_quiet hrecord, trainBoundary_of_quiet hrecord,
    plainBoundary_of_quiet hrecord, carryRecess_of_quiet hend, pump_of_quiet hend]

/-- R65, R72, R78, R80, R83, R105: what a quiet boundary changes, and what it leaves. -/
theorem quiet_boundary_effect (h : s.boundaryQuiet = true) (source ticks : Nat) (b : Boundary) : ∃ t, boundary source ticks b s = t ∧
    t = { s with
      ftl := t.ftl
      eng := t.eng
      mem := { s.mem with stats := t.mem.stats }
      host := (applyFeatures s).host
      bell := { s.bell with
        count := s.bell.count + 1
        tick := 0
        held := 0
        earlyEdge := false
        offRun := t.bell.offRun
        inRun := t.bell.inRun
        noRecess := if s.bell.hadRecess then 0 else s.bell.noRecess + 1
        hadRecess := false
        classGc := false
        stamp := b.ptm.getD (s.bell.boundNs + b.elapsedNs)
        ptmValid := b.ptm.isSome
        localNs := s.bell.boundNs + b.elapsedNs
        boundNs := s.bell.boundNs + b.elapsedNs
        history := (⟨s.bell.count + 1, b.ptm.getD (s.bell.boundNs + b.elapsedNs), b.elapsedNs, 0, ticks, source, s.bell.timetable⟩ ::
          s.bell.history).take 256
        mode := if s.bell.mode = .following then .freeRunning else s.bell.mode
        slots := t.bell.slots } } ∧
    t.ftl.map = s.ftl.map ∧ t.ftl.ckptAge = s.ftl.ckptAge + 1 := by
  have hturned := quietTurn_quiet h b
  have hrecord : (countWaits (recordBell b ticks source (applyFeatures (quietTurn b s)))).boundaryQuiet = true :=
    boundaryQuiet_of_eq hturned rfl rfl rfl rfl rfl rfl rfl
  have hend := checkFollowing_of_quiet hrecord
  rw [← boundary_of_quiet h, recordBell_of_not_member (isMember_of_quiet hturned : (applyFeatures (quietTurn b s)).isMember = false)]
    at hend
  obtain ⟨hmap, hage⟩ := turnBell_ftl_of_quiet h
  have hturn := turnBell_of_quiet h
  refine ⟨_, rfl, ?_⟩
  generalize boundary source ticks b s = t at hend ⊢
  generalize t.bell.slots = slots at hend ⊢
  unfold quietTurn at hend
  generalize turnBell s = u at hend hturn hmap hage
  generalize u.ftl = ftl, u.eng = eng, u.bell.offRun = off, u.bell.inRun = inRun at *
  subst hturn hend
  exact ⟨rfl, hmap, hage⟩
end

/-! ### Edges -/

section
variable {s : State}

theorem execBellEdge_of_runs (h : s.bellRuns = true) (high : Nat) (b : Boundary) :
    exec (.bellEdge high b) s = .next (bellEdge high b s) := by
  simp [exec, execBellEdge, h]

/-- R64: a pulse below 1 µs, and an edge outside the window of a Locked drive, is a glitch. -/
theorem bellEdge_glitch {high : Nat} (b : Boundary)
    (h : high < 1000 ∨ (s.bell.mode = .locked ∧ (s.windowOpen = false ∨ s.bell.earlyEdge = true))) :
    bellEdge high b s = glitch s := by
  unfold bellEdge
  by_cases hhigh : high < 1000
  · rw [if_pos hhigh]
  · obtain ⟨hmode, hshut⟩ := h.resolve_left hhigh
    rw [if_neg hhigh, hmode]
    rcases hshut with hwindow | hearly
    · simp [hwindow]
    · simp [hearly]

theorem bellEdge_locked {high : Nat} (b : Boundary) (hhigh : 1000 ≤ high) (hmode : s.bell.mode = .locked)
    (hwindow : s.windowOpen = true) (hearly : s.bell.earlyEdge = false) : bellEdge high b s = acceptEdge b s := by
  simp [bellEdge, Nat.not_lt.2 hhigh, hmode, hwindow, hearly]

theorem bellEdge_freeRunning {high : Nat} (b : Boundary) (hhigh : 1000 ≤ high) (hmode : s.bell.mode = .freeRunning) :
    bellEdge high b s = lockEdge b s := by
  simp [bellEdge, Nat.not_lt.2 hhigh, hmode]

theorem bellEdge_following {high : Nat} (b : Boundary) (hhigh : 1000 ≤ high) (hmode : s.bell.mode = .following) :
    bellEdge high b s = watchEdge b s := by
  simp [bellEdge, Nat.not_lt.2 hhigh, hmode]

/-- R64, R434: with no reference to wait for, an accepted edge ends the bell, and gives a sample after an accepted edge. -/
theorem acceptEdge_of_no_reference (b : Boundary) (h : s.refNext = none) : acceptEdge b s =
    boundary 0 s.ticksRun b { s with bell := { s.bell with
      lastEdgeNs := s.bell.boundNs + b.elapsedNs, fromEdge := true, clampRun := 0,
      slots := if s.bell.fromEdge then b.elapsedNs :: s.bell.slots.take 7 else s.bell.slots } } := by
  unfold acceptEdge
  rw [h]
  by_cases hedge : s.bell.fromEdge = true
  · simp [onBell, hedge, State.ticksRun]
  · simp [onBell, hedge, State.ticksRun]

end

/-- Settles O45: an edge by the branches of `bellEdge`, the other ends of a bell by their guards, the tick of every boundary by
`boundary_begins_bell`, and a boundary without other work by `quiet_boundary_effect`. -/
theorem boundariesEndTheBell : Obligations.BoundariesEndTheBell := by
  unfold Obligations.BoundariesEndTheBell
  refine ⟨fun s high b hruns => ?_, fun s b hruns => ?_, fun source ticks b s => boundary_begins_bell s source ticks b,
    fun source ticks b s hquiet => ?_⟩
  · rw [execBellEdge_of_runs hruns]
    refine ⟨fun h => ?_, fun hhigh hmode hwindow hearly href => ?_, fun hhigh hmode => ?_, fun hhigh hmode => ?_⟩
    · rw [bellEdge_glitch b h]
      rfl
    · rw [bellEdge_locked b hhigh hmode hwindow hearly, acceptEdge_of_no_reference b href]
    · rw [bellEdge_freeRunning b hhigh hmode]
      rfl
    · rw [bellEdge_following b hhigh hmode]
      simp [watchEdge, onBell]
  · refine ⟨fun h => ?_, fun h => ?_, fun h => ?_, fun h => ?_, fun h hdue => ?_, fun h => ?_⟩
    · simp [exec, execFreeRunningBoundary, hruns, h, onBell]
    · simp [exec, execFreeRunningBoundary, h]
    · simp [exec, execFollowingPlainBoundary, hruns, h, onBell]
    · simp [exec, execFollowingPlainBoundary, h]
    · simp [exec, execPhaseClamp, hruns, h, hdue, onBell]
    · rcases h with hmode | hdue
      · simp [exec, execPhaseClamp, hmode]
      · simp [exec, execPhaseClamp, hdue]
  · obtain ⟨t, ht, heq, hmap, hage⟩ := quiet_boundary_effect hquiet source ticks b
    refine ⟨t, ht, ?_⟩
    rw [heq]
    exact ⟨rfl, rfl, rfl, rfl, rfl, rfl, rfl, rfl, rfl, rfl, rfl, hmap, hage, rfl, rfl, rfl, rfl⟩

/-- R66: a window that closes on a Locked drive makes the boundary. -/
theorem exec_missedEdge (s : State) (b : Boundary) (hruns : s.bellRuns = true) (hmode : s.bell.mode = .locked) (hheld : 65 ≤ s.bell.held) :
    exec (.missedEdge b) s = .next (boundary 1 1024 b { s with bell := { s.bell with
      fromEdge := false, clampRun := 0, missed := bump32 s.bell.missed } }) := by
  simp [exec, execMissedEdge, hruns, hmode, hheld, onBell]

theorem exec_missedEdge_of_no_window (s : State) (b : Boundary) (h : s.bell.mode ≠ .locked ∨ s.bell.held < 65) :
    exec (.missedEdge b) s = .next s := by
  rcases h with hmode | hheld
  · simp [exec, execMissedEdge, hmode]
  · simp [exec, execMissedEdge, Nat.not_le.2 hheld]

/-- At tick 0 the edge window is shut (R64). -/
theorem windowOpen_of_tick_zero {s : State} (h : s.bell.tick = 0) : s.windowOpen = false := by
  simp [State.windowOpen, h]

/-- Settles O46: the boundary that `missedEdge` makes begins the next bell at tick 0, where the window is shut. -/
theorem missedEdgesEndTheBell : Obligations.MissedEdgesEndTheBell := by
  unfold Obligations.MissedEdgesEndTheBell
  refine ⟨fun s b hruns => ⟨exec_missedEdge s b hruns, exec_missedEdge_of_no_window s b⟩, fun s b hruns hmode hheld => ?_⟩
  have hexec := exec_missedEdge s b hruns hmode hheld
  generalize hu : ({ s with bell := { s.bell with fromEdge := false, clampRun := 0, missed := bump32 s.bell.missed } } : State) = u at hexec
  have hkept : u.pending = s.pending := by rw [← hu]
  obtain ⟨htick, htaken, hpending⟩ := boundary_begins_bell u 1 1024 b
  refine ⟨_, hexec, htick, htaken, windowOpen_of_tick_zero htick, hpending.trans hkept, fun hquiet => ?_⟩
  have hcalm : u.boundaryQuiet = true := by
    rw [← hu]
    exact boundaryQuiet_of_eq hquiet rfl rfl rfl rfl rfl rfl rfl
  obtain ⟨t, ht, heq, -⟩ := quiet_boundary_effect hcalm 1 1024 b
  rw [ht, heq, ← hu]
  exact ⟨rfl, rfl, rfl, by simp [hmode], rfl, rfl, rfl, rfl⟩

end Sys2Proof.Machine
end

/-! PROOFS of the family 03_bell_and_timetable: joining and leaving a plain (O50). -/

section
namespace Sys2Proof.Machine

/-! ### Joining (R299, R300) -/

section
variable {s : State} {j : Join}

theorem exec_plainJoin {h : Hdr} (b : Blob) (ok : s.accepts h 0xC5 = true) : exec (.plainJoin h b) s = .next (joinCore h b s) :=
  congrArg Host.Outcome.next (admitAdmin_accepts (joinCore h b) ok)

/-- A join request is sent at most: the drive's state stays, and the join but for the mark that it was requested. -/
theorem sendJoin_plain (h : s.plain.join = some j) :
    (sendJoin s).plain.own = s.plain.own ∧ ∃ r, (sendJoin s).plain.join = some { j with requested := r } := by
  unfold sendJoin
  rw [h]
  dsimp only
  split
  · exact ⟨rfl, j.requested, h⟩
  · exact ⟨(flood_sends _ _).own, true, (flood_sends _ _).join⟩

theorem beginJoin_plain (h : Option Hdr) (member mode wait : Nat) (s : State) :
    (beginJoin h member mode wait s).plain.own = .joining ∧ ∃ j, (beginJoin h member mode wait s).plain.join = some j ∧ j.hdr = h ∧
      j.member = member ∧ j.mode = mode ∧ j.start = s.bell.count ∧ j.until' = s.bell.count + BitVec.ofNat 48 wait := by
  unfold beginJoin
  obtain ⟨hown, r, hjoin⟩ := sendJoin_plain (j := ⟨h, member, mode, s.bell.count, s.bell.count + BitVec.ofNat 48 wait, false, none⟩)
    (s := plainEvent (onPlain (fun p => { p with
      own := .joining
      join := some ⟨h, member, mode, s.bell.count, s.bell.count + BitVec.ofNat 48 wait, false, none⟩ }) s)) (by simp [plainEvent])
  exact ⟨hown.trans (by simp [plainEvent]), _, hjoin, rfl, rfl, rfl, rfl, rfl⟩

/-- R299: with good fields and none of the reasons against it, the join begins. -/
theorem joinCore_begins (h : Hdr) {b : Blob} (hfields : joinFieldsOk s.img.active.plain b = true) (hown : s.plain.own = .standalone)
    (hmembers : 1 < s.img.active.plain.members)
    (hmode : b.le 9 1 = 2 ∨ (b.le 9 1 = 1 ∧ s.recordHolds (b.le 8 1) = true) ∨
      (b.le 9 1 = 0 ∧ s.ns.list = [] ∧ s.idx.live = [] ∧ s.idx.queue = [])) :
    joinCore h b s = beginJoin (some h) (b.le 8 1) (b.le 9 1) (b.le 0xC 4) (begin' h .admin s) := by
  rcases hmode with hmode | ⟨hmode, hrecord⟩ | ⟨hmode, hns, hlive, hqueue⟩
  · simp [joinCore, hfields, hown, Nat.not_le.2 hmembers, hmode]
  · simp [joinCore, hfields, hown, Nat.not_le.2 hmembers, hmode, hrecord]
  · simp [joinCore, hfields, hown, Nat.not_le.2 hmembers, hmode, hns, hlive, hqueue]

/-- R299: the join of a command that fails completes it with its reason, and the drive is on its own. -/
theorem failJoin_of_command {h : Hdr} (reason : Nat) (hjoin : s.plain.join = some j) (hhdr : j.hdr = some h) :
    ∃ u, failJoin reason s = finishDw h stJoinRefused reason u ∧ u.plain.own = .standalone ∧ u.plain.join = none ∧
      u.plain.joinRefusal = reason := by
  refine ⟨plainEvent (onPlain (fun p => { p with own := .standalone, join := none, joinRefusal := reason }) s), ?_, ?_⟩
  · simp [failJoin, hjoin, hhdr]
  · simp [plainEvent]

end

/-! ### Leaving (R302) -/

section
variable {s : State}

/-- What the member is left with once its leave has ended. -/
theorem standAlone_plain (s : State) : (standAlone s).plain.own = .standalone ∧ (standAlone s).plain.member = 0xFF ∧
    (standAlone s).plain.plainKey = false ∧ (standAlone s).plain.parity = [] ∧ (standAlone s).ns = s.ns ∧
    (standAlone s).ftl = s.ftl := by
  simp [standAlone, plainEvent]

theorem eraseMembership_onlyNor (s : State) : ∃ n, eraseMembership s = { s with nor := n } := by
  unfold eraseMembership
  split
  · exact ⟨_, rfl⟩
  · exact ⟨s.nor, rfl⟩

/-- R302: a leave that nothing holds back ends with its command. -/
theorem tryLeave_of_ready {h : Hdr} (hown : s.plain.own = .leaving) (hhdr : s.plain.leaveHdr = some h) (hready : s.leaveReady = true) :
    ∃ u, tryLeave s = finish h stOk u ∧ u.plain.own = .standalone ∧ u.plain.member = 0xFF ∧ u.plain.plainKey = false ∧
      u.plain.parity = [] ∧ u.plain.leaveHdr = none ∧ u.ns = s.ns ∧ u.ftl = s.ftl := by
  have hleft : tryLeave s =
      finish h stOk (onPlain (fun p => { p with leaveHdr := none }) (standAlone (eraseMembership (flood .leave s)))) := by
    simp [tryLeave, hown, hready, hhdr]
  obtain ⟨n, hnor⟩ := eraseMembership_onlyNor (flood .leave s)
  have hsent := flood_sends .leave s
  rw [hnor] at hleft
  generalize flood .leave s = f at hleft hsent
  obtain ⟨hown', hmember, hkey, hparity, hns, hftl⟩ := standAlone_plain { f with nor := n }
  generalize standAlone { f with nor := n } = t at hleft hown' hmember hkey hparity hns hftl
  exact ⟨_, hleft, hown', hmember, hkey, hparity, rfl, hns.trans hsent.ns, hftl.trans hsent.ftl⟩

theorem tryLeave_of_not_ready (h : s.leaveReady = false) : tryLeave s = s := by
  simp [tryLeave, h]

/-- The state of a member that has been told to leave. -/
def startLeave (h : Hdr) (s : State) : State :=
  plainEvent (onPlain (fun p => { p with own := .leaving, leaveHdr := some h }) (begin' h .admin s))

theorem startLeave_plain (h : Hdr) (s : State) :
    (startLeave h s).plain = { s.plain with own := .leaving, leaveHdr := some h } := by
  simp [startLeave, plainEvent]

theorem startLeave_kept (h : Hdr) (s : State) : (startLeave h s).ns = s.ns ∧ (startLeave h s).ftl = s.ftl ∧
    (startLeave h s).leaveReady = s.leaveReady := by
  simp [startLeave, plainEvent, State.leaveReady, State.isPresent, State.peer]

theorem exec_plainLeave_of_member {h : Hdr} (ok : s.accepts h 0xC6 = true) (hown : s.plain.own = .member ∨ s.plain.own = .isolated) :
    exec (.plainLeave h) s = .next (tryLeave (startLeave h s)) := by
  refine (congrArg Host.Outcome.next (admitAdmin_accepts _ ok)).trans ?_
  rcases hown with hown | hown
  · rw [hown]
    rfl
  · rw [hown]
    rfl

end

/-! ### Messages in order (R287) -/

section
variable {s : State} {port : Nat} {hd : FlitHdr}

theorem receive_hears (k : State → State) (h : s.hears port hd = true) :
    receive port hd k s = giveCredit port hd (k (takeHeader port hd s)) := by
  simp only [State.hears, Bool.and_eq_true, beq_iff_eq] at h
  obtain ⟨⟨⟨hup, hport⟩, hintact⟩, hseq⟩ := h
  simp [receive, hup, hport, hintact, hseq]

theorem receiveFor_hears (b : Payload) (k : State → State) (h : s.hears port hd = true)
    (hdst : hd.dst.toNat = s.plain.member ∨ hd.dst = 0xFF#8) :
    receiveFor port hd b k s = giveCredit port hd (k (takeHeader port hd s)) := by
  rw [receiveFor, receive_hears _ h, (takeHeader_sends port hd s).member, if_pos hdst]

end

/-! ### Leave messages (R302) -/

section
variable {s : State}

/-- With no query and no forwarded Read under way, nothing follows when a member is gone. -/
theorem memberGone_of_idle (m : Nat) (hruns : s.query.runs = []) (hproxies : s.plain.proxies = []) : memberGone m s = s := by
  simp [memberGone, queryLost, settleHeads, hruns, hproxies]

theorem onPeer_peer_same {m : Nat} (f : Peer → Peer) (h : m < s.plain.peers.length) : (onPeer m f s).peer m = f (s.peer m) :=
  modifyAt_getD_same _ _ _ _ h

theorem setPeer_peer_same {m : Nat} (st : PeerState) (h : m < s.plain.peers.length) (hstate : (s.peer m).state ≠ st) :
    ((setPeer m st s).peer m).state = st ∧ ((setPeer m st s).peer m).table = (s.peer m).table ∧
      ((setPeer m st s).peer m).mirror = (s.peer m).mirror := by
  unfold setPeer
  rw [if_neg (by simpa using hstate)]
  unfold State.peer plainEvent
  rw [vendorEvent_plain]
  change ((onPeer m _ s).peer m).state = st ∧ ((onPeer m _ s).peer m).table = _ ∧ ((onPeer m _ s).peer m).mirror = _
  rw [onPeer_peer_same _ h]
  exact ⟨rfl, rfl, rfl⟩

theorem setPeer_kept (m : Nat) (st : PeerState) (s : State) :
    (setPeer m st s).query = s.query ∧ (setPeer m st s).plain.proxies = s.plain.proxies := by
  unfold setPeer
  split
  · exact ⟨rfl, rfl⟩
  · simp [plainEvent, onPeer]

/-- What is left of a member that has left: its table without keys, and no mirror. -/
def withoutKeys (p : Peer) : Peer :=
  { p with table := p.table.map fun e => { e with key := 0 }, mirror := [], mirrorBehind := false }

theorem peerLeft_of_left (port m : Nat) (h : (s.peer m).state = .left) : peerLeft port m s = s := by
  simp [peerLeft, h]

/-- R302, R404: a member that has left is marked, and its keys and mirrors are gone. -/
theorem peerLeft_marks (port : Nat) {m : Nat} (hm : m < s.plain.peers.length) (hstate : (s.peer m).state ≠ .left)
    (hruns : s.query.runs = []) (hproxies : s.plain.proxies = []) :
    ((peerLeft port m s).peer m).state = .left ∧ (∀ e ∈ ((peerLeft port m s).peer m).table, e.key = 0) ∧
      ((peerLeft port m s).peer m).mirror = [] := by
  unfold peerLeft
  rw [if_neg (by simpa using hstate)]
  extract_lets sent marked
  have hsent : Sends s sent := .foldl (fun s p => sendFlit_sends _ _ s) _ s
  have hlen : m < sent.plain.peers.length := by rwa [hsent.peers]
  have hcleared := onPeer_peer_same (s := sent) withoutKeys hlen
  obtain ⟨hleft, htable, hmirror⟩ := setPeer_peer_same (s := onPeer m withoutKeys sent) .left ((modifyAt_length ..).symm ▸ hlen)
    (by rw [hcleared]; exact hsent.peer m ▸ hstate)
  obtain ⟨hquery, hwaiting⟩ := setPeer_kept m .left (onPeer m withoutKeys sent)
  change (marked.peer m).state = _ at hleft
  change (marked.peer m).table = _ at htable
  change (marked.peer m).mirror = _ at hmirror
  have hgone : memberGone m marked = marked :=
    memberGone_of_idle m ((congrArg (·.runs) (hquery.trans hsent.query)).trans hruns) (hwaiting.trans (hsent.proxies.trans hproxies))
  rw [hcleared] at htable hmirror
  clear_value marked
  rw [hgone]
  refine ⟨hleft, ?_, hmirror⟩
  change ∀ e ∈ (marked.peer m).table, e.key = 0
  rw [htable]
  simp [withoutKeys]

end

/-! ### Join requests and answers (R300, R304) -/

section
variable {s : State} {j : JoinReq}

/-- R300: a request for this plain is put down for the next boundary, or refused with its reason. -/
theorem takeRequest_of_plain (hid : j.plainId = s.img.active.plain.plainId) (hmember : j.member < s.members) :
    (s.joinFault j = none →
      takeRequest j s = onPlain (fun p => { p with admissions := p.admissions ++ [⟨j.member, j.stale⟩] }) s) ∧
    (∀ r, s.joinFault j = some r → takeRequest j s = sendTo j.member 0 (.joinAdmit (.refused r)) s) := by
  have hgood : (j.plainId != s.img.active.plain.plainId || decide (s.members ≤ j.member)) = false := by simp [hid, hmember]
  refine ⟨fun hfault => ?_, fun r hfault => ?_⟩
  · simp [takeRequest, hgood, hfault]
  · simp [takeRequest, hgood, hfault]

end

section
variable {s : State} {j : Join}

theorem norBlock_onlyNor (sector kind : Nat) (p : Blob) (s : State) : ∃ n, (norBlock sector kind p s).2 = { s with nor := n } := ⟨_, rfl⟩

/-- A change of the plain's own state that is announced to the host and to the other members stands, and the bell is as it was. -/
theorem announced (f : PlainSt → PlainSt) (s : State) :
    (renewReference (sendTable (plainEvent (onPlain f s)))).plain.own = (f s.plain).own ∧
    (renewReference (sendTable (plainEvent (onPlain f s)))).plain.member = (f s.plain).member ∧
    (renewReference (sendTable (plainEvent (onPlain f s)))).plain.plainKey = (f s.plain).plainKey ∧
    (renewReference (sendTable (plainEvent (onPlain f s)))).bell.timetable = s.bell.timetable := by
  have hplain : (plainEvent (onPlain f s)).plain = f s.plain := vendorEvent_plain _ _
  have hbell : (plainEvent (onPlain f s)).bell = s.bell := vendorEvent_bell _ _
  have hsent := sendTable_sends (plainEvent (onPlain f s))
  rw [← hplain, ← hbell]
  exact ⟨hsent.own, hsent.member, hsent.plainKey, congrArg (·.timetable) hsent.bell⟩

/-- R300: the joiner is a member under the number that it asked for, holds the plain key, and its command completes. -/
theorem becomeMember_of_command {h : Hdr} (present : BitVec 24) (hhdr : j.hdr = some h) :
    ∃ v, becomeMember j present s = finish h stOk v ∧ v.plain.own = .member ∧ v.plain.member = j.member ∧ v.plain.plainKey = true ∧
      v.bell.timetable = s.bell.timetable := by
  obtain ⟨n, hnor⟩ := norBlock_onlyNor 5 0x85
    (Blob.concat [fld 8 s.img.active.plain.plainId.toNat, fld 1 j.member, fld 1 s.img.active.plain.members]) s
  unfold becomeMember
  rw [hhdr]
  dsimp only
  rw [hnor]
  refine ⟨_, rfl, ?_⟩
  exact announced _ _

theorem takeAdmit_refused (reason : Nat) (hown : s.plain.own = .joining) (hjoin : s.plain.join = some j) :
    takeAdmit (.refused reason) s = failJoin reason s := by
  simp [takeAdmit, hown, hjoin]

/-- R405: an admission whose proof fails ends the join with reason 9. -/
theorem takeAdmit_unproved (count : BitVec 48) (present : BitVec 24) (tt : Nat) (hown : s.plain.own = .joining)
    (hjoin : s.plain.join = some j) : takeAdmit (.admitted count present false tt) s = failJoin 9 s := by
  simp [takeAdmit, hown, hjoin]

theorem takeAdmit_admitted (count : BitVec 48) (present : BitVec 24) (tt : Nat) (hown : s.plain.own = .joining)
    (hjoin : s.plain.join = some j) : takeAdmit (.admitted count present true tt) s =
      becomeMember j present (onBell (fun b => { b with timetable := tt })
        (onPlain (fun p => { p with join := some { j with admitted := some (count, present, tt) } }) s)) := by
  simp [takeAdmit, hown, hjoin, onBell, onPlain]

theorem exec_joinAdmit_of_joining {port : Nat} {hd : FlitHdr} (a : JoinAnswer) (hears : s.hears port hd = true)
    (hown : s.plain.own = .joining) (hjoin : s.plain.join = some j) (hdst : hd.dst.toNat = j.member) :
    exec (.joinAdmit port hd a) s = .next (giveCredit port hd (takeAdmit a (takeHeader port hd s))) := by
  have hsent := takeHeader_sends port hd s
  refine (congrArg Host.Outcome.next (receive_hears _ hears)).trans ?_
  simp [hsent.join, hsent.own, hjoin, hown, hdst]

end

/-! ### Bell flits (R71) -/

section
variable {s : State}

/-- R71: a bell flit renews the view of its sender, and nothing of this drive's own bell. -/
theorem noteBell_view {m : Nat} (f : BellFlit) (hm : m < s.plain.peers.length) :
    (noteBell m f s).plain.seen = s.plain.seen ∧ ((noteBell m f s).peer m).heard = true ∧ ((noteBell m f s).peer m).mode = f.mode ∧
      (noteBell m f s).bell = s.bell ∧ (noteBell m f s).host = s.host := by
  unfold noteBell
  extract_lets early bound viewed seen
  have hview : (viewed.peer m).heard = true ∧ (viewed.peer m).mode = f.mode := by
    unfold viewed
    rw [onPeer_peer_same _ hm]
    exact ⟨rfl, rfl⟩
  have hkept : viewed.plain.seen = s.plain.seen ∧ viewed.bell = s.bell ∧ viewed.host = s.host := ⟨rfl, rfl, rfl⟩
  obtain ⟨hheard, hmode⟩ := hview
  obtain ⟨hseen, hbell, hhost⟩ := hkept
  clear_value viewed
  unfold seen
  split
  · exact ⟨hseen, hheard, hmode, hbell, hhost⟩
  · exact ⟨hseen, hheard, hmode, hbell, hhost⟩

variable {port : Nat} {hd : FlitHdr}

/-- A flit of the drive's own, or one that it has seen before, has no effect (R71). -/
theorem exec_bellFlitReceived_of_known (f : BellFlit) (hears : s.hears port hd = true)
    (hknown : hd.src.toNat = s.plain.member ∨ (hd.src.toNat, f.count) ∈ s.plain.seen) :
    exec (.bellFlitReceived port hd f) s = .next (giveCredit port hd (takeHeader port hd s)) := by
  have hsent := takeHeader_sends port hd s
  refine (congrArg Host.Outcome.next (receive_hears _ hears)).trans ?_
  rcases hknown with hown | hseen
  · simp [hsent.member, hown]
  · simp [hsent.seen, hseen]

/-- Any other is passed on, and renews the view of its sender. -/
theorem exec_bellFlitReceived_of_new (f : BellFlit) (hears : s.hears port hd = true) (hsrc : hd.src.toNat ≠ s.plain.member)
    (hnew : (hd.src.toNat, f.count) ∉ s.plain.seen) (hmember : hd.src.toNat < s.members) (hown : s.plain.own ≠ .standalone) :
    exec (.bellFlitReceived port hd f) s = .next (giveCredit port hd (noteBell hd.src.toNat f (passOn port { hd with dst := 0xFF#8 } (.bell f)
      (onPlain (fun p => { p with seen := ((hd.src.toNat, f.count) :: p.seen).take 96 }) (takeHeader port hd s))))) := by
  have hsent := takeHeader_sends port hd s
  refine (congrArg Host.Outcome.next (receive_hears _ hears)).trans ?_
  generalize takeHeader port hd s = u at hsent
  have hpassed := passOn_sends port { hd with dst := 0xFF#8 } (.bell f)
    (onPlain (fun p => { p with seen := ((hd.src.toNat, f.count) :: p.seen).take 96 }) u)
  have hfresh : (u.plain.seen.contains (hd.src.toNat, f.count) || hd.src.toNat == u.plain.member) = false := by
    simp [hsent.seen, hsent.member, hnew, hsrc]
  dsimp only
  rw [hfresh]
  generalize passOn port { hd with dst := 0xFF#8 } (.bell f) _ = v at hpassed ⊢
  have hplain : v.plain.own = s.plain.own := hpassed.own.trans hsent.own
  have hsize : v.members = s.members := hpassed.members.trans hsent.members
  simp [hplain, hsize, hown, Nat.not_le.2 hmember]

end

/-! ### O50 -/

section
variable {s : State}

/-- Plain Join (R299): each refusal by its guard, and the join that begins. -/
theorem plainJoin_effect (h : Hdr) (b : Blob) (ok : s.accepts h 0xC5 = true) :
    (joinFieldsOk s.img.active.plain b = false → exec (.plainJoin h b) s = .next (finish h stInvalidField s)) ∧
    (joinFieldsOk s.img.active.plain b = true →
      (s.plain.own = .joining → exec (.plainJoin h b) s = .next (refuseJoin h 1 s)) ∧
      (s.plain.own ≠ .joining → s.plain.own ≠ .standalone → exec (.plainJoin h b) s = .next (refuseJoin h 7 s)) ∧
      (s.plain.own = .standalone → s.img.active.plain.members ≤ 1 → exec (.plainJoin h b) s = .next (refuseJoin h 1 s)) ∧
      (s.plain.own = .standalone → 1 < s.img.active.plain.members →
        (b.le 9 1 = 0 → s.ns.list ≠ [] → exec (.plainJoin h b) s = .next (refuseJoin h 8 s)) ∧
        (b.le 9 1 = 1 → s.recordHolds (b.le 8 1) = false → exec (.plainJoin h b) s = .next (refuseJoin h 5 s)))) := by
  rw [exec_plainJoin b ok]
  refine ⟨fun hbad => ?_, fun hgood => ⟨fun hown => ?_, fun hjoining halone => ?_, fun hown hfew => ?_, fun hown hmembers =>
    ⟨fun hmode hns => ?_, fun hmode hrecord => ?_⟩⟩⟩
  · simp [joinCore, hbad]
  · simp [joinCore, hgood, hown]
  · simp [joinCore, hgood, hjoining, halone]
  · simp [joinCore, hgood, hown, hfew]
  · simp [joinCore, hgood, hown, Nat.not_le.2 hmembers, hmode, hns]
  · simp [joinCore, hgood, hown, Nat.not_le.2 hmembers, hmode, hrecord]

/-- R299: a join waits 1 s for a port, and WAIT_BELLS for its admission. -/
theorem joinWaitExpired_effect (j : Join) (h : Hdr) (hjoin : s.plain.join = some j) (hown : s.plain.own = .joining)
    (hhdr : j.hdr = some h) :
    (s.upPorts = [] → 1000000 ≤ bellsFrom j.start s.bell.count * s.img.active.periodUs →
      ∃ u, exec .joinWaitExpired s = .next (finishDw h stJoinRefused 3 u) ∧ u.plain.own = .standalone ∧ u.plain.join = none) ∧
    (s.upPorts ≠ [] → bellsFrom j.start j.until' ≤ bellsFrom j.start s.bell.count →
      ∃ u, exec .joinWaitExpired s = .next (finishDw h stJoinRefused 4 u) ∧ u.plain.own = .standalone ∧ u.plain.join = none) ∧
    (s.upPorts ≠ [] → bellsFrom j.start s.bell.count < bellsFrom j.start j.until' → exec .joinWaitExpired s = .next s) := by
  have hfails : ∀ r, exec .joinWaitExpired s = .next (failJoin r s) →
      ∃ u, exec .joinWaitExpired s = .next (finishDw h stJoinRefused r u) ∧ u.plain.own = .standalone ∧ u.plain.join = none := by
    intro r hexec
    obtain ⟨u, hu, hstate, hnone, -⟩ := failJoin_of_command r hjoin hhdr
    exact ⟨u, hexec.trans (congrArg Host.Outcome.next hu), hstate, hnone⟩
  refine ⟨fun hports hlong => hfails 3 ?_, fun hports hlong => hfails 4 ?_, fun hports hshort => ?_⟩
  · simp [exec, execJoinWaitExpired, hjoin, hown, hports, hlong]
  · simp [exec, execJoinWaitExpired, hjoin, hown, hports, hlong]
  · simp [exec, execJoinWaitExpired, hjoin, hown, hports, Nat.not_le.2 hshort]

/-- R301: a member with its record in the option area joins again by itself once a port is Up. -/
theorem autoJoin_begins {m n : Nat} (hup : s.up = true) (hrecord : s.nor.membership = some (s.img.active.plain.plainId, m, n))
    (hauto : s.img.active.plain.flags.testBit 1 = true) (hmembers : 1 < s.img.active.plain.members)
    (hm : m < s.img.active.plain.members) (hown : s.plain.own = .standalone) (hports : s.upPorts ≠ []) :
    exec .autoJoin s = .next (beginJoin none m 1 1000 s) := by
  simp [exec, execAutoJoin, hup, hrecord, hauto, hmembers, hm, hown, hports]

theorem autoJoin_of_no_reason (h : s.nor.membership = none ∨ s.plain.own ≠ .standalone ∨ s.upPorts = []) :
    exec .autoJoin s = .next s := by
  rcases h with hrecord | hown | hports
  · simp [exec, execAutoJoin, hrecord]
  · simp only [exec, execAutoJoin]
    split
    · simp [hown]
    · rfl
  · simp only [exec, execAutoJoin]
    split
    · simp [hports]
    · rfl

/-- Plain Leave where there is no plain to leave, or the leave is under way (R302, log 72). -/
theorem plainLeave_refused (h : Hdr) (ok : s.accepts h 0xC6 = true) :
    (s.plain.own = .standalone ∨ s.plain.own = .joining → exec (.plainLeave h) s = .next (finish h stNotPresent s)) ∧
    (s.plain.own = .leaving → exec (.plainLeave h) s = .next (finish h stSequence s)) := by
  have hexec : exec (.plainLeave h) s = .next _ := congrArg Host.Outcome.next (admitAdmin_accepts _ ok)
  refine ⟨fun hown => hexec.trans ?_, fun hown => hexec.trans ?_⟩
  · rcases hown with hown | hown
    · rw [hown]
    · rw [hown]
  · rw [hown]

/-- Plain Leave of a member: it ends at once, or holds the command until it can (R302). -/
theorem plainLeave_of_member (h : Hdr) (ok : s.accepts h 0xC6 = true) (hown : s.plain.own = .member ∨ s.plain.own = .isolated) :
    (s.leaveReady = true → ∃ u, exec (.plainLeave h) s = .next (finish h stOk u) ∧ u.plain.own = .standalone ∧ u.plain.member = 0xFF ∧
      u.plain.plainKey = false ∧ u.plain.parity = [] ∧ u.plain.leaveHdr = none ∧ u.ns = s.ns ∧ u.ftl.map = s.ftl.map) ∧
    (s.leaveReady = false → ∃ t, exec (.plainLeave h) s = .next t ∧ t.plain.own = .leaving ∧ t.plain.leaveHdr = some h ∧
      t.plain.member = s.plain.member) := by
  have hplain := startLeave_plain h s
  obtain ⟨hns, hftl, hready⟩ := startLeave_kept h s
  have hexec := exec_plainLeave_of_member ok hown
  generalize startLeave h s = t at hplain hns hftl hready hexec
  have hleaving : t.plain.own = .leaving := by rw [hplain]
  have hhdr : t.plain.leaveHdr = some h := by rw [hplain]
  refine ⟨fun hcan => ?_, fun hcannot => ?_⟩
  · obtain ⟨u, hu, hstate, hmember, hkey, hparity, hnone, hns', hftl'⟩ := tryLeave_of_ready hleaving hhdr (hready.trans hcan)
    exact ⟨u, hexec.trans (congrArg Host.Outcome.next hu), hstate, hmember, hkey, hparity, hnone, hns'.trans hns,
      congrArg (·.map) (hftl'.trans hftl)⟩
  · rw [tryLeave_of_not_ready (hready.trans hcannot)] at hexec
    exact ⟨t, hexec, hleaving, hhdr, by rw [hplain]⟩

variable {port : Nat} {hd : FlitHdr}

/-- R302: a member's leave message is taken once. -/
theorem leaveMessage_effect (hears : s.hears port hd = true) (hshaped : s.shaped) :
    ((s.peer hd.src.toNat).state = .left → exec (.leaveMessage port hd) s = .next (giveCredit port hd (takeHeader port hd s))) ∧
    ((s.peer hd.src.toNat).state ≠ .left → hd.src.toNat < 24 → s.query.runs = [] → s.plain.proxies = [] →
      ∃ v, exec (.leaveMessage port hd) s = .next (giveCredit port hd v) ∧ (v.peer hd.src.toNat).state = .left ∧
        (∀ e ∈ (v.peer hd.src.toNat).table, e.key = 0) ∧ (v.peer hd.src.toNat).mirror = []) := by
  have hexec : exec (.leaveMessage port hd) s = .next _ :=
    congrArg Host.Outcome.next (receive_hears (peerLeft port hd.src.toNat) hears)
  obtain ⟨-, -, -, -, -, hpeers, -⟩ := hshaped
  have hsent := takeHeader_sends port hd s
  generalize takeHeader port hd s = u at hsent hexec
  have hview := hsent.peer hd.src.toNat
  refine ⟨fun hleft => ?_, fun hstate hsrc hruns hproxies => ⟨_, hexec, ?_⟩⟩
  · rwa [peerLeft_of_left port _ (by rw [hview, hleft])] at hexec
  · exact peerLeft_marks port (by rwa [hsent.peers, hpeers]) (by rwa [hview]) (by rw [hsent.query, hruns]) (by rw [hsent.proxies, hproxies])

/-- R300, R304: a join request reaches the reference member, and nobody outside a plain. -/
theorem joinRequest_effect (j : JoinReq) (hears : s.hears port hd = true) :
    (s.plain.own = .standalone ∨ s.plain.own = .isolated →
      exec (.joinRequest port hd j) s = .next (giveCredit port hd (takeHeader port hd s))) ∧
    (s.plain.own = .member → s.plain.reference = s.plain.member →
      exec (.joinRequest port hd j) s = .next (giveCredit port hd (takeRequest j (takeHeader port hd s)))) := by
  have hexec : exec (.joinRequest port hd j) s = .next _ := congrArg Host.Outcome.next (receive_hears _ hears)
  have hsent := takeHeader_sends port hd s
  generalize takeHeader port hd s = u at hsent hexec
  refine ⟨fun hown => ?_, fun hown href => ?_⟩
  · rcases hown with hown | hown
    · rwa [hsent.own, hown] at hexec
    · rwa [hsent.own, hown] at hexec
  · rwa [hsent.own, hown, hsent.reference, hsent.member, if_pos href] at hexec

/-- R300, R405: the joiner takes its answer. -/
theorem joinAdmit_effect {j : Join} {g : Hdr} (hears : s.hears port hd = true) (hown : s.plain.own = .joining)
    (hjoin : s.plain.join = some j) (hhdr : j.hdr = some g) (hdst : hd.dst.toNat = j.member) :
    (∀ r, ∃ v, exec (.joinAdmit port hd (.refused r)) s = .next (giveCredit port hd (finishDw g stJoinRefused r v)) ∧
      v.plain.own = .standalone ∧ v.plain.join = none ∧ v.plain.joinRefusal = r) ∧
    (∀ count present tt, ∃ v, exec (.joinAdmit port hd (.admitted count present false tt)) s = .next (giveCredit port hd
      (finishDw g stJoinRefused 9 v)) ∧ v.plain.own = .standalone) ∧
    (∀ count present tt, ∃ v, exec (.joinAdmit port hd (.admitted count present true tt)) s = .next (giveCredit port hd (finish g stOk v)) ∧
      v.plain.own = .member ∧ v.plain.member = j.member ∧ v.plain.plainKey = true ∧ v.bell.timetable = tt) := by
  have hexec := fun a => exec_joinAdmit_of_joining a hears hown hjoin hdst
  have hsent := takeHeader_sends port hd s
  generalize takeHeader port hd s = u at hsent hexec
  have hown' := hsent.own.trans hown
  have hjoin' := hsent.join.trans hjoin
  refine ⟨fun r => ?_, fun count present tt => ?_, fun count present tt => ?_⟩
  · obtain ⟨v, hv, hstate⟩ := failJoin_of_command r hjoin' hhdr
    exact ⟨v, by rw [hexec, takeAdmit_refused r hown' hjoin', hv], hstate⟩
  · obtain ⟨v, hv, hstate, -⟩ := failJoin_of_command 9 hjoin' hhdr
    exact ⟨v, by rw [hexec, takeAdmit_unproved count present tt hown' hjoin', hv], hstate⟩
  · rw [hexec, takeAdmit_admitted count present tt hown' hjoin']
    obtain ⟨v, hv, hstate⟩ := becomeMember_of_command (s := onBell (fun b => { b with timetable := tt })
        (onPlain (fun p => { p with join := some { j with admitted := some (count, present, tt) } }) u)) present hhdr
    exact ⟨v, by rw [hv], hstate⟩

/-- R71: a new bell flit is remembered and renews the view of its sender. -/
theorem bellFlitReceived_view (f : BellFlit) (hears : s.hears port hd = true) (hshaped : s.shaped)
    (hsrc : hd.src.toNat ≠ s.plain.member) (hnew : (hd.src.toNat, f.count) ∉ s.plain.seen) (hmember : hd.src.toNat < s.members)
    (hown : s.plain.own ≠ .standalone) (hpeer : hd.src.toNat < 24) :
    ∃ v, exec (.bellFlitReceived port hd f) s = .next (giveCredit port hd v) ∧
      v.plain.seen = ((hd.src.toNat, f.count) :: s.plain.seen).take 96 ∧ (v.peer hd.src.toNat).heard = true ∧
      (v.peer hd.src.toNat).mode = f.mode ∧ v.bell = s.bell ∧ v.host = s.host := by
  obtain ⟨-, -, -, -, -, hpeers, -⟩ := hshaped
  have hexec := exec_bellFlitReceived_of_new f hears hsrc hnew hmember hown
  have hsent := takeHeader_sends port hd s
  generalize takeHeader port hd s = u at hsent hexec
  have hpassed := passOn_sends port { hd with dst := 0xFF#8 } (.bell f)
    (onPlain (fun p => { p with seen := ((hd.src.toNat, f.count) :: p.seen).take 96 }) u)
  generalize passOn port { hd with dst := 0xFF#8 } (.bell f) _ = w at hpassed hexec
  have hlen : hd.src.toNat < w.plain.peers.length := by
    rw [hpassed.peers.trans hsent.peers, hpeers]
    exact hpeer
  obtain ⟨hseen, hheard, hmode, hbell, hhost⟩ := noteBell_view f hlen
  refine ⟨_, hexec, hseen.trans (hpassed.seen.trans ?_), hheard, hmode, hbell.trans (hpassed.bell.trans hsent.bell),
    hhost.trans (hpassed.host.trans hsent.host)⟩
  change ((hd.src.toNat, f.count) :: u.plain.seen).take 96 = _
  rw [hsent.seen]

end

/-- Settles O50: the commands by the branches of Plain Join, of the wait and of Plain Leave, and the messages, each in order on its port, by
what it does after its header is taken. -/
theorem membersJoinAndLeave : Obligations.MembersJoinAndLeave := by
  unfold Obligations.MembersJoinAndLeave
  refine ⟨fun h b s ok => ?_, fun s j => ⟨fun hnone => ?_, fun h hjoin hown hhdr => joinWaitExpired_effect j h hjoin hown hhdr⟩,
    fun s => ⟨autoJoin_of_no_reason, fun m n hup hrecord hauto hmembers hm hown hports => ?_⟩, fun h s ok => ?_,
    fun port hd s u hears hu hshaped => ?_⟩
  · obtain ⟨hbad, hrefused⟩ := plainJoin_effect h b ok
    refine ⟨hbad, fun hgood => ?_⟩
    obtain ⟨hjoining, helse, hfew, hmode⟩ := hrefused hgood
    refine ⟨hjoining, helse, hfew, fun hown hmembers => ?_⟩
    obtain ⟨hblank, hrecord⟩ := hmode hown hmembers
    refine ⟨hblank, hrecord, fun hjoins => ?_⟩
    have hexec := exec_plainJoin b ok
    rw [joinCore_begins h hgood hown hmembers hjoins] at hexec
    obtain ⟨hown', j, hj, hhdr, hmember, hmode, hstart, huntil⟩ := beginJoin_plain (some h) (b.le 8 1) (b.le 9 1) (b.le 0xC 4) (begin' h .admin s)
    rw [begin'_bell] at hstart huntil
    exact ⟨_, j, hexec, hown', hj, hhdr, hmember, hmode, hstart, huntil⟩
  · simp [exec, execJoinWaitExpired, hnone]
  · obtain ⟨hown', j, hj, hhdr, hmember, hmode, -⟩ := beginJoin_plain none m 1 1000 s
    exact ⟨_, j, autoJoin_begins hup hrecord hauto hmembers hm hown hports, hown', hj, hhdr, hmember, hmode⟩
  · obtain ⟨houtside, hleaving⟩ := plainLeave_refused h ok
    exact ⟨houtside, hleaving, plainLeave_of_member h ok⟩
  · subst hu
    obtain ⟨hleft, hleaves⟩ := leaveMessage_effect hears hshaped
    refine ⟨hleft, hleaves, fun j => (joinRequest_effect j hears).1, fun j hown href hid hmember => ?_,
      fun j g hown hjoin hhdr hdst _ => joinAdmit_effect hears hown hjoin hhdr hdst,
      fun f => exec_bellFlitReceived_of_known f hears,
      fun f hsrc hnew hmember hown hpeer => bellFlitReceived_view f hears hshaped hsrc hnew hmember hown hpeer,
      fun t hdst => congrArg Host.Outcome.next (receiveFor_hears (.nsTable t) _ hears hdst)⟩
    have hexec := (joinRequest_effect j hears).2 hown href
    have hsent := takeHeader_sends port hd s
    generalize takeHeader port hd s = u at hsent hexec
    obtain ⟨hadmitted, hrefused⟩ := takeRequest_of_plain (j := j) (hid.trans (congrArg (·.active.plain.plainId) hsent.img).symm)
      (hsent.members.symm ▸ hmember)
    refine ⟨fun hfault => ?_, fun r hfault => ?_⟩
    · rw [hexec, hadmitted ((hsent.joinFault j).trans hfault), ← hsent.admissions]
      rfl
    · rw [hexec, hrefused r ((hsent.joinFault j).trans hfault)]

end Sys2Proof.Machine
end

/-! PROOFS of the family 05_tier_map, first part: memory range sets (O27), send blocks and failed reads of host memory (O40). -/

section
namespace Sys2Proof.Machine

/-! ### O27: memory range sets -/

/-- More numbers than sets: one of them names no set. -/
theorem exists_free_rsid (s : State) : ∃ n ∈ spanList 1 (s.mem.sets.length + 1), ∀ r ∈ s.mem.sets, r.id ≠ n := by
  refine Classical.byContradiction fun hnone => ?_
  have hsub : spanList 1 (s.mem.sets.length + 1) ⊆ s.mem.sets.map (·.id) := fun n hn =>
    Classical.byContradiction fun hfree => hnone ⟨n, hn, fun r hr hid => hfree (List.mem_map.mpr ⟨r, hr, hid⟩)⟩
  have hnodup : (spanList 1 (s.mem.sets.length + 1)).Nodup :=
    List.Pairwise.map _ (fun a b (hne : a ≠ b) heq => hne (Nat.add_left_cancel heq)) List.nodup_range
  have hlength := hnodup.length_le_of_subset hsub
  simp only [spanList, List.length_map, List.length_range] at hlength
  omega

/-- The identifier of a new set is 1 or more, and no set has it (R120, log 30). -/
theorem freeRsid_free (s : State) : 1 ≤ s.freeRsid ∧ ∀ r ∈ s.mem.sets, r.id ≠ s.freeRsid := by
  obtain ⟨n, hn, hfree⟩ := exists_free_rsid s
  obtain ⟨m, hm⟩ : ∃ m, ((spanList 1 (s.mem.sets.length + 1)).find? fun n => !(s.mem.sets.any fun r => r.id == n)) = some m := by
    rw [← Option.isSome_iff_exists, List.find?_isSome]
    exact ⟨n, hn, by simpa using hfree⟩
  have hid : s.freeRsid = m := by rw [State.freeRsid, hm, Option.getD_some]
  have hunused : ∀ r ∈ s.mem.sets, r.id ≠ m := by simpa using List.find?_some hm
  obtain ⟨i, -, hi⟩ := List.mem_map.mp (List.mem_of_find?_eq_some hm)
  rw [hid]
  exact ⟨by omega, hunused⟩

section
variable {h : Hdr} {room : Nat} {s : State} (ok : s.acceptsRoom h room = true)
include ok

theorem exec_memoryRangeSetCreate (l : List MemRange) : exec (.memoryRangeSetCreate h room l) s = .next (createSet h room l s) := by
  obtain ⟨r, -, hadmit⟩ := admitRoom_accepts (.memoryRangeSetCreate h room l) (fun _ s => createSet h room l s) ok
  exact congrArg Host.Outcome.next hadmit

theorem exec_memoryRangeSetDelete (rsid : Nat) : exec (.memoryRangeSetDelete h room rsid) s = .next (deleteSet h room rsid s) := by
  obtain ⟨r, -, hadmit⟩ := admitRoom_accepts (.memoryRangeSetDelete h room rsid) (fun _ s => deleteSet h room rsid s) ok
  exact congrArg Host.Outcome.next hadmit

end

section
variable (h : Hdr) (room : Nat) {s : State} {l : List MemRange} {rsid : Nat}

theorem createSet_taken (hne : l ≠ []) (hok : l.all memRangeOk = true) (hclear : s.rangesClear l = true) (hquota : s.quotaMode = false) :
    createSet h room l s = finishDw h stOk s.freeRsid
      (onMem (fun m => { m with sets := m.sets ++ [⟨room, s.freeRsid, l⟩] }) s) := by
  have hempty : l.isEmpty = false := by simpa using hne
  unfold createSet
  rw [if_neg (by simp only [hempty, hok, hclear]; decide), if_neg (by simp [hquota])]

theorem createSet_refused (hbad : l = [] ∨ l.all memRangeOk = false ∨ s.rangesClear l = false) :
    createSet h room l s = finish h stInvalidField s := by
  unfold createSet
  rw [if_pos]
  rcases hbad with rfl | hbad | hbad
  · rfl
  · simp only [hbad]; simp
  · simp [hbad]

theorem deleteSet_found (hex : ∃ r ∈ s.mem.sets, r.room = room ∧ r.id = rsid) :
    deleteSet h room rsid s =
      finish h stOk (onMem (fun m => { m with sets := m.sets.filter fun r => !(r.room == room && r.id == rsid) }) s) := by
  unfold deleteSet
  rw [if_pos (by simpa using hex)]

theorem deleteSet_missing (hnone : ∀ r ∈ s.mem.sets, ¬(r.room = room ∧ r.id = rsid)) :
    deleteSet h room rsid s = finish h stInvalidField s := by
  unfold deleteSet
  rw [if_neg (by simpa using hnone)]

end

/-- Settles O27: behind admission, each clause is one branch of the creation or of the deletion; the identifier is free by counting. -/
theorem rangeSetsAreCreatedAndDeleted : Obligations.RangeSetsAreCreatedAndDeleted := by
  unfold Obligations.RangeSetsAreCreatedAndDeleted
  intro h room s ok
  refine ⟨fun l hne hok hclear hquota => ?_, fun l hbad => ?_, freeRsid_free s, fun rsid hex => ?_, fun rsid hnone => ?_⟩
  · rw [exec_memoryRangeSetCreate ok, createSet_taken h room hne hok hclear hquota]
    rfl
  · rw [exec_memoryRangeSetCreate ok, createSet_refused h room hbad]
  · rw [exec_memoryRangeSetDelete ok, deleteSet_found h room hex]
    rfl
  · rw [exec_memoryRangeSetDelete ok, deleteSet_missing h room hnone]

/-! ### O40: send blocks and failed reads of host memory -/

/-- R125, R255: a block that a lesson may send, on a port that is Up. -/
theorem exec_sendBlock {run port vc flits : Nat} {r : Run} {l : Lesson} {m : Room} {s : State} (hrun : s.run? run = some r)
    (hlesson : s.lesson? r.room r.slot = some l) (hup : s.up = true) (hsends : l.sends = true) (hrerun : r.rerun = false)
    (hroom : s.room? r.room = some m) (hplain : m.plain = true) (hvc : vc = 1 ∨ vc = 3) (hfew : 1 ≤ flits) (hmany : flits ≤ 192)
    (hport : (s.port port).state = .up) :
    exec (.sendBlock run port vc flits) s =
      .next (opDone run (sendMany port vc flits (onSched (fun c => { c with sends := c.sends ++ [(port, vc, flits)] }) s))) := by
  change execSendBlock run port vc flits s = _
  simp only [execSendBlock, hrun, hlesson]
  rw [if_pos]
  have hchannel : (vc == 1 || vc == 3) = true := by simpa using hvc
  simp [hup, hsends, hrerun, hroom, hplain, hchannel, hfew, hmany, hport]

/-- R125: a failed read of a run that may read a window. -/
theorem exec_tier3ReadFailed {run : Nat} {r : Run} {w : Window} {s : State} (hrun : s.run? run = some r) (hup : s.up = true)
    (hw : w ∈ r.windows) (hread : w.access.testBit 0 = true) :
    exec (.tier3ReadFailed run) s = .next (endRun run stDataTransfer
      (onMem (fun m => { m with stats := { m.stats with failT3 := bump32 m.stats.failT3 } }) s)) := by
  have hany : r.windows.any (fun w => w.access.testBit 0) = true := List.any_eq_true.mpr ⟨w, hw, hread⟩
  change execTier3ReadFailed run s = _
  simp only [execTier3ReadFailed, hrun, hup, hany]
  rfl

/-- Settles O40: the conditions that each row checks are those that the statement gives. -/
theorem sendsAndTier3Failures : Obligations.SendsAndTier3Failures := by
  unfold Obligations.SendsAndTier3Failures
  exact ⟨fun _ _ _ _ _ _ _ _ hrun hlesson hup hsends hrerun hroom hplain hvc hfew hmany hport =>
      exec_sendBlock hrun hlesson hup hsends hrerun hroom hplain hvc hfew hmany hport,
    fun _ _ _ _ hrun hup hw hread => exec_tier3ReadFailed hrun hup hw hread⟩

end Sys2Proof.Machine
end

/-! PROOFS, shared: what a change of one die keeps, bits of Critical Warning, and what runs, segments and a reset leave alone. -/

section
namespace Sys2Proof.Machine

/-- What every step of a fold leaves alone, the fold leaves alone. -/
theorem foldl_keeps {α β : Type} {g : State → β} {f : State → α → State} (hf : ∀ s a, g (f s a) = g s) (l : List α) (s : State) :
    g (l.foldl f s) = g s := by
  induction l generalizing s with
  | nil => rfl
  | cons a r ih => exact (ih _).trans (hf s a)

/-! ### One die changed -/

section
variable (d e : Nat) (f : Die → Die) (s : State)

theorem die_onDie_same (hd : d < s.dies.dies.length) : (onDie d f s).die d = f (s.die d) := modifyAt_getD_same _ _ _ _ hd

/-- Whatever its number, a die is as it was or changed. -/
theorem die_onDie_cases : (onDie d f s).die e = s.die e ∨ (onDie d f s).die e = f (s.die e) := by
  simp only [State.die, onDie, List.getD_eq_getElem?_getD, getElem?_modifyAt]
  split
  · cases s.dies.dies[e]? with
    | none => exact .inl rfl
    | some x => exact .inr rfl
  · exact .inl rfl

/-- What a change of a die keeps of every die is kept of each. -/
theorem die_onDie_keeps {β : Type} {g : Die → β} {f : Die → Die} (hf : ∀ x, g (f x) = g x) : g ((onDie d f s).die e) = g (s.die e) := by
  rcases die_onDie_cases d e f s with h | h
  · rw [h]
  · rw [h, hf]

theorem onDie_dies_length : (onDie d f s).dies.dies.length = s.dies.dies.length := modifyAt_length ..

end

section
variable {f : Die → Die} (hf : ∀ x, (f x).state = x.state ∧ (f x).resetAt = x.resetAt) (d : Nat) (s : State)
include hf

/-- A change of a die that keeps its state and the time of its reset keeps which dies are gone (R372). -/
theorem dieGone_onDie (e : Nat) : (onDie d f s).dieGone e = s.dieGone e := by
  have hstate : ((onDie d f s).die e).state = (s.die e).state := die_onDie_keeps d e s fun x => (hf x).1
  have hreset : ((onDie d f s).die e).resetAt = (s.die e).resetAt := die_onDie_keeps d e s fun x => (hf x).2
  unfold State.dieGone
  rw [hstate, hreset]
  rfl

theorem mapOn_onDie (r : Room) (l : Lesson) (die : Nat) : (onDie d f s).mapOn r l die = s.mapOn r l die := by
  simp only [State.mapOn, dieGone_onDie hf]
  rfl

end

/-! ### Bits of Critical Warning -/

theorem finishDelete_critWarn (s : State) (d : SqDelete) : (finishDelete s d).host.critWarn = s.host.critWarn := by
  unfold finishDelete
  split
  · rfl
  · rfl

theorem post_critWarn (sq cid : Nat) (st : Status) (dw0 : Nat) (b : Blob) (s : State) :
    (post sq cid st dw0 b s).host.critWarn = s.host.critWarn :=
  foldl_keeps (g := (·.host.critWarn)) finishDelete_critWarn _ _

theorem raiseEvent_critWarn (e : Event) (s : State) : (raiseEvent e s).host.critWarn = s.host.critWarn := by
  unfold raiseEvent
  split
  · rfl
  · split
    · exact post_critWarn ..
    · split
      · rfl
      · rfl

/-- A bit that is set joins those that are. -/
theorem setCritical_testBit (b i n : Nat) (s : State) :
    (setCritical b i s).host.critWarn.testBit n = (decide (b = n) || s.host.critWarn.testBit n) := by
  unfold setCritical
  split
  next hset =>
    by_cases hn : b = n
    · simp [← hn, hset]
    · simp [hn]
  next =>
    unfold healthEvent
    rw [raiseEvent_critWarn, Nat.testBit_or, Nat.testBit_two_pow, Bool.or_comm]

/-! ### Runs and engines leave the dies alone -/

section
variable (s : State)

theorem setHolder_dies (e : Engine) (r : Option Nat) : (setHolder e r s).dies = s.dies := rfl

/-- A run's engines are given back one by one. -/
theorem releaseEngines_dies (id : Nat) (l : List Engine) :
    (l.foldl (fun s e => if s.holder e == some id then setHolder e none s else s) s).dies = s.dies := by
  refine foldl_keeps (g := State.dies) (fun s e => ?_) l s
  split
  · exact setHolder_dies s e none
  · rfl

theorem dropRun_dies (r : Run) : (dropRun r s).dies = s.dies := releaseEngines_dies s r.id r.engines

theorem haltRun_dies (r : Run) : (haltRun r s).dies = s.dies := releaseEngines_dies s r.id r.engines

theorem endRun_dies (id : Nat) (st : Status) : (endRun id st s).dies = s.dies := by
  unfold endRun
  split
  · rfl
  · dsimp only
    split
    · exact dropRun_dies s _
    · split
      · exact (post_dies ..).trans (dropRun_dies s _)
      · exact (finish_dies ..).trans (dropRun_dies s _)

theorem haltSteps_dies (d : Nat) (fired : Option Engine) : (haltSteps d fired s).dies = s.dies := by
  refine foldl_keeps (g := State.dies) (fun s t => ?_) _ s
  split
  · split
    · split
      · exact dropRun_dies s _
      · rfl
    · rfl
  · rfl

theorem restartRun_dies (r : Run) : (restartRun r s).dies = s.dies :=
  foldl_keeps (g := State.dies) (f := fun s e => makeReady r.id e s) (fun _ _ => rfl) r.engines (onRun r.id _ s)

theorem restartRuns_noRuns (h : s.sched.runs = []) : restartRuns s = s := by
  unfold restartRuns
  rw [h]
  exact ite_self _

theorem run?_noRuns (h : s.sched.runs = []) (id : Nat) : s.run? id = none := by
  rw [State.run?, h]
  rfl

theorem quarantine_noRuns (h : s.sched.runs = []) (d id : Nat) : quarantine d id s = s := by
  unfold quarantine
  rw [run?_noRuns s h]

end

/-! ### What loading segments leaves alone -/

/-- From one state to another only bytes in memory, segments and their counts have changed. -/
def Loads (s t : State) : Prop :=
  t = { s with mem := { s.mem with sram := t.mem.sram, dram := t.mem.dram, segs := t.mem.segs, stats := t.mem.stats } }

namespace Loads
variable {s t u : State}

theorem refl (s : State) : Loads s s := rfl

theorem trans (h : Loads s t) (k : Loads t u) : Loads s u := by
  unfold Loads at h k ⊢
  rw [k, h]

theorem foldl {α : Type} {f : State → α → State} (hf : ∀ s a, Loads s (f s a)) (l : List α) (s : State) : Loads s (l.foldl f s) := by
  induction l generalizing s with
  | nil => exact refl s
  | cons a r ih => exact (hf s a).trans (ih _)

theorem dies (h : Loads s t) : t.dies = s.dies := (congrArg State.dies h :)
theorem sched (h : Loads s t) : t.sched = s.sched := (congrArg State.sched h :)
theorem lostSpans (h : Loads s t) : t.mem.lostSpans = s.mem.lostSpans := congrArg (·.mem.lostSpans) h
theorem die (h : Loads s t) (d : Nat) : t.die d = s.die d := congrArg (·.die d) h
theorem run? (h : Loads s t) (id : Nat) : t.run? id = s.run? id := congrArg (·.run? id) h

end Loads

theorem memWrite_loads (nsid o : Nat) (d : Blob) (s : State) : Loads s (memWrite nsid o d s) := by
  unfold memWrite setRam
  split
  · rfl
  · rfl

theorem reloadSeg_loads (g : Segment) (s : State) : Loads s (reloadSeg g s) := by
  unfold reloadSeg
  split
  · split
    · exact memWrite_loads ..
    · exact .refl s
  · exact .refl s

theorem reloadPinned_loads (d : Nat) (s : State) : Loads s (reloadPinned d s) := .foldl (fun s g => reloadSeg_loads g s) _ s

theorem dropSeg_loads (g : Segment) (s : State) : Loads s (dropSeg g s) := rfl

theorem onMem_stats_loads (f : MemSt → PoolStats) (s : State) : Loads s (onMem (fun m => { m with stats := f m }) s) := rfl

theorem onMem_segs_loads (f : MemSt → List Segment) (s : State) : Loads s (onMem (fun m => { m with segs := f m }) s) := rfl

theorem placeSeg_loads {room : Nat} {owner : SegOwner} {x : SegDecl} {fuel : Nat} {s t : State} {g : Segment}
    (h : placeSeg room owner x fuel s = some (g, t)) : Loads s t := by
  induction fuel generalizing s with
  | zero => cases h
  | succ fuel ih =>
    unfold placeSeg at h
    split at h
    · cases h
      rfl
    · split at h
      next y _ => exact ((dropSeg_loads y s).trans (onMem_stats_loads ..)).trans (ih h)
      · cases h

theorem movePinned_loads (d : Nat) (s : State) : Loads s (movePinned d s) := by
  refine .foldl (fun s g => ?_) _ s
  split
  next n t hplace =>
    have hthere : Loads s t := (dropSeg_loads g s).trans (placeSeg_loads hplace)
    exact (hthere.trans (onMem_segs_loads ..)).trans (reloadSeg_loads n _)
  · exact dropSeg_loads g s

/-! ### The reset of an array die, as its dies see it -/

/-- Of the dies, only counts of granules poisoned there have changed. -/
def PoisonCounted (s t : State) : Prop :=
  t.dies = { s.dies with dies := t.dies.dies } ∧ ∀ e, t.die e = { s.die e with poisonCreated := (t.die e).poisonCreated }

namespace PoisonCounted
variable {s t u : State}

theorem of_dies (h : t.dies = s.dies) : PoisonCounted s t := by
  unfold PoisonCounted State.die
  rw [h]
  exact ⟨rfl, fun _ => rfl⟩

theorem trans (h : PoisonCounted s t) (k : PoisonCounted t u) : PoisonCounted s u := by
  refine ⟨?_, fun e => ?_⟩
  · rw [k.1, h.1]
  · rw [k.2 e, h.2 e]

theorem foldl {α : Type} {f : State → α → State} (hf : ∀ s a, PoisonCounted s (f s a)) (l : List α) (s : State) :
    PoisonCounted s (l.foldl f s) := by
  induction l generalizing s with
  | nil => exact of_dies rfl
  | cons a r ih => exact (hf s a).trans (ih _)

end PoisonCounted

theorem countPoison_counted (d n : Nat) (s : State) : PoisonCounted s (countPoison d n s) := by
  refine ⟨rfl, fun e => ?_⟩
  rcases die_onDie_cases d e (fun x => { x with poisonCreated := satAdd 32 x.poisonCreated n }) s with h | h
  · rw [countPoison, h]
  · rw [countPoison, h]

theorem memMark_counted (nsid : Nat) (gs : List Nat) (s : State) : PoisonCounted s (memMark nsid gs s) := by
  have hmarked : (setRam nsid ((s.ram nsid).mark gs) s).dies = s.dies := by
    unfold setRam
    split
    · rfl
    · rfl
  refine (PoisonCounted.of_dies hmarked).trans (.foldl (fun s d => ?_) _ _)
  dsimp only
  split
  · exact .of_dies rfl
  · exact countPoison_counted ..

theorem clearShare_counted (d : Nat) (s : State) : PoisonCounted s (clearShare d s) :=
  (PoisonCounted.of_dies (t := onMem _ s) rfl).trans (memMark_counted ..)

theorem clearArray_counted (d : Nat) (s : State) : PoisonCounted s (clearEngines d (clearShare d s)) :=
  (clearShare_counted d s).trans (.of_dies rfl)

/-- Step 1 of R368 for an array die: its runs stop and its share is cleared, of which the dies count poison alone. -/
theorem dieReset_array_counted {d : Nat} (hd : d = 3 ∨ d = 4) (cause : Nat) (fired : Option Engine) (s : State) :
    PoisonCounted (onDie d (fun x => { x with
      state := .resetting
      gen := x.gen + 1
      resets := bump32 x.resets
      lastBell := s.bell.count
      lastCause := cause
      resetAt := s.pos }) s) (dieReset d cause fired s) := by
  have hvalley : ¬(d = 1 ∨ d = 2) := by omega
  have hhub : ¬(d = 0) := by omega
  unfold dieReset
  simp only [if_neg hvalley, if_neg hhub, if_pos hd]
  refine .trans ?_ (clearArray_counted d _)
  refine .trans ?_ (.foldl (fun s r => .of_dies (haltRun_dies s r)) _ _)
  exact .of_dies (haltSteps_dies _ d fired)

end Sys2Proof.Machine
end

/-! PROOFS of the family 05_tier_map, second part: a die after its reset (O42). -/

section
namespace Sys2Proof.Machine

/-! ### The return of a die (R368 step 4) -/

section
variable {s : State} {d : Nat}

theorem exec_dieReturn (hup : s.up = true) (hd : d < 5) (hst : (s.die d).state = .resetting) (ok : Bool) :
    exec (.dieReturn d ok) s = .next (if ok then resumeDie d (endHang d (reloadPinned d s)) else dieFailed d s) := by
  have hle : d ≤ 4 := by omega
  change Host.Outcome.next (dieReturn d ok s) = _
  unfold dieReturn
  rw [if_neg (by simp [hup, hle, hst])]
  cases ok
  · rfl
  · rfl

theorem exec_dieReturn_ignored (ok : Bool) (h : s.up = false ∨ (s.die d).state ≠ .resetting) : exec (.dieReturn d ok) s = .next s := by
  change Host.Outcome.next (dieReturn d ok s) = _
  unfold dieReturn
  rw [if_pos]
  rcases h with h | h
  · simp [h]
  · simp [h]

theorem endHang_not_replayed (h : (s.die d).replayed = false) : endHang d s = s := by
  unfold endHang
  rw [h]
  rfl

theorem resumeDie_without_suspects (hruns : s.sched.runs = []) (hsuspects : (s.die d).suspects = [])
    (hquarantined : (s.die d).quarantined = false) : resumeDie d s = onDie d (fun x => { x with state := x.serving }) s := by
  unfold resumeDie
  rw [hsuspects, hquarantined]
  exact restartRuns_noRuns _ hruns

/-- With a suspect in front that still runs, the die goes into its replay. -/
theorem resumeDie_replays {id : Nat} {rest : List Nat} {r : Run} (hsuspects : (s.die d).suspects = id :: rest)
    (hrun : s.run? id = some r) : resumeDie d s = restartRun r (onDie d (fun x => { x with state := .replaying }) s) := by
  unfold resumeDie replayNext
  simp only [hsuspects, hrun]
  rfl

theorem reloadPinned_without_segments (h : s.pinnedOn d = []) : reloadPinned d s = s := by
  rw [reloadPinned, h]
  rfl

theorem reloadPinned_one {g : Segment} {room slot : Nat} {l : Lesson} (h : s.pinnedOn d = [g]) (howner : g.owner = .lesson room slot)
    (hlesson : s.lesson? room slot = some l) :
    reloadPinned d s = memWrite 73 g.start ((Config.lessonPinned l.image (pinnedEntry l g s)).fit g.size) s := by
  have htier : g.tier = 0 := by
    have hmem : g ∈ s.pinnedOn d := by simp [h]
    simp only [State.pinnedOn, List.mem_filter, Bool.and_eq_true, beq_iff_eq] at hmem
    obtain ⟨-, ⟨htier, -⟩, -⟩ := hmem
    exact htier
  rw [reloadPinned, h, List.foldl_cons, List.foldl_nil, reloadSeg, howner]
  simp only [hlesson, loadSeg, htier]

end

/-! ### A die that does not return (R372, R373) -/

/-- A die whose suspects are replayed on its sibling. -/
def Die.dropSuspects (x : Die) : Die := { x with suspects := [], quarantined := false }

/-- The mark that a halted step takes the sibling die in its next attempt (R280). -/
def markMoved (t : TrainSt) : TrainSt := { t with steps := t.steps.map fun x => if x.halted then { x with moved := true } else x }

section
variable {s : State} {d : Nat}

/-- Where no suspect is left among the moved runs, nothing is replayed on the sibling. -/
theorem moveRuns_without_suspects {t : State}
    (ht : t = ((endHang d s).sched.runs.filter fun r => r.on d && !r.train).foldl (fun s r => moveRun d r s)
      (onDie d Die.dropSuspects (endHang d s)))
    (hnone : ∀ id ∈ ((endHang d s).die d).suspects, t.run? id = none) : moveRuns d s = restartRuns (onTrain markMoved t) := by
  have hlive : (((endHang d s).die d).suspects.filter fun id => (t.run? id).isSome) = [] := by
    rw [List.filter_eq_nil_iff]
    intro id hid
    simp [hnone id hid]
  subst ht
  unfold moveRuns
  exact if_pos (List.isEmpty_iff.mpr hlive)

/-- Without runs, the end of a replay that hung only changes what the die notes of it. -/
theorem endHang_noRuns (hd : d < s.dies.dies.length) (h : s.sched.runs = []) :
    ((endHang d s).die d).state = (s.die d).state ∧ (endHang d s).dies.dies.length = s.dies.dies.length ∧
      (endHang d s).sched.runs = [] ∧ (endHang d s).mem = s.mem := by
  unfold endHang
  split
  · exact ⟨rfl, rfl, h, rfl⟩
  · split
    next x rest _ =>
      rw [quarantine_noRuns (onDie d _ s) h, die_onDie_same _ _ _ hd]
      exact ⟨rfl, onDie_dies_length .., h, rfl⟩
    next =>
      rw [die_onDie_same _ _ _ hd]
      exact ⟨rfl, onDie_dies_length .., h, rfl⟩

theorem moveRuns_noRuns (hd : d < s.dies.dies.length) (h : s.sched.runs = []) :
    ((moveRuns d s).die d).state = (s.die d).state ∧ (moveRuns d s).mem = s.mem := by
  obtain ⟨hstate, hlength, hruns, hmem⟩ := endHang_noRuns hd h
  rw [moveRuns_without_suspects (t := onDie d Die.dropSuspects (endHang d s))
    (by rw [hruns]; rfl) (fun id _ => run?_noRuns _ hruns id), restartRuns_noRuns (onTrain markMoved (onDie d _ (endHang d s))) hruns]
  refine ⟨?_, hmem⟩
  change ((onDie d _ (endHang d s)).die d).state = _
  rw [die_onDie_same _ _ _ (hlength.symm ▸ hd)]
  exact hstate

/-- A run without working segments needs no place on the sibling. -/
theorem moveSegs_without_segments {r : Run} (h : ∀ g ∈ s.mem.segs, g.owner ≠ .run r.id) : moveSegs r d s = some s := by
  have hmine : (s.mem.segs.filter fun g => g.owner == .run r.id && g.tier == 0 && g.die == d) = [] := by
    rw [List.filter_eq_nil_iff]
    intro g hg
    simp [h g hg]
  have hkept : (s.mem.segs.filter fun g => !(([] : List Segment).contains g)) = s.mem.segs := List.filter_eq_self.mpr fun _ _ => rfl
  simp only [moveSegs, hmine, List.map_nil, placeAll, Option.map_some, onMem, hkept]

theorem moveRun_to_sibling {r : Run} {rm : Room} {l : Lesson} {es : List Engine} (hroom : s.room? r.room = some rm)
    (hlesson : s.lesson? r.room r.slot = some l) (hmap : s.mapOn rm l (7 - d) = some es) (hsegs : ∀ g ∈ s.mem.segs, g.owner ≠ .run r.id) :
    moveRun d r s = onRun r.id (fun x => { x with engines := es, die := 7 - d })
      { s with dies := { s.dies with moves := bump32 s.dies.moves } } := by
  unfold moveRun
  simp only [hroom, hlesson, hmap, moveSegs_without_segments hsegs]

/-- While an array die is in reset, no run starts again. -/
theorem restartRuns_in_reset (hd : d = 3 ∨ d = 4) (hst : (s.die d).state = .resetting) : restartRuns s = s := by
  unfold restartRuns
  rw [if_pos]
  rcases hd with rfl | rfl
  · simp [hst]
  · simp [hst]

/-- The one run of a die that is gone moves, and waits while its old die is in reset (R372). -/
theorem moveRuns_one {r : Run} {rm : Room} {l : Lesson} {es : List Engine} (hd : d = 3 ∨ d = 4) (hlength : d < s.dies.dies.length)
    (hst : (s.die d).state = .resetting) (hsuspects : (s.die d).suspects = []) (hreplayed : (s.die d).replayed = false)
    (hruns : s.sched.runs = [r]) (hon : r.on d = true) (htrain : r.train = false) (hroom : s.room? r.room = some rm)
    (hlesson : s.lesson? r.room r.slot = some l) (hmap : s.mapOn rm l (7 - d) = some es) (hsegs : ∀ g ∈ s.mem.segs, g.owner ≠ .run r.id) :
    (moveRuns d s).sched.runs = [{ r with engines := es, die := 7 - d }] ∧ (moveRuns d s).dies.moves = bump32 s.dies.moves := by
  have hhang : endHang d s = s := endHang_not_replayed hreplayed
  have hmoved := moveRun_to_sibling (s := onDie d Die.dropSuspects s) (d := d) hroom hlesson
    ((mapOn_onDie (f := Die.dropSuspects) (fun _ => ⟨rfl, rfl⟩) d s rm l (7 - d)).trans hmap) hsegs
  generalize hu : onRun r.id (fun x => { x with engines := es, die := 7 - d }) _ = u at hmoved
  have hreset : (u.die d).state = .resetting := by
    subst hu
    change ((onDie d _ s).die d).state = _
    rw [die_onDie_same _ _ _ hlength]
    exact hst
  rw [moveRuns_without_suspects (t := u) (by rw [hhang, hruns]; simp [hon, htrain, hmoved]) (by rw [hhang, hsuspects]; simp),
    restartRuns_in_reset (s := onTrain markMoved u) hd hreset]
  subst hu
  exact ⟨by simp [onRun, onSched, onTrain, onDie, hruns], rfl⟩

theorem exec_replayWindowExpired (hd : d = 3 ∨ d = 4) (hst : (s.die d).state = .resetting) :
    exec (.replayWindowExpired d) s = .next (if s.dieGone d then moveRuns d s else s) := by
  have harray : (d == 3 || d == 4) = true := by simpa using hd
  change execReplayWindowExpired d s = _
  simp only [execReplayWindowExpired, harray, hst]
  rfl

theorem dieFailed_hub (hd : 0 < s.dies.dies.length) : ((dieFailed 0 s).die 0).state = .failed ∧
    (dieFailed 0 s).power.down = .hubFailed ∧ (dieFailed 0 s).power.mgmt = false := by
  refine ⟨?_, rfl, rfl⟩
  change ((onDie 0 _ s).die 0).state = _
  rw [die_onDie_same _ _ _ hd]

theorem dieFailed_valley (hvalley : d = 1 ∨ d = 2) (hd : d < s.dies.dies.length) : ((dieFailed d s).die d).state = .failed ∧
    (dieFailed d s).readOnly = true ∧ (dieFailed d s).host.critWarn.testBit 2 = true := by
  have hhub : ¬d = 0 := by omega
  unfold dieFailed degradeReliability State.readOnly State.die
  simp only [if_neg hhub, if_pos hvalley, setCritical_testBit, setCritical_dies]
  refine ⟨?_, rfl, rfl⟩
  exact congrArg Die.state (die_onDie_same d (fun x => { x with state := .failed }) s hd)

theorem dieFailed_array (harray : d = 3 ∨ d = 4) (hd : d < s.dies.dies.length) (hruns : s.sched.runs = []) :
    ((dieFailed d s).die d).state = .failed ∧ (dieFailed d s).host.critWarn.testBit 2 = true ∧
      (73, dieBase d, dieShare d) ∈ (dieFailed d s).mem.lostSpans := by
  have hhub : ¬d = 0 := by omega
  have hvalley : ¬(d = 1 ∨ d = 2) := by omega
  have hloads := movePinned_loads d (loseShare d (onDie d (fun x => { x with state := .failed }) s))
  have hfailed : dieFailed d s =
      degradeReliability (moveRuns d (movePinned d (loseShare d (onDie d (fun x => { x with state := .failed }) s)))) := by
    unfold dieFailed
    rw [if_neg hhub, if_neg hvalley]
  generalize movePinned d _ = u at hloads hfailed
  have hlength : d < u.dies.dies.length := by
    rw [hloads.dies]
    exact (onDie_dies_length d _ s).symm ▸ hd
  obtain ⟨hstate, hmem⟩ := moveRuns_noRuns hlength ((congrArg SchedSt.runs hloads.sched).trans hruns)
  rw [hfailed]
  unfold degradeReliability
  refine ⟨?_, by rw [setCritical_testBit]; rfl, ?_⟩
  · unfold State.die at hstate ⊢
    rw [setCritical_dies, hstate, hloads.dies]
    exact congrArg Die.state (die_onDie_same d (fun x => { x with state := .failed }) s hd)
  · rw [setCritical_mem, hmem, hloads.lostSpans]
    exact List.mem_append_right _ List.mem_cons_self

end

/-! ### The replay of a suspect (R371) -/

section
variable {s : State} {d : Nat}

theorem exec_suspectReplay_hang (hup : s.up = true) (hst : (s.die d).state = .replaying) :
    exec (.suspectReplay d true) s = .next (hangAgain d s) := by
  change execSuspectReplay d true s = _
  simp [execSuspectReplay, hup, hst]

theorem exec_suspectReplay_running {id : Nat} {rest : List Nat} (hsuspects : (s.die d).suspects = id :: rest)
    (hrun : (s.run? id).isSome = true) : exec (.suspectReplay d false) s = .next s := by
  change execSuspectReplay d false s = _
  simp [execSuspectReplay, hsuspects, hrun]

theorem exec_suspectReplay_ended {id : Nat} {rest : List Nat} (hup : s.up = true) (hst : (s.die d).state = .replaying)
    (hsuspects : (s.die d).suspects = id :: rest) (hrun : s.run? id = none) : exec (.suspectReplay d false) s =
      .next (replayNext d (rest.length + 1) (onDie d (fun x => { x with suspects := rest }) (countReplay s))) := by
  change execSuspectReplay d false s = _
  simp [execSuspectReplay, hup, hst, hsuspects, hrun]

/-- A second hang resets its array die, which notes it (R368, R371). -/
theorem hangAgain_array (harray : d = 3 ∨ d = 4) (hd : d < s.dies.dies.length) :
    ((hangAgain d s).die d).state = .resetting ∧ ((hangAgain d s).die d).gen = (s.die d).gen + 1 ∧
      ((hangAgain d s).die d).lastCause = 1 ∧ (hangAgain d s).dies.replays = bump32 s.dies.replays ∧
      ((hangAgain d s).die d).replayed = true := by
  obtain ⟨hdies, hdie⟩ := dieReset_array_counted harray 1 none
    (onDie d (fun x => { x with wdFires := bump32 x.wdFires, replayed := true }) (countReplay s))
  have hsame : (countReplay s).die d = s.die d := rfl
  have hcounted : d < (countReplay s).dies.dies.length := hd
  unfold hangAgain
  rw [hdie d, hdies, die_onDie_same _ _ _ (by rwa [onDie_dies_length]), die_onDie_same _ _ _ hcounted, hsame]
  exact ⟨rfl, rfl, rfl, rfl, rfl⟩

/-- The last suspect is done with: the die serves again, and a hang that did not come back was transient (R371). -/
theorem replayNext_noRuns {fuel : Nat} (hd : d < s.dies.dies.length) (hruns : s.sched.runs = []) (hsuspects : (s.die d).suspects = []) :
    ((replayNext d (fuel + 1) s).die d).state = (s.die d).serving ∧ ((replayNext d (fuel + 1) s).die d).suspects = [] ∧
      (replayNext d (fuel + 1) s).dies.replays = s.dies.replays ∧
      (replayNext d (fuel + 1) s).dies.transients = (if (s.die d).quarantined then s.dies.transients else bump32 s.dies.transients) := by
  unfold replayNext
  simp only [hsuspects]
  split
  · rw [restartRuns_noRuns (onDie d _ s) hruns, die_onDie_same _ _ _ hd]
    exact ⟨rfl, hsuspects, rfl, rfl⟩
  · rw [restartRuns_noRuns (onDie d _ { s with dies := { s.dies with transients := bump32 s.dies.transients } }) hruns,
      die_onDie_same d _ { s with dies := { s.dies with transients := bump32 s.dies.transients } } hd]
    exact ⟨rfl, hsuspects, rfl, rfl⟩

end

/-! ### Generation tags (R370) -/

/-- A run's command ends with a status other than Unrecovered Read Error once what the run held is freed. -/
theorem endRun_finishes {s : State} {id : Nat} {r : Run} {st : Status} (hrun : s.run? id = some r) (htrain : r.train = false)
    (hst : st ≠ stUnrecovered) : endRun id st s = finish r.hdr st (dropRun r s) := by
  simp [endRun, hrun, htrain, hst]

/-- A request that has ended is off the list, and its holder counts it. -/
def endRequest (x : DieReq) (s : State) : State :=
  onDie x.holder (fun d => { d with genDropped := bump32 d.genDropped })
    { s with dies := { s.dies with reqs := s.dies.reqs.filter fun y => y.id != x.id } }

section
variable {s : State} {x : DieReq}

theorem endRequest_die_state (d : Nat) : ((endRequest x s).die d).state = (s.die d).state :=
  die_onDie_keeps (g := Die.state) x.holder d _ fun _ => rfl

/-- Whatever becomes of the run, the dies see the request end and nothing else. -/
theorem dropGeneration_dies : (dropGeneration x s).dies = (endRequest x s).dies := by
  unfold dropGeneration
  simp only
  split
  · rfl
  · split
    · rfl
    · split
      · split
        · rfl
        · exact endRun_dies (endRequest x s) _ _
      · split
        · exact dropRun_dies (endRequest x s) _
        · exact haltRun_dies (endRequest x s) _

/-- The run of a request to an array die that has failed completes with Generation Dropped. -/
theorem dropGeneration_failed {r : Run} (htarget : x.target = 3 ∨ x.target = 4) (hrun : s.run? x.run = some r) (htrain : r.train = false)
    (hfailed : (s.die x.target).state = .failed) :
    dropGeneration x s = finish r.hdr stGenDropped (dropRun r (endRequest x s)) := by
  have hvalley : ¬(x.target = 1 ∨ x.target = 2) := by omega
  have hid : r.id = x.run := by simpa using List.find?_some hrun
  have hthere : (endRequest x s).run? x.run = some r := hrun
  have hstate : ((endRequest x s).die x.target).state = .failed := (endRequest_die_state _).trans hfailed
  rw [← endRun_finishes hthere htrain (by decide)]
  unfold dropGeneration
  simp only [endRequest] at hthere hstate ⊢
  simp [if_neg hvalley, hthere, hstate, htrain, hid]

theorem exec_generationDropped (hfind : (s.dies.reqs.find? fun y => y.id == x.id) = some x) (htag : x.tag ≠ (s.die x.target).gen)
    (hreached : reached (x.issued + s.img.active.watch.replyTimeout) s.pos = true) :
    exec (.generationDropped x.id) s = .next (dropGeneration x s) := by
  change execGenerationDropped x.id s = _
  simp [execGenerationDropped, hfind, htag, hreached]

theorem exec_generationDropped_unknown {req : Nat} (hfind : (s.dies.reqs.find? fun y => y.id == req) = none) :
    exec (.generationDropped req) s = .next s := by
  change execGenerationDropped req s = _
  simp only [execGenerationDropped, hfind]

theorem exec_lateReplyDrop {holder source : Nat} (tag : Nat) (hup : s.up = true) (hholder : holder ≤ 4) (hsource : source ≤ 4) :
    exec (.lateReplyDrop holder source tag) s = .next (if BitVec.ofNat 8 tag = (s.die source).gen then s
      else onDie holder (fun d => { d with lateDrops := bump32 d.lateDrops }) s) := by
  change execLateReplyDrop holder source tag s = _
  by_cases htag : BitVec.ofNat 8 tag = (s.die source).gen
  · simp [execLateReplyDrop, htag]
  · simp [execLateReplyDrop, hup, hholder, hsource, htag]

end

/-! ### The clauses of O42 -/

section
variable {s : State} {d : Nat}

theorem State.shaped.die_lt (hshaped : s.shaped) (hd : d < 5) : d < s.dies.dies.length := by
  rw [hshaped.1]
  exact hd

/-- A die that returns without suspects serves, once its pinned segments are there again. -/
theorem dieReturn_serves (hup : s.up = true) (hd : d < 5) (hst : (s.die d).state = .resetting) (hruns : s.sched.runs = [])
    (hsuspects : (s.die d).suspects = []) (hreplayed : (s.die d).replayed = false) (hquarantined : (s.die d).quarantined = false) :
    exec (.dieReturn d true) s = .next (onDie d (fun x => { x with state := x.serving }) (reloadPinned d s)) := by
  have hloads := reloadPinned_loads d s
  rw [exec_dieReturn hup hd hst, if_pos rfl]
  generalize reloadPinned d s = u at hloads ⊢
  have hdie := hloads.die d
  rw [endHang_not_replayed (hdie ▸ hreplayed), resumeDie_without_suspects (hloads.sched ▸ hruns) (hdie ▸ hsuspects) (hdie ▸ hquarantined)]

/-- A die that returns with a suspect that still runs replays it. -/
theorem dieReturn_replays {id : Nat} {rest : List Nat} {r : Run} (hup : s.up = true) (hlength : d < s.dies.dies.length) (hd : d < 5)
    (hst : (s.die d).state = .resetting) (hsuspects : (s.die d).suspects = id :: rest) (hreplayed : (s.die d).replayed = false)
    (hrun : s.run? id = some r) : ∃ t, exec (.dieReturn d true) s = .next t ∧ (t.die d).state = .replaying ∧
      (t.die d).suspects = id :: rest := by
  have hloads := reloadPinned_loads d s
  rw [exec_dieReturn hup hd hst, if_pos rfl]
  generalize reloadPinned d s = u at hloads ⊢
  have hdie := hloads.die d
  rw [endHang_not_replayed (hdie ▸ hreplayed), resumeDie_replays (hdie ▸ hsuspects) ((hloads.run? id).trans hrun)]
  have hsame : (restartRun r (onDie d (fun x => { x with state := .replaying }) u)).die d = { u.die d with state := .replaying } := by
    unfold State.die
    rw [restartRun_dies]
    exact die_onDie_same d _ u (hloads.dies ▸ hlength)
  refine ⟨_, rfl, ?_, ?_⟩
  · rw [hsame]
  · rw [hsame]
    exact hdie ▸ hsuspects

theorem exec_dieReturn_fails (hup : s.up = true) (hd : d < 5) (hst : (s.die d).state = .resetting) :
    exec (.dieReturn d false) s = .next (dieFailed d s) := exec_dieReturn hup hd hst false

/-- A request of an old generation ends (R370). -/
theorem generationDropped_effect {x : DieReq} (hholder : x.holder < s.dies.dies.length)
    (hfind : (s.dies.reqs.find? fun y => y.id == x.id) = some x) (htag : x.tag ≠ (s.die x.target).gen)
    (hreached : reached (x.issued + s.img.active.watch.replyTimeout) s.pos = true) :
    ∃ t, exec (.generationDropped x.id) s = .next t ∧ t.dies.reqs = s.dies.reqs.filter (fun y => y.id != x.id) ∧
      (t.die x.holder).genDropped = bump32 (s.die x.holder).genDropped ∧
      (∀ r, x.target = 3 ∨ x.target = 4 → s.run? x.run = some r → r.train = false → (s.die x.target).state = .failed →
        ∃ u, t = finish r.hdr stGenDropped u) := by
  refine ⟨_, exec_generationDropped hfind htag hreached, ?_, ?_, fun r htarget hrun htrain hfailed =>
    ⟨_, dropGeneration_failed htarget hrun htrain hfailed⟩⟩
  · rw [dropGeneration_dies]
    rfl
  · unfold State.die
    rw [dropGeneration_dies]
    exact congrArg Die.genDropped (die_onDie_same x.holder _ { s with dies := { s.dies with
      reqs := s.dies.reqs.filter fun y => y.id != x.id } } hholder)

end

/-- Settles O42: the return by what the die notes of suspects, the failure by the die, the replay by how the suspect ended, the move by what
its one run needs, and the requests and replies by their tags. -/
theorem diesReturnReplayOrFail : Obligations.DiesReturnReplayOrFail := by
  unfold Obligations.DiesReturnReplayOrFail
  refine ⟨fun s d hshaped hup hd hst => ⟨fun hruns hsuspects hreplayed hquarantined =>
        ⟨fun hnone => ?_, fun g room slot l hone howner hlesson => ?_⟩,
      fun id r hsuspects hreplayed hrun => dieReturn_replays hup (hshaped.die_lt hd) hd hst hsuspects hreplayed hrun,
      fun hhub => ?_, fun hvalley => ?_, fun harray hruns => ?_⟩,
    fun s d ok => exec_dieReturn_ignored ok,
    fun s d id hshaped hup harray hst hsuspects => ⟨?_, exec_suspectReplay_running hsuspects, fun hruns => ?_⟩,
    fun s d hshaped harray hst hsuspects hreplayed => ⟨fun hthere => ?_, fun r rm l es hgone hruns hon htrain hroom hlesson hmap hsegs => ?_⟩,
    fun s x hshaped hholder hfind htag hreached => generationDropped_effect (hshaped.die_lt hholder) hfind htag hreached,
    fun s req => exec_generationDropped_unknown,
    fun s holder source tag hup hholder hsource => ⟨fun hold => ?_, fun hnew => ?_⟩⟩
  · rw [dieReturn_serves hup hd hst hruns hsuspects hreplayed hquarantined, reloadPinned_without_segments hnone]
    rfl
  · rw [dieReturn_serves hup hd hst hruns hsuspects hreplayed hquarantined, reloadPinned_one hone howner hlesson]
    rfl
  · subst hhub
    exact ⟨_, exec_dieReturn_fails hup hd hst, dieFailed_hub (hshaped.die_lt hd)⟩
  · exact ⟨_, exec_dieReturn_fails hup hd hst, dieFailed_valley hvalley (hshaped.die_lt hd)⟩
  · exact ⟨_, exec_dieReturn_fails hup hd hst, dieFailed_array harray (hshaped.die_lt hd) hruns⟩
  · exact ⟨_, exec_suspectReplay_hang hup hst, hangAgain_array harray (hshaped.die_lt (by omega))⟩
  · have hd : d < (countReplay s).dies.dies.length := hshaped.die_lt (by omega)
    have hdie := die_onDie_same d (fun x => { x with suspects := [] }) (countReplay s) hd
    have hnext := replayNext_noRuns (fuel := 0) (s := onDie d (fun x => { x with suspects := [] }) (countReplay s))
      (by rwa [onDie_dies_length]) hruns (by rw [hdie])
    rw [hdie] at hnext
    exact ⟨_, exec_suspectReplay_ended hup hst hsuspects (run?_noRuns s hruns id), hnext⟩
  · rw [exec_replayWindowExpired harray hst, if_neg (by simp [hthere])]
  · rw [exec_replayWindowExpired harray hst, if_pos hgone]
    exact ⟨_, rfl, moveRuns_one harray (hshaped.die_lt (by omega)) hst hsuspects hreplayed hruns hon htrain hroom hlesson hmap hsegs⟩
  · rw [exec_lateReplyDrop tag hup hholder hsource, if_neg hold]
  · rw [exec_lateReplyDrop tag hup hholder hsource, if_pos hnew]

end Sys2Proof.Machine
end

/-! PROOFS of the family 06_valley_scan: page reads as they come back (O43). -/

section
namespace Sys2Proof.Machine

/-! ### Lists: an entry changed under its key, a number put into a set, a span of one -/

/-- Where the entries of a key are changed and keep it, the first entry of the key is the one there was, changed. -/
theorem find?_changed_same {α : Type} {key : α → Nat} {f : α → α} (hf : ∀ a, key (f a) = key a) (k : Nat) (l : List α) :
    (l.map fun a => if key a = k then f a else a).find? (fun a => key a == k) = (l.find? fun a => key a == k).map f := by
  induction l with
  | nil => rfl
  | cons a r ih =>
    by_cases ha : key a = k
    · simp [ha, hf]
    · simp [ha, ih]

theorem mem_insertSet {g a : Nat} {l : List Nat} : g ∈ insertSet a l ↔ g = a ∨ g ∈ l := by
  simpa using congrArg (· = true) (contains_insertSet a g l)

theorem mem_insertAll {g : Nat} {l s : List Nat} : g ∈ insertAll l s ↔ g ∈ l ∨ g ∈ s := by
  induction l generalizing s with
  | nil => simp [insertAll]
  | cons a r ih =>
    rw [List.mem_cons, or_assoc, or_left_comm, ← mem_insertSet]
    exact ih

theorem spanList_one (a : Nat) : spanList a (0 + 1) = [a] := rfl

theorem Blob.append_empty (b : Blob) : b.append (Blob.zero 0) = b := by
  simp [Blob.append, Blob.zero, Cells.shiftUp]

/-! ### A host Read that waits for one page -/

/-- The host Read of LBA `slba` is job `j`, which waits for the unit of page read `x` alone; no query reads flash meanwhile. -/
structure AwaitedBy (s : State) (x : FRead) (j : Job) (h : Hdr) (nsid slba : Nat) (n : Ns) : Prop where
  read : s.read? x.rid = some x
  job : s.job? x.job = some j
  kind : j.kind = .nvmRead h nsid slba 0
  wait : j.wait = [x.lsn]
  got : j.got = []
  ns : s.ns? nsid = some n
  slot : x.lsn = s.slotOf n slba
  whole : s.deferredLba n.nsid slba = false
  scans : s.query.scans = []
  runs : s.query.runs = []

theorem AwaitedBy.onDies {s : State} {x : FRead} {j : Job} {h : Hdr} {nsid slba : Nat} {n : Ns} (w : AwaitedBy s x j h nsid slba n)
    (f : DieSt → DieSt) : AwaitedBy (onDies' f s) x j h nsid slba n :=
  ⟨w.read, w.job, w.kind, w.wait, w.got, w.ns, w.slot, w.whole, w.scans, w.runs⟩

/-- From one state to another a page read has only left its notes: counters, the error log, columns, and what recess is to copy or
rewrite. -/
def ReadNoted (s t : State) : Prop :=
  t = { s with
    dies := { t.dies with recoveredRow := s.dies.recoveredRow }
    query := { s.query with valleys := t.query.valleys }
    ftl := { s.ftl with
      cols := t.ftl.cols, sbs := t.ftl.sbs, stats := t.ftl.stats, copyCols := t.ftl.copyCols, rewriteLsns := t.ftl.rewriteLsns } }

namespace ReadNoted
variable {s t u : State}

theorem refl (s : State) : ReadNoted s s := rfl

theorem trans (h : ReadNoted s t) (k : ReadNoted t u) : ReadNoted s u := by
  unfold ReadNoted at h k ⊢
  rw [k, h]

theorem host (h : ReadNoted s t) : t.host = s.host := (congrArg State.host h :)
theorem recoveredRow (h : ReadNoted s t) : t.dies.recoveredRow = s.dies.recoveredRow := (congrArg (·.dies.recoveredRow) h :)
theorem map (h : ReadNoted s t) : t.ftl.map = s.ftl.map := (congrArg (·.ftl.map) h :)
theorem flash (h : ReadNoted s t) : t.ftl.flash = s.ftl.flash := (congrArg (·.ftl.flash) h :)
theorem jobs (h : ReadNoted s t) : t.ftl.jobs = s.ftl.jobs := (congrArg (·.ftl.jobs) h :)
theorem read? (h : ReadNoted s t) (rid : Nat) : t.read? rid = s.read? rid := (congrArg (·.read? rid) h :)
theorem slotData (h : ReadNoted s t) (p : Nat) : t.slotData p = s.slotData p := (congrArg (·.slotData p) h :)

theorem awaited {x : FRead} {j : Job} {g : Hdr} {nsid slba : Nat} {n : Ns} (h : ReadNoted s t) (w : AwaitedBy s x j g nsid slba n) :
    AwaitedBy t x j g nsid slba n where
  read := (h.read? _).trans w.read
  job := (congrArg (·.job? x.job) h).trans w.job
  kind := w.kind
  wait := w.wait
  got := w.got
  ns := (congrArg (·.ns? nsid) h).trans w.ns
  slot := w.slot.trans (congrArg (·.slotOf n slba) h).symm
  whole := (congrArg (·.deferredLba n.nsid slba) h).trans w.whole
  scans := (congrArg (·.query.scans) h).trans w.scans
  runs := (congrArg (·.query.runs) h).trans w.runs

end ReadNoted

section
variable (s : State)

theorem onValley_noted (v : Nat) (f : ValleyStats → ValleyStats) : ReadNoted s (onValley v f s) := rfl

theorem onFtlStats_noted (f : FtlStats → FtlStats) : ReadNoted s (onFtlStats f s) := rfl

theorem copyCols_noted (f : FtlSt → List Nat) : ReadNoted s (onFtl (fun t => { t with copyCols := f t }) s) := rfl

theorem onCol_noted (sb ch : Nat) (f : Column → Column) : ReadNoted s (onCol sb ch f s) := rfl

theorem sbs_noted (f : FtlSt → List (Nat × Sb)) : ReadNoted s (onFtl (fun t => { t with sbs := f t }) s) := rfl

theorem logEvent_noted (event state : Nat) (r : Resource) : ReadNoted s (logEvent event state r s) := rfl

theorem countPoison_noted (die k : Nat) : ReadNoted s (countPoison die k s) := rfl

theorem softRewrite_noted (p : Nat) : ReadNoted s (softRewrite p s) := by
  unfold softRewrite
  dsimp only
  split
  · rfl
  · exact .refl s

theorem retireColumn_noted (event sb ch p : Nat) : ReadNoted s (retireColumn event sb ch p s) := by
  unfold retireColumn
  split
  · exact .refl s
  · have hlogged (f : Column → Column) (g : FtlStats → FtlStats) (r : Resource) :
        ReadNoted s (logEvent event 1 r (onFtlStats g (onCol sb ch f s))) :=
      ((onCol_noted s sb ch f).trans (onFtlStats_noted ..)).trans (logEvent_noted ..)
    dsimp only
    split
    · split
      · exact hlogged ..
      · exact ((hlogged ..).trans (sbs_noted ..)).trans (onFtlStats_noted ..)
    · exact hlogged ..

theorem retireWorn_noted (p : Nat) : ReadNoted s (retireWorn p s) := by
  unfold retireWorn
  dsimp only
  split
  · exact .refl s
  · split
    · exact (copyCols_noted s _).trans (retireColumn_noted ..)
    · rfl

theorem noteRecovered_noted (event : Nat) (x : FRead) : ReadNoted s (noteRecovered event x s) := by
  unfold noteRecovered
  dsimp only
  split
  · rfl
  · exact logEvent_noted ..

end

/-! ### The unit goes to its job, and the job ends -/

/-- The page read has ended, its job has its unit. -/
def handOver (x : FRead) (u : UnitData) (s : State) : State :=
  deliver x.job u (onValley (chOf x.pslot) (fun v => { v with poison := v.poison + u.poison.length })
    (onPlain (fun p => { p with recover := p.recover.filter fun y => y.2 != x.rid })
      (onFtl (fun t => { t with reads := t.reads.filter fun y => y.rid != x.rid }) s)))

/-- The page read has ended, and its job with it. -/
def readEnded (x : FRead) (u : UnitData) (s : State) : State := closeJob x.job (handOver x u s)

/-- A job that waited for one unit, with the unit. -/
def Job.served (j : Job) (u : UnitData) : Job := { j with wait := [], got := [u] }

/-- From one state to another page read `x` has ended with its job, and no page of flash and nothing the host sees has changed. -/
structure ReadOver (x : FRead) (s t : State) : Prop where
  read : t.read? x.rid = none
  job : t.job? x.job = none
  host : t.host = s.host
  map : t.ftl.map = s.ftl.map
  flash : t.ftl.flash = s.ftl.flash
  recoveredRow : t.dies.recoveredRow = s.dies.recoveredRow

section
variable {s t : State} {x : FRead} {j : Job} {h : Hdr} {nsid slba : Nat} {n : Ns} {u : UnitData}

theorem ReadNoted.over (hnoted : ReadNoted s t) {v : State} (o : ReadOver x t v) : ReadOver x s v :=
  ⟨o.read, o.job, o.host.trans hnoted.host, o.map.trans hnoted.map, o.flash.trans hnoted.flash, o.recoveredRow.trans hnoted.recoveredRow⟩

theorem deliver_job?_same (job : Nat) (u : UnitData) (s : State) : (deliver job u s).job? job =
    (s.job? job).map fun j => { j with wait := j.wait.erase u.lsn, got := j.got ++ [u] } :=
  find?_changed_same (key := Job.jid) (by intro; rfl) job s.ftl.jobs

theorem handOver_job? (w : AwaitedBy s x j h nsid slba n) (hlsn : u.lsn = x.lsn) :
    (handOver x u s).job? x.job = some (j.served u) := by
  have hsame : (handOver x u s).job? x.job = (s.job? x.job).map fun j => { j with wait := j.wait.erase u.lsn, got := j.got ++ [u] } :=
    deliver_job?_same x.job u _
  rw [hsame, w.job, Option.map_some, w.wait, w.got, hlsn]
  simp [Job.served]

theorem closeJob_served (hjob : s.job? x.job = some j) : closeJob (j.served u).jid (handOver x u s) = readEnded x u s := by
  have hjid : j.jid = x.job := by simpa using List.find?_some hjob
  exact congrArg (closeJob · (handOver x u s)) hjid

/-- What the end of a page read and its job leaves as it was. -/
theorem readEnded_frame (x : FRead) (u : UnitData) (s : State) : readEnded x u s = { s with
    ftl := { s.ftl with jobs := (readEnded x u s).ftl.jobs, reads := (readEnded x u s).ftl.reads }
    query := { s.query with valleys := (readEnded x u s).query.valleys }
    plain := { s.plain with recover := (readEnded x u s).plain.recover } } := by
  unfold readEnded handOver closeJob deliver onValley onPlain onFtl
  rfl

theorem readEnded_over (x : FRead) (u : UnitData) (s : State) : ReadOver x s (readEnded x u s) where
  read := by
    refine List.find?_eq_none.2 fun y hy => ?_
    obtain ⟨hleft, -⟩ := List.mem_filter.1 hy
    obtain ⟨-, hrid⟩ := List.mem_filter.1 hleft
    simpa using hrid
  job := by
    refine List.find?_eq_none.2 fun y hy => ?_
    obtain ⟨-, hjid⟩ := List.mem_filter.1 hy
    simpa using hjid
  host := congrArg (·.host) (readEnded_frame x u s)
  map := congrArg (·.ftl.map) (readEnded_frame x u s)
  flash := congrArg (·.ftl.flash) (readEnded_frame x u s)
  recoveredRow := congrArg (·.dies.recoveredRow) (readEnded_frame x u s)

theorem ReadOver.counted (o : ReadOver x s t) (k : Nat) : ReadOver x s (countDelivered k t) :=
  ⟨o.read, o.job, o.host, o.map, o.flash, o.recoveredRow⟩

theorem ReadOver.freed (o : ReadOver x s t) (k : Nat) : ReadOver x s (freeBytes k t).2 :=
  ⟨o.read, o.job, o.host, o.map, o.flash, o.recoveredRow⟩

theorem pump_of_no_queries (hscans : s.query.scans = []) (hruns : s.query.runs = []) : pump s = s := by
  simp [pump, hscans, hruns]

/-- The LBA as its job has it, once the page read has ended: bytes of the unit, trusted unless a granule of them is poisoned. -/
theorem lbaData_readEnded (w : AwaitedBy s x j h nsid slba n) (hlsn : u.lsn = x.lsn) (hlost : u.lost = false) :
    lbaData (j.served u) (readEnded x u s) n slba = (u.data.slice (slba % 16 * 4096) 4096,
      !(u.poison.any fun g => decide (slba % 16 * 4096 / 64 ≤ g ∧ g < slba % 16 * 4096 / 64 + 64))) := by
  have hslot : (readEnded x u s).slotOf n slba = x.lsn := (congrArg (·.slotOf n slba) (readEnded_frame x u s)).trans w.slot.symm
  have hwhole : (readEnded x u s).deferredLba n.nsid slba = false :=
    (congrArg (·.deferredLba n.nsid slba) (readEnded_frame x u s)).trans w.whole
  have hunit : (j.served u).unit x.lsn = u := by simp [Job.unit, Job.served, hlsn]
  simp [lbaData, hslot, hwhole, hunit, hlost]

theorem gatherLbas_trusted {d : Blob} (hdata : lbaData j s n slba = (d, true)) : gatherLbas j n [slba] s = (d, none, s) := by
  simp [gatherLbas, hdata, Blob.append_empty]

theorem gatherLbas_untrusted {d : Blob} (hdata : lbaData j s n slba = (d, false)) :
    gatherLbas j n [slba] s = ((freeBytes 4096 s).1, some slba, (freeBytes 4096 s).2) := by
  simp [gatherLbas, hdata, Blob.append_empty]

/-- A page read that delivers ends the host Read that waits for it. -/
theorem deliverRead_awaited (w : AwaitedBy s x j h nsid slba n) (hlsn : u.lsn = x.lsn) :
    deliverRead x u s = pump (finishRead h nsid slba 0 (j.served u) (handOver x u s)) := by
  have hkind : (j.served u).kind = .nvmRead h nsid slba 0 := w.kind
  have hjob := handOver_job? w hlsn
  unfold handOver at hjob ⊢
  simp only [deliverRead, hjob, finishJob, hkind]
  rfl

/-- A unit without poison completes the Read with its bytes. -/
theorem deliverRead_trusted (w : AwaitedBy s x j h nsid slba n) (hlsn : u.lsn = x.lsn) (hlost : u.lost = false) (hpoison : u.poison = []) :
    ∃ t, deliverRead x u s = finishData h (u.data.slice (slba % 16 * 4096) 4096) t ∧ ReadOver x s t := by
  have hns : (readEnded x u s).ns? nsid = some n := (congrArg (·.ns? nsid) (readEnded_frame x u s)).trans w.ns
  have hdata := lbaData_readEnded w hlsn hlost
  rw [hpoison] at hdata
  refine ⟨_, ?_, (readEnded_over x u s).counted ((j.served u).poisonedLbas (readEnded x u s) n [slba])⟩
  rw [deliverRead_awaited w hlsn]
  simp only [finishRead, closeJob_served w.job, hns, spanList_one, gatherLbas_trusted hdata]
  exact pump_of_no_queries (by rw [finishData_query]; exact w.scans) (by rw [finishData_query]; exact w.runs)

/-- A unit with a poisoned granule in the LBA completes the Read with Unrecovered Read Error (R362). -/
theorem deliverRead_poisoned (w : AwaitedBy s x j h nsid slba n) (hlsn : u.lsn = x.lsn) (hlost : u.lost = false) {g : Nat}
    (hg : g ∈ u.poison) (hlba : g / 64 = slba % 16) :
    ∃ d t, deliverRead x u s = finishUnrecovered h d nsid slba t ∧ ReadOver x s t := by
  have hns : (readEnded x u s).ns? nsid = some n := (congrArg (·.ns? nsid) (readEnded_frame x u s)).trans w.ns
  have hany : u.poison.any (fun g => decide (slba % 16 * 4096 / 64 ≤ g ∧ g < slba % 16 * 4096 / 64 + 64)) = true :=
    List.any_eq_true.2 ⟨g, hg, decide_eq_true (by omega)⟩
  have hdata := lbaData_readEnded w hlsn hlost
  rw [hany] at hdata
  refine ⟨(freeBytes 4096 (readEnded x u s)).1, _, ?_,
    ((readEnded_over x u s).freed 4096).counted ((j.served u).poisonedLbas (freeBytes 4096 (readEnded x u s)).2 n [slba])⟩
  rw [deliverRead_awaited w hlsn]
  simp only [finishRead, closeJob_served w.job, hns, spanList_one, gatherLbas_untrusted hdata]
  exact pump_of_no_queries ((congrArg QuerySt.scans (post_query ..)).trans w.scans) ((congrArg QuerySt.runs (post_query ..)).trans w.runs)

end

/-! ### The steps of a page read (R131, R363) -/

section
variable {s t : State} {x : FRead} {j : Job} {h : Hdr} {nsid slba : Nat} {n : Ns}

theorem exec_flashReadDone (hread : s.read? x.rid = some x) (hard full tag : Bool) : exec (.flashReadDone x.rid hard full tag) s =
    .next (if s.readServes x && x.stage == .hard then readDone x hard full tag s else s) := by
  change execFlashReadDone x.rid hard full tag s = _
  unfold execFlashReadDone
  rw [hread]

theorem exec_softSenseReadDone (hread : s.read? x.rid = some x) (ok : Bool) : exec (.softSenseReadDone x.rid ok) s =
    .next (if s.readServes x && x.stage == .soft then softDone x ok s else s) := by
  change execSoftSenseReadDone x.rid ok s = _
  unfold execSoftSenseReadDone
  rw [hread]

theorem exec_readRecovery (hread : s.read? x.rid = some x) (bad : List Nat) (lost : Nat) : exec (.readRecovery x.rid bad lost) s =
    .next (if s.up && x.stage == .recover then recoverRead x bad lost s else s) := by
  change execReadRecovery x.rid bad lost s = _
  unfold execReadRecovery
  rw [hread]

theorem readDone_cases (x : FRead) (hard full tag : Bool) (s : State) : ∃ t, ReadNoted s t ∧
    readDone x hard full tag s = if hard || full then decoded x t else onRead x.rid (fun y => { y with stage := .soft }) t := by
  refine ⟨_, ?_, rfl⟩
  split
  · exact onValley_noted s _ _
  · exact (onValley_noted s _ _).trans (onFtlStats_noted _ _)

theorem softDone_cases (x : FRead) (ok : Bool) (s : State) : ∃ t, ReadNoted s t ∧ softDone x ok s = if ok then decoded x t
    else onRead x.rid (fun y => { y with softReads := x.softReads + 1, stage := if x.softReads + 1 < 7 then .soft else .recover }) t := by
  refine ⟨_, ?_, rfl⟩
  split
  · exact (onValley_noted s _ _).trans (softRewrite_noted _ _)
  · exact onValley_noted s _ _

/-- A page of which at most two slots of its row are lost is rebuilt from the row, while its valley stands. -/
theorem recoverRead_row {lost : Nat} (hlost : lost ≤ 2) (hdie : (s.die (if chOf x.pslot < 16 then 1 else 2)).state ≠ .failed)
    (bad : List Nat) : ∃ t, ReadNoted (onDies' (fun d => { d with recoveredRow := bump32 d.recoveredRow }) s) t ∧
      recoverRead x bad lost s = decoded x t := by
  refine ⟨_, (noteRecovered_noted _ 3 x).trans (retireWorn_noted _ x.pslot), ?_⟩
  simp [recoverRead, hlost, hdie]

/-- Without its row and outside a plain there is nothing to rebuild a page from. -/
theorem recoverRead_standalone {lost : Nat} (hlost : 2 < lost) (hplain : s.isMember = false) (bad : List Nat) :
    recoverRead x bad lost s = deliverPoisoned x bad s := by
  have hmirror : s.mirrorServes x.lsn = false := by simp [State.mirrorServes, hplain]
  have hkey : s.plainKeyOf x.lsn = none := by
    unfold State.plainKeyOf
    split
    · simp [hplain]
    · rfl
  simp [recoverRead, Nat.not_le.2 hlost, hmirror, hkey]

theorem onRead_read?_same {f : FRead → FRead} (hf : ∀ y, (f y).rid = y.rid) (rid : Nat) :
    (onRead rid f s).read? rid = (s.read? rid).map f := find?_changed_same hf rid s.ftl.reads

/-- A page read that goes on to its next step. -/
theorem onRead_goes_on (hnoted : ReadNoted s t) (hread : s.read? x.rid = some x) {f : FRead → FRead} (hf : ∀ y, (f y).rid = y.rid) :
    (onRead x.rid f t).read? x.rid = some (f x) ∧ (onRead x.rid f t).host = s.host ∧ (onRead x.rid f t).ftl.jobs = s.ftl.jobs := by
  refine ⟨?_, hnoted.host, hnoted.jobs⟩
  rw [onRead_read?_same hf, hnoted.read?, hread, Option.map_some]

/-- A decoded page completes the Read that waits for it with what its slot holds. -/
theorem decoded_completes (hnoted : ReadNoted s t) (w : AwaitedBy s x j h nsid slba n) :
    ∃ v, decoded x t = finishData h ((s.slotData x.pslot).slice (slba % 16 * 4096) 4096) v ∧ ReadOver x s v := by
  obtain ⟨v, hv, hended⟩ := deliverRead_trusted (hnoted.awaited w) (u := ⟨x.lsn, t.slotData x.pslot, [], false⟩) rfl rfl rfl
  refine ⟨v, ?_, hnoted.over hended⟩
  rw [← hnoted.slotData]
  exact hv

/-- A page that stays uncorrectable in the LBA fails the Read that waits for it. -/
theorem deliverPoisoned_fails (w : AwaitedBy s x j h nsid slba n) {bad : List Nat} {g : Nat} (hg : g ∈ bad) (hrange : g < 1024)
    (hlba : g / 64 = slba % 16) : ∃ d v, deliverPoisoned x bad s = finishUnrecovered h d nsid slba v ∧ ReadOver x s v := by
  have hpoison : g ∈ insertAll (bad.filter fun g => g < 1024) [] :=
    mem_insertAll.2 (.inl (List.mem_filter.2 ⟨hg, decide_eq_true hrange⟩))
  have hnoted := (logEvent_noted s 2 0 ⟨4, chOf x.pslot, 0, x.pslot⟩).trans
    (countPoison_noted _ (if chOf x.pslot < 16 then 1 else 2) (insertAll (bad.filter fun g => g < 1024) []).length)
  obtain ⟨d, v, hv, hended⟩ := deliverRead_poisoned (hnoted.awaited w)
    (u := ⟨x.lsn, s.slotData x.pslot, insertAll (bad.filter fun g => g < 1024) [], false⟩) rfl rfl hpoison hlba
  exact ⟨d, v, hv, hnoted.over hended⟩

end

/-! ### The clauses of O43 -/

section
variable {s : State} {x : FRead} {j : Job} {h : Hdr} {nsid slba : Nat} {n : Ns}

/-- Hard decode, or the full code, delivers. -/
theorem flashReadDone_decodes (w : AwaitedBy s x j h nsid slba n) (hserves : s.readServes x = true) (hstage : x.stage = .hard)
    {hard full : Bool} (hok : hard = true ∨ full = true) (tag : Bool) :
    ∃ t, exec (.flashReadDone x.rid hard full tag) s = .next (finishData h ((s.slotData x.pslot).slice (slba % 16 * 4096) 4096) t) ∧
      t.read? x.rid = none ∧ t.job? x.job = none ∧ t.host = s.host ∧ t.ftl.map = s.ftl.map ∧ t.ftl.flash = s.ftl.flash := by
  obtain ⟨v, hnoted, hdone⟩ := readDone_cases x hard full tag s
  obtain ⟨t, hdecoded, hended⟩ := decoded_completes hnoted w
  refine ⟨t, ?_, hended.read, hended.job, hended.host, hended.map, hended.flash⟩
  rw [exec_flashReadDone w.read, if_pos (by simp [hserves, hstage]), hdone, if_pos (by simpa using hok), hdecoded]

theorem flashReadDone_goes_soft (hread : s.read? x.rid = some x) (hserves : s.readServes x = true) (hstage : x.stage = .hard) (tag : Bool) :
    ∃ t, exec (.flashReadDone x.rid false false tag) s = .next t ∧ t.read? x.rid = some { x with stage := .soft } ∧ t.host = s.host ∧
      t.ftl.jobs = s.ftl.jobs := by
  obtain ⟨v, hnoted, hdone⟩ := readDone_cases x false false tag s
  refine ⟨_, ?_, onRead_goes_on hnoted hread (f := fun y => { y with stage := .soft }) fun _ => rfl⟩
  rw [exec_flashReadDone hread, if_pos (by simp [hserves, hstage]), hdone]
  rfl

theorem softSenseReadDone_decodes (w : AwaitedBy s x j h nsid slba n) (hserves : s.readServes x = true) (hstage : x.stage = .soft) :
    ∃ t, exec (.softSenseReadDone x.rid true) s = .next (finishData h ((s.slotData x.pslot).slice (slba % 16 * 4096) 4096) t) ∧
      t.read? x.rid = none ∧ t.host = s.host ∧ t.ftl.map = s.ftl.map := by
  obtain ⟨v, hnoted, hdone⟩ := softDone_cases x true s
  obtain ⟨t, hdecoded, hended⟩ := decoded_completes hnoted w
  refine ⟨t, ?_, hended.read, hended.host, hended.map⟩
  rw [exec_softSenseReadDone w.read, if_pos (by simp [hserves, hstage]), hdone, if_pos rfl, hdecoded]

/-- A soft-sense read that fails is counted; the seventh sends the page to recovery. -/
theorem softSenseReadDone_goes_on (hread : s.read? x.rid = some x) (hserves : s.readServes x = true) (hstage : x.stage = .soft) :
    ∃ t, exec (.softSenseReadDone x.rid false) s = .next t ∧ t.host = s.host ∧ t.ftl.jobs = s.ftl.jobs ∧
      t.read? x.rid = some { x with softReads := x.softReads + 1, stage := if x.softReads < 6 then .soft else .recover } := by
  obtain ⟨v, hnoted, hdone⟩ := softDone_cases x false s
  obtain ⟨hnext, hhost, hjobs⟩ := onRead_goes_on hnoted hread (f := fun y => { y with
    softReads := x.softReads + 1, stage := if x.softReads + 1 < 7 then .soft else .recover }) fun _ => rfl
  refine ⟨_, ?_, hhost, hjobs, hnext.trans (by simp only [Nat.succ_lt_succ_iff])⟩
  rw [exec_softSenseReadDone hread, if_pos (by simp [hserves, hstage]), hdone]
  rfl

theorem readRecovery_rebuilds (w : AwaitedBy s x j h nsid slba n) (hup : s.up = true) (hstage : x.stage = .recover) {lost : Nat}
    (hlost : lost ≤ 2) (hdie : (s.die (if chOf x.pslot < 16 then 1 else 2)).state ≠ .failed) (bad : List Nat) :
    ∃ t, exec (.readRecovery x.rid bad lost) s = .next (finishData h ((s.slotData x.pslot).slice (slba % 16 * 4096) 4096) t) ∧
      t.read? x.rid = none ∧ t.host = s.host ∧ t.ftl.map = s.ftl.map ∧ t.dies.recoveredRow = bump32 s.dies.recoveredRow := by
  obtain ⟨v, hnoted, hrow⟩ := recoverRead_row hlost hdie bad
  obtain ⟨t, hdecoded, hended⟩ := decoded_completes hnoted (w.onDies _)
  refine ⟨t, ?_, hended.read, hended.host, hended.map, hended.recoveredRow⟩
  rw [exec_readRecovery w.read, if_pos (by simp [hup, hstage]), hrow, hdecoded]
  rfl

theorem readRecovery_fails (w : AwaitedBy s x j h nsid slba n) (hup : s.up = true) (hstage : x.stage = .recover) {bad : List Nat}
    {lost g : Nat} (hlost : 2 < lost) (hplain : s.isMember = false) (hg : g ∈ bad) (hrange : g < 1024) (hlba : g / 64 = slba % 16) :
    ∃ d t, exec (.readRecovery x.rid bad lost) s = .next (finishUnrecovered h d nsid slba t) ∧ t.read? x.rid = none ∧
      t.host = s.host ∧ t.ftl.map = s.ftl.map := by
  obtain ⟨d, t, hfails, hended⟩ := deliverPoisoned_fails w hg hrange hlba
  refine ⟨d, t, ?_, hended.read, hended.host, hended.map⟩
  rw [exec_readRecovery w.read, if_pos (by simp [hup, hstage]), recoverRead_standalone hlost hplain, hfails]

end

/-- Settles O43: by the step a page read is at. What a step notes leaves the Read that waits as it was, so that a page that decodes
completes it, and a granule that stays uncorrectable in its LBA fails it. -/
theorem readsComeBackDecodedOrRecovered : Obligations.ReadsComeBackDecodedOrRecovered := by
  unfold Obligations.ReadsComeBackDecodedOrRecovered
  intro s rid x j h nsid slba n hup hread hjob hkind hwait hgot hns hslot hwhole hscans hruns
  obtain rfl : x.rid = rid := by simpa using List.find?_some hread
  have w : AwaitedBy s x j h nsid slba n := ⟨hread, hjob, hkind, hwait, hgot, hns, hslot, hwhole, hscans, hruns⟩
  refine ⟨fun hserves hstage => ⟨fun hard full tag hok => flashReadDone_decodes w hserves hstage hok tag,
      flashReadDone_goes_soft hread hserves hstage⟩,
    fun hserves hstage => ⟨softSenseReadDone_decodes w hserves hstage, softSenseReadDone_goes_on hread hserves hstage⟩,
    fun hstage => ⟨fun bad lost hlost hdie => readRecovery_rebuilds w hup hstage hlost hdie bad,
      fun bad lost g hlost hplain hg hrange hlba => readRecovery_fails w hup hstage hlost hplain hg hrange hlba⟩,
    fun hard full tag hstage => ?_, fun ok hstage => ?_, fun bad lost hstage => ?_⟩
  · rw [exec_flashReadDone hread, if_neg (by simp [hstage])]
  · rw [exec_softSenseReadDone hread, if_neg (by simp [hstage])]
  · rw [exec_readRecovery hread, if_neg (by simp [hstage])]

end Sys2Proof.Machine
end

/-! PROOFS, shared: the step of a classroom, what a Train Step leaves alone, the ends of attempts and of steps, and how an attempt begins. -/

section
namespace Sys2Proof.Machine

/-! ### The step of a classroom -/

theorem Sends.train {s t : State} (h : Sends s t) : t.train = s.train := (congrArg State.train h :)

section
variable {room : Nat} {s : State} {t : TStep}

theorem room_of_step? (h : s.step? room = some t) : t.room = room := by simpa using List.find?_some h

theorem step?_onStep_same {f : TStep → TStep} (h : s.step? room = some t) (hf : ∀ x, (f x).room = x.room := by intro; rfl) :
    (onStep room f s).step? room = some (f t) :=
  (find?_changed_same (key := TStep.room) hf room s.train.steps).trans (congrArg (Option.map f) h)

theorem step?_onStep_other {f : TStep → TStep} (hf : ∀ x, (f x).room = x.room) {q : Nat} (hq : q ≠ room) (s : State) :
    (onStep room f s).step? q = s.step? q := by
  have hkeep : ∀ x : TStep, (if x.room = room then f x else x).room = x.room := fun x => by split <;> simp [hf]
  simp only [State.step?, onStep, onTrain_train, List.find?_map]
  induction s.train.steps with
  | nil => rfl
  | cons x r ih =>
    by_cases hx : x.room = q
    · have hne : x.room ≠ room := fun e => hq (hx.symm.trans e)
      simp [hx, hq]
    · simp only [Function.comp_def, hkeep] at ih ⊢
      simpa [List.find?_cons, hx] using ih

theorem step?_removeStep_same (room : Nat) (s : State) : (removeStep room s).step? room = none := by
  simp [State.step?, removeStep, List.find?_eq_none]

theorem step?_removeStep_other {q : Nat} (hq : q ≠ room) (s : State) : (removeStep room s).step? q = s.step? q := by
  refine (List.find?_filter ..).trans (congrArg (List.find? · s.train.steps) (funext fun x => ?_))
  by_cases hx : x.room = q
  · simp [hx, hq]
  · simp [hx]

end

/-! ### What a Train Step leaves alone -/

/-- From one state to another only training, runs and their engines, memory, what flash is asked for, and what was sent have changed. -/
def Trains (s t : State) : Prop :=
  t = { s with
    train := t.train
    sched := t.sched
    mem := t.mem
    eng := t.eng
    ftl := t.ftl
    plain := { s.plain with
      ports := t.plain.ports
      tx := t.plain.tx
      forwarded := t.plain.forwarded
      unrouted := t.plain.unrouted } }

namespace Trains
variable {s t u : State}

theorem refl (s : State) : Trains s s := rfl

theorem trans (h : Trains s t) (k : Trains t u) : Trains s u := by
  unfold Trains at h k ⊢
  rw [k, h]

theorem of_sends (h : Sends s t) : Trains s t := by
  unfold Sends at h
  unfold Trains
  rw [h]

theorem of_loads (h : Loads s t) : Trains s t := by
  unfold Loads at h
  unfold Trains
  rw [h]

theorem host (h : Trains s t) : t.host = s.host := (congrArg State.host h :)
theorem ns (h : Trains s t) : t.ns = s.ns := (congrArg State.ns h :)
theorem bell (h : Trains s t) : t.bell = s.bell := (congrArg State.bell h :)
theorem pos (h : Trains s t) : t.pos = s.pos := (congrArg State.pos h :)
theorem heads (h : Trains s t) (x : TStep) : t.heads x = s.heads x := congrArg (·.heads x) h

end Trains

/-- Of training, only the step of one classroom has changed. -/
structure ChangesStep (room : Nat) (s t : State) : Prop where
  frame : Trains s t
  lastStep : t.train.lastStep = s.train.lastStep
  others : ∀ q, q ≠ room → t.step? q = s.step? q

/-- Training has not changed, nor anything that a Train Step leaves alone. -/
structure KeepsTraining (s t : State) : Prop where
  frame : Trains s t
  train : t.train = s.train

namespace KeepsTraining
variable {s t u : State}

theorem refl (s : State) : KeepsTraining s s := ⟨.refl s, rfl⟩

theorem trans (h : KeepsTraining s t) (k : KeepsTraining t u) : KeepsTraining s u := ⟨h.frame.trans k.frame, k.train.trans h.train⟩

theorem foldl {α : Type} {f : State → α → State} (hf : ∀ s a, KeepsTraining s (f s a)) (l : List α) (s : State) :
    KeepsTraining s (l.foldl f s) := by
  induction l generalizing s with
  | nil => exact refl s
  | cons a r ih => exact (hf s a).trans (ih _)

theorem of_sends (h : Sends s t) : KeepsTraining s t := ⟨.of_sends h, h.train⟩

theorem of_loads (h : Loads s t) : KeepsTraining s t := ⟨.of_loads h, (congrArg State.train h :)⟩

theorem step? (h : KeepsTraining s t) (q : Nat) : t.step? q = s.step? q := congrArg (·.steps.find? fun t => t.room == q) h.train

theorem changes (h : KeepsTraining s t) (room : Nat) : ChangesStep room s t :=
  ⟨h.frame, congrArg TrainSt.lastStep h.train, fun q _ => h.step? q⟩

end KeepsTraining

namespace ChangesStep
variable {room : Nat} {s t u : State}

theorem refl (room : Nat) (s : State) : ChangesStep room s s := (KeepsTraining.refl s).changes room

theorem trans (h : ChangesStep room s t) (k : ChangesStep room t u) : ChangesStep room s u :=
  ⟨h.frame.trans k.frame, k.lastStep.trans h.lastStep, fun q hq => (k.others q hq).trans (h.others q hq)⟩

theorem onStep (room : Nat) (f : TStep → TStep) (s : State) (hf : ∀ x, (f x).room = x.room := by intro; rfl) :
    ChangesStep room s (onStep room f s) :=
  ⟨rfl, rfl, fun _ hq => step?_onStep_other hf hq s⟩

theorem removeStep (room : Nat) (s : State) : ChangesStep room s (removeStep room s) :=
  ⟨rfl, rfl, fun _ hq => step?_removeStep_other hq s⟩

end ChangesStep

/-! ### Runs and messages leave training alone -/

section
variable (s : State)

theorem dropRun_ram (r : Run) (n : Nat) : (dropRun r s).ram n = s.ram n := by
  refine foldl_keeps (g := (·.ram n)) (f := fun s e => if s.holder e == some r.id then setHolder e none s else s) (fun s e => ?_) r.engines s
  split
  · rfl
  · rfl

theorem onSched_keepsTraining (f : SchedSt → SchedSt) : KeepsTraining s (onSched f s) := ⟨rfl, rfl⟩

theorem makeReady_keepsTraining (id : Nat) (e : Engine) : KeepsTraining s (makeReady id e s) := ⟨rfl, rfl⟩

theorem wakeDies_keepsTraining (es : List Engine) : KeepsTraining s (wakeDies es s) := ⟨rfl, rfl⟩

theorem dropRun_keepsTraining (r : Run) : KeepsTraining s (dropRun r s) := by
  have hreleased : KeepsTraining s (r.engines.foldl (fun s e => if s.holder e == some r.id then setHolder e none s else s) s) := by
    refine .foldl (fun s e => ?_) _ s
    split
    · exact ⟨rfl, rfl⟩
    · exact .refl s
  exact hreleased.trans ⟨rfl, rfl⟩

theorem sendTo_keepsTraining (dst flow : Nat) (b : Payload) : KeepsTraining s (sendTo dst flow b s) := .of_sends (sendTo_sends ..)

theorem tellOthers_keepsTraining (t : TStep) (m : TrainMsg) : KeepsTraining s (tellOthers t m s) :=
  .foldl (fun s p => sendTo_keepsTraining s p 0 _) _ s

end

theorem placeAll_loads {room : Nat} {owner : SegOwner} {l : List SegDecl} {s t : State} {gs : List Segment}
    (h : placeAll room owner l s = some (gs, t)) : Loads s t := by
  induction l generalizing s gs with
  | nil =>
    cases h
    exact .refl _
  | cons d r ih =>
    unfold placeAll at h
    split at h
    · cases h
    next hd =>
      split at h
      · cases h
      next hr =>
        cases h
        exact (placeSeg_loads hd).trans (ih hr)

theorem startRun_keepsTraining {h : Hdr} {r : Room} {l : Lesson} {w : List Window} {train : Bool} {s t : State} {id : Nat}
    (hstart : startRun h r l w train s = some (id, t)) : KeepsTraining s t := by
  unfold startRun at hstart
  split at hstart
  · cases hstart
  next es _ =>
    dsimp only at hstart
    split at hstart
    · cases hstart
    next hplaced =>
      cases hstart
      have hready : ∀ n s, KeepsTraining s (es.foldl (fun s e => makeReady n e s) s) := fun n s =>
        .foldl (fun s e => makeReady_keepsTraining s n e) es s
      exact (KeepsTraining.of_loads (placeAll_loads hplaced)).trans ((onSched_keepsTraining _ _).trans
        ((onSched_keepsTraining _ _).trans ((hready ..).trans (wakeDies_keepsTraining ..))))

/-! ### The ends of attempts and of steps -/

/-- A step whose attempt has been stopped. -/
def TStep.stopped (t : TStep) : TStep := { t with run := none, buckets := t.buckets.map Bucket.clear }

section
variable {room : Nat} {s : State} {t : TStep}

/-- The stop of an attempt ends its run, where it has one, and then changes the step. -/
theorem stopAttempt_eq (t : TStep) (s : State) :
    ∃ u, stopAttempt t s = onStep t.room TStep.stopped u ∧ KeepsTraining s u ∧ ∀ n, u.ram n = s.ram n := by
  unfold stopAttempt
  dsimp only
  split
  · split
    next r _ => exact ⟨_, rfl, dropRun_keepsTraining s r, dropRun_ram s r⟩
    · exact ⟨s, rfl, .refl s, fun _ => rfl⟩
  · exact ⟨s, rfl, .refl s, fun _ => rfl⟩

theorem stopAttempt_changes (t : TStep) (s : State) : ChangesStep t.room s (stopAttempt t s) := by
  obtain ⟨u, heq, hu, -⟩ := stopAttempt_eq t s
  rw [heq]
  exact (hu.changes t.room).trans (.onStep t.room _ u)

theorem stopAttempt_step? {x : TStep} (h : s.step? t.room = some x) : (stopAttempt t s).step? t.room = some x.stopped := by
  obtain ⟨u, heq, hu, -⟩ := stopAttempt_eq t s
  rw [heq]
  exact step?_onStep_same ((hu.step? _).trans h)

theorem stopAttempt_ram (t : TStep) (s : State) (n : Nat) : (stopAttempt t s).ram n = s.ram n := by
  obtain ⟨u, heq, -, hram⟩ := stopAttempt_eq t s
  rw [heq]
  exact hram n

/-- The step is gone from this drive. -/
structure Dropped (t : TStep) (s v : State) : Prop where
  changes : ChangesStep t.room s v
  gone : v.step? t.room = none
  ram : ∀ n, v.ram n = s.ram n

theorem removeStep_stopAttempt (t : TStep) (s : State) : Dropped t s (removeStep t.room (stopAttempt t s)) :=
  ⟨(stopAttempt_changes t s).trans (.removeStep ..), step?_removeStep_same .., stopAttempt_ram t s⟩

/-- R277: the head drops the step, writes its result header and completes the command. -/
theorem endStep_head {h : Hdr} (hheads : s.heads t = true) (hhdr : t.hdr = some h) (st : Status) (outcome bell : Nat) :
    ∃ v, endStep t st outcome bell s = finish h st (memWrite t.outNsid t.outFirst (stepHeader t outcome t.loss bell) v) ∧ Dropped t s v := by
  have hdropped := removeStep_stopAttempt t s
  refine ⟨_, ?_, hdropped⟩
  have hstill : (removeStep t.room (stopAttempt t s)).heads t = true := (hdropped.changes.frame.heads t).trans hheads
  simp [endStep, hstill, hhdr]

theorem endStep_participant (hheads : s.heads t = false) (st : Status) (outcome bell : Nat) :
    endStep t st outcome bell s = removeStep t.room (stopAttempt t s) := by
  have hstill : (removeStep t.room (stopAttempt t s)).heads t = false :=
    ((removeStep_stopAttempt t s).changes.frame.heads t).trans hheads
  simp [endStep, hstill]

theorem giveUpStep_head {h : Hdr} (hheads : s.heads t = true) (hhdr : t.hdr = some h) (st : Status) :
    ∃ v, giveUpStep t st s = finish h st (memWrite t.outNsid t.outFirst (stepHeader t 2 t.loss 0) v) ∧ v.step? t.room = none ∧
      v.train.lastStep = s.train.lastStep := by
  have htold := (tellOthers_keepsTraining s t (.abort t.room t.attempt)).changes t.room
  obtain ⟨v, heq, hv⟩ := endStep_head ((htold.frame.heads t).trans hheads) hhdr st 2 0
  refine ⟨v, ?_, hv.gone, (htold.trans hv.changes).lastStep⟩
  rw [giveUpStep, if_pos hheads, heq]

theorem giveUpStep_participant (hheads : s.heads t = false) (st : Status) :
    giveUpStep t st s = removeStep t.room (stopAttempt t s) := by
  rw [giveUpStep, if_neg (by simp [hheads]), endStep_participant hheads]

/-! ### Attempts -/

/-- An attempt that begins may have its run at once, or later. -/
theorem launchAttempt_begins (h : s.step? room = some t) : ChangesStep room s (launchAttempt room s) ∧
    ∃ run, (launchAttempt room s).step? room = some { t with run := run } := by
  have hlater : ChangesStep room s s ∧ ∃ run, s.step? room = some { t with run := run } := ⟨.refl room s, t.run, h⟩
  unfold launchAttempt
  simp only [h]
  split
  next hstep _ =>
    cases hstep
    split
    · exact hlater
    · split
      · exact hlater
      · split
        next id u hstart =>
          have hu := startRun_keepsTraining hstart
          exact ⟨(hu.changes room).trans (.onStep room _ u), some id, step?_onStep_same ((hu.step? room).trans h)⟩
        · exact hlater
  · exact hlater

/-- Attempt `n` of a step with these participants, of which what a run leaves behind may differ. -/
def Begun (n : Nat) (parts : List Nat) (t x : TStep) : Prop :=
  x = { t with
    attempt := n
    participants := parts
    phase := .running
    readyFrom := []
    run := x.run
    buckets := x.buckets
    suspect := x.suspect
    halted := x.halted
    heard := x.heard
    headHeard := x.headHeard }

theorem beginAttempt_begins (h : s.step? room = some t) (n : Nat) (parts : List Nat) :
    ChangesStep room s (beginAttempt room n parts s) ∧ ∃ x, (beginAttempt room n parts s).step? room = some x ∧ Begun n parts t x := by
  obtain rfl := room_of_step? h
  simp only [beginAttempt, h]
  have hstopped := stopAttempt_step? h
  have hnext := step?_onStep_same (f := fun t => { t with
      attempt := n
      participants := parts
      phase := .running
      suspect := t.suspect && t.halted
      halted := false
      readyFrom := []
      heard := parts.map fun p => (p, s.pos)
      headHeard := s.pos }) hstopped
  obtain ⟨hlaunched, run, hrun⟩ := launchAttempt_begins hnext
  exact ⟨((stopAttempt_changes t s).trans (.onStep t.room _ _)).trans hlaunched, _, hrun, rfl⟩

theorem startAttempt_begins (h : s.step? room = some t) (n : Nat) (parts : List Nat) :
    ChangesStep room s (startAttempt room n parts s) ∧ ∃ x, (startAttempt room n parts s).step? room = some x ∧ Begun n parts t x := by
  simp only [startAttempt, h]
  have htold := tellOthers_keepsTraining s { t with participants := parts } (.attempt room n parts)
  obtain ⟨hbegun, x, hx⟩ := beginAttempt_begins ((htold.step? room).trans h) n parts
  exact ⟨(htold.changes room).trans hbegun, x, hx⟩

theorem abortHere_aborts (h : s.step? room = some t) : ChangesStep room s (abortHere room s) ∧
    (abortHere room s).step? room = some { t.stopped with phase := .aborted, abortAt := s.pos, readyFrom := [] } := by
  obtain rfl := room_of_step? h
  simp only [abortHere, h]
  exact ⟨(stopAttempt_changes t s).trans (.onStep t.room _ _), step?_onStep_same (stopAttempt_step? h)⟩

theorem sayReady_says (h : s.step? room = some t) : ChangesStep room s (sayReady room s) ∧
    ∃ l, (sayReady room s).step? room = some { t with readyFrom := l } := by
  simp only [sayReady, h]
  have hstep := step?_onStep_same (f := fun t => { t with readyFrom := insertSet s.me t.readyFrom }) h
  split
  · exact ⟨.refl room s, t.readyFrom, h⟩
  · split
    · exact ⟨.onStep room _ s, _, hstep⟩
    · exact ⟨.trans (.onStep room _ s) ((sendTo_keepsTraining ..).changes room), _, ((sendTo_keepsTraining ..).step? room).trans hstep⟩

end

end Sys2Proof.Machine
end

/-! PROOFS of the family 08_media_intake: Train Step (O32). -/

section
namespace Sys2Proof.Machine

/-! ### The checks of Train Step in their order (R262 to R264) -/

theorem leNat_lt (l : List Byte) : leNat l < 256 ^ l.length := by
  induction l with
  | nil => exact Nat.one_pos
  | cons x r ih =>
    have hx := x.isLt
    rw [leNat, List.length_cons, Nat.pow_succ]
    omega

theorem Blob.le_lt (b : Blob) (a n : Nat) : b.le a n < 256 ^ n := by
  simpa [Blob.le, Blob.take] using leNat_lt (b.take a n)

section
variable {h : Hdr} {p : ParamRef} {n : Nat} {k : Blob → State → State} {s : State}

theorem withBlock_unreadable {st : Status} (hp : paramBlock p s = .error st) : withBlock h p n k s = failProgram h st p s := by
  simp only [withBlock, hp]

theorem withBlock_short {b : Blob} (hp : paramBlock p s = .ok b) (hlen : b.len < n) : withBlock h p n k s = finish h stInvalidField s := by
  simp only [withBlock, hp, if_pos hlen]

theorem withBlock_read {b : Blob} (hp : paramBlock p s = .ok b) (hlen : n ≤ b.len) : withBlock h p n k s = k b s := by
  simp only [withBlock, hp, if_neg (Nat.not_lt.mpr hlen)]

end

theorem exec_trainStep {h : Hdr} {room : Nat} {r : Room} {s : State} (ok : s.acceptsRoom h room = true) (hroom : s.room? room = some r)
    (p : ParamRef) : exec (.trainStep h room p) s = .next (withBlock h p 0x80 (trainStepCore h r) s) := by
  obtain ⟨r', hr', hadmit⟩ := admitRoom_accepts (.trainStep h room p) (fun r s => withBlock h p 0x80 (trainStepCore h r) s) ok
  obtain rfl : r = r' := Option.some.inj (hroom.symm.trans hr')
  exact congrArg Host.Outcome.next hadmit

/-- The participants that a Train Step asks for. -/
def askedFor (b : Blob) (s : State) : List Nat :=
  if b.le 1 1 = 1 then (List.range s.members).filter fun m => m == s.plain.member || s.isPresent m else [s.me]

/-- The step as its head admits it. -/
def admitted (h : Hdr) (room : Nat) (b table : Blob) (s : State) : TStep := makeStep room s.me (some h) b table (askedFor b s) s

/-- The step is put with the others, and the other members are told of it. -/
def putStep (h : Hdr) (room : Nat) (b table : Blob) (s : State) : State :=
  (admitted h room b table s).asked.foldl (fun s m => sendTo m 0 (.train (.start room b)) s)
    (onTrain (fun x => { x with steps := x.steps ++ [admitted h room b table s] }) (begin' h .program s))

/-- What the checks of the bucket table leave to be done. -/
def checkTable (h : Hdr) (room : Nat) (b table : Blob) (s : State) : State :=
  if b.le 7 1 = 1 && !(s.idx.live.any fun x => x.num == b.le 0x14 1) then finish h stIndexNotFound s
  else match s.tableFault room (b.le 2 1) (b.le 1 1) (b.le 4 2) table with
    | some st => finish h st s
    | none => withExamples h b (fun s => checkReports room (putStep h room b table s)) s

section
variable {h : Hdr} {r : Room} {b : Blob} {s : State}

theorem trainStepCore_bad_fields (hfields : trainFieldsOk s r.room b = false) : trainStepCore h r b s = finish h stInvalidField s := by
  simp [trainStepCore, hfields]

variable (hfields : trainFieldsOk s r.room b = true)
include hfields

theorem trainStepCore_step_stands (hstep : (s.step? r.room).isSome = true) : trainStepCore h r b s = finish h stSequence s := by
  simp [trainStepCore, hfields, hstep]

variable (hstep : s.step? r.room = none)
include hstep

theorem trainStepCore_no_access (haccess : r.train = false ∨ (b.le 1 1 = 1 ∧ r.plain = false)) :
    trainStepCore h r b s = finish h stAccess s := by
  have hrefused : (!r.train || (b.le 1 1 == 1 && !r.plain)) = true := by simpa using haccess
  simp [trainStepCore, hfields, hstep, hrefused]

variable (htrain : r.train = true)
include htrain

theorem trainStepCore_not_present (hscope : b.le 1 1 = 1) (hplain : r.plain = true) (hmember : s.isMember = false) :
    trainStepCore h r b s = finish h stNotPresent s := by
  simp [trainStepCore, hfields, hstep, htrain, hscope, hplain, hmember]

variable (hscope : b.le 1 1 = 1 → r.plain = true ∧ s.isMember = true)
include hscope

theorem trainStepCore_no_lesson (hlesson : (s.trainLesson r.room (b.le 0 1)).isSome = false) :
    trainStepCore h r b s = finish h stInvalidField s := by
  have hnone : s.trainLesson r.room (b.le 0 1) = none := by simpa using hlesson
  have haccess : (b.le 1 1 == 1 && !r.plain) = false := by simpa using fun hs => (hscope hs).1
  have hmember : (b.le 1 1 == 1 && !s.isMember) = false := by simpa using fun hs => (hscope hs).2
  simp [trainStepCore, hfields, hstep, htrain, haccess, hmember, hnone]

theorem trainStepCore_checks_table {l : Lesson} {table : Blob} (hlesson : s.trainLesson r.room (b.le 0 1) = some l)
    (htable : sourceBytes (b.le 0x20 4) (b.le 0x28 8) (b.le 4 2 * 64) s = .ok table) :
    trainStepCore h r b s = checkTable h r.room b table s := by
  have haccess : (b.le 1 1 == 1 && !r.plain) = false := by simpa using fun hs => (hscope hs).1
  have hmember : (b.le 1 1 == 1 && !s.isMember) = false := by simpa using fun hs => (hscope hs).2
  simp only [trainStepCore, hfields, hstep, htrain, haccess, hmember, hlesson, htable]
  rfl

end

section
variable {h : Hdr} {room : Nat} {b table : Blob} {s : State}

theorem checkTable_no_index (hkind : b.le 7 1 = 1) (hnone : ∀ x ∈ s.idx.live, x.num ≠ b.le 0x14 1) :
    checkTable h room b table s = finish h stIndexNotFound s := by
  unfold checkTable
  rw [if_pos (by simpa [hkind] using hnone)]

variable (hindex : b.le 7 1 = 1 → ∃ x ∈ s.idx.live, x.num = b.le 0x14 1)
include hindex

theorem checkTable_fault {st : Status} (hfault : s.tableFault room (b.le 2 1) (b.le 1 1) (b.le 4 2) table = some st) :
    checkTable h room b table s = finish h st s := by
  unfold checkTable
  rw [if_neg (by simpa using hindex), hfault]

theorem checkTable_good (hfault : s.tableFault room (b.le 2 1) (b.le 1 1) (b.le 4 2) table = none) :
    checkTable h room b table s = withExamples h b (fun s => checkReports room (putStep h room b table s)) s := by
  unfold checkTable
  rw [if_neg (by simpa using hindex), hfault]

end

section
variable {h : Hdr} {b : Blob} {s : State} (k : State → State)

theorem withExamples_refused {d : Blob} {i : Nat} (hkind : b.le 7 1 = 2)
    (hrefs : sourceBytes (b.le 0x10 4) (b.le 0x18 8) (b.le 8 4 * 32) s = .ok d)
    (hbad : ((List.range (b.le 8 4)).find? fun i => !(refOk s (d.slice (i * 32) 32)) || (parseRef (d.slice (i * 32) 32)).sample != 0) = some i) :
    withExamples h b k s = finishDw h stInvalidField i s := by
  simp only [withExamples, if_pos hkind, hrefs, hbad]

theorem withExamples_good (hgood : b.le 7 1 = 2 → ∃ d, sourceBytes (b.le 0x10 4) (b.le 0x18 8) (b.le 8 4 * 32) s = .ok d ∧
    ∀ i, i < b.le 8 4 → refOk s (d.slice (i * 32) 32) = true ∧ (parseRef (d.slice (i * 32) 32)).sample = 0) :
    withExamples h b k s = k s := by
  unfold withExamples
  split
  next hkind =>
    obtain ⟨d, hrefs, hall⟩ := hgood hkind
    have hnone : ((List.range (b.le 8 4)).find? fun i =>
        !(refOk s (d.slice (i * 32) 32)) || (parseRef (d.slice (i * 32) 32)).sample != 0) = none := by
      simpa [List.find?_eq_none] using hall
    simp only [hrefs, hnone]
  · rfl

end

/-! ### A step admitted -/

section
variable {h : Hdr} {room : Nat} {b table : Blob} {s : State}

/-- What is told to the other members leaves the steps as they are. -/
theorem putStep_told : KeepsTraining (onTrain (fun x => { x with steps := x.steps ++ [admitted h room b table s] }) (begin' h .program s))
    (putStep h room b table s) :=
  .foldl (fun s m => sendTo_keepsTraining s m 0 _) _ _

/-- The step stands beside those of the other classrooms. -/
theorem putStep_steps (hstep : s.step? room = none) : (putStep h room b table s).step? room = some (admitted h room b table s) ∧
    ∀ q, q ≠ room → (putStep h room b table s).step? q = s.step? q := by
  have hput : ∀ q, (putStep h room b table s).step? q = (s.step? q).or ([admitted h room b table s].find? fun t => t.room == q) := by
    intro q
    rw [putStep_told.step? q, State.step?, onTrain_train, begin'_train, List.find?_append]
    rfl
  refine ⟨?_, fun q hq => ?_⟩
  · simp [hput, hstep, admitted, makeStep]
  · simp [hput, admitted, makeStep, Ne.symm hq]

theorem putStep_frame : (putStep h room b table s).ns = s.ns ∧ (putStep h room b table s).bell = s.bell ∧
    (putStep h room b table s).train.lastStep = s.train.lastStep :=
  ⟨putStep_told.frame.ns.trans (begin'_ns ..), putStep_told.frame.bell.trans (begin'_bell ..),
    (congrArg TrainSt.lastStep putStep_told.train).trans (congrArg TrainSt.lastStep (begin'_train h .program s) :)⟩

theorem checkReports_waits {t : TStep} (hstep : s.step? room = some t) (hasked : t.asked ≠ []) : checkReports room s = s := by
  simp [checkReports, hstep, hasked]

/-- No member is asked: the first attempt starts at once. -/
theorem checkReports_starts {t : TStep} (hstep : s.step? room = some t) (hphase : t.phase = .checking) (hasked : t.asked = [])
    (hreports : t.reports = []) : checkReports room s = startAttempt room 1 t.participants s := by
  simp [checkReports, hstep, hphase, hasked, hreports, sortBy]

/-- An admitted step waits for the members that it asks, or has begun its first attempt. -/
theorem admitted_proceeds (hstep : s.step? room = none) :
    ∃ x, (checkReports room (putStep h room b table s)).step? room = some x ∧
      ChangesStep room (putStep h room b table s) (checkReports room (putStep h room b table s)) ∧
      ((admitted h room b table s).asked ≠ [] → x = admitted h room b table s) ∧
      ((admitted h room b table s).asked = [] → Begun 1 (askedFor b s) (admitted h room b table s) x) := by
  obtain ⟨hput, -⟩ := putStep_steps (h := h) (b := b) (table := table) hstep
  by_cases hasked : (admitted h room b table s).asked = []
  · rw [checkReports_starts hput rfl hasked rfl]
    obtain ⟨hchanges, x, hx, hbegun⟩ := startAttempt_begins hput 1 (admitted h room b table s).participants
    exact ⟨x, hx, hchanges, fun hne => absurd hasked hne, fun _ => hbegun⟩
  · rw [checkReports_waits hput hasked]
    exact ⟨_, hput, .refl room _, fun _ => rfl, fun he => absurd he hasked⟩

/-- R264: a step of one drive asks no member. -/
theorem admitted_asks_none (hscope : b.le 1 1 = 0) : askedFor b s = [s.me] ∧ (admitted h room b table s).asked = [] := by
  have hown : askedFor b s = [s.me] := by simp [askedFor, hscope]
  exact ⟨hown, by simp [admitted, makeStep, hown]⟩

/-- R264: a step of the plain asks every other member that is Present. -/
theorem mem_admitted_asked (hscope : b.le 1 1 = 1) (hme : s.plain.member = s.me) (m : Nat) :
    m ∈ (admitted h room b table s).asked ↔ m ≠ s.me ∧ m < s.members ∧ s.isPresent m = true := by
  simp only [admitted, makeStep, askedFor, if_pos hscope, hme, List.mem_filter, List.mem_range, Bool.or_eq_true, beq_iff_eq, bne_iff_ne]
  constructor
  · rintro ⟨⟨hlt, hin⟩, hother⟩
    exact ⟨hother, hlt, hin.resolve_left hother⟩
  · rintro ⟨hother, hlt, hpresent⟩
    exact ⟨⟨hlt, .inr hpresent⟩, hother⟩

end

/-! ### Buckets posted (R265) -/

section
variable {room bucket : Nat} {s : State} {t : TStep} {b : Bucket}

theorem exec_bucketReady (hup : s.up = true) (room bucket : Nat) : exec (.bucketReady room bucket) s = .next (postBucket room bucket s) :=
  congrArg Host.Outcome.next (if_pos hup)

theorem postBucket_no_attempt (hstep : s.step? room = some t) (hidle : t.phase ≠ .running ∨ t.run = none) : postBucket room bucket s = s := by
  have hguard : (t.phase != .running || t.run.isNone) = true := by simpa using hidle
  simp [postBucket, hstep, hguard]

theorem postBucket_twice (hstep : s.step? room = some t) (hbucket : t.bucket? bucket = some b) (hphase : t.phase = .running)
    (hrun : t.run.isSome = true) (hready : b.ready = true) : postBucket room bucket s = giveUpStep t stProgramFaulted s := by
  have hguard : (t.phase != .running || t.run.isNone) = false := by simpa [hphase] using hrun
  simp [postBucket, hstep, hguard, hbucket, hready]

end

/-! ### The copy of the apply (R276) -/

section
variable {β : Type} {g : State → β} (hram : ∀ n r s, g (setRam n r s) = g s) (hdie : ∀ d f s, g (onDie d f s) = g s)
include hram hdie

/-- A copy leaves alone whatever bytes in memory and counts of the dies do. -/
theorem copySpan_leaves (src dst len : Nat) (s : State) : g (copySpan src dst len s) = g s := by
  unfold copySpan
  split
  · refine (foldl_keeps (fun s d => ?_) _ _).trans ((hram ..).trans (hram ..))
    dsimp only
    split
    · rfl
    · exact hdie ..
  · rfl

theorem copyBuckets_leave (opt : Nat) (l : List Bucket) (s : State) : g (l.foldl (fun s b => copyBucket opt b s) s) = g s := by
  refine foldl_keeps (fun s b => ?_) l s
  have hweights : g (if b.kind = 0 then copySpan b.next b.weight (b.elems * b.wBytes) s else s) = g s := by
    split
    · exact copySpan_leaves hram hdie ..
    · rfl
  unfold copyBucket
  dsimp only
  split
  · exact hweights
  · exact (copySpan_leaves hram hdie ..).trans hweights

end

theorem memMark_cells (nsid : Nat) (gs : List Nat) (s : State) : ((memMark nsid gs s).ram nsid).cells = (s.ram nsid).cells := by
  have hmarked : (memMark nsid gs s).ram nsid = (s.ram nsid).mark gs := by
    refine (foldl_keeps (g := (·.ram nsid)) (fun s d => ?_) _ _).trans (ram_setRam_same ..)
    dsimp only
    split
    · rfl
    · rfl
  rw [hmarked, Ram.mark_cells]

theorem copySpan_bytes {src dst len n o m q i : Nat} (hsrc : memSpan src len = some (n, o)) (hdst : memSpan dst len = some (m, q))
    (hi : i < len) (s : State) : ((copySpan src dst len s).ram m).cells.get (q + i) = (s.ram n).cells.get (o + i) := by
  simp only [copySpan, hsrc, hdst, writeMarked, memMark_cells, memWrite, ram_setRam_same, Ram.get_write, memRead, Ram.read]
  rw [if_pos (by omega), Cells.get_slice (by omega)]
  congr 1
  omega

/-- R276: of a bucket of weights without optimizer state, the copy is that of its staged weights. -/
theorem copyBucket_weights {b : Bucket} (hkind : b.kind = 0) (s : State) :
    copyBucket 0 b s = copySpan b.next b.weight (b.elems * b.wBytes) s := by
  simp [copyBucket, hkind]

section
variable {room : Nat} {s : State} {t : TStep}

theorem exec_applyCopyDone_waits (hstep : s.step? room = some t) (hwaits : (∀ c, t.phase ≠ .copying c) ∨ s.dieServes 0 = false ∨
    s.dieServes 3 = false ∨ s.dieServes 4 = false) : exec (.applyCopyDone room) s = .next s := by
  change execApplyCopyDone room s = _
  simp only [execApplyCopyDone, hstep]
  split
  next c hphase =>
    have hdies : (!(s.up && s.dieServes 0 && s.dieServes 3 && s.dieServes 4)) = true := by
      rcases hwaits with hno | h0 | h3 | h4
      · exact absurd hphase (hno c)
      · simp [h0]
      · simp [h3]
      · simp [h4]
    rw [if_pos hdies]
  · rfl

/-- The copies of the buckets, and LAST_STEP. -/
def applied (room : Nat) (t : TStep) (s : State) : State :=
  onTrain (fun x => { x with lastStep := modifyAt x.lastStep room fun _ => t.stepId }) (t.buckets.foldl (fun s b => copyBucket t.opt b s) s)

theorem exec_applyCopyDone_ends {c : BitVec 48} (hstep : s.step? room = some t) (hup : s.up = true) (hphase : t.phase = .copying c)
    (h0 : s.dieServes 0 = true) (h3 : s.dieServes 3 = true) (h4 : s.dieServes 4 = true) :
    exec (.applyCopyDone room) s = .next (endStep t stOk 0 c.toNat (applied room t s)) := by
  change execApplyCopyDone room s = _
  simp [execApplyCopyDone, hstep, hphase, hup, h0, h3, h4, applied]

theorem applied_heads (x : TStep) : (applied room t s).heads x = s.heads x :=
  copyBuckets_leave (g := (·.heads x)) (fun n r s => by unfold setRam; split <;> rfl) (fun _ _ _ => rfl) t.opt t.buckets s

theorem applied_lastStep : (applied room t s).train.lastStep = modifyAt s.train.lastStep room fun _ => t.stepId :=
  congrArg (modifyAt · room fun _ => t.stepId)
    (copyBuckets_leave (g := (·.train.lastStep)) (fun n r s => by unfold setRam; split <;> rfl) (fun _ _ _ => rfl) t.opt t.buckets s)

theorem applied_weights {b : Bucket} {n o m q i : Nat} (hbuckets : t.buckets = [b]) (hkind : b.kind = 0) (hopt : t.opt = 0)
    (hnext : memSpan b.next (b.elems * b.wBytes) = some (n, o)) (hweight : memSpan b.weight (b.elems * b.wBytes) = some (m, q))
    (hi : i < b.elems * b.wBytes) : ((applied room t s).ram m).cells.get (q + i) = (s.ram n).cells.get (o + i) := by
  have hcopied : applied room t s = onTrain (fun x => { x with lastStep := modifyAt x.lastStep room fun _ => t.stepId })
      (copySpan b.next b.weight (b.elems * b.wBytes) s) := by
    rw [applied, hbuckets, hopt, List.foldl_cons, List.foldl_nil, copyBucket_weights hkind]
  rw [hcopied]
  exact copySpan_bytes hnext hweight hi s

/-! ### A silent participant (R279) -/

/-- Of the two times from which the head's patience runs, the later counts. -/
theorem ticksFrom_later (o l p : Nat) : ticksFrom (if ticksFrom o p < ticksFrom l p then o else l) p = min (ticksFrom o p) (ticksFrom l p) := by
  split <;> omega

/-- The step with one more timeout, as many as a byte counts. -/
def TStep.timedOut (t : TStep) : TStep := { t with timeouts := min 255 (t.timeouts + 1) }

/-- The head aborts the attempt: it counts the timeout, tells the others and stops. -/
def timeOut (room : Nat) (t : TStep) (s : State) : State :=
  sayReady room (abortHere room (tellOthers t (.abort room t.attempt) (onStep room TStep.timedOut s)))

theorem exec_bucketTimeout {bucket p o l : Nat} {b : Bucket} (hup : s.up = true) (hstep : s.step? room = some t) (hheads : s.heads t = true)
    (hphase : t.phase = .running) (hp : p ∈ t.participants) (hbucket : t.bucket? bucket = some b) (hopened : b.opened = some o)
    (hheard : lookupNat t.heard p = some l) : exec (.bucketTimeout room bucket p) s =
      .next (if p ∈ b.commits ∨ min (ticksFrom o s.pos) (ticksFrom l s.pos) < s.img.active.watch.bucketTimeout then s else timeOut room t s) := by
  change execBucketTimeout room bucket p s = _
  simp [execBucketTimeout, hstep, hup, hheads, hphase, hp, hbucket, hopened, hheard, ticksFrom_later]
  rfl

theorem timeOut_aborts (hstep : s.step? room = some t) : (timeOut room t s).train.lastStep = s.train.lastStep ∧ ∃ l,
    (timeOut room t s).step? room = some { t.timedOut.stopped with phase := .aborted, abortAt := s.pos, readyFrom := l } := by
  have hcounted := ChangesStep.onStep room TStep.timedOut s
  have htold := tellOthers_keepsTraining (onStep room TStep.timedOut s) t (.abort room t.attempt)
  obtain ⟨hstopped, haborted⟩ := abortHere_aborts ((htold.step? room).trans (step?_onStep_same hstep))
  obtain ⟨hsaid, l, hready⟩ := sayReady_says haborted
  rw [htold.frame.pos] at hready
  exact ⟨((hcounted.trans (htold.changes room)).trans (hstopped.trans hsaid)).lastStep, l, hready⟩

theorem mem_stopped_buckets {y : Bucket} (hy : y ∈ t.stopped.buckets) : y.ready = false ∧ y.reduced = none ∧ y.commits = [] := by
  obtain ⟨b, -, rfl⟩ := List.mem_map.mp hy
  exact ⟨rfl, rfl, rfl⟩

/-! ### The next attempt (R280, R281) -/

/-- Those of a step's participants that are ready. -/
def TStep.ready (t : TStep) : List Nat := t.participants.filter t.readyFrom.contains

/-- Every participant of the step is ready. -/
def TStep.allReady (t : TStep) : Bool := t.participants.all t.readyFrom.contains

/-- The step goes on, with all of its participants or not. -/
def TStep.goesOn (all : Bool) (t : TStep) : TStep := { t with dropped := t.dropped || !all }

theorem exec_attemptRestart_waits (hstep : s.step? room = some t) (hmissing : ∃ p ∈ t.participants, p ∉ t.readyFrom)
    (hsoon : ticksFrom t.abortAt s.pos < s.img.active.watch.bucketTimeout) : exec (.attemptRestart room) s = .next s := by
  have hall : t.participants.all t.readyFrom.contains = false := by simpa using hmissing
  change execAttemptRestart room s = _
  simp [execAttemptRestart, hstep, hall, hsoon]

section
variable (hup : s.up = true) (hstep : s.step? room = some t) (hheads : s.heads t = true) (hphase : t.phase = .aborted)
  (hme : s.me ∈ t.readyFrom)
  (hdue : (∀ p ∈ t.participants, p ∈ t.readyFrom) ∨ s.img.active.watch.bucketTimeout ≤ ticksFrom t.abortAt s.pos)
include hup hstep hheads hphase hme hdue

/-- A restart that is due gives the step up, or starts the next attempt with those that are ready. -/
theorem exec_attemptRestart_due : exec (.attemptRestart room) s = .next (
    if t.maxAttempts ≤ t.attempt then giveUpStep t stGenDropped s
    else if t.scope = 1 ∧ t.ready = [s.me] ∧ 1 < t.count then
      giveUpStep (t.goesOn t.allReady) stNotPresent (onStep room (TStep.goesOn t.allReady) s)
    else startAttempt room (t.attempt + 1) t.ready (onStep room (TStep.goesOn t.allReady) s)) := by
  have hguard : (!(s.up && s.heads t && t.phase == .aborted && t.readyFrom.contains s.me) ||
      !(t.participants.all t.readyFrom.contains || decide (s.img.active.watch.bucketTimeout ≤ ticksFrom t.abortAt s.pos))) = false := by
    simpa [hup, hheads, hphase, hme] using fun p hp hnot => hdue.resolve_left fun hall => hnot (hall p hp)
  have hnoted : (onStep room (fun x => { x with dropped := x.dropped || !(t.participants.all t.readyFrom.contains) }) s).step? room =
      some (t.goesOn t.allReady) := step?_onStep_same hstep
  change execAttemptRestart room s = _
  simp only [execAttemptRestart, hstep, hguard, hnoted]
  rfl

theorem attemptRestart_gives_up {h : Hdr} (hhdr : t.hdr = some h) (hspent : t.maxAttempts ≤ t.attempt) :
    ∃ v, exec (.attemptRestart room) s = .next (finish h stGenDropped (memWrite t.outNsid t.outFirst (stepHeader t 2 t.loss 0) v)) ∧
      v.step? room = none ∧ v.train.lastStep = s.train.lastStep := by
  rw [exec_attemptRestart_due hup hstep hheads hphase hme hdue, if_pos hspent]
  obtain rfl := room_of_step? hstep
  obtain ⟨v, hgiven, hgone, hlast⟩ := giveUpStep_head hheads hhdr stGenDropped
  exact ⟨v, by rw [hgiven], hgone, hlast⟩

theorem attemptRestart_alone {h : Hdr} (hhdr : t.hdr = some h) (hmore : t.attempt < t.maxAttempts) (hscope : t.scope = 1)
    (hshared : 1 < t.count) (halone : t.ready = [s.me]) :
    ∃ v, exec (.attemptRestart room) s = .next (finish h stNotPresent v) ∧ v.step? room = none ∧ v.train.lastStep = s.train.lastStep := by
  rw [exec_attemptRestart_due hup hstep hheads hphase hme hdue, if_neg (Nat.not_le.mpr hmore), if_pos ⟨hscope, halone, hshared⟩]
  obtain rfl := room_of_step? hstep
  obtain ⟨v, hgiven, hgone, hlast⟩ := giveUpStep_head (s := onStep t.room (TStep.goesOn t.allReady) s) (t := t.goesOn t.allReady)
    hheads hhdr stNotPresent
  have hwritten := KeepsTraining.of_loads (memWrite_loads t.outNsid t.outFirst
    (stepHeader (t.goesOn t.allReady) 2 (t.goesOn t.allReady).loss 0) v)
  exact ⟨_, congrArg Host.Outcome.next hgiven, (hwritten.step? t.room).trans hgone, (congrArg TrainSt.lastStep hwritten.train).trans hlast⟩

theorem attemptRestart_starts (hmore : t.attempt < t.maxAttempts) (hgoes : t.scope = 0 ∨ t.count ≤ 1 ∨ t.ready ≠ [s.me]) :
    ∃ v x, exec (.attemptRestart room) s = .next v ∧ v.step? room = some x ∧ x.phase = .running ∧ x.attempt = t.attempt + 1 ∧
      x.participants = t.ready ∧ x.dropped = (t.dropped || t.participants.any fun p => !t.readyFrom.contains p) ∧
      v.train.lastStep = s.train.lastStep := by
  have hnotAlone : ¬(t.scope = 1 ∧ t.ready = [s.me] ∧ 1 < t.count) := by
    rintro ⟨hscope, halone, hshared⟩
    rcases hgoes with hown | hsingle | hothers
    · omega
    · omega
    · exact hothers halone
  obtain ⟨hchanges, x, hx, hbegun⟩ := startAttempt_begins (step?_onStep_same (f := TStep.goesOn t.allReady) hstep) (t.attempt + 1) t.ready
  have hdropped : x.dropped = (t.dropped || !t.allReady) := congrArg TStep.dropped hbegun
  rw [TStep.allReady, List.not_all_eq_any_not] at hdropped
  rw [exec_attemptRestart_due hup hstep hheads hphase hme hdue, if_neg (Nat.not_le.mpr hmore), if_neg hnotAlone]
  exact ⟨_, x, rfl, hx, congrArg TStep.phase hbegun, congrArg TStep.attempt hbegun, congrArg TStep.participants hbegun, hdropped,
    hchanges.lastStep⟩

end

/-! ### A silent head (R282), and a participant's progress (R278) -/

section
variable (hstep : s.step? room = some t)
include hstep

theorem exec_headSilenceTimeout_waits (hheard : ticksFrom t.headHeard s.pos < s.img.active.watch.bucketTimeout ∨
    ∃ c, t.phase = .applyAt c ∨ t.phase = .copying c) : exec (.headSilenceTimeout room) s = .next s := by
  change execHeadSilenceTimeout room s = _
  simp only [execHeadSilenceTimeout, hstep]
  rcases hheard with hheard | ⟨c, hphase | hphase⟩
  · have hsoon : decide (s.img.active.watch.bucketTimeout ≤ ticksFrom t.headHeard s.pos) = false := decide_eq_false (Nat.not_le.mpr hheard)
    simp only [hsoon, Bool.and_false, Bool.false_eq_true, ite_false]
  · simp [hphase]
  · simp [hphase]

theorem exec_trainProgressSend_silent (hsilent : t.phase ≠ .running ∨ s.servesAttempt t = false) :
    exec (.trainProgressSend room) s = .next s := by
  have hguard : (!(s.up && t.phase == .running && s.servesAttempt t)) = true := by
    rcases hsilent with hphase | hserves
    · simp [hphase]
    · simp [hserves]
  change execTrainProgressSend room s = _
  simp only [execTrainProgressSend, hstep, if_pos hguard]

variable (hup : s.up = true) (hheads : s.heads t = false)
include hup hheads

theorem exec_headSilenceTimeout_drops (hwaits : ∀ c, t.phase ≠ .applyAt c ∧ t.phase ≠ .copying c)
    (hsilent : s.img.active.watch.bucketTimeout ≤ ticksFrom t.headHeard s.pos) :
    exec (.headSilenceTimeout room) s = .next (removeStep room (stopAttempt t s)) := by
  change execHeadSilenceTimeout room s = _
  simp only [execHeadSilenceTimeout, hstep, hup, hheads]
  cases hphase : t.phase with
  | checking => simp [hsilent]
  | running => simp [hsilent]
  | aborted => simp [hsilent]
  | applyAt c => exact absurd hphase (hwaits c).1
  | copying c => exact absurd hphase (hwaits c).2

theorem exec_trainProgressSend_serves (hphase : t.phase = .running) (hserves : s.servesAttempt t = true) :
    exec (.trainProgressSend room) s = .next (sendTo t.head 0 (.train (.progress room t.attempt)) s) := by
  change execTrainProgressSend room s = _
  simp [execTrainProgressSend, hstep, hup, hheads, hphase, hserves]

end
end

/-! ### The clauses of O32 -/

section
variable {room : Nat} {s : State} {t : TStep}

theorem admitted_identity {h : Hdr} {b table : Blob} {parts : List Nat} {x : TStep}
    (hx : x = admitted h room b table s ∨ Begun 1 parts (admitted h room b table s) x) :
    x.hdr = some h ∧ x.head = s.me ∧ x.stepId.toNat = b.le 0xC 4 ∧ x.admitBell = s.bell.count ∧ x.admitTick = s.bell.tick := by
  have hid : (BitVec.ofNat 32 (b.le 0xC 4)).toNat = b.le 0xC 4 := (BitVec.toNat_ofNat ..).trans (Nat.mod_eq_of_lt (Blob.le_lt b 0xC 4))
  rcases hx with hx | hx
  · rw [hx]
    exact ⟨rfl, rfl, hid, rfl, rfl⟩
  · rw [Begun] at hx
    rw [hx]
    exact ⟨rfl, rfl, hid, rfl, rfl⟩

/-- R264: a step that passes the checks is admitted; it begins at once, or waits for the members' reports. -/
theorem checkReports_admits {h : Hdr} {b table : Blob} (hstep : s.step? room = none) :
    ∃ x, (checkReports room (putStep h room b table s)).step? room = some x ∧ x.hdr = some h ∧ x.head = s.me ∧
      x.stepId.toNat = b.le 0xC 4 ∧ x.admitBell = s.bell.count ∧ x.admitTick = s.bell.tick ∧
      (∀ q, q ≠ room → (checkReports room (putStep h room b table s)).step? q = s.step? q) ∧
      (checkReports room (putStep h room b table s)).train.lastStep = s.train.lastStep ∧
      (checkReports room (putStep h room b table s)).ns = s.ns ∧ (checkReports room (putStep h room b table s)).bell = s.bell ∧
      (b.le 1 1 = 0 → x.phase = .running ∧ x.attempt = 1 ∧ x.participants = [s.me]) ∧
      (b.le 1 1 = 1 → s.plain.member = s.me → (∃ m, m ≠ s.me ∧ m < s.members ∧ s.isPresent m = true) →
        x.phase = .checking ∧ x.attempt = 0 ∧ ∀ m, m ∈ x.asked ↔ (m ≠ s.me ∧ m < s.members ∧ s.isPresent m = true)) := by
  obtain ⟨x, hx, hchanges, hwaits, hbegins⟩ := admitted_proceeds (h := h) (b := b) (table := table) hstep
  obtain ⟨-, hothers⟩ := putStep_steps (h := h) (b := b) (table := table) hstep
  obtain ⟨hns, hbell, hlast⟩ := putStep_frame (h := h) (room := room) (b := b) (table := table) (s := s)
  obtain ⟨hhdr, hhead, hid, hadmitBell, hadmitTick⟩ := admitted_identity (x := x) (Decidable.or_iff_not_imp_left.mpr fun hne =>
    hbegins (Classical.byContradiction fun hasked => hne (hwaits hasked)))
  refine ⟨x, hx, hhdr, hhead, hid, hadmitBell, hadmitTick, fun q hq => (hchanges.others q hq).trans (hothers q hq),
    hchanges.lastStep.trans hlast, hchanges.frame.ns.trans hns, hchanges.frame.bell.trans hbell, fun hscope => ?_,
    fun hscope hmember ⟨m, hm⟩ => ?_⟩
  · obtain ⟨hparts, hasked⟩ := admitted_asks_none (h := h) (room := room) (table := table) (s := s) hscope
    have hbegun := hbegins hasked
    rw [Begun, hparts] at hbegun
    rw [hbegun]
    exact ⟨rfl, rfl, rfl⟩
  · have hmem := mem_admitted_asked (h := h) (room := room) (table := table) hscope hmember
    obtain rfl := hwaits (List.ne_nil_of_mem ((hmem m).mpr hm))
    exact ⟨rfl, rfl, hmem⟩

theorem bucketReady_twice_head {bucket : Nat} {b : Bucket} {h : Hdr} (hup : s.up = true) (hstep : s.step? room = some t)
    (hbucket : t.bucket? bucket = some b) (hphase : t.phase = .running) (hrun : t.run.isSome = true) (hready : b.ready = true)
    (hheads : s.heads t = true) (hhdr : t.hdr = some h) :
    ∃ v, exec (.bucketReady room bucket) s = .next (finish h stProgramFaulted
      (memWrite t.outNsid t.outFirst (stepHeader t 2 t.loss 0) v)) ∧ v.step? room = none ∧ v.train.lastStep = s.train.lastStep := by
  obtain rfl := room_of_step? hstep
  obtain ⟨v, hgiven, hgone, hlast⟩ := giveUpStep_head hheads hhdr stProgramFaulted
  refine ⟨v, ?_, hgone, hlast⟩
  rw [exec_bucketReady hup, postBucket_twice hstep hbucket hphase hrun hready, hgiven]

theorem bucketReady_twice_participant {bucket : Nat} {b : Bucket} (hup : s.up = true) (hstep : s.step? room = some t)
    (hbucket : t.bucket? bucket = some b) (hphase : t.phase = .running) (hrun : t.run.isSome = true) (hready : b.ready = true)
    (hheads : s.heads t = false) : ∃ v, exec (.bucketReady room bucket) s = .next v ∧ v.step? room = none ∧ v.host = s.host := by
  obtain rfl := room_of_step? hstep
  have hdropped := removeStep_stopAttempt t s
  refine ⟨_, ?_, hdropped.gone, hdropped.changes.frame.host⟩
  rw [exec_bucketReady hup, postBucket_twice hstep hbucket hphase hrun hready, giveUpStep_participant hheads]

theorem applyCopyDone_completes {c : BitVec 48} {h : Hdr} (hstep : s.step? room = some t) (hup : s.up = true)
    (hphase : t.phase = .copying c) (h0 : s.dieServes 0 = true) (h3 : s.dieServes 3 = true) (h4 : s.dieServes 4 = true)
    (hheads : s.heads t = true) (hhdr : t.hdr = some h) :
    ∃ v, exec (.applyCopyDone room) s = .next (finish h stOk (memWrite t.outNsid t.outFirst (stepHeader t 0 t.loss c.toNat) v)) ∧
      v.step? room = none ∧ v.train.lastStep = modifyAt s.train.lastStep room (fun _ => t.stepId) ∧
      (∀ b n o m q, t.buckets = [b] → b.kind = 0 → t.opt = 0 → memSpan b.next (b.elems * b.wBytes) = some (n, o) →
        memSpan b.weight (b.elems * b.wBytes) = some (m, q) → ∀ i, i < b.elems * b.wBytes →
          (v.ram m).cells.get (q + i) = (s.ram n).cells.get (o + i)) := by
  obtain rfl := room_of_step? hstep
  obtain ⟨v, hended, hdropped⟩ := endStep_head (s := applied t.room t s) ((applied_heads t).trans hheads) hhdr stOk 0 c.toNat
  refine ⟨v, ?_, hdropped.gone, hdropped.changes.lastStep.trans applied_lastStep, fun b n o m q hbuckets hkind hopt hnext hweight i hi => ?_⟩
  · rw [exec_applyCopyDone_ends hstep hup hphase h0 h3 h4, hended]
  · rw [hdropped.ram m, applied_weights hbuckets hkind hopt hnext hweight hi]

end

/-- Settles O32: admission by the checks of `trainStepCore` in their order, each other clause by the branches of its command. -/
theorem trainStepsRunByAttempts : Obligations.TrainStepsRunByAttempts := by
  unfold Obligations.TrainStepsRunByAttempts
  refine ⟨fun h room p r s ok hroom => ?_, fun room bucket s t b hup hstep hbucket => ?_, fun room s t hstep hup => ?_,
    fun room bucket p s t b o l hup hstep hheads hphase hp hbucket hopened hheard => ?_,
    fun room s t h hup hstep hheads hphase hhdr hme => ?_, fun room s t hup hstep hheads => ?_⟩
  · obtain rfl : r.room = room := by simpa using List.find?_some hroom
    rw [exec_trainStep ok hroom]
    refine ⟨fun st hp => by rw [withBlock_unreadable hp], fun b hp => ⟨fun hbad => ?_, fun hlen hfields => ?_⟩⟩
    · by_cases hlen : b.len < 0x80
      · rw [withBlock_short hp hlen]
      · rw [withBlock_read hp (Nat.not_lt.mp hlen), trainStepCore_bad_fields (hbad.resolve_left hlen)]
    · rw [withBlock_read hp hlen]
      refine ⟨fun hstands => by rw [trainStepCore_step_stands hfields hstands],
        fun hnone haccess => by rw [trainStepCore_no_access hfields hnone haccess],
        fun hnone htrain hscope hplain hmember => by rw [trainStepCore_not_present hfields hnone htrain hscope hplain hmember],
        fun hnone htrain hscope => ⟨fun hlesson => by rw [trainStepCore_no_lesson hfields hnone htrain hscope hlesson],
          fun tb l hlesson htable => ?_⟩⟩
      rw [trainStepCore_checks_table hfields hnone htrain hscope hlesson htable]
      refine ⟨fun hkind hno => by rw [checkTable_no_index hkind hno], fun st hindex hfault => by rw [checkTable_fault hindex hfault],
        fun d i hgood hkind hrefs hbad => ?_, fun hgood hindex hexamples => ?_⟩
      · rw [checkTable_good (by simp [hkind]) hgood, withExamples_refused _ hkind hrefs hbad]
      · rw [checkTable_good hindex hgood, withExamples_good _ hexamples]
        obtain ⟨x, hx⟩ := checkReports_admits (h := h) (b := b) (table := tb) hnone
        exact ⟨_, x, rfl, hx⟩
  · refine ⟨fun hidle => ?_, fun hphase hrun hready => ⟨fun h hheads hhdr => ?_, fun hheads => ?_⟩⟩
    · rw [exec_bucketReady hup, postBucket_no_attempt hstep hidle]
    · exact bucketReady_twice_head hup hstep hbucket hphase hrun hready hheads hhdr
    · exact bucketReady_twice_participant hup hstep hbucket hphase hrun hready hheads
  · exact ⟨exec_applyCopyDone_waits hstep, fun c h hphase h0 h3 h4 hheads hhdr =>
      applyCopyDone_completes hstep hup hphase h0 h3 h4 hheads hhdr⟩
  · rw [exec_bucketTimeout hup hstep hheads hphase hp hbucket hopened hheard]
    refine ⟨fun hpatient => by rw [if_pos hpatient], fun hmissing hsilent => ?_⟩
    obtain ⟨hlast, ready, hx⟩ := timeOut_aborts hstep
    rw [if_neg (not_or.mpr ⟨hmissing, Nat.not_lt.mpr hsilent⟩)]
    exact ⟨_, _, rfl, hx, rfl, rfl, rfl, rfl, rfl, fun y hy => mem_stopped_buckets (t := t) hy, hlast⟩
  · exact ⟨exec_attemptRestart_waits hstep, fun hdue =>
      ⟨attemptRestart_gives_up hup hstep hheads hphase hme hdue hhdr, attemptRestart_alone hup hstep hheads hphase hme hdue hhdr,
        attemptRestart_starts hup hstep hheads hphase hme hdue⟩⟩
  · refine ⟨fun hsilent hwaits => ?_, exec_headSilenceTimeout_waits hstep, exec_trainProgressSend_serves hstep hup hheads,
      exec_trainProgressSend_silent hstep⟩
    obtain rfl := room_of_step? hstep
    have hdropped := removeStep_stopAttempt t s
    exact ⟨_, exec_headSilenceTimeout_drops hstep hup hheads hwaits hsilent, hdropped.gone, hdropped.changes.others,
      hdropped.changes.lastStep, hdropped.changes.frame.host⟩

end Sys2Proof.Machine
end

/-! PROOFS, shared: what a run that takes an engine leaves alone, what reads of cached segments and writes do to memory, the count of refused
accesses, and one engine changed. -/

section
namespace Sys2Proof.Machine

/-! ### Taking an engine -/

section
variable (e : Engine) (id : Nat) (s : State)

theorem claim_frame : claim e id s = { s with sched := (claim e id s).sched } := by
  unfold claim
  split
  · rfl
  · rfl

@[simp] theorem claim_mem : (claim e id s).mem = s.mem := (congrArg State.mem (claim_frame e id s) :)
@[simp] theorem claim_host : (claim e id s).host = s.host := (congrArg State.host (claim_frame e id s) :)
@[simp] theorem claim_bell : (claim e id s).bell = s.bell := (congrArg State.bell (claim_frame e id s) :)
@[simp] theorem claim_img : (claim e id s).img = s.img := (congrArg State.img (claim_frame e id s) :)
@[simp] theorem claim_ns : (claim e id s).ns = s.ns := (congrArg State.ns (claim_frame e id s) :)
@[simp] theorem claim_vu (n : Nat) : (claim e id s).vu n = s.vu n := by
  rw [State.vu, State.vu, claim_eng]

theorem claim_ram (n : Nat) : (claim e id s).ram n = s.ram n := by rw [State.ram, State.ram, claim_mem]

theorem claim_memRead (n o len : Nat) : memRead n o len (claim e id s) = memRead n o len s := by rw [memRead, memRead, claim_ram]

end

/-- A run that takes an engine stays the run that it is, but for the engines on which it is ready. -/
theorem run?_claim {e : Engine} {id : Nat} {r : Run} {s : State} (hrun : s.run? id = some r) :
    ∃ l, (claim e id s).run? id = some { r with ready := l } := by
  unfold claim
  split
  · exact ⟨r.ready, hrun⟩
  · refine ⟨r.ready.filter fun x => x.1 != e, ?_⟩
    exact (find?_changed_same (key := Run.id) (by intro; rfl) id s.sched.runs).trans (congrArg (Option.map _) hrun)

/-! ### Reads of cached segments and writes of clean data -/

/-- Cached segments that are read change in their age and in who uses them, and nothing else changes. -/
@[simp] theorem useCached_agesAside (r : Run) (addrs : List Nat) (s : State) : (useCached r addrs s).mem.agesAside = s.mem.agesAside := by
  simp only [useCached, onMem_mem, MemSt.agesAside, List.map_map]
  congr 2
  funext g
  simp only [Function.comp_apply]
  split
  · rfl
  · rfl

theorem setRam_ram (nsid : Nat) (s : State) : setRam nsid (s.ram nsid) s = s := by
  unfold setRam State.ram
  split
  · rfl
  · rfl

/-- Data none of which is poisoned is written as other data is. -/
theorem writeMarked_clean (nsid o : Nat) (d : Blob) (s : State) : writeMarked nsid o d [] s = memWrite nsid o d s := by
  have hmarked : memMark nsid [] (memWrite nsid o d s) = memWrite nsid o d s :=
    (foldl_keeps (g := id) (fun _ _ => rfl) (List.range 5) _).trans (setRam_ram nsid _)
  exact hmarked

/-- What a write to a memory namespace leaves of memory depends on memory alone. -/
theorem memWrite_mem {s t : State} (hmem : t.mem = s.mem) (nsid o : Nat) (d : Blob) : (memWrite nsid o d t).mem = (memWrite nsid o d s).mem := by
  have hram : t.ram nsid = s.ram nsid := by rw [State.ram, State.ram, hmem]
  unfold memWrite setRam
  rw [hram]
  split
  · simp only [hmem]
  · simp only [hmem]

theorem memWrite_frame (nsid o : Nat) (d : Blob) (s : State) : memWrite nsid o d s = { s with mem := (memWrite nsid o d s).mem } := by
  unfold memWrite setRam
  split
  · rfl
  · rfl

/-! ### A refused access -/

theorem dropRun_denied (r : Run) (s : State) : (dropRun r s).mem.stats.denied = s.mem.stats.denied := by
  refine foldl_keeps (g := (·.mem.stats.denied)) (f := fun s e => if s.holder e == some r.id then setHolder e none s else s)
    (fun s e => ?_) r.engines s
  split
  · rfl
  · rfl

theorem finishUnrecovered_mem (h : Hdr) (d : Blob) (nsid lba : Nat) (s : State) : (finishUnrecovered h d nsid lba s).mem = s.mem := post_mem ..

theorem endRun_denied (id : Nat) (st : Status) (s : State) : (endRun id st s).mem.stats.denied = s.mem.stats.denied := by
  unfold endRun
  split
  · rfl
  · dsimp only
    split
    · exact dropRun_denied _ s
    · split
      · rw [finishUnrecovered_mem, dropRun_denied]
      · rw [finish_mem, dropRun_denied]

theorem denyRun_counts (id : Nat) (s : State) : (denyRun id s).mem.stats.denied = bump32 s.mem.stats.denied := endRun_denied ..

/-! ### One engine changed -/

theorem onMxa_mxa_same {n : Nat} {s : State} (h : n < s.eng.mxa.length) (f : Mxa → Mxa) : (onMxa n f s).mxa n = f (s.mxa n) :=
  modifyAt_getD_same _ _ _ _ h

theorem onVu_vu_same {n : Nat} {s : State} (h : n < s.eng.vu.length) (f : Vu → Vu) : (onVu n f s).vu n = f (s.vu n) :=
  modifyAt_getD_same _ _ _ _ h

theorem setMover_same {n : Nat} {s : State} (h : n < s.eng.movers.length) (m : Option Moving) :
    (setMover n m s).eng.movers.getD n none = m := modifyAt_getD_same _ _ _ _ h

end Sys2Proof.Machine
end

/-! PROOFS of the family 09_matrix_arrays, first part: vector operations by lane (O34). -/

section
namespace Sys2Proof.Machine

/-! ### Operations of a vector unit by the number of their sources -/

theorem VuWrites.congr {run vu dst : Nat} {f f' : Nat → BitVec 32} {p p' : Nat → Bool} {s : State} {r : Res}
    (h : VuWrites run vu dst f p s r) (hlane : ∀ i, i < 64 → f i = f' i ∧ p i = p' i) : VuWrites run vu dst f' p' s r := by
  obtain ⟨t, hr, hdst, hframe⟩ := h
  exact ⟨t, hr, fun i hi => ⟨(hdst i hi).1.trans (hlane i hi).1, (hdst i hi).2.trans (hlane i hi).2⟩, hframe⟩

/-- An operation that a run may not issue changes nothing. -/
theorem vuOp_idle {run vu : Nat} {s : State} (hno : s.mayIssue run (.vu vu) = false) (f : State → State) : vuOp run vu f s = s := by
  rw [vuOp, if_neg (by simp [hno])]

section
variable {run vu : Nat} {s : State} (dst a b c : Nat) (f : List (BitVec 32) → BitVec 32)
variable (ok : s.mayIssue run (.vu vu) = true) (hvu : vu < s.eng.vu.length)
include ok hvu

theorem vuLanes_writes_of_one : VuWrites run vu dst (fun i => f [(s.vu vu).lane a i]) (fun i => (s.vu vu).bad a i) s
    (.next (vuOp run vu (vuLanes vu dst [a] f) s)) :=
  (vuLanes_writes run vu dst [a] f s ok hvu).congr fun _ _ => ⟨rfl, by simp⟩

theorem vuLanes_writes_of_two : VuWrites run vu dst (fun i => f [(s.vu vu).lane a i, (s.vu vu).lane b i])
    (fun i => (s.vu vu).bad a i || (s.vu vu).bad b i) s (.next (vuOp run vu (vuLanes vu dst [a, b] f) s)) :=
  (vuLanes_writes run vu dst [a, b] f s ok hvu).congr fun _ _ => ⟨rfl, by simp⟩

theorem vuLanes_writes_of_three : VuWrites run vu dst (fun i => f [(s.vu vu).lane a i, (s.vu vu).lane b i, (s.vu vu).lane c i])
    (fun i => (s.vu vu).bad a i || ((s.vu vu).bad b i || (s.vu vu).bad c i)) s (.next (vuOp run vu (vuLanes vu dst [a, b, c] f) s)) :=
  (vuLanes_writes run vu dst [a, b, c] f s ok hvu).congr fun _ _ => ⟨rfl, by simp⟩

end

theorem arithSources_of_two {op : VuArith} (hselect : op ≠ .select) (habs : op ≠ .abs) (a b c : Nat) : arithSources op a b c = [a, b] := by
  cases op with
  | select => exact absurd rfl hselect
  | abs => exact absurd rfl habs
  | _ => rfl

theorem exec_vuArithmetic_of_two {op : VuArith} (hselect : op ≠ .select) (habs : op ≠ .abs) (run vu : Nat) (ty : LaneType)
    (dst a b c : Nat) (s : State) : exec (.vuArithmetic run vu op ty dst a b c) s =
      .next (vuOp run vu (vuLanes vu dst [a, b] fun l => laneArith op ty (l.getD 0 0) (l.getD 1 0) (l.getD 2 0)) s) := by
  rw [← arithSources_of_two hselect habs a b c]
  rfl

theorem exec_vuDivideSqrt_of_one {op : VuDiv} (hop : op ≠ .div) (run vu dst a b : Nat) (s : State) :
    exec (.vuDivideSqrt run vu op dst a b) s =
      .next (vuOp run vu (vuLanes vu dst [a] fun l => laneDiv op (l.getD 0 0) (l.getD 1 0)) s) := by
  change execVuDivideSqrt run vu op dst a b s = _
  rw [execVuDivideSqrt, if_neg hop]

/-! ### INT32 lanes (R219, R228) -/

section
variable (x y z : BitVec 32)

theorem int32Or_exact {v : Int} (hlo : -2147483648 ≤ v) (hhi : v ≤ 2147483647) (k : Nat) : int32Or k x y v = BitVec.ofInt 32 v :=
  if_pos ⟨hlo, hhi⟩

theorem laneArith_add_int32 (hlo : -2147483648 ≤ x.toInt + y.toInt) (hhi : x.toInt + y.toInt ≤ 2147483647) :
    laneArith .add .int32 x y z = x + y := by
  have hsum : laneArith .add .int32 x y z = BitVec.ofInt 32 (x.toInt + y.toInt) := int32Or_exact x y hlo hhi 0
  rw [hsum, BitVec.ofInt_add, BitVec.ofInt_toInt, BitVec.ofInt_toInt]

theorem laneArith_sub_int32 (hlo : -2147483648 ≤ x.toInt - y.toInt) (hhi : x.toInt - y.toInt ≤ 2147483647) :
    laneArith .sub .int32 x y z = x - y := by
  have hdiff : laneArith .sub .int32 x y z = BitVec.ofInt 32 (x.toInt - y.toInt) := int32Or_exact x y hlo hhi 1
  exact BitVec.eq_of_toInt_eq (by rw [hdiff, BitVec.toInt_ofInt, BitVec.toInt_sub])

theorem laneArith_mul_int32 (hlo : -2147483648 ≤ x.toInt * y.toInt) (hhi : x.toInt * y.toInt ≤ 2147483647) :
    laneArith .mul .int32 x y z = x * y := by
  have hprod : laneArith .mul .int32 x y z = BitVec.ofInt 32 (x.toInt * y.toInt) := int32Or_exact x y hlo hhi 2
  rw [hprod, BitVec.ofInt_mul, BitVec.ofInt_toInt, BitVec.ofInt_toInt]

theorem laneArith_min_int32 : (laneArith .min .int32 x y z).toInt = min x.toInt y.toInt := by
  change (if BitVec.slt y x then y else x).toInt = _
  simp only [BitVec.slt_iff_toInt_lt]
  split
  · omega
  · omega

theorem laneArith_max_int32 : (laneArith .max .int32 x y z).toInt = max x.toInt y.toInt := by
  change (if BitVec.slt x y then y else x).toInt = _
  simp only [BitVec.slt_iff_toInt_lt]
  split
  · omega
  · omega

theorem laneArith_abs_int32 (hx : x ≠ BitVec.intMin 32) : (laneArith .abs .int32 x y z).toInt = x.toInt.natAbs := by
  have hlo : -2147483648 ≤ x.toInt := x.le_toInt
  have hhi : x.toInt < 2147483648 := x.toInt_lt
  have hmin : x.toInt ≠ -2147483648 := fun h => hx (BitVec.eq_of_toInt_eq h)
  have habs : laneArith .abs .int32 x y z = BitVec.ofInt 32 x.toInt.natAbs := int32Or_exact x 0 (by omega) (by omega) 9
  rw [habs]
  exact BitVec.toInt_ofInt_eq_self (by decide) (by omega) (by omega)

theorem laneLogic_shl (hy : y.toNat < 32) : laneLogic .shl x y = x <<< y.toNat := if_pos hy

theorem laneLogic_shr (hy : y.toNat < 32) : laneLogic .shr x y = x >>> y.toNat := if_pos hy

theorem laneLogic_sar_toInt (hy : y.toNat < 32) : (laneLogic .sar x y).toInt = x.toInt / 2 ^ y.toNat := by
  have hshift : laneLogic .sar x y = x.sshiftRight y.toNat := if_pos hy
  rw [hshift, BitVec.toInt_sshiftRight, Int.shiftRight_eq_div_pow]
  norm_cast

end

/-- Settles O34: each operation is `vuLanes` over its one, two or three sources; the INT32 results are read off the branches of `int32Or`. -/
theorem vectorOperationsWorkByLane : Obligations.VectorOperationsWorkByLane := by
  unfold Obligations.VectorOperationsWorkByLane
  refine ⟨fun run vu dst a b c s => ⟨fun hno => ?_, fun ok hvu => ?_⟩, fun x y z => ?_⟩
  · have hidle : ∀ f, Host.Outcome.next (vuOp run vu f s) = (.next s : Res) := fun f => congrArg _ (vuOp_idle hno f)
    exact ⟨fun _ _ => hidle _, hidle _, fun _ => hidle _, fun _ => hidle _, fun _ => hidle _⟩
  · refine ⟨fun op ty hselect habs => ?_, fun _ => vuLanes_writes_of_three dst a b c _ ok hvu, fun _ => vuLanes_writes_of_one dst a _ ok hvu,
      vuLanes_writes_of_three dst a b c _ ok hvu, fun _ => vuLanes_writes_of_two dst a b _ ok hvu,
      vuLanes_writes_of_two dst a b _ ok hvu, fun op hop => ?_, fun _ => vuLanes_writes_of_one dst a _ ok hvu⟩
    · rw [exec_vuArithmetic_of_two hselect habs]
      exact vuLanes_writes_of_two dst a b _ ok hvu
    · rw [exec_vuDivideSqrt_of_one hop]
      exact vuLanes_writes_of_one dst a _ ok hvu
  · exact ⟨laneArith_add_int32 x y z, laneArith_sub_int32 x y z, laneArith_mul_int32 x y z, laneArith_min_int32 x y z,
      laneArith_max_int32 x y z, laneArith_abs_int32 x y z, rfl, rfl, rfl,
      fun hy => ⟨laneLogic_shl x y hy, laneLogic_shr x y hy, laneLogic_sar_toInt x y hy⟩⟩

end Sys2Proof.Machine
end

/-! PROOFS of the family 09_matrix_arrays, second part: loads, stores, reductions, lookups and scatter-adds of a vector unit (O35). -/

section
namespace Sys2Proof.Machine

/-! ### Loads and stores (R219, R227, R234) -/

theorem exec_vuFormatConversion {run vu : Nat} {s : State} (ok : s.mayIssue run (.vu vu) = true) (store : Bool) (ty : LaneType)
    (fmt reg : Nat) (addr : BitVec 64) (scale : Option Nat) (lanes : Nat) :
    exec (.vuFormatConversion run vu store ty fmt reg addr scale lanes) s =
      .next (vuTransfer run vu store ty fmt reg addr.toNat scale lanes (claim (.vu vu) run s)) := by
  change execVuFormatConversion run vu store ty fmt reg addr scale lanes s = _
  rw [execVuFormatConversion, if_pos ok]

/-- The lanes that a load without a scale puts, each with its poison. -/
def loadedLanes (f : Fmt) (ty : LaneType) (ns o len lanes : Nat) (s : State) : List (Nat × BitVec 32 × Bool) :=
  (List.range lanes).map fun i =>
    (i, loadLane f ty 0 (rowCode f (memRead ns o len s) i), (elemBytes f i).any fun b => ((s.ram ns).badBytes o len).contains b)

theorem lane_put_loaded {lanes : Nat} (hlanes : lanes ≤ 64) (f : Fmt) (ty : LaneType) (ns o len : Nat) (s : State) (v : Vu) (reg q : Nat)
    {i : Nat} (hi : i < 64) : (v.put reg (loadedLanes f ty ns o len lanes s)).lane q i =
      if q = reg ∧ i < lanes then loadLane f ty 0 (rowCode f (memRead ns o len s) i) else v.lane q i := by
  have hrange : ∀ j ∈ List.range lanes, j < 64 := fun j hj => Nat.lt_of_lt_of_le (List.mem_range.mp hj) hlanes
  have hput := (Vu.lane_put (List.range lanes) (fun i => loadLane f ty 0 (rowCode f (memRead ns o len s) i))
    (fun i => (elemBytes f i).any fun b => ((s.ram ns).badBytes o len).contains b) v reg hrange q i hi).1
  simpa only [loadedLanes, List.mem_range] using hput

theorem lane_loaded {vu lanes q i : Nat} {s : State} (hvu : vu < s.eng.vu.length) (hlanes : lanes ≤ 64) (f : Fmt) (ty : LaneType)
    (ns o len : Nat) (r : Run) (l : List Nat) (reg : Nat) (hi : i < 64) :
    ((onVu vu (fun v => v.put reg (loadedLanes f ty ns o len lanes s)) (useCached r l s)).vu vu).lane q i =
      if q = reg ∧ i < lanes then loadLane f ty 0 (rowCode f (memRead ns o len s) i) else (s.vu vu).lane q i := by
  rw [onVu_vu_same (s := useCached r l s) hvu, lane_put_loaded hlanes f ty ns o len s _ reg q hi]
  rfl

/-- The row that a store without a scale writes, of any format but INT4. -/
def storedRow (f : Fmt) (ty : LaneType) (v : Vu) (reg lanes : Nat) : Blob :=
  packRow f ((List.range lanes).map fun i => storeLane f ty 0 (v.lane reg i))

section
variable {run vu fmt addr lanes ns o : Nat} {f : Fmt} {ty : LaneType} {r : Run} {s : State}
variable (hrun : s.run? run = some r) (hfmt : Fmt.ofCode fmt = some f)
include hrun hfmt

theorem vuTransfer_denied {store : Bool} (hspan : memSpan addr (fmtBytes fmt (min lanes 64)) = some (ns, o))
    (hno : s.accessOk r addr (fmtBytes fmt (min lanes 64)) store = false) (reg : Nat) (scale : Option Nat) :
    vuTransfer run vu store ty fmt reg addr scale lanes s = denyRun run s := by
  simp [vuTransfer, hrun, hfmt, hspan, hno]

variable (hlanes : lanes ≤ 64) (hspan : memSpan addr (fmtBytes fmt lanes) = some (ns, o))
variable (hdie : onDie0 (engineDie (.vu vu)) addr false = true)
include hlanes hspan hdie

theorem vuTransfer_loads (hok : s.accessOk r addr (fmtBytes fmt lanes) false = true) (reg : Nat) :
    vuTransfer run vu false ty fmt reg addr none lanes s =
      opDone run (onVu vu (fun v => v.put reg (loadedLanes f ty ns o (fmtBytes fmt lanes) lanes s)) (useCached r [addr] s)) := by
  simp [vuTransfer, loadedLanes, hrun, hfmt, Nat.min_eq_left hlanes, hspan, hok, hdie]

/-- A store of unpoisoned lanes writes their row, and its die counts the NaNs that became integers (R232). -/
theorem vuTransfer_stores {reg : Nat} (hint4 : f ≠ .int4) (hok : s.accessOk r addr (fmtBytes fmt lanes) true = true)
    (hclean : ∀ i, i < lanes → (s.vu vu).bad reg i = false) :
    ∃ g, vuTransfer run vu true ty fmt reg addr none lanes s =
      opDone run (onDie (engineDie (.vu vu)) g (memWrite ns o (storedRow f ty (s.vu vu) reg lanes) s)) := by
  have hbad : ((List.range lanes).filter fun i => (s.vu vu).bad reg i) = [] := by simpa using hclean
  simp only [vuTransfer, storedRow, hrun, hfmt, Nat.min_eq_left hlanes, hspan, hok, hdie, hbad, hint4, Option.any_none, Bool.and_false,
    Bool.or_false, List.flatMap_nil, List.isEmpty_nil, writeMarked_clean, Option.elim_none, false_and, if_false, if_true, Bool.and_true,
    Bool.not_true, Bool.false_eq_true]
  exact ⟨_, rfl⟩

end

/-! ### Lanes put into a register (R219, R220) -/

/-- An operation that puts some lanes of its destination leaves the other lanes there too. -/
theorem vuPut_writes {run vu dst : Nat} {s : State} (ok : s.mayIssue run (.vu vu) = true) (hvu : vu < s.eng.vu.length) {l : List Nat}
    (hl : ∀ i ∈ l, i < 64) (f : Nat → BitVec 32) (p : Nat → Bool) {g : State → State}
    (hg : g (claim (.vu vu) run s) = onVu vu (fun v => v.put dst (l.map fun i => (i, f i, p i))) (claim (.vu vu) run s)) :
    VuWrites run vu dst (fun i => if i ∈ l then f i else (s.vu vu).lane dst i) (fun i => if i ∈ l then p i else (s.vu vu).bad dst i) s
      (.next (vuOp run vu g s)) := by
  have hvu' : vu < (claim (.vu vu) run s).eng.vu.length := by rwa [claim_eng]
  refine ⟨g (claim (.vu vu) run s), by rw [vuOp, if_pos ok], fun i hi => ?_, fun q i hq hi => ?_, fun n hn => ?_, ?_, ?_, ?_⟩
  · rw [hg, onVu_vu_same hvu', claim_vu]
    simpa using Vu.lane_put l f p (s.vu vu) dst hl dst i hi
  · rw [hg, onVu_vu_same hvu', claim_vu]
    simpa [hq] using Vu.lane_put l f p (s.vu vu) dst hl q i hi
  · rw [hg, onVu_vu _ _ _ _ hvu', if_neg hn, claim_vu]
  · rw [hg]
    exact (congrArg EngSt.mxa (claim_eng (.vu vu) run s) :)
  · rw [hg]
    exact (congrArg EngSt.movers (claim_eng (.vu vu) run s) :)
  · rw [hg]
    rfl

/-- The lanes that a reduction takes, in order, and whether one of them is poisoned. -/
def reducedLanes (v : Vu) (first count : Nat) : List (BitVec 32) :=
  ((spanList first count).filter (· < 32)).flatMap fun q => (List.range 64).map fun j => v.lane q j

def reducedBad (v : Vu) (first count : Nat) : Bool :=
  ((spanList first count).filter (· < 32)).any fun q => (List.range 64).any fun j => v.bad q j

section
variable {run vu : Nat} {s : State} (ok : s.mayIssue run (.vu vu) = true) (hvu : vu < s.eng.vu.length)
include ok hvu

theorem vuReduction_writes (op : VuReduce) (ty : LaneType) (dst first count : Nat) : VuWrites run vu dst
    (fun i => if i = 0 then reduceOut op (reduceAll op ty (reducedLanes (s.vu vu) first count)) else (s.vu vu).lane dst i)
    (fun i => if i = 0 then reducedBad (s.vu vu) first count else (s.vu vu).bad dst i) s
    (exec (.vuReduction run vu op ty dst first count) s) := by
  refine (vuPut_writes ok hvu (l := [0]) (by simp) (fun _ => reduceOut op (reduceAll op ty (reducedLanes (s.vu vu) first count)))
    (fun _ => reducedBad (s.vu vu) first count) ?_).congr fun i _ => ⟨by simp only [List.mem_singleton], by simp only [List.mem_singleton]⟩
  simp only [claim_vu, reducedLanes, reducedBad, List.map_flatMap, List.any_flatMap, List.map_map, List.any_map]
  rfl

theorem vuTableLookup_writes (dst idx : Nat) (wide : Bool) (width base : Nat) : VuWrites run vu dst
    (fun i => BitVec.ofNat 32 (leNat ((spanList ((base + ((s.vu vu).lane idx i).toNat % (if wide then 65536 else 256) * width) % 65536)
      (min width 4)).map fun a => gatherAt (s.vu vu) run vu (a % 65536))))
    (fun i => (s.vu vu).bad idx i || (s.vu vu).gather.poisoned
      ((base + ((s.vu vu).lane idx i).toNat % (if wide then 65536 else 256) * width) % 65536) width) s
    (exec (.vuTableLookup run vu dst idx wide width base) s) := by
  refine (vuPut_writes ok hvu (l := List.range 64) (by simp) _ _ ?_).congr
    fun i hi => ⟨if_pos (List.mem_range.mpr hi), if_pos (List.mem_range.mpr hi)⟩
  simp only [claim_vu]

end

/-! ### Scatter-adds (R219) -/

/-- One lane, neither it nor the bytes that it adds to poisoned. -/
theorem scatterLanes_one {v : Vu} {ty : LaneType} {val idx base ns o : Nat} {s : State}
    (hspan : memSpan (scatterAddr base (v.lane idx 0)) 4 = some (ns, o)) (hval : v.bad val 0 = false) (hidx : v.bad idx 0 = false)
    (hheld : (s.ram ns).badBytes o 4 = []) : scatterLanes v ty val idx base [0] s =
      (false, memWrite ns o (fld 4 (laneAdd ty (BitVec.ofNat 32 ((memRead ns o 4 s).le 0 4)) (v.lane val 0)).toNat) s) := by
  simp [scatterLanes, hspan, hval, hidx, hheld, writeMarked_clean]

theorem exec_vuScatterAdd_one {run vu val idx ns o : Nat} {ty : LaneType} {base : BitVec 64} {r : Run} {s : State}
    (ok : s.mayIssue run (.vu vu) = true) (hrun : (claim (.vu vu) run s).run? run = some r)
    (hspan : memSpan (scatterAddr base.toNat ((s.vu vu).lane idx 0)) 4 = some (ns, o))
    (hdie : onDie0 (engineDie (.vu vu)) (scatterAddr base.toNat ((s.vu vu).lane idx 0)) false = true)
    (hok : (claim (.vu vu) run s).accessOk r (scatterAddr base.toNat ((s.vu vu).lane idx 0)) 4 true = true)
    (hval : (s.vu vu).bad val 0 = false) (hidx : (s.vu vu).bad idx 0 = false) (hheld : (s.ram ns).badBytes o 4 = []) :
    exec (.vuScatterAdd run vu ty val idx base 1) s = .next (opDone run (memWrite ns o
      (fld 4 (laneAdd ty (BitVec.ofNat 32 ((memRead ns o 4 s).le 0 4)) ((s.vu vu).lane val 0)).toNat) (claim (.vu vu) run s))) := by
  have hlanes : List.range (min 1 64) = [0] := rfl
  change execVuScatterAdd run vu ty val idx base 1 s = _
  simp only [execVuScatterAdd, if_pos ok, hrun, hlanes, claim_vu, List.all_cons, List.all_nil, hok, hdie, Bool.and_true, if_true]
  rw [scatterLanes_one hspan hval hidx (by rwa [claim_ram]), claim_memRead]
  rfl

/-- Settles O35: a load and a reduction put lanes into a register, a store and a scatter-add write one span; the run that has taken its unit
is the one that R111 checks. -/
theorem vectorLoadsStoresAndReductions : Obligations.VectorLoadsStoresAndReductions := by
  unfold Obligations.VectorLoadsStoresAndReductions
  intro run vu r s ok hvu hrun
  obtain ⟨ready, hrun'⟩ := run?_claim (e := .vu vu) hrun
  refine ⟨fun ty fmt f reg addr lanes ns o hfmt _ _ hlanes hspan hdie hok => ?_,
    fun ty fmt f reg addr lanes ns o hfmt hint4 _ _ hlanes hspan hdie hok hclean => ?_,
    fun store ty fmt f reg addr scale lanes ns o x hfmt hspan hx hno => ?_, vuReduction_writes ok hvu, vuTableLookup_writes ok hvu,
    fun ty val idx base ns o hspan hdie hok hval hidx hheld => ?_⟩
  · have hvu' : vu < (claim (.vu vu) run s).eng.vu.length := by rwa [claim_eng]
    have hlane := fun q i hi => lane_loaded (q := q) (i := i) hvu' hlanes f ty ns o (fmtBytes fmt lanes) { r with ready := ready } [addr.toNat] reg hi
    simp only [claim_memRead, claim_vu] at hlane
    rw [exec_vuFormatConversion ok, vuTransfer_loads hrun' hfmt hlanes hspan hdie (hok _ hrun')]
    refine ⟨_, rfl, fun i hi => ?_, fun q i hq hi => ?_, ?_, claim_host .., claim_bell ..⟩
    · exact (hlane reg i (by omega)).trans (if_pos ⟨rfl, hi⟩)
    · exact (hlane q i hi).trans (if_neg fun h => hq h.1)
    · rw [onVu_mem, useCached_agesAside, claim_mem]
  · obtain ⟨g, hg⟩ := vuTransfer_stores (ty := ty) hrun' hfmt hlanes hspan hdie hint4 (hok _ hrun') (by simpa using hclean)
    rw [exec_vuFormatConversion ok, hg, memWrite_frame, claim_vu]
    exact ⟨_, rfl, memWrite_mem (claim_mem ..) _ _ _, claim_eng .., claim_host .., claim_bell ..⟩
  · rw [exec_vuFormatConversion ok, vuTransfer_denied hx hfmt hspan hno, denyRun_counts, claim_mem]
    exact ⟨rfl, rfl⟩
  · rw [exec_vuScatterAdd_one ok hrun' hspan hdie (hok _ hrun') hval hidx hheld, memWrite_frame]
    exact ⟨_, rfl, memWrite_mem (claim_mem ..) _ _ _, claim_eng .., claim_host .., claim_bell ..⟩

end Sys2Proof.Machine
end

/-! PROOFS of the family 09_matrix_arrays, third part: fills with their drains (O36) and tile moves (O37). -/

section
namespace Sys2Proof.Machine

/-! ### An operation issued behind no semaphore (R250) -/

section
variable (e : Engine) (id : Nat) (s : State)

/-- The state on which an operation that waits for no semaphore is issued: its run has the engine, and the engine's die works. -/
def engaged : State := wakeDies [e] (claim e id s)

@[simp] theorem engaged_mem : (engaged e id s).mem = s.mem := claim_mem e id s
@[simp] theorem engaged_host : (engaged e id s).host = s.host := claim_host e id s
@[simp] theorem engaged_bell : (engaged e id s).bell = s.bell := claim_bell e id s
@[simp] theorem engaged_img : (engaged e id s).img = s.img := claim_img e id s
@[simp] theorem engaged_ns : (engaged e id s).ns = s.ns := claim_ns e id s

/-- Of the engines' state, an operation that is issued finds no more changed than which dies are gated. -/
theorem engaged_eng : (engaged e id s).eng =
    { s.eng with gated := (engaged e id s).eng.gated, idleBells := (engaged e id s).eng.idleBells } := by
  rw [← claim_eng e id s]
  rfl

@[simp] theorem engaged_mxas : (engaged e id s).eng.mxa = s.eng.mxa := (congrArg EngSt.mxa (engaged_eng e id s) :)
@[simp] theorem engaged_movers : (engaged e id s).eng.movers = s.eng.movers := (congrArg EngSt.movers (engaged_eng e id s) :)
@[simp] theorem engaged_vus : (engaged e id s).eng.vu = s.eng.vu := (congrArg EngSt.vu (engaged_eng e id s) :)
@[simp] theorem engaged_mxa (n : Nat) : (engaged e id s).mxa n = s.mxa n := by rw [State.mxa, State.mxa, engaged_mxas]

end

theorem run?_engaged {e : Engine} {id : Nat} {r : Run} {s : State} (hrun : s.run? id = some r) :
    ∃ l, (engaged e id s).run? id = some { r with ready := l } := run?_claim hrun

theorem issueBehind_no_wait {id : Nat} {r : Run} {s : State} (hrun : s.run? id = some r) (e : Engine) (op : Instr) :
    issueBehind id e 255 op s = issueOp op (engaged e id s) := by
  simp [issueBehind, hrun, engaged]

theorem exec_fill {run mxa : Nat} {d : Blob} {r : Run} {s : State} (ok : s.mayIssue run (.mxa mxa) = true) (hrun : s.run? run = some r)
    (hfields : fillFieldsOk (engineDie (.mxa mxa)) d (parseFill d) = true) (hfollows : fillFollows (s.mxa mxa) (parseFill d) = true)
    (hsem : (parseFill d).waitSem = 255) : exec (.fill run mxa d) s = .next (issueFill run mxa d (engaged (.mxa mxa) run s)) := by
  change execFill run mxa d s = _
  rw [execFill, ok, hfields, hfollows, hsem, issueBehind_no_wait hrun]
  rfl

theorem exec_move {run mover : Nat} {d : Blob} {r : Run} {s : State} (ok : s.mayIssue run (.mover mover) = true)
    (hrun : s.run? run = some r) (hfields : moveFieldsOk (engineDie (.mover mover)) d (parseMove d) = true)
    (hidle : s.eng.movers.getD mover none = none) (hsem : (parseMove d).waitSem = 255) :
    exec (.move run mover d) s = .next (issueMove run mover d (engaged (.mover mover) run s)) := by
  change execMove run mover d s = _
  rw [execMove, ok, hfields, hidle, hsem, issueBehind_no_wait hrun]
  rfl

/-! ### The sums of a fill depend on memory alone (R207) -/

section
variable {s t : State} (hmem : t.mem = s.mem)
include hmem

theorem readElem_of_mem : readElem t = readElem s := by
  funext fmt h
  simp only [readElem, memRead, State.ram, hmem]

theorem readBf16_of_mem : readBf16 t = readBf16 s := by
  funext a
  simp only [readBf16, memRead, State.ram, hmem]

theorem resolveEsc_of_mem (a i : Nat) (l : List (Opd × Bool)) : resolveEsc t a i l = resolveEsc s a i l := by
  induction l generalizing i with
  | nil => rfl
  | cons x l ih => simp only [resolveEsc, readBf16_of_mem hmem, ih]

theorem groupOperands_of_mem : groupOperands t = groupOperands s := by
  funext d fmt zp side scale lines idx ats
  simp only [groupOperands, operandRow, readElem_of_mem hmem, readBf16_of_mem hmem, resolveEsc_of_mem hmem]

theorem fillResult_of_mem (x : Mxa) (d : FillDesc) : fillResult t x d = fillResult s x d := by
  simp only [fillResult, groupOperands_of_mem hmem]

end

/-! ### Fills and drains (R204, R214) -/

/-- An array after a fill of a run with its result: sums, marks and escapes past four. Where the fill drains, its drain takes the sums and
the marks with it. -/
def Mxa.filled (x : Mxa) (run : Nat) (b : Blob) (z : List (Nat × BitVec 48) × List Nat × Nat) : Mxa :=
  let d := parseFill b
  { x with
    acc := if d.drain then [] else z.1
    marks := if d.drain then [] else z.2.1
    chain := if d.drain then none else some ⟨d.mode, d.m, d.n, d.float, d.group⟩
    drains := x.drains ++ [⟨run, b, if d.drain then z.1 else [], if d.drain then z.2.1 else [], d.float⟩] }

section
variable {run n : Nat} {b : Blob} {r : Run} {s : State}
variable (hrun : s.run? run = some r) (hallowed : fillAllowed s r (parseFill b) = true)
include hrun hallowed

theorem issueFill_allowed : ∃ l g, issueFill run n b s = useCached r l (onDie (engineDie (.mxa n)) g
    (onMxa n (fun x => x.filled run b (fillResult s (s.mxa n) (parseFill b))) s)) := by
  simp only [issueFill, hrun, hallowed, Bool.not_true, Bool.false_eq_true, if_false]
  exact ⟨_, _, rfl⟩

theorem issueFill_mxa (hn : n < s.eng.mxa.length) :
    (issueFill run n b s).mxa n = (s.mxa n).filled run b (fillResult s (s.mxa n) (parseFill b)) := by
  obtain ⟨l, g, hissue⟩ := issueFill_allowed (n := n) hrun hallowed
  rw [hissue]
  exact onMxa_mxa_same hn _

theorem issueFill_leaves : (issueFill run n b s).mem.agesAside = s.mem.agesAside ∧ (issueFill run n b s).host = s.host ∧
    (issueFill run n b s).bell = s.bell ∧ (issueFill run n b s).eng.vu = s.eng.vu := by
  obtain ⟨l, g, hissue⟩ := issueFill_allowed (n := n) hrun hallowed
  rw [hissue]
  exact ⟨useCached_agesAside .., rfl, rfl, rfl⟩

end

section
variable {mxa : Nat} {x : Drain} {l : List Drain} {s : State} (hdrains : (s.mxa mxa).drains = x :: l)
include hdrains

/-- The end of a drain reports the run and the POST_SEM of the oldest one. -/
theorem writeDrain_oldest : ∃ t, writeDrain mxa s = some (x.run, (parseFill x.desc).postSem, t) := by
  rw [writeDrain, hdrains]
  exact ⟨_, rfl⟩

/-- The drain of a fill that does not drain writes nothing. -/
theorem writeDrain_of_no_drain (hdrain : (parseFill x.desc).drain = false) : writeDrain mxa s =
    some (x.run, (parseFill x.desc).postSem, onMxa mxa (fun a => { a with drains := l }) s) := by
  rw [writeDrain, hdrains]
  simp [hdrain]

end

theorem endOp_no_post (run : Nat) (s : State) : endOp run 255 s = opDone run s := rfl

theorem exec_fillDrainDone {mxa : Nat} {s t : State} {run sem : Nat} (hup : s.up = true)
    (hserves : s.dieServes (engineDie (.mxa mxa)) = true) (hwrite : writeDrain mxa s = some (run, sem, t)) :
    exec (.fillDrainDone mxa) s = .next (endOp run sem t) := by
  change execFillDrainDone mxa s = _
  rw [execFillDrainDone, hup, hserves, hwrite]
  rfl

/-- Settles O36: an allowed fill changes its array by `Mxa.filled`; the end of a drain takes the oldest one, by `writeDrain`. -/
theorem fillsAndDrains : Obligations.FillsAndDrains := by
  unfold Obligations.FillsAndDrains
  refine ⟨fun run mxa d r s ok hrun hmxa hfields hfollows hsem hallowed => ?_,
    fun mxa x l s hup hserves hmxa hdrains hdrain hsem => ?_, fun mxa x l s hup hserves hdrains => ?_⟩
  · obtain ⟨ready, hrun'⟩ := run?_engaged (e := .mxa mxa) hrun
    have hallowed' := hallowed _ (engaged (.mxa mxa) run s) (engaged_mem ..) (engaged_img ..) (engaged_ns ..) rfl rfl
    have harray := issueFill_mxa (n := mxa) hrun' hallowed' (by simpa using hmxa)
    have hleaves := issueFill_leaves (n := mxa) hrun' hallowed'
    rw [fillResult_of_mem (engaged_mem ..), engaged_mxa] at harray
    rw [engaged_mem, engaged_host, engaged_bell, engaged_vus] at hleaves
    rw [exec_fill ok hrun hfields hfollows hsem]
    exact ⟨_, rfl, congrArg Mxa.acc harray, congrArg Mxa.drains harray, hleaves⟩
  · have harray := onMxa_mxa_same hmxa fun a => { a with drains := l }
    rw [exec_fillDrainDone hup hserves (writeDrain_of_no_drain hdrains hdrain), hsem, endOp_no_post]
    exact ⟨_, rfl, congrArg Mxa.drains harray, (congrArg Mxa.acc harray :), rfl⟩
  · obtain ⟨t, hwrite⟩ := writeDrain_oldest hdrains
    exact ⟨t, hwrite, exec_fillDrainDone hup hserves hwrite⟩

/-! ### Moves (R218, R234) -/

section
variable {run n : Nat} {b : Blob} {r : Run} {s : State}

/-- A move of one row whose ends R111 allows reads its source once the read is noted. -/
theorem issueMove_one_row (hrun : s.run? run = some r) (hrows : (parseMove b).rows = 1)
    (hsrc : s.accessOk r (parseMove b).srcAddr (parseMove b).srcBytes false = true)
    (hdst : (noteSource r (parseMove b) s).accessOk r (parseMove b).dstAddr (parseMove b).dstBytes true = true) :
    issueMove run n b s = readSource run n b (noteSource r (parseMove b) s) := by
  have hone : List.range 1 = [0] := rfl
  simp [issueMove, hrun, hrows, hone, hsrc, hdst]

theorem useCached_dram (l : List Nat) : (useCached r l s).mem.dram = s.mem.dram := rfl

theorem noteSource_dram {d : MoveDesc} {o : Nat} (hplace : placeOf d.srcAddr = some (.dram o)) :
    ∃ l, noteSource r d s = useCached r l s := by
  rw [noteSource, hplace]
  exact ⟨_, rfl⟩

theorem memSpan_dram {a o len : Nat} (hplace : placeOf a = some (.dram o)) (hlen : o + len ≤ len74) : memSpan a len = some (74, o) := by
  rw [memSpan, hplace]
  exact if_pos hlen

/-- One row of tier 1 is there at once. -/
theorem readSource_one_row_of_dram {o : Nat} (hrows : (parseMove b).rows = 1)
    (hplace : placeOf (parseMove b).srcAddr = some (.dram o)) (hlen : o + (parseMove b).srcBytes ≤ len74) :
    readSource run n b s = takeRows n (parseMove b)
      [(s.mem.dram.read o (parseMove b).srcBytes, s.mem.dram.badBytes o (parseMove b).srcBytes)] ⟨run, b, none, [], [], none⟩ s := by
  have hone : List.range 1 = [0] := rfl
  have hram : s.ram 74 = s.mem.dram := rfl
  simp [readSource, hplace, hrows, hone, memSpan_dram hplace hlen, memRead, hram]

end

section
variable (n : Nat) (d : MoveDesc) (rows : List (Blob × List Nat)) (m : Moving) (s : State)

theorem takeRows_mem : (takeRows n d rows m s).mem = s.mem := rfl
theorem takeRows_host : (takeRows n d rows m s).host = s.host := rfl
theorem takeRows_bell : (takeRows n d rows m s).bell = s.bell := rfl

end

/-- The mover holds the rows that it has taken in, converted. -/
theorem takeRows_mover {n : Nat} {s : State} (hn : n < s.eng.movers.length) (d : MoveDesc) (rows : List (Blob × List Nat)) (m : Moving) :
    (takeRows n d rows m s).eng.movers.getD n none = some { m with
      rows := (rows.map fun x => convertRow d x.1 x.2).map fun x => x.1
      poison := (rows.map fun x => convertRow d x.1 x.2).map fun x => x.2.1
      job := none } := setMover_same hn _

theorem exec_moveDone {mover : Nat} {m : Moving} {s : State} (hup : s.up = true) (hserves : s.dieServes (engineDie (.mover mover)) = true)
    (hmover : s.eng.movers.getD mover none = some m) (hjob : m.job = none) (hrows : m.rows ≠ []) (hreq : m.req = none) :
    exec (.moveDone mover) s = .next (endOp m.run (parseMove m.desc).postSem (setMover mover none (writeMove m s))) := by
  change execMoveDone mover s = _
  rw [execMoveDone, hup, hserves, hmover]
  simp [hjob, hrows, hreq, State.replyLost]

/-- Settles O37: an allowed move passes both checks of R111 on states that differ from the first in ages alone, then takes its row in. -/
theorem movesReadThenWrite : Obligations.MovesReadThenWrite := by
  unfold Obligations.MovesReadThenWrite
  refine ⟨fun run mover d r s ok hrun hfields hmover hidle hsem hrows hsource hallowed => ?_,
    fun mover m s hup hserves hmover hjob hrows hreq => exec_moveDone hup hserves hmover hjob hrows hreq⟩
  obtain ⟨o, hplace, hlen⟩ := hsource
  obtain ⟨ready, hrun'⟩ := run?_engaged (e := .mover mover) hrun
  obtain ⟨l, hnoted⟩ := noteSource_dram (r := { r with ready := ready }) (s := engaged (.mover mover) run s) hplace
  have hsrc := (hallowed { r with ready := ready } (engaged (.mover mover) run s) (by simp) (by simp) (by simp) rfl rfl).1
  have hdst := (hallowed { r with ready := ready } (noteSource { r with ready := ready } (parseMove d) (engaged (.mover mover) run s))
    (by simp [hnoted]) (by simp [hnoted, useCached]) (by simp [hnoted, useCached]) rfl rfl).2
  rw [exec_move ok hrun hfields hidle hsem, issueMove_one_row hrun' hrows hsrc hdst, hnoted,
    readSource_one_row_of_dram hrows hplace hlen]
  refine ⟨_, _, rfl, takeRows_mover (by simpa [useCached] using hmover) _ _ _, rfl, rfl, rfl, rfl, fun o' hplace' => ?_, ?_, ?_, ?_⟩
  · obtain rfl : o = o' := by simpa [hplace] using hplace'
    rw [useCached_dram, engaged_mem]
    rfl
  · rw [takeRows_mem, useCached_agesAside, engaged_mem]
  · rw [takeRows_host, useCached, onMem_host, engaged_host]
  · rw [takeRows_bell, useCached, onMem_bell, engaged_bell]

end Sys2Proof.Machine
end

/-! PROOFS of the family 11_classrooms_and_lessons, shared: a run changed, an engine given to a run or to none. -/

section
namespace Sys2Proof.Machine

/-! ### Entries of a key -/

/-- Where the entries of a key are dropped and others appended, the first entry of the key is found among those appended. -/
theorem find?_replaced {α κ : Type} [BEq κ] [LawfulBEq κ] (key : α → κ) (k : κ) (l m : List α) :
    ((l.filter fun a => key a != k) ++ m).find? (fun a => key a == k) = m.find? fun a => key a == k := by
  have hdropped : ((l.filter fun a => key a != k).find? fun a => key a == k) = none := by simp [List.find?_eq_none]
  rw [List.find?_append, hdropped, Option.none_or]

/-- Where a change of the entries keeps every key, the first entry of a key is the one there was, changed. -/
theorem find?_map_of_key {α κ : Type} [BEq κ] {key : α → κ} {f : α → α} (hf : ∀ a, key (f a) = key a) (k : κ) (l : List α) :
    (l.map f).find? (fun a => key a == k) = (l.find? fun a => key a == k).map f := by
  simp only [List.find?_map, Function.comp_def, hf]

/-! ### Runs -/

section
variable {id : Nat} {r : Run} {s : State} (hrun : s.run? id = some r)
include hrun

theorem id_of_run? : r.id = id := by simpa using List.find?_some hrun

theorem run?_onRun {f : Run → Run} (k : Nat) (hf : ∀ x, (f x).id = x.id := by intro; rfl) :
    (onRun k f s).run? id = some (if r.id = k then f r else r) := by
  refine (find?_map_of_key (key := Run.id) (fun x => ?_) id s.sched.runs).trans (congrArg (Option.map _) hrun)
  split
  · exact hf x
  · rfl

theorem run?_onRun_same {f : Run → Run} (hf : ∀ x, (f x).id = x.id := by intro; rfl) : (onRun id f s).run? id = some (f r) := by
  rw [run?_onRun hrun id hf, if_pos (id_of_run? hrun)]

/-- That some run becomes ready on an engine changes of a run at most the engines on which it is ready. -/
theorem run?_makeReady (k : Nat) (e : Engine) : ∃ l, (makeReady k e s).run? id = some { r with ready := l } := by
  rw [makeReady, run?_onRun hrun k (fun x => by split <;> rfl)]
  split
  · split
    · exact ⟨_, rfl⟩
    · exact ⟨_, rfl⟩
  · exact ⟨_, rfl⟩

end

/-! ### Engines -/

section
variable (e : Engine)

theorem holder_eq_slot? (s : State) : s.holder e = (s.slot? e).bind EngineSt.run := by
  unfold State.holder State.slot?
  split
  next hx => rw [hx, Option.bind_some]
  next hnone => rw [hnone, Option.bind_none]

theorem slot?_setHolder_none (s : State) : (setHolder e none s).slot? e = none :=
  find?_replaced EngineSt.engine e s.sched.engines []

section
variable {id : Nat} {r : Run} {s : State} (hrun : s.run? id = some r)
include hrun

theorem slot?_setHolder_some :
    (setHolder e (some id) s).slot? e = some ⟨e, some id, s.pos + (s.room? r.room).elim 0 Room.slice, false⟩ := by
  refine (find?_replaced EngineSt.engine e s.sched.engines _).trans ?_
  simp [hrun]

theorem slot?_takeEngine : (takeEngine e id s).slot? e = some ⟨e, some id, s.pos + (s.room? r.room).elim 0 Room.slice, false⟩ := by
  have hready := run?_onRun_same (f := fun x => { x with ready := x.ready.filter fun y => y.1 != e }) hrun
  exact (slot?_setHolder_some e hready :)

end

end

end Sys2Proof.Machine
end

/-! PROOFS of the family 11_classrooms_and_lessons, first part: semaphores (O38). -/

section
namespace Sys2Proof.Machine

/-! ### Counts (R250, R251) -/

section
variable {sem : Nat} (r : Run) (s : State)

theorem semCount_own (hsem : sem < 32) : s.semCount r sem = r.sems.getD sem 0 := if_pos hsem

/-- The count of a shared semaphore stands in the table of shared semaphores, under the run's classroom. -/
theorem semCount_shared (hsem : 32 ≤ sem) :
    s.semCount r sem = ((s.sched.shared.find? fun x => x.1 == (r.room, sem)).map Prod.snd).getD 0 := by
  rw [State.semCount, if_neg (Nat.not_lt.mpr hsem)]
  split
  next hx => rw [hx]; rfl
  next hnone => rw [hnone]; rfl

theorem semCount_of_shared {s t : State} (hsem : 32 ≤ sem) (hshared : t.sched.shared = s.sched.shared) :
    t.semCount r sem = s.semCount r sem := by
  rw [semCount_shared r t hsem, semCount_shared r s hsem, hshared]

theorem setSem_own (hsem : sem < 32) (n : Nat) :
    setSem r sem n s = onRun r.id (fun x => { x with sems := modifyAt x.sems sem fun _ => n }) s := if_pos hsem

/-- A shared semaphore set changes the table of shared semaphores and nothing else. -/
theorem setSem_shared_frame (hsem : 32 ≤ sem) (n : Nat) :
    setSem r sem n s = { s with sched := { s.sched with shared := (setSem r sem n s).sched.shared } } := by
  rw [setSem, if_neg (Nat.not_lt.mpr hsem)]
  rfl

theorem semCount_setSem_shared (hsem : 32 ≤ sem) (n : Nat) : (setSem r sem n s).semCount r sem = n := by
  have hfound := find?_replaced Prod.fst (r.room, sem) s.sched.shared (if n = 0 then [] else [((r.room, sem), n)])
  rw [semCount_shared r _ hsem, setSem, if_neg (Nat.not_lt.mpr hsem), onSched_sched, hfound]
  by_cases hn : n = 0
  · simp [hn]
  · simp [hn]

theorem takeSem_own (hsem : sem < 32) :
    takeSem r sem s = onRun r.id (fun x => { x with sems := modifyAt x.sems sem fun _ => s.semCount r sem - 1 }) s := by
  rw [takeSem, setSem_own r s hsem]
  exact if_pos hsem

theorem takeSem_shared (hsem : 32 ≤ sem) :
    takeSem r sem s = onRun r.id (fun x => { x with holds := x.holds ++ [sem] }) (setSem r sem (s.semCount r sem - 1) s) :=
  if_neg (Nat.not_lt.mpr hsem)

theorem semCount_takeSem_shared (hsem : 32 ≤ sem) : (takeSem r sem s).semCount r sem = s.semCount r sem - 1 := by
  rw [takeSem_shared r s hsem]
  exact (semCount_of_shared r hsem rfl).trans (semCount_setSem_shared r s hsem _)

/-- A unit taken changes runs and semaphores alone. -/
theorem takeSem_frame (sem : Nat) : takeSem r sem s = { s with sched := (takeSem r sem s).sched } := by
  by_cases hsem : sem < 32
  · rw [takeSem_own r s hsem]
    rfl
  · rw [takeSem_shared r s (Nat.not_lt.mp hsem), setSem_shared_frame r s (Nat.not_lt.mp hsem)]
    rfl

end

theorem claim_shared (e : Engine) (id : Nat) (s : State) : (claim e id s).sched.shared = s.sched.shared := by
  unfold claim
  split
  · rfl
  · rfl

/-! ### Waits (R250, R253) -/

/-- An engine that a run gives up, where the run holds it. -/
def releaseEngine (e : Engine) (id : Nat) (s : State) : State := if s.holder e == some id then setHolder e none s else s

section
variable (e : Engine) (id : Nat) (s : State)

theorem releaseEngine_holder : (releaseEngine e id s).holder e ≠ some id := by
  unfold releaseEngine
  split
  · rw [holder_eq_slot?, slot?_setHolder_none]
    exact nofun
  next hother => simpa using hother

/-- An engine given up changes the holding of engines alone. -/
theorem releaseEngine_frame :
    releaseEngine e id s = { s with sched := { s.sched with engines := (releaseEngine e id s).sched.engines } } := by
  unfold releaseEngine
  split
  · rfl
  · rfl

end

section
variable {run sem : Nat} {e : Engine} {r : Run} {s : State} (hrun : s.run? run = some r)
include hrun

theorem exec_semaphoreWait (ok : s.mayIssue run e = true) : exec (.semaphoreWait run e sem) s =
    .next (if 0 < s.semCount r sem then takeSem r sem (claim e run s) else blockOn run e sem none s) := by
  change execSemaphoreWait run e sem s = _
  rw [execSemaphoreWait, if_pos ok, hrun]

/-- A unit of a shared semaphore that a run takes is held by it. -/
theorem run?_takeSem_shared {x : Run} (hid : x.id = run) (hsem : 32 ≤ sem) :
    (takeSem x sem s).run? run = some { r with holds := r.holds ++ [sem] } := by
  rw [takeSem_shared x s hsem, setSem_shared_frame x s hsem, hid]
  exact run?_onRun_same (s := { s with sched := _ }) hrun

theorem run?_takeSem_own {x : Run} (hid : x.id = run) (hsem : sem < 32) :
    (takeSem x sem s).run? run = some { r with sems := modifyAt r.sems sem fun _ => s.semCount x sem - 1 } := by
  rw [takeSem_own x s hsem, hid]
  exact run?_onRun_same hrun

/-- A run that waits for a semaphore of its own gives its engine up, and its priority to nobody. -/
theorem blockOn_own (hsem : sem < 32) (op : Option Instr) : blockOn run e sem op s = releaseEngine e run (onRun run (fun x => { x with
    waits := x.waits ++ [⟨e, sem, s.bell.count.toNat, false, op⟩]
    ready := x.ready.filter fun y => y.1 != e }) s) := by
  rw [blockOn, hrun]
  exact if_pos hsem

theorem run?_blockOn_own (hsem : sem < 32) (op : Option Instr) : (blockOn run e sem op s).run? run = some { r with
    waits := r.waits ++ [⟨e, sem, s.bell.count.toNat, false, op⟩]
    ready := r.ready.filter fun y => y.1 != e } := by
  rw [blockOn_own hrun hsem, releaseEngine_frame]
  exact run?_onRun_same hrun

theorem exec_longSemWait {w : Wait}
    (hlong : (r.waits.find? fun w => w.engine == e && !w.counted && decide (w.since + 1024 ≤ s.bell.count.toNat)) = some w) :
    exec (.longSemWait run e) s = .next (onSched (fun c => { c with longWaits := bump32 c.longWaits })
      (onRun run (fun x => { x with waits := x.waits.map fun y => if y = w then { y with counted := true } else y }) s)) := by
  change execLongSemWait run e s = _
  rw [execLongSemWait, hrun]
  simp only [hlong]

end

/-! ### Posts (R251) -/

/-- Where no run waits, no wait is granted. -/
theorem grantWaits_no_waits {s : State} (hnone : ∀ x ∈ s.sched.runs, x.waits = []) (room sem own fuel : Nat) :
    grantWaits room sem own fuel s = s := by
  cases fuel with
  | zero => rfl
  | succ f =>
    have hwaiters : (s.sched.runs.filter fun r => r.room == room && (32 ≤ sem || r.id == own) && !r.rerun &&
        r.waits.any fun w => w.sem == sem) = [] := by
      refine List.filter_eq_nil_iff.mpr fun x hx => ?_
      simp [hnone x hx]
    rw [grantWaits, hwaiters]
    rfl

theorem onRun_no_waits {s : State} (hnone : ∀ x ∈ s.sched.runs, x.waits = []) {f : Run → Run} (id : Nat)
    (hf : ∀ x, (f x).waits = x.waits := by intro; rfl) : ∀ x ∈ (onRun id f s).sched.runs, x.waits = [] := by
  refine List.forall_mem_map.mpr fun x hx => ?_
  split
  · rw [hf, hnone x hx]
  · exact hnone x hx

section
variable {run sem : Nat} {r : Run} {s : State} (hrun : s.run? run = some r)
include hrun

theorem exec_semaphorePost (hup : s.up = true) (hrerun : r.rerun = false) (hserves : s.dieServes r.die = true) :
    exec (.semaphorePost run sem) s = .next (postSem run sem s) := by
  change execSemaphorePost run sem s = _
  rw [execSemaphorePost, hrun]
  simp [hup, hrerun, hserves]

/-- A post of a shared semaphore that nobody waits for raises its count and ends one hold of the run. -/
theorem postSem_shared_of_no_waits (hsem : 32 ≤ sem) (hcount : s.semCount r sem < 65535) (hnone : ∀ x ∈ s.sched.runs, x.waits = []) :
    ∃ raised : Run → Option (Nat × Nat × Nat), postSem run sem s =
      onRun run (fun x => { x with holds := x.holds.erase sem, raised := raised x }) (setSem r sem (s.semCount r sem + 1) s) := by
  have hset : ∀ x ∈ (setSem r sem (s.semCount r sem + 1) s).sched.runs, x.waits = [] := by
    rw [setSem_shared_frame r s hsem]
    exact hnone
  simp only [postSem, hrun, if_pos hcount, if_neg (Nat.not_lt.mpr hsem)]
  exact ⟨_, grantWaits_no_waits (onRun_no_waits hset run) ..⟩

end

/-- Settles O38: a wait is `takeSem` or `blockOn`, by the count; a post that nobody waits for sets the count and ends a hold. -/
theorem semaphoresCountAndBlock : Obligations.SemaphoresCountAndBlock := by
  unfold Obligations.SemaphoresCountAndBlock
  refine ⟨fun run e sem r s ok hrun => ?_, fun run sem r s hrun hup hrerun hserves hsem hcount hnone => ?_, fun run e r w s hrun hlong => ?_⟩
  · rw [exec_semaphoreWait hrun ok]
    obtain ⟨ready, hclaimed⟩ := run?_claim (e := e) hrun
    refine ⟨fun hunit hsem => ?_, fun hunit hsem hlen => ?_, fun hzero hsem => ?_⟩
    · rw [if_pos hunit]
      refine ⟨_, rfl, ?_, ⟨_, run?_takeSem_shared hclaimed (id_of_run? hrun) hsem, rfl, rfl⟩, ?_⟩
      · rw [semCount_takeSem_shared r _ hsem, semCount_of_shared r hsem (claim_shared ..)]
      · rw [takeSem_frame]
        exact ⟨claim_host .., claim_mem .., claim_bell ..⟩
    · rw [if_pos hunit]
      refine ⟨_, _, rfl, run?_takeSem_own hclaimed (id_of_run? hrun) hsem, ?_, rfl, ?_⟩
      · rw [semCount_own r _ hsem]
        exact modifyAt_getD_same _ _ _ _ hlen
      · rw [takeSem_frame]
        exact ⟨claim_host .., claim_mem .., claim_bell ..⟩
    · rw [if_neg (by omega)]
      refine ⟨_, _, rfl, run?_blockOn_own hrun hsem none, rfl, ?_⟩
      rw [blockOn_own hrun hsem]
      refine ⟨releaseEngine_holder _ _ _, ?_⟩
      rw [releaseEngine_frame]
      exact ⟨rfl, rfl⟩
  · obtain ⟨raised, hpost⟩ := postSem_shared_of_no_waits hrun hsem hcount hnone
    rw [exec_semaphorePost hrun hup hrerun hserves, hpost]
    refine ⟨_, rfl, (semCount_of_shared r hsem rfl).trans (semCount_setSem_shared r s hsem _), ?_⟩
    rw [setSem_shared_frame r s hsem]
    exact ⟨⟨_, run?_onRun_same (s := { s with sched := _ }) hrun, rfl⟩, rfl, rfl, rfl⟩
  · exact ⟨_, exec_longSemWait hrun hlong, rfl, rfl⟩

end Sys2Proof.Machine
end

/-! PROOFS of the family 11_classrooms_and_lessons, second part: who holds an engine (O39). -/

section
namespace Sys2Proof.Machine

/-! ### The choice of a run at a safe point (R247, R248) -/

section
variable {e : Engine} {s : State}

theorem chooseRun_idle {x : Run} (hslot : s.slot? e = none) (htop : s.topRun (s.readyOn e) = some x) :
    chooseRun e s = takeAndResume e x.id s := by
  simp only [chooseRun, hslot, htop]

section
variable {id stop : Nat} {r : Run} (hrun : s.run? id = some r)
include hrun

theorem chooseRun_grace (hslot : s.slot? e = some ⟨e, some id, stop, true⟩) (hstop : reached stop s.pos = false) : chooseRun e s = s := by
  simp [chooseRun, hslot, hrun, hstop]

section
variable {x : Run} (hslot : s.slot? e = some ⟨e, some id, stop, false⟩)
include hslot

/-- A run of higher priority takes the engine, and the pre-emption is counted: in all, and in the holder's classroom. -/
theorem chooseRun_preempts (htop : s.topRun ((s.readyOn e).filter fun y => s.outranks y r && s.rank y != s.rank r) = some x) :
    chooseRun e s = yieldTo e id x.id (onRoomStats r.room (fun y => { y with preempted := bump32 y.preempted })
      (onSched (fun c => { c with preemptions := bump64 c.preemptions }) s)) := by
  simp [chooseRun, hslot, hrun, htop]

theorem chooseRun_passes_on (hstop : reached stop s.pos = true)
    (htop : s.topRun ((s.readyOn e).filter fun y => s.outranks y r && s.rank y != s.rank r) = none) (hnext : s.nextEqual e r = some x) :
    chooseRun e s = yieldTo e id x.id s := by
  simp [chooseRun, hslot, hrun, hstop, htop, hnext]

end

end

theorem exec_safePoint (hsafe : s.atSafePoint e = true) : exec (.safePoint e) s = .next (chooseRun e s) :=
  congrArg _ (if_pos hsafe)

theorem exec_safePoint_elsewhere (hsafe : s.atSafePoint e = false) : exec (.safePoint e) s = .next s :=
  congrArg _ (if_neg (by simp [hsafe]))

theorem exec_sliceEnd {x : Engine} {id stop : Nat} {grace : Bool} (hslot : s.slot? e = some ⟨x, some id, stop, grace⟩)
    (hstop : reached stop s.pos = true) (hsafe : s.atSafePoint e = true) : exec (.sliceEnd e) s = .next (chooseRun e s) := by
  change execSliceEnd e s = _
  simp [execSliceEnd, hslot, hstop, hsafe]

end

/-! ### Starvation (R249) -/

/-- A starved run counted. -/
def countStarved (room : Nat) (s : State) : State :=
  onRoomStats room (fun y => { y with starve := bump32 y.starve }) (onSched (fun c => { c with starveGrants := bump32 c.starveGrants }) s)

/-- The run that holds an engine becomes ready on it. -/
def readyHolder (e : Engine) (s : State) : State :=
  match s.holder e with
  | some old => makeReady old e s
  | none => s

/-- A run that holds an engine keeps it for its slice whatever the key of the others. -/
def keepForSlice (e : Engine) (id : Nat) (s : State) : State :=
  onSched (fun c => { c with engines := c.engines.map fun x => if x.engine = e ∧ x.run = some id then { x with grace := true } else x }) s

theorem exec_starveGrant {e : Engine} {run since : Nat} {r : Run} {s : State} (hrun : s.run? run = some r) (hsafe : s.atSafePoint e = true)
    (hrerun : r.rerun = false) (hready : (e, since) ∈ r.ready) (hstarved : since + 16 ≤ s.bell.count.toNat) :
    exec (.starveGrant e run) s = .next (keepForSlice e run (takeAndResume e run (readyHolder e (countStarved r.room s)))) := by
  have hwaited : r.ready.any (fun x => x.1 == e && decide (x.2 + 16 ≤ s.bell.count.toNat)) = true :=
    List.any_eq_true.mpr ⟨_, hready, by simp [hstarved]⟩
  change execStarveGrant e run s = _
  rw [execStarveGrant, hrun]
  simp only [hsafe, hrerun, hwaited]
  rfl

theorem run?_readyHolder {e : Engine} {id : Nat} {r : Run} {s : State} (hrun : s.run? id = some r) :
    ∃ l, (readyHolder e s).run? id = some { r with ready := l } := by
  unfold readyHolder
  split
  · exact run?_makeReady hrun ..
  · exact ⟨r.ready, hrun⟩

/-- Two states that differ in runs and in the holding of engines alone. -/
def PassesOn (s t : State) : Prop := t = { s with sched := { s.sched with runs := t.sched.runs, engines := t.sched.engines } }

theorem PassesOn.trans {s t u : State} (hst : PassesOn s t) (htu : PassesOn t u) : PassesOn s u := Eq.trans htu (by rw [hst])

theorem PassesOn.frame {s t : State} (h : PassesOn s t) : t = { s with sched := t.sched } := Eq.trans h (by rw [h])

theorem PassesOn.pos {s t : State} (h : PassesOn s t) : t.pos = s.pos := (congrArg State.pos h :)

theorem PassesOn.room? {s t : State} (h : PassesOn s t) (room : Nat) : t.room? room = s.room? room :=
  (congrArg (State.room? · room) h :)

theorem PassesOn.starveGrants {s t : State} (h : PassesOn s t) : t.sched.starveGrants = s.sched.starveGrants :=
  (congrArg (fun x => x.sched.starveGrants) h :)

section
variable (e : Engine) (id : Nat) (s : State)

theorem onRun_passesOn (f : Run → Run) : PassesOn s (onRun id f s) := rfl

theorem takeEngine_passesOn : PassesOn s (takeEngine e id s) := rfl

theorem keepForSlice_passesOn : PassesOn s (keepForSlice e id s) := rfl

theorem readyHolder_passesOn : PassesOn s (readyHolder e s) := by
  unfold readyHolder
  split
  · rfl
  · rfl

end

/-- A run that has left nothing to issue takes an engine and issues nothing there. -/
theorem takeAndResume_of_no_resume {e : Engine} {id : Nat} {r : Run} {s : State} (hrun : s.run? id = some r) (hnone : r.resume = []) :
    takeAndResume e id s = onRun id (fun x => { x with resume := x.resume.filter fun y => y.1 != e }) (takeEngine e id s) := by
  simp only [takeAndResume, hrun, hnone, List.filter_nil, List.map_nil, List.foldl_nil]

theorem slot?_keepForSlice {e : Engine} {id stop : Nat} {grace : Bool} {s : State} (hslot : s.slot? e = some ⟨e, some id, stop, grace⟩) :
    (keepForSlice e id s).slot? e = some ⟨e, some id, stop, true⟩ := by
  refine (find?_map_of_key (key := EngineSt.engine) (fun x => ?_) e s.sched.engines).trans ((congrArg (Option.map _) hslot).trans ?_)
  · split
    · rfl
    · rfl
  · rw [Option.map_some, if_pos ⟨rfl, rfl⟩]

/-- A starved run that has left nothing to issue takes the engine for one slice, ahead of every key, and is counted. -/
theorem starveGrant_takes {e : Engine} {run since : Nat} {r : Run} {s : State} (hrun : s.run? run = some r) (hsafe : s.atSafePoint e = true)
    (hrerun : r.rerun = false) (hready : (e, since) ∈ r.ready) (hstarved : since + 16 ≤ s.bell.count.toNat) (hresume : r.resume = []) :
    ∃ t, exec (.starveGrant e run) s = .next t ∧ t.slot? e = some ⟨e, some run, s.pos + (s.room? r.room).elim 0 Room.slice, true⟩ ∧
      t.sched.starveGrants = bump32 s.sched.starveGrants ∧ t = { s with sched := t.sched } := by
  obtain ⟨ready, hrun'⟩ := run?_readyHolder (e := e) (s := countStarved r.room s) hrun
  rw [exec_starveGrant hrun hsafe hrerun hready hstarved, takeAndResume_of_no_resume hrun' hresume]
  have hholder := readyHolder_passesOn e (countStarved r.room s)
  have hpasses := hholder.trans ((takeEngine_passesOn e run _).trans ((onRun_passesOn run _ fun x =>
    { x with resume := x.resume.filter fun y => y.1 != e }).trans (keepForSlice_passesOn e run _)))
  have htaken := slot?_takeEngine e hrun'
  rw [hholder.pos, hholder.room?] at htaken
  exact ⟨_, rfl, slot?_keepForSlice (grace := false) htaken, hpasses.starveGrants, hpasses.frame⟩

/-- Settles O39: the branches of `chooseRun`; a starved run takes the engine by `takeEngine`, and keeps it by its mark. -/
theorem enginesPassOnAtSafePoints : Obligations.EnginesPassOnAtSafePoints := by
  unfold Obligations.EnginesPassOnAtSafePoints
  refine ⟨fun e s hsafe => exec_safePoint_elsewhere hsafe, fun e x s hsafe hslot htop => ?_, fun e id stop r x s hsafe hslot hrun htop => ?_,
    fun e id stop r x s hsafe hslot hrun hstop htop hnext => ?_, fun e run since r s hrun hsafe hrerun hready hstarved hresume => ?_,
    fun e run stop r s hslot hrun hstop => ?_⟩
  · rw [exec_safePoint hsafe, chooseRun_idle hslot htop]
  · rw [exec_safePoint hsafe, chooseRun_preempts hrun hslot htop]
    exact ⟨_, rfl, rfl, rfl⟩
  · rw [exec_sliceEnd hslot hstop hsafe, chooseRun_passes_on hrun hslot hstop htop hnext]
    rfl
  · exact starveGrant_takes hrun hsafe hrerun hready hstarved hresume
  · cases hsafe : s.atSafePoint e with
    | true => rw [exec_safePoint hsafe, chooseRun_grace hrun hslot hstop]
    | false => exact exec_safePoint_elsewhere hsafe

end Sys2Proof.Machine
end

/-! PROOFS of the family 12_training_and_reduction: the reduction of gradient buckets (O33). -/

section
namespace Sys2Proof.Machine

/-! ### The magnitude of a rounded integer (R230) -/

theorem rneShift_le {a k n : Nat} (h : a < n * 2 ^ k) : rneShift a k ≤ n := by
  have hq : a / 2 ^ k < n := Nat.div_lt_of_lt_mul (by rwa [Nat.mul_comm])
  unfold rneShift
  dsimp only
  split <;> omega

theorem roundInt_zero (e : Int) : roundInt 0 e = 0 := by
  simp [roundInt, rneShift]

/-- A number below 2^n in magnitude rounds to an integer of at most that magnitude. -/
theorem natAbs_roundInt_le {m e : Int} {n : Nat} (h : (m.natAbs.log2 : Int) + e < n) : (roundInt m e).natAbs ≤ 2 ^ n := by
  have hm : m.natAbs < 2 ^ (m.natAbs.log2 + 1) := Nat.lt_log2_self
  unfold roundInt
  split
  next he =>
    rw [Int.natAbs_mul, Int.natAbs_pow]
    calc m.natAbs * 2 ^ e.toNat ≤ 2 ^ (m.natAbs.log2 + 1) * 2 ^ e.toNat := Nat.mul_le_mul_right _ (Nat.le_of_lt hm)
      _ = 2 ^ (m.natAbs.log2 + 1 + e.toNat) := (Nat.pow_add ..).symm
      _ ≤ 2 ^ n := Nat.pow_le_pow_right (by decide) (by omega)
  next he =>
    have hshift : rneShift m.natAbs (-e).toNat ≤ 2 ^ n := by
      refine rneShift_le (Nat.lt_of_lt_of_le hm ?_)
      rw [← Nat.pow_add]
      exact Nat.pow_le_pow_right (by decide) (by omega)
    split
    · rwa [Int.natAbs_neg]
    · exact hshift

/-! ### An element as FX64 under the shared scale (R268 to R270) -/

theorem le_two_pow_headroom (p : Nat) : p ≤ 2 ^ headroom p := by
  unfold headroom
  split
  next hp => simpa using hp
  next hp =>
    have hlog : p - 1 < 2 ^ ((p - 1).log2 + 1) := Nat.lt_log2_self
    omega

theorem headroom_le_five {p : Nat} (hp : p ≤ 24) : headroom p ≤ 5 := by
  unfold headroom
  split
  · omega
  next hone => exact (Nat.log2_lt (by omega)).2 (by omega : p - 1 < 2 ^ 5)

/-- The least place of a bit of a number in a floating-point format (R226). -/
theorem decode_exponent_ge {f : FloatFmt} {code : Nat} {m e : Int} (h : f.decode code = .fin m e) :
    1 - (f.bias : Int) - f.frac ≤ e := by
  unfold FloatFmt.decode at h
  extract_lets sgn mag ex fr at h
  clear_value ex
  split at h
  · split at h <;> cases h
  · split at h
    · cases h; exact Int.le_refl _
    next hex => cases h; omega

theorem expOf_ge {g : F32} {x : Int} (h : expOf g = some x) : -149 ≤ x := by
  unfold expOf at h
  split at h
  next m e hg =>
    have he : (-149 : Int) ≤ e := decode_exponent_ge hg
    split at h
    · cases h
    · cases h; omega
  · cases h

/-- An element below 2^n under its scale, with n at most 62, is at most 2^n as FX64; a zero or a non-finite element is zero. -/
theorem natAbs_toFx64_le {g : F32} {e : Int} {n : Nat} (hn : n ≤ 62) (h : ∀ x, expOf g = some x → x + e < n) :
    (toFx64 e g).toInt.natAbs ≤ 2 ^ n := by
  have hpow : 2 ^ n ≤ 2 ^ 62 := Nat.pow_le_pow_right (by decide) hn
  unfold toFx64
  split
  next m x hg =>
    have hround : (roundInt m (x + e)).natAbs ≤ 2 ^ n := by
      by_cases hm : m = 0
      · rw [hm, roundInt_zero]
        exact Nat.zero_le _
      · have hexp := h (m.natAbs.log2 + x) (by simp [expOf, hg, hm])
        exact natAbs_roundInt_le (by omega)
    rw [BitVec.toInt_ofInt, Int.bmod_eq_of_le (by omega) (by omega)]
    exact hround
  · exact Nat.zero_le _

/-- R270: the headroom leaves each element of a bucket room for the participants' sum. -/
theorem natAbs_toFx64_sharedExp_le {p : Nat} {e : BitVec 32} {g : F32} (hp : p ≤ 24) (h : ∀ x, expOf g = some x → x ≤ e.toInt) :
    (toFx64 (sharedExp p e) g).toInt.natAbs ≤ 2 ^ (62 - headroom p) := by
  have hroom := headroom_le_five hp
  refine natAbs_toFx64_le (Nat.sub_le ..) fun x hx => ?_
  have hle := h x hx
  unfold sharedExp
  split
  next he =>
    have hleast := expOf_ge hx
    rw [he, show (0x80000000#32).toInt = -2147483648 from by decide] at hle
    omega
  · omega

/-! ### Sums of FX64 (R267) -/

/-- A sum of terms of at most `n` in magnitude is exact where so many of them stay below 2^63. -/
theorem toInt_foldl_add {α : Type} {f : α → BitVec 64} {n : Nat} {l : List α} {a : BitVec 64} (hterms : ∀ g ∈ l, (f g).toInt.natAbs ≤ n)
    (hroom : a.toInt.natAbs + l.length * n < 2 ^ 63) :
    (l.foldl (fun a g => a + f g) a).toInt = l.foldl (fun a g => a + (f g).toInt) a.toInt := by
  induction l generalizing a with
  | nil => rfl
  | cons g r ih =>
    have hg := hterms g List.mem_cons_self
    rw [List.length_cons, Nat.add_mul, Nat.one_mul] at hroom
    have hsum : (a + f g).toInt = a.toInt + (f g).toInt := by
      rw [BitVec.toInt_add, Int.bmod_eq_of_le (by omega) (by omega)]
    rw [List.foldl_cons, List.foldl_cons, ← hsum]
    exact ih (fun g hg => hterms g (List.mem_cons_of_mem _ hg)) (by omega)

/-- R267, R270: the sum of up to 24 participants' integers does not overflow. -/
theorem toInt_sum_toFx64 {p : Nat} {e : BitVec 32} {l : List F32} (hl : l.length ≤ p) (hp : p ≤ 24)
    (hmax : ∀ g ∈ l, ∀ x, expOf g = some x → x ≤ e.toInt) :
    (l.foldl (fun a g => a + toFx64 (sharedExp p e) g) 0).toInt = l.foldl (fun a g => a + (toFx64 (sharedExp p e) g).toInt) 0 := by
  refine toInt_foldl_add (fun g hg => natAbs_toFx64_sharedExp_le hp (hmax g hg)) ?_
  have hroom := headroom_le_five hp
  have hsum : l.length * 2 ^ (62 - headroom p) ≤ 2 ^ 62 :=
    calc l.length * 2 ^ (62 - headroom p) ≤ 2 ^ headroom p * 2 ^ (62 - headroom p) :=
          Nat.mul_le_mul_right _ (Nat.le_trans hl (le_two_pow_headroom p))
      _ = 2 ^ 62 := by rw [← Nat.pow_add, Nat.add_sub_cancel' (by omega)]
  rw [show (0 : BitVec 64).toInt = 0 from rfl]
  omega

theorem sum_toFx64_perm (e : Int) {k l : List F32} (h : k.Perm l) :
    k.foldl (fun a g => a + toFx64 e g) 0 = l.foldl (fun a g => a + toFx64 e g) 0 :=
  h.foldl_eq' (fun x _ y _ a => by rw [BitVec.add_assoc, BitVec.add_comm (toFx64 e x), ← BitVec.add_assoc]) 0

/-! ### The step and bucket of a flit (R260) -/

section
variable {room bucket attempt : Nat} {id : BitVec 32} {s : State} {t : TStep} {b : Bucket}

theorem flitStep_eq_some : s.flitStep room id attempt bucket = some (t, b) ↔
    s.step? room = some t ∧ t.stepId = id ∧ t.attempt = attempt ∧ t.phase = .running ∧ t.bucket? bucket = some b := by
  unfold State.flitStep
  split
  next x hx =>
    rw [hx, Option.some_inj]
    split
    next hlive =>
      simp only [Bool.and_eq_true, beq_iff_eq] at hlive
      obtain ⟨⟨hid, hattempt⟩, hphase⟩ := hlive
      constructor
      · intro h
        obtain ⟨y, hy, hpair⟩ := Option.map_eq_some_iff.1 h
        cases hpair
        exact ⟨rfl, hid, hattempt, hphase, hy⟩
      · rintro ⟨rfl, -, -, -, hb⟩
        rw [hb]
        rfl
    next hdead =>
      refine ⟨nofun, ?_⟩
      rintro ⟨rfl, hid, hattempt, hphase, -⟩
      simp [hid, hattempt, hphase] at hdead
  next hx =>
    rw [hx]
    exact ⟨nofun, fun h => nomatch h.1⟩

/-- One bucket of a step changed. -/
theorem bucket?_onBucket_same {f : Bucket → Bucket} (hstep : s.step? room = some t) (hbucket : t.bucket? bucket = some b)
    (hf : ∀ x, (f x).id = x.id := by intro; rfl) :
    ∃ x, (onBucket room bucket f s).step? room = some x ∧ x.bucket? bucket = some (f b) :=
  ⟨_, step?_onStep_same hstep,
    (find?_changed_same (key := Bucket.id) hf bucket t.buckets).trans (congrArg (Option.map f) hbucket)⟩

end

/-! ### Scale flits (R269, R310) -/

section
variable {src : Nat} {f : ScaleFlit} {s : State} {t : TStep} {b : Bucket}

theorem takeScale_stale (h : s.flitStep f.room f.stepId f.attempt f.bucket = none) : takeScale src f s = stale s := by
  simp only [takeScale, h]

/-- R269: a participant whose bucket is ready raises the exponent of lap 1 by its own, and sends it on. -/
theorem takeScale_ready (hflit : s.flitStep f.room f.stepId f.attempt f.bucket = some (t, b)) (hlap : f.lap = 1)
    (hheads : s.heads t = false) (hcount : 1 < t.count) (hready : b.ready = true) :
    takeScale src f s = sendTo (s.nextIn t) 0
      (.scale { f with e := maxExp f.e (bucketExp (s.gradients b).1 (s.gradients b).2), room := t.room })
      (onStep t.room (fun t => { t with headHeard := s.pos }) s) := by
  obtain ⟨-, hid, hattempt, -, -⟩ := flitStep_eq_some.1 hflit
  have hheads' : (onStep t.room (fun t => { t with headHeard := s.pos }) s).heads t = false := hheads
  simp only [takeScale, hflit, hlap, hheads', hready, sendScale, if_neg (Nat.not_le.2 hcount), hid, hattempt, if_true]
  rfl

/-- R310: a participant whose bucket is not ready keeps the exponent until it is. -/
theorem takeScale_waits (hflit : s.flitStep f.room f.stepId f.attempt f.bucket = some (t, b)) (hlap : f.lap = 1)
    (hheads : s.heads t = false) (hready : b.ready = false) :
    takeScale src f s = onBucket t.room f.bucket (fun b => { b with exps := [(src, f.e)] })
      (onStep t.room (fun t => { t with headHeard := s.pos }) s) := by
  have hheads' : (onStep t.room (fun t => { t with headHeard := s.pos }) s).heads t = false := hheads
  simp [takeScale, hflit, hlap, hheads', hready]

theorem takeScale_keeps_exponent (hflit : s.flitStep f.room f.stepId f.attempt f.bucket = some (t, b)) (hlap : f.lap = 1)
    (hheads : s.heads t = false) (hready : b.ready = false) :
    ∃ x y, (takeScale src f s).step? f.room = some x ∧ x.bucket? f.bucket = some y ∧ y.exps = [(src, f.e)] ∧ y.eMax = b.eMax ∧
      (takeScale src f s).mem = s.mem := by
  obtain ⟨hstep, -, -, -, hbucket⟩ := flitStep_eq_some.1 hflit
  rw [takeScale_waits hflit hlap hheads hready, room_of_step? hstep]
  have hheard := step?_onStep_same (f := fun t => { t with headHeard := s.pos }) hstep
  obtain ⟨x, hx, hy⟩ := bucket?_onBucket_same (f := fun b => { b with exps := [(src, f.e)] }) (b := b) hheard hbucket
  exact ⟨x, _, hx, hy, rfl, rfl, rfl⟩

end

/-! ### Sum flits (R271, R310) -/

section
variable {f : SumFlit} {s : State} {t : TStep} {b : Bucket}

theorem takeSum_stale (h : s.flitStep f.room f.stepId f.attempt f.bucket = none) : takeSum f s = stale s := by
  simp only [takeSum, h]

/-- R271: a chunk whose sum does not end here takes this participant's values and goes on. -/
theorem takeSum_goes_on (hflit : s.flitStep f.room f.stepId f.attempt f.bucket = some (t, b)) (hwhole : f.whole = false)
    (hscale : b.eMax.isSome = true) (hplace : s.placeIn t ≠ f.chunk) :
    takeSum f s = sendTo (s.nextIn t) 0
      (.sum { f with values := (f.values.zip (s.ownChunk t b f.chunk)).map fun x => x.1 + x.2, whole := false })
      (onBucket t.room f.bucket (fun b => { b with summed := insertSet f.chunk b.summed }) s) := by
  have hmax : b.eMax.isNone = false := by simpa using hscale
  simp only [takeSum, hflit, hmax, hwhole, if_neg hplace, Bool.false_eq_true, if_false]
  rfl

end

/-! ### Control messages (R276, R278, R280) -/

section
variable {room src : Nat} {s : State} {t : TStep}

/-- R260: a message of another attempt, or of none, is dropped and counted. -/
theorem takeTrain_stale {a : Nat} (k : Nat) (h : ∀ t, s.step? room = some t → t.attempt ≠ a) :
    takeTrain src (.progress room a) s = stale s ∧ takeTrain src (.commit room a k) s = stale s ∧
      takeTrain src (.abort room a) s = stale s ∧ takeTrain src (.ready room a) s = stale s ∧
      takeTrain src (.applyBell room a k) s = stale s := by
  cases hstep : s.step? room with
  | none => simp [takeTrain, hstep]
  | some t => simp [takeTrain, hstep, h t hstep]

theorem takeTrain_progress (hstep : s.step? room = some t) (hheads : s.heads t = true) :
    takeTrain src (.progress room t.attempt) s = onStep room (fun t => { t with heard := setKey src s.pos t.heard }) s := by
  simp [takeTrain, hstep, hheads]

theorem takeTrain_ready (hstep : s.step? room = some t) (hheads : s.heads t = true) (hphase : t.phase = .aborted) :
    takeTrain src (.ready room t.attempt) s = onStep room (fun t => { t with readyFrom := insertSet src t.readyFrom }) s := by
  simp [takeTrain, hstep, hheads, hphase]

/-- R276: a participant of a running attempt takes the apply bell; one that has come already discards the step. -/
theorem takeTrain_applyBell (hstep : s.step? room = some t) (hsrc : t.head = src) (hphase : t.phase = .running) (n : Nat) :
    takeTrain src (.applyBell room t.attempt n) s =
      if bellsFrom (BitVec.ofNat 48 n) s.bell.count < 2 ^ 47 then removeStep room (stopAttempt t s)
      else onStep room (fun t => { t with phase := .applyAt (BitVec.ofNat 48 n), headHeard := s.pos }) s := by
  simp only [takeTrain, hstep, hsrc, hphase, and_self, if_true]

/-- R280: the head's abort stops the attempt here. -/
theorem takeTrain_abort (hstep : s.step? room = some t) (hsrc : t.head = src) (hphase : t.phase = .running) :
    ∃ x, (takeTrain src (.abort room t.attempt) s).step? room = some x ∧ x.phase = .aborted ∧ x.run = none ∧
      (takeTrain src (.abort room t.attempt) s).train.lastStep = s.train.lastStep := by
  have heq : takeTrain src (.abort room t.attempt) s = sayReady room (abortHere room
      (onStep room (fun t => if t.head = src then { t with headHeard := s.pos } else t) s)) := by
    simp only [takeTrain, hstep, hsrc, hphase, if_true]
  have hkeep : ∀ x : TStep, (if x.head = src then { x with headHeard := s.pos } else x).room = x.room := fun x => by
    split
    · rfl
    · rfl
  obtain ⟨haborted, habort⟩ := abortHere_aborts (step?_onStep_same hstep hkeep)
  obtain ⟨hsaid, l, hx⟩ := sayReady_says habort
  rw [heq]
  exact ⟨_, hx, rfl, rfl, (((ChangesStep.onStep room _ s hkeep).trans haborted).trans hsaid).lastStep⟩

/-- R281: an attempt without this participant discards the step. -/
theorem takeTrain_attempt_without {l : List Nat} (hstep : s.step? room = some t) (hsrc : t.head = src) (hout : s.me ∉ l) (n : Nat) :
    takeTrain src (.attempt room n l) s = removeStep room (stopAttempt t s) := by
  simp [takeTrain, hstep, hsrc, hout]

theorem removeStep_stopAttempt_step? (hstep : s.step? room = some t) : (removeStep room (stopAttempt t s)).step? room = none ∧
    (removeStep room (stopAttempt t s)).train.lastStep = s.train.lastStep := by
  obtain rfl := room_of_step? hstep
  have hdropped := removeStep_stopAttempt t s
  exact ⟨hdropped.gone, hdropped.changes.lastStep⟩

end

/-! ### A flit taken in order has its effect here -/

section
variable {port : Nat} {hd : FlitHdr} {s u : State}

theorem Sends.step? (h : Sends s u) (room : Nat) : u.step? room = s.step? room := (KeepsTraining.of_sends h).step? room
theorem Sends.mem (h : Sends s u) : u.mem = s.mem := (congrArg State.mem h :)
theorem Sends.pos (h : Sends s u) : u.pos = s.pos := (Trains.of_sends h).pos
theorem Sends.me (h : Sends s u) : u.me = s.me := (congrArg State.me h :)
theorem Sends.heads (h : Sends s u) (t : TStep) : u.heads t = s.heads t := (Trains.of_sends h).heads t
theorem Sends.placeIn (h : Sends s u) (t : TStep) : u.placeIn t = s.placeIn t := congrArg (·.placeIn t) h
theorem Sends.nextIn (h : Sends s u) (t : TStep) : u.nextIn t = s.nextIn t := congrArg (·.nextIn t) h
theorem Sends.gradients (h : Sends s u) (b : Bucket) : u.gradients b = s.gradients b := congrArg (·.gradients b) h
theorem Sends.ownChunk (h : Sends s u) (t : TStep) (b : Bucket) (c : Nat) : u.ownChunk t b c = s.ownChunk t b c :=
  congrArg (·.ownChunk t b c) h

variable (hears : s.hears port hd = true) (hdst : hd.dst.toNat = s.plain.member ∨ hd.dst = 0xFF#8)
include hears hdst

theorem exec_reductionScale_hears (f : ScaleFlit) : exec (.reductionScale port hd f) s =
    .next (giveCredit port hd (takeScale hd.src.toNat f (takeHeader port hd s))) :=
  congrArg Host.Outcome.next (receiveFor_hears _ _ hears hdst)

theorem exec_reductionSum_hears (f : SumFlit) : exec (.reductionSum port hd f) s =
    .next (giveCredit port hd (takeSum f (takeHeader port hd s))) :=
  congrArg Host.Outcome.next (receiveFor_hears _ _ hears hdst)

theorem exec_trainStepMessage_hears (m : TrainMsg) : exec (.trainStepMessage port hd m) s =
    .next (giveCredit port hd (takeTrain hd.src.toNat m (takeHeader port hd s))) :=
  congrArg Host.Outcome.next (receiveFor_hears _ _ hears hdst)

end

/-! ### O33 -/

/-- Settles O33: each integer is at most 2^(62 - headroom), so that 24 of them stay within FX64 (R270), and addition of words commutes; a flit
in order acts on the state behind its header, in which only the ports have changed. -/
theorem bucketsAreReducedExactly : Obligations.BucketsAreReducedExactly := by
  unfold Obligations.BucketsAreReducedExactly
  refine ⟨fun p e l => toInt_sum_toFx64, fun e k l => sum_toFx64_perm e, fun port hd s u hears hu hdst => ?_⟩
  have hsent : Sends s u := hu ▸ takeHeader_sends port hd s
  have hscale := exec_reductionScale_hears hears hdst
  have hsum := exec_reductionSum_hears hears hdst
  have hmessage := exec_trainStepMessage_hears hears hdst
  rw [← hu] at hscale hsum hmessage
  refine ⟨fun f hnone => ?_, fun f hnone => ?_, fun f t b hflit hlap hheads hcount => ⟨fun hready => ?_, fun hready => ?_⟩,
    fun f t b hflit hwhole hmax hplace => ?_, fun room a k hother => ?_, fun room t hstep => ?_⟩
  · rw [hscale, takeScale_stale hnone]
  · rw [hsum, takeSum_stale hnone]
  · rw [hscale, takeScale_ready hflit hlap ((hsent.heads t).trans hheads) hcount hready, hsent.nextIn, hsent.gradients]
    exact ⟨_, rfl, hsent.mem, rfl⟩
  · obtain ⟨x, y, hx, hy, hexps, hmax, hmem⟩ :=
      takeScale_keeps_exponent (src := hd.src.toNat) hflit hlap ((hsent.heads t).trans hheads) hready
    exact ⟨_, x, y, hscale f, hx, hy, hexps, hmax, hmem.trans hsent.mem⟩
  · rw [hsum, takeSum_goes_on hflit hwhole hmax (hsent.placeIn t ▸ hplace), hsent.nextIn, hsent.ownChunk]
    exact ⟨_, rfl, hsent.mem, rfl⟩
  · obtain ⟨hprogress, hcommit, habort, hready, hbell⟩ :=
      takeTrain_stale (src := hd.src.toNat) k fun t ht => hother t ((hsent.step? room).symm.trans ht)
    simp only [hmessage, hprogress, hcommit, habort, hready, hbell, and_self]
  · have hstep' := (hsent.step? room).trans hstep
    obtain ⟨hgone, hkept⟩ := removeStep_stopAttempt_step? hstep'
    have hlast : u.train.lastStep = s.train.lastStep := congrArg TrainSt.lastStep hsent.train
    refine ⟨fun hheads => ?_, fun hheads hphase => ?_, fun hsrc hphase => ⟨fun n hlater => ?_, fun n hcome => ?_, ?_⟩,
      fun n l hsrc _ hout => ?_⟩
    · rw [hmessage, takeTrain_progress hstep' ((hsent.heads t).trans hheads)]
      exact ⟨_, _, rfl, step?_onStep_same hstep', by simp [lookup_setKey, hsent.pos], rfl, hsent.mem⟩
    · rw [hmessage, takeTrain_ready hstep' ((hsent.heads t).trans hheads) hphase]
      exact ⟨_, _, rfl, step?_onStep_same hstep', mem_insertSet.2 (.inl rfl), fun m hm => mem_insertSet.2 (.inr hm), hsent.mem⟩
    · rw [hmessage, takeTrain_applyBell hstep' hsrc hphase, hsent.bell, if_neg (Nat.not_lt.2 hlater)]
      exact ⟨_, _, rfl, step?_onStep_same hstep', rfl, hsent.mem⟩
    · rw [hmessage, takeTrain_applyBell hstep' hsrc hphase, hsent.bell, if_pos hcome]
      exact ⟨_, rfl, hgone, hkept.trans hlast⟩
    · obtain ⟨x, hx, haborted, hrun, hsame⟩ := takeTrain_abort hstep' hsrc hphase
      exact ⟨_, x, hmessage _, hx, haborted, hrun, hsame.trans hlast⟩
    · rw [hmessage, takeTrain_attempt_without hstep' hsrc (hsent.me ▸ hout)]
      exact ⟨_, rfl, hgone⟩

end Sys2Proof.Machine
end

/-! PROOFS of the family 13_pass_links_and_plains: Read with Proxy (O23). -/

section
namespace Sys2Proof.Machine

/-! ### O23 -/

section
variable {h : Hdr} {nsid slba nlb target : Nat} {s : State}

/-- R307: past the checks, a Read for a member that can answer is put down under the next tag and sent to that member. -/
theorem proxyCore_forwards {e : NsTableEntry} (hknown : target < s.members) (hmember : s.isMember = true)
    (hother : target ≠ s.plain.member) (hentry : s.tableEntry target nsid = some e) (hlong : nlb < 512)
    (hrange : slba + nlb + 1 ≤ e.slots * 16) (habsent : (s.peer target).state ≠ .absent) (hleft : (s.peer target).state ≠ .left) :
    proxyCore h nsid slba nlb target s = sendTo target 0 (.proxyRead ⟨s.plain.nextTag, nsid, slba, nlb⟩)
      (onPlain (fun p => { p with
        nextTag := p.nextTag + 1
        proxies := p.proxies ++ [⟨s.plain.nextTag, h, target, nsid, slba, nlb, [], []⟩] }) (begin' h .reading s)) := by
  have hpeer : (onPlain (fun p => { p with
      nextTag := p.nextTag + 1
      proxies := p.proxies ++ [⟨s.plain.nextTag, h, target, nsid, slba, nlb, [], []⟩] }) (begin' h .reading s)).peer target =
      s.peer target := by
    simp [State.peer]
  unfold proxyCore
  rw [if_neg (Nat.not_le.2 hknown), hmember, if_neg (by decide), if_neg hother, hentry]
  dsimp only
  rw [if_neg (by omega), if_neg (by omega), hpeer, if_neg (by simp [habsent, hleft])]

end

/-- Settles O23: behind admission, each clause is one branch of `proxyCore`. -/
theorem proxyReadsGoToTheirMember : Obligations.ProxyReadsGoToTheirMember := by
  unfold Obligations.ProxyReadsGoToTheirMember
  intro h nsid slba nlb target s ok hproxy
  have hexec : exec (.readWithProxy h nsid slba nlb target) s = .next (proxyCore h nsid slba nlb target s) := by
    refine (congrArg Host.Outcome.next (admitIo_accepts _ _ ok)).trans ?_
    rw [if_pos hproxy]
  rw [hexec]
  refine ⟨fun hunknown => ?_, fun hknown halone => ?_, fun e hknown hmember hother hentry hlong hrange habsent hleft => ?_⟩
  · simp [proxyCore, hunknown]
  · simp [proxyCore, Nat.not_le.2 hknown, halone]
  · rw [proxyCore_forwards hknown hmember hother hentry hlong hrange habsent hleft, onPlain, begin'_plain]

end Sys2Proof.Machine
end

/-! PROOFS of the family 13_pass_links_and_plains: the states of a pass port (O49). -/

section
namespace Sys2Proof.Machine

/-! ### A port read after a change -/

section
variable {s : State} {p q : Nat}

theorem port_onPort_same (f : Port → Port) (h : p < s.plain.ports.length) : (onPort p f s).port p = f (s.port p) :=
  modifyAt_getD_same _ _ _ _ h

theorem port_onPort_other (f : Port → Port) (h : q ≠ p) : (onPort p f s).port q = s.port q := modifyAt_getD_other _ _ _ _ _ h

theorem transmit_port_other (fwd : Bool) {x : Sent} (h : q ≠ x.port) : (transmit fwd x s).port q = s.port q := by
  unfold transmit
  dsimp only
  split
  · exact port_onPort_other _ h
  · exact port_onPort_other _ h

theorem sendFlit_port_other (fwd : Bool) {x : Sent} (h : q ≠ x.port) : (sendFlit fwd x s).port q = s.port q := by
  unfold sendFlit
  dsimp only
  split
  · exact transmit_port_other fwd h
  · exact port_onPort_other _ h

/-! ### Routes go by ports that are Up -/

theorem route_up {dst n : Nat} (h : s.route dst = some (p, n)) : (s.port p).state = .up := by
  suffices hroute : ∀ x : Nat × Nat, x ∈ s.route dst → (s.port x.1).state = .up from hroute (p, n) h
  refine List.foldlRecOn (motive := fun a => ∀ x : Nat × Nat, x ∈ a → (s.port x.1).state = .up) s.upPorts _ (by simp) fun best hbest y hy => ?_
  have hup : (s.port y).state = .up := by simpa using (List.mem_filter.1 hy).2
  split
  · exact hbest
  · simpa using hup
  · split
    · simpa using hup
    · exact hbest

theorem resend_sends (x : Sent) (s : State) : Sends s (resend x s) := by
  unfold resend
  split
  · exact .refl s
  · split
    · exact sendFlit_sends _ _ s
    · exact unrouted_sends s

/-- A flit sent again leaves a port that is not Up as it is (R296). -/
theorem resend_port (x : Sent) (h : (s.port q).state ≠ .up) : (resend x s).port q = s.port q := by
  unfold resend
  split
  · rfl
  · split
    next hroute => exact sendFlit_port_other true fun hq => h (hq ▸ route_up hroute)
    · rfl

theorem resendAll_port (l : List Sent) (h : (s.port q).state ≠ .up) : (l.foldl (fun s x => resend x s) s).port q = s.port q := by
  induction l generalizing s with
  | nil => rfl
  | cons x r ih =>
    have hx := resend_port x h
    exact (ih (hx ▸ h)).trans hx

theorem queryLost_of_no_runs (m : Nat) (hruns : s.query.runs = []) : queryLost m s = s := by
  simp [queryLost, settleHeads, hruns]

theorem queriesLost_of_no_runs (l : List Nat) (hruns : s.query.runs = []) : l.foldl (fun s m => queryLost m s) s = s := by
  induction l with
  | nil => rfl
  | cons m r ih => rwa [List.foldl_cons, queryLost_of_no_runs m hruns]

end

/-! ### Identification (R284, R289, R290) -/

/-- The port as it comes Up: the far end's answers and the counters kept, everything else anew. -/
def Port.identified (dm : Nat) (far : PortIdentity) (echoes : List Nat) (p : Port) : Port :=
  { Port.reset with
    state := .up
    oneLane := p.oneLane
    cableLong := decide (expectedTrip dm + 50 < medianOf echoes)
    neighbour := far.member
    far := some far
    rtt := medianOf echoes
    rate := rateAt (medianOf echoes) p.oneLane
    fecCorrected := p.fecCorrected
    replays := p.replays
    linkLosses := p.linkLosses
    trainFails := p.trainFails
    creditFixes := p.creditFixes }

section
variable {s : State} {port : Nat} (far : PortIdentity) (echoes : List Nat)

theorem exec_portIdentify_of_foreign (hup : s.up = true)
    (hstate : (s.port port).state = .align ∨ (s.port port).state = .identify ∨ (s.port port).state = .miswired)
    (hbad : s.identityOk port far = false) : exec (.portIdentify port far echoes) s =
      .next (onPort port (fun p => { p with state := .miswired, far := some far, neighbour := far.member }) s) := by
  rcases hstate with hstate | hstate | hstate <;> simp [exec, execPortIdentify, hup, hstate, hbad]

theorem sendJoin_of_no_join (h : s.plain.join = none) : sendJoin s = s := by
  simp [sendJoin, h]

theorem exec_portIdentify_of_neighbour (hup : s.up = true)
    (hstate : (s.port port).state = .align ∨ (s.port port).state = .identify ∨ (s.port port).state = .miswired)
    (hok : s.identityOk port far = true) (hjoin : s.plain.join = none) : exec (.portIdentify port far echoes) s =
      .next (onPort port (Port.identified s.img.active.plain.cableDm far echoes) s) := by
  have hsend : sendJoin (onPort port (Port.identified s.img.active.plain.cableDm far echoes) s) =
      onPort port (Port.identified s.img.active.plain.cableDm far echoes) s := sendJoin_of_no_join hjoin
  refine Eq.trans ?_ (congrArg Host.Outcome.next hsend)
  rcases hstate with hstate | hstate | hstate <;> simp [exec, execPortIdentify, hup, hstate, hok] <;> rfl

theorem exec_portIdentify_of_other_state (hstate : (s.port port).state = .up ∨ (s.port port).state = .down ∨
    (s.port port).state = .detect ∨ (s.port port).state = .train) : exec (.portIdentify port far echoes) s = .next s := by
  rcases hstate with hstate | hstate | hstate | hstate <;> simp [exec, execPortIdentify, hstate]

end

/-! ### Loss of the link (R285, R296) -/

/-- A port whose link is lost: Down, without what it had learnt and without flits, the loss counted if it was Up. -/
def Port.dropped (p : Port) : Port :=
  { p with
    state := .down
    oneLane := false
    cableLong := false
    neighbour := 0xFF
    far := none
    linkLosses := if p.state == .up then bump32 p.linkLosses else p.linkLosses
    replay := []
    inFlight := Port.reset.inFlight
    queue := [] }

/-- While no query runs, the loss of a link changes its port and sends the port's flits by other ports. -/
theorem dropLink_effect {s : State} {port : Nat} (hport : port < s.plain.ports.length) (hruns : s.query.runs = []) :
    Sends s (dropLink port s) ∧ (dropLink port s).port port = (s.port port).dropped := by
  have hdown : (onPort port Port.dropped s).port port = (s.port port).dropped := port_onPort_same _ hport
  have hsends : Sends s (onPort port Port.dropped s) := onPort_sends _ _ s
  unfold dropLink
  extract_lets p lost dropped resent
  change Sends s dropped at hsends
  change dropped.port port = _ at hdown
  clear_value dropped lost
  split
  · exact ⟨hsends, hdown⟩
  · have hresent : Sends dropped resent := .foldl (fun s x => resend_sends x s) _ dropped
    have hsame : resent.port port = dropped.port port := resendAll_port _ (by rw [hdown]; simp [Port.dropped])
    clear_value resent
    have hquery : resent.query.runs = [] := by rw [hresent.query, hsends.query, hruns]
    rw [queriesLost_of_no_runs _ hquery]
    exact ⟨hsends.trans hresent, hsame.trans hdown⟩

/-! ### O49 -/

section
variable {s : State} {port : Nat}

/-- R284: a wired port leaves Down by detection, or by a retry once three trainings in a row have failed. -/
theorem exec_portDetect_retry (hup : s.up = true) (hrecovery : s.fw.recovery = false) (hwired : s.portWired port = true)
    (hstate : (s.port port).state = .down) :
    ((s.port port).failRun < 3 → exec (.portDetect port) s = .next (onPort port (fun p => { p with state := .detect }) s) ∧
      exec (.portRetry port) s = .next s) ∧
    (3 ≤ (s.port port).failRun → exec (.portRetry port) s = .next (onPort port (fun p => { p with state := .detect }) s) ∧
      exec (.portDetect port) s = .next s) := by
  refine ⟨fun hfew => ?_, fun hmany => ?_⟩
  · simp [exec, execPortDetect, execPortRetry, hup, hrecovery, hwired, hstate, hfew, Nat.not_le.2 hfew]
  · simp [exec, execPortDetect, execPortRetry, hup, hrecovery, hwired, hstate, hmany, Nat.not_lt.2 hmany]

theorem exec_portDetect_retry_of_no_cause (h : s.portWired port = false ∨ (s.port port).state ≠ .down) :
    exec (.portDetect port) s = .next s ∧ exec (.portRetry port) s = .next s := by
  rcases h with h | h <;> simp [exec, execPortDetect, execPortRetry, h]

end

/-- Settles O49: each row by its guard, the loss of a link by `dropLink_effect`. -/
theorem portsComeUpAndGoDown : Obligations.PortsComeUpAndGoDown := by
  unfold Obligations.PortsComeUpAndGoDown
  intro port s hup hshaped hport
  obtain ⟨-, -, -, -, hports, -⟩ := hshaped
  have hport' : port < s.plain.ports.length := by omega
  refine ⟨exec_portDetect_retry hup, exec_portDetect_retry_of_no_cause, fun hstate => ?_, fun hstate => ?_,
    fun hstate => ⟨?_, fun lanes hlanes => ?_⟩, fun lanes hstate => ?_,
    fun far echoes hstate => ⟨exec_portIdentify_of_foreign far echoes hup hstate, fun hok hjoin => ?_⟩,
    exec_portIdentify_of_other_state, fun hdown hdetect hruns => ?_, fun hstate => ?_⟩
  · simp [exec, execElectricalPresence, hup, hstate]
  · simp [exec, execElectricalPresence, hstate]
  · simp [exec, execPortTrainDone, hup, hstate]
  · simp [exec, execPortTrainDone, hup, hstate, hlanes]
  · simp [exec, execPortTrainDone, hstate]
  · refine ⟨_, exec_portIdentify_of_neighbour far echoes hup hstate hok hjoin, ?_⟩
    rw [port_onPort_same _ hport']
    exact ⟨rfl, rfl, rfl, rfl, rfl, rfl, rfl, rfl, fun q hq => port_onPort_other _ hq, rfl⟩
  · obtain ⟨hsends, hlost⟩ := dropLink_effect hport' hruns
    refine ⟨dropLink port s, by simp [exec, execPortLinkLoss, hup, hdown, hdetect], ?_⟩
    rw [hlost]
    exact ⟨rfl, rfl, by simp [Port.dropped], hsends.ftl, (congrArg State.mem hsends :), hsends.bell⟩
  · rcases hstate with hstate | hstate <;> simp [exec, execPortLinkLoss, hstate]

end Sys2Proof.Machine
end

/-! PROOFS of the family 13_pass_links_and_plains: flits in order, damaged, ahead and received before (O48). -/

section
namespace Sys2Proof.Machine

/-! ### Every row for a flit goes through `receive` (R286, R287) -/

theorem exec_relayed {c : Instr} {port : Nat} {hd : FlitHdr} {b : Payload} (h : relayed c = some (port, hd, b)) :
    ∃ k : State → State, ∀ s, exec c s = .next (receiveFor port hd b k s) := by
  unfold relayed at h
  split at h <;> cases h <;> exact ⟨_, fun _ => rfl⟩

theorem exec_flit {c : Instr} {port : Nat} {hd : FlitHdr} (h : flitOf c = some (port, hd)) :
    ∃ k : State → State, ∀ s, exec c s = .next (receive port hd k s) := by
  unfold flitOf at h
  split at h
  next hrelayed =>
    cases h
    obtain ⟨k, hk⟩ := exec_relayed hrelayed
    exact ⟨_, hk⟩
  · split at h <;> cases h <;> exact ⟨_, fun _ => rfl⟩

section
variable {s : State} {port : Nat} {hd : FlitHdr} (k : State → State)

theorem receive_of_not_up (h : s.up = false ∨ (s.port port).state ≠ .up) : receive port hd k s = s := by
  rcases h with h | h <;> simp [receive, h]

variable (hup : s.up = true) (hport : (s.port port).state = .up)
include hup hport

/-- R287: a damaged flit, or one ahead of its order, is discarded, and a NAK names the SEQ expected. -/
theorem receive_of_damaged_or_early (h : hdrIntact hd = false ∨ (hd.seq.toNat ≠ (s.port port).rxSeq ∧
      (hd.seq.toNat + 65536 - (s.port port).rxSeq) % 65536 < 32768)) :
    receive port hd k s = sendPort port 0xFF 0 (.nak (s.port port).rxSeq)
      { s with plain := { s.plain with discarded := s.plain.discarded + 1 } } := by
  rcases h with h | ⟨hseq, hnear⟩
  · simp [receive, hup, hport, h]
  · simp [receive, hup, hport, hseq, hnear]

theorem receive_of_known (hintact : hdrIntact hd = true) (hfar : 32768 ≤ (hd.seq.toNat + 65536 - (s.port port).rxSeq) % 65536) :
    receive port hd k s = s := by
  have hseq : hd.seq.toNat ≠ (s.port port).rxSeq := fun heq => by
    rw [heq] at hfar
    omega
  simp [receive, hup, hport, hintact, hseq, Nat.not_lt.2 hfar]

end

/-! ### The header taken (R287, R289) -/

section
variable {β : Type} {g : Port → β}

/-- What a change of a port leaves alone stays on every port. -/
theorem onPort_leaves {f : Port → Port} (hf : ∀ x, g (f x) = g x) (p q : Nat) (s : State) :
    g ((onPort p f s).port q) = g (s.port q) := by
  by_cases hq : q = p
  · subst hq
    by_cases hlen : q < s.plain.ports.length
    · rw [port_onPort_same f hlen, hf]
    · simp [State.port, onPort, List.getD_eq_getElem?_getD, getElem?_modifyAt, List.getElem?_eq_none (Nat.le_of_not_lt hlen)]
  · rw [port_onPort_other f hq]

end

section
variable (s : State)

theorem transmit_rxSeq (fwd : Bool) (x : Sent) (q : Nat) : ((transmit fwd x s).port q).rxSeq = (s.port q).rxSeq := by
  unfold transmit
  dsimp only
  split
  · exact onPort_leaves (g := Port.rxSeq) (by intro; rfl) ..
  · exact onPort_leaves (g := Port.rxSeq) (by intro; rfl) ..

theorem drainQueue_rxSeq (port n q : Nat) : ((drainQueue port n s).port q).rxSeq = (s.port q).rxSeq := by
  induction n generalizing s with
  | zero => rfl
  | succ n ih =>
    unfold drainQueue
    split
    · rfl
    · rw [ih, transmit_rxSeq]
      exact onPort_leaves (g := Port.rxSeq) (by intro; rfl) ..

theorem drainQueue_unrouted (port n : Nat) : (drainQueue port n s).plain.unrouted = s.plain.unrouted := by
  induction n generalizing s with
  | zero => rfl
  | succ n ih =>
    unfold drainQueue
    split
    · rfl
    · rw [ih]
      unfold transmit
      dsimp only
      split
      · rfl
      · rfl

theorem takeHeader_frame (port : Nat) (hd : FlitHdr) : takeHeader port hd s = { s with plain := { s.plain with
    ports := (takeHeader port hd s).plain.ports
    tx := (takeHeader port hd s).plain.tx
    forwarded := (takeHeader port hd s).plain.forwarded } } := by
  have hunrouted : (takeHeader port hd s).plain.unrouted = s.plain.unrouted := drainQueue_unrouted ..
  have hsent := takeHeader_sends port hd s
  unfold Sends at hsent
  rwa [hunrouted] at hsent

theorem takeHeader_rxSeq {port : Nat} (hd : FlitHdr) (hport : port < s.plain.ports.length) :
    ((takeHeader port hd s).port port).rxSeq = ((s.port port).rxSeq + 1) % 65536 := by
  unfold takeHeader
  rw [drainQueue_rxSeq, port_onPort_same _ hport]

end

/-! ### Replay (R287) -/

section
variable {s : State} {port seq : Nat}

/-- A NAK of a flit that has been replayed less than seven times sends it and all behind it again. -/
theorem exec_nak_replays {a z : List (Sent × Nat)} (hup : s.up = true) (hport : (s.port port).state = .up)
    (hreplay : (s.port port).replay = a ++ z) (hbefore : ∀ x ∈ a, x.1.seq ≠ seq) (hfirst : ∃ x r, z = x :: r ∧ x.1.seq = seq)
    (hfew : ∀ x ∈ z, x.2 < 7) : exec (.nak port seq) s = .next (onPlain (fun p => { p with tx := p.tx ++ z.map Prod.fst })
      (onPort port (fun p => { p with
        replay := p.replay.take a.length ++ z.map (fun x => (x.1, x.2 + 1)), replays := bump32 p.replays }) s)) := by
  have hindex : (s.port port).replay.findIdx (fun x => x.1.seq == seq) = a.length := by
    obtain ⟨x, r, rfl, hx⟩ := hfirst
    have hnone : a.findIdx (fun x => x.1.seq == seq) = a.length := List.findIdx_eq_length.2 fun y hy => by simpa using hbefore y hy
    rw [hreplay, List.findIdx_append, hnone, if_neg (by omega), List.findIdx_cons]
    simp [hx]
  have hfound : a.length < (s.port port).replay.length := by
    obtain ⟨x, r, rfl, -⟩ := hfirst
    simp [hreplay]
  have hagain : z.any (fun x => decide (7 ≤ x.2)) = false := by simpa using hfew
  simp only [exec, execNak, hindex, hup, hport, Nat.not_le.2 hfound, decide_false]
  simp [hreplay, hagain, onPlain, onPort]

end

/-! ### O48 -/

section
variable {s : State} {port : Nat} {hd : FlitHdr}

/-- R296: a message for another member is passed on to it. -/
theorem receiveFor_other (b : Payload) (k : State → State) (hears : s.hears port hd = true)
    (hother : hd.dst.toNat ≠ (takeHeader port hd s).plain.member) (hone : hd.dst ≠ 0xFF#8) :
    receiveFor port hd b k s = giveCredit port hd (passOn port hd b (takeHeader port hd s)) := by
  rw [receiveFor, receive_hears _ hears, if_neg (not_or.2 ⟨hother, hone⟩)]

/-- R293 Copy mode: a gathered piece is stored, and goes on unless it is for this member. -/
theorem exec_reductionGather_hears (g : GatherFlit) (hears : s.hears port hd = true) : exec (.reductionGather port hd g) s =
    .next (giveCredit port hd (if hd.dst.toNat = s.plain.member
      then onPlain (fun p => { p with gathered := p.gathered ++ [(g.flow, g.data)] }) (takeHeader port hd s)
      else passOn port hd (.gather g)
        (onPlain (fun p => { p with gathered := p.gathered ++ [(g.flow, g.data)] }) (takeHeader port hd s)))) := by
  refine congrArg Host.Outcome.next ((receive_hears _ hears).trans ?_)
  rw [← (takeHeader_sends port hd s).member]
  rfl

/-- R289: the credits held become those of the flits sent and not received (log 69). -/
theorem exec_creditResync_hears (l : List Nat) (hears : s.hears port hd = true) : exec (.creditResync port hd l) s =
    .next (giveCredit port hd (
      let u := takeHeader port hd s
      let fixed := (List.range 8).map fun i => (u.port port).sent.getD i 0 - l.getD i 0
      if fixed == (u.port port).inFlight then u
      else drainQueue port 257 (onPort port (fun p => { p with inFlight := fixed, creditFixes := bump32 p.creditFixes }) u))) :=
  congrArg Host.Outcome.next (receive_hears _ hears)

end

/-- Settles O48: every row for a flit is `receive` with its own effect, and each clause is a branch of it; a NAK cuts the replay buffer at the
flit that it names. -/
theorem flitsAreTakenInOrder : Obligations.FlitsAreTakenInOrder := by
  unfold Obligations.FlitsAreTakenInOrder
  refine ⟨fun c port hd s hflit => ?_, fun c port hd b s hrelayed hears hother hone => ?_, fun port hd s u hu => ?_,
    fun port hd s u hears hu => ?_, fun port seq s a z hup hport hreplay hbefore hfirst hfew => ?_⟩
  · obtain ⟨k, hk⟩ := exec_flit hflit
    rw [hk]
    exact ⟨fun hdown => by rw [receive_of_not_up k hdown],
      fun hup hport hbad => by rw [receive_of_damaged_or_early k hup hport hbad],
      fun hup hport hintact hfar => by rw [receive_of_known k hup hport hintact hfar]⟩
  · obtain ⟨k, hk⟩ := exec_relayed hrelayed
    rw [hk, receiveFor_other b k hears hother hone]
  · subst hu
    exact ⟨takeHeader_frame s port hd, fun hlen hport => takeHeader_rxSeq s hd (hlen ▸ hport)⟩
  · subst hu
    refine ⟨congrArg Host.Outcome.next (receive_hears _ hears),
      fun e hdst => congrArg Host.Outcome.next (receiveFor_hears (.flowSetup e) _ hears hdst), fun g hdst => ?_, fun g hdst => ?_,
      fun l hsame => ?_, fun l hdiffers => ?_⟩
    · rw [exec_reductionGather_hears g hears, if_pos hdst, onPlain]
    · rw [exec_reductionGather_hears g hears, if_neg hdst, onPlain]
    · rw [exec_creditResync_hears l hears, if_pos (by simpa using hsame)]
    · rw [exec_creditResync_hears l hears, if_neg (by simpa using hdiffers)]
  · refine ⟨_, exec_nak_replays hup hport hreplay hbefore hfirst hfew, rfl, fun hlen hp => ?_, rfl⟩
    have hreplayed := port_onPort_same (s := s) (fun p => { p with
      replay := p.replay.take a.length ++ z.map (fun x => (x.1, x.2 + 1)), replays := bump32 p.replays })
      (hlen ▸ hp : port < s.plain.ports.length)
    refine ⟨(congrArg Port.replay hreplayed).trans ?_, congrArg Port.replays hreplayed⟩
    rw [hreplay, List.take_left]

end Sys2Proof.Machine
end

/-! PROOFS of the family 13_pass_links_and_plains: parity, rebuilt slots, forwarded reads and mirrors (O51). -/

section
namespace Sys2Proof.Machine

/-! ### A unit written changes of the plain only what was sent, the deltas and the stale map (R305, R318) -/

/-- From one state to another, of the plain only the ports, what was sent, the deltas that await an acknowledgement and the stale map have
changed. -/
def SendsDeltas (s t : State) : Prop :=
  t.plain = { s.plain with
    ports := t.plain.ports
    tx := t.plain.tx
    forwarded := t.plain.forwarded
    unrouted := t.plain.unrouted
    deltas := t.plain.deltas
    stale := t.plain.stale }

namespace SendsDeltas
variable {s t u : State}

theorem of_plain (h : t.plain = s.plain) : SendsDeltas s t := by
  unfold SendsDeltas
  rw [h]

theorem refl (s : State) : SendsDeltas s s := of_plain rfl

theorem trans (h : SendsDeltas s t) (k : SendsDeltas t u) : SendsDeltas s u := by
  unfold SendsDeltas at h k ⊢
  rw [k, h]

theorem of_sends (h : Sends s t) : SendsDeltas s t := by
  unfold Sends at h
  unfold SendsDeltas
  rw [h]

theorem onFtl (f : FtlSt → FtlSt) (h : SendsDeltas s t) : SendsDeltas s (onFtl f t) := h

/-- A fold over a state, or over a pair of a value and a state. -/
theorem foldl {α β : Type} {g : β → State} {f : β → α → β} (hf : ∀ b a, SendsDeltas (g b) (g (f b a))) (l : List α) (b : β) :
    SendsDeltas (g b) (g (l.foldl f b)) := by
  induction l generalizing b with
  | nil => exact refl _
  | cons a r ih => exact (hf b a).trans (ih _)

theorem parity (h : SendsDeltas s t) : t.plain.parity = s.plain.parity := (congrArg PlainSt.parity h :)
theorem early (h : SendsDeltas s t) : t.plain.early = s.plain.early := (congrArg PlainSt.early h :)
theorem rebuiltReads (h : SendsDeltas s t) : t.plain.rebuiltReads = s.plain.rebuiltReads := (congrArg PlainSt.rebuiltReads h :)
theorem rebuildLeft (h : SendsDeltas s t) : t.plain.rebuildLeft = s.plain.rebuildLeft := (congrArg PlainSt.rebuildLeft h :)

end SendsDeltas

section
variable (s : State)

theorem onSb_plain (sb : Nat) (f : Sb → Sb) : (onSb sb f s).plain = s.plain := by
  unfold onSb
  split
  · rfl
  · rfl

theorem recordRange_plain (cause : Nat) (x : Nat × Nat × Nat) : (recordRange cause x s).plain = s.plain := vendorEvent_plain _ _

theorem recordLosses_plain (cause : Nat) (l : List Nat) : (recordLosses cause l s).plain = s.plain :=
  foldl_keeps (g := State.plain) (fun s x => recordRange_plain s cause x) _ s

theorem dropPoisoned_sendsDeltas (us : List BufUnit) : SendsDeltas s (dropPoisoned us s).2 := by
  refine .foldl (g := Prod.snd) (fun a u => .of_plain ?_) us (([] : List Nat), s)
  dsimp only
  split
  · rfl
  · split
    · rfl
    · rfl

theorem markStale_sendsDeltas (lsn member : Nat) : SendsDeltas s (markStale lsn member s) := by
  unfold markStale
  split
  · dsimp only
    split
    · exact .refl s
    · rfl
  · exact .refl s

theorem sendDeltas_sendsDeltas (recess : Bool) (lsn wc : Nat) (change : Blob) :
    SendsDeltas s (sendDeltas recess lsn wc change s).2 := by
  refine .foldl (g := Prod.snd) (fun a t => ?_) (s.parityTargets lsn) (([] : List Nat), s)
  dsimp only
  split
  · exact markStale_sendsDeltas a.2 lsn _
  · have hnoted : ∀ l, SendsDeltas a.2 { a.2 with plain := { a.2.plain with deltas := l } } := fun _ => rfl
    split
    · exact hnoted _
    · exact (hnoted _).trans (.of_sends (sendTo_sends ..))

theorem startGroup_sendsDeltas (sb g : Nat) (st : Stream) : SendsDeltas s (startGroup sb g st s) := by
  unfold startGroup
  extract_lets us
  have hdropped := dropPoisoned_sendsDeltas s (us.filter fun u => !u.poison.isEmpty)
  generalize dropPoisoned (us.filter fun u => !u.poison.isEmpty) s = a at hdropped ⊢
  obtain ⟨lost, t⟩ := a
  refine (hdropped.trans (.of_plain (recordLosses_plain t 1 lost))).trans (.onFtl _ (.foldl (g := fun s => s) (fun s u => ?_) _ _))
  exact .onFtl _ (sendDeltas_sendsDeltas s ..)

theorem startAll_sendsDeltas (sb n : Nat) : SendsDeltas s (startAll sb n s) := by
  induction n generalizing s with
  | zero => exact .refl s
  | succ n ih =>
    unfold startAll
    split
    · exact .refl s
    · split
      · exact .trans (t := padGroup _ s) rfl ((startGroup_sendsDeltas _ ..).trans (ih _))
      · exact .refl s

theorem closeSb_sendsDeltas (o : OpenSb) : SendsDeltas s (closeSb o s) :=
  (startAll_sendsDeltas s o.sb 768).trans (.of_plain (onSb_plain _ ..))

end

section
variable {s t : State}

theorem openStream_plain {st : Stream} (h : openStream st s = some t) : t.plain = s.plain := by
  simp only [openStream, Option.ite_none_left_eq_some] at h
  obtain ⟨-, h⟩ := h
  split at h
  · cases h
  · cases h
    refine foldl_keeps (g := State.plain) (fun s ch => ?_) _ s
    split
    · rfl
    · rfl

theorem allocHost_sendsDeltas {n p : Nat} (h : allocHost n s = some (p, t)) : SendsDeltas s t := by
  induction n generalizing s with
  | zero => cases h
  | succ n ih =>
    unfold allocHost at h
    split at h
    · split at h
      next hopen => exact (SendsDeltas.of_plain (openStream_plain hopen)).trans (ih h)
      · cases h
    · split at h
      · cases h
        rfl
      · exact (closeSb_sendsDeltas s _).trans (ih h)

theorem writeUnit_sendsDeltas {ch lsn kind p : Nat} {d : Blob} {poison : List Nat}
    (h : writeUnit .host ch lsn kind d poison s = some (p, t)) : SendsDeltas s t := by
  unfold writeUnit placeUnit allocSlot at h
  dsimp only [bumpCount] at h
  split at h
  · cases h
  next hplaced =>
    cases h
    rw [if_pos (by decide)] at hplaced
    split at hplaced
    · cases hplaced
    next halloc =>
      cases hplaced
      exact .trans (t := onFtl _ s) rfl ((allocHost_sendsDeltas halloc).trans rfl)

end

/-! ### Parity deltas (R305, R306) -/

/-- The last write count folded for a delta's data position; none before the first. -/
def State.lastFolded (s : State) (d : ParityDelta) : Option Nat :=
  (s.plain.parity.find? fun x => x.slot == d.slot).bind fun x => lookupNat x.counts d.pos

/-- The parity slot of a delta before it is folded. -/
def State.parityBefore (s : State) (d : ParityDelta) : ParitySlot :=
  (s.plain.parity.find? fun x => x.slot == d.slot).getD ⟨d.slot, (s.slotContent d.slot).data, []⟩

/-- The parity slot of a delta with the delta folded in. -/
def State.parityAfter (s : State) (d : ParityDelta) : ParitySlot :=
  ⟨d.slot, xorBlob (s.parityBefore d).data (gfScale (parityCoef d.par d.pos) d.data), setKey d.pos d.wcount.toNat (s.parityBefore d).counts⟩

section
variable {s : State} (src : Nat) {d : ParityDelta}

theorem takeEarly_of_none (n : Nat) (h : s.plain.early = []) : takeEarly src n s = s := by
  cases n with
  | zero => rfl
  | succ n => simp [takeEarly, h]

/-- A delta folded puts its parity slot in the place of the one there was, and is acknowledged. -/
theorem foldDelta_effect : ∃ v, foldDelta src d s = sendTo src 0 (.parityAck ⟨d.lsn, d.wcount⟩) v ∧
    SendsDeltas (onPlain (fun p => { p with parity := p.parity.filter (fun x => x.slot != d.slot) ++ [s.parityAfter d] }) s) v := by
  unfold foldDelta
  refine ⟨_, rfl, ?_⟩
  dsimp only
  split
  next hwrite => exact writeUnit_sendsDeltas hwrite
  · exact .refl _

theorem takeDelta_again (h : deltaTurn (s.lastFolded d) d.wcount.toNat = 0) :
    takeDelta src d s = sendTo src 0 (.parityAck ⟨d.lsn, d.wcount⟩) s := by
  unfold State.lastFolded at h
  simp [takeDelta, h]

theorem takeDelta_in_turn (h : deltaTurn (s.lastFolded d) d.wcount.toNat = 1) : takeDelta src d s = foldDelta src d s := by
  unfold State.lastFolded at h
  simp [takeDelta, h]

theorem takeDelta_ahead (h : deltaTurn (s.lastFolded d) d.wcount.toNat = 2) :
    takeDelta src d s = onPlain (fun p => { p with early := p.early ++ [d] }) s := by
  unfold State.lastFolded at h
  simp [takeDelta, h]

/-- A delta kept ahead of its turn stays while nothing has been folded. -/
theorem takeEarly_ahead (n : Nat) (hearly : s.plain.early = [d]) (h : deltaTurn (s.lastFolded d) d.wcount.toNat = 2) :
    takeEarly src n s = s := by
  unfold State.lastFolded at h
  cases n with
  | zero => rfl
  | succ n => simp [takeEarly, hearly, h]

/-- The slot that is put in for a delta is there, holds its count, and every other slot is as it was. -/
theorem parityAfter_mem {l : List ParitySlot} : s.parityAfter d ∈ l.filter (fun x => x.slot != d.slot) ++ [s.parityAfter d] ∧
    lookupNat (s.parityAfter d).counts d.pos = some d.wcount.toNat ∧
    ∀ y : ParitySlot, y.slot ≠ d.slot → (y ∈ l.filter (fun x => x.slot != d.slot) ++ [s.parityAfter d] ↔ y ∈ l) := by
  refine ⟨by simp, by simp [State.parityAfter, lookup_setKey], fun y hy => ?_⟩
  have hne : y ≠ s.parityAfter d := fun heq => hy (congrArg ParitySlot.slot heq)
  simp [hy, hne]

end

section
variable {s : State} {port : Nat} {hd : FlitHdr} (hears : s.hears port hd = true)
  (hdst : hd.dst.toNat = s.plain.member ∨ hd.dst = 0xFF#8)
include hears hdst

theorem exec_parityDelta_hears (d : ParityDelta) : exec (.parityDelta port hd d) s = .next (giveCredit port hd
    (takeEarly hd.src.toNat ((takeHeader port hd s).plain.early.length + 1) (takeDelta hd.src.toNat d (takeHeader port hd s)))) :=
  congrArg Host.Outcome.next (receiveFor_hears _ _ hears hdst)

/-- R305, R306: with no delta kept, one that arrives is acknowledged again, kept, or folded, by its turn. -/
theorem parityDelta_effect (d : ParityDelta) (hearly : s.plain.early = []) :
    (deltaTurn (s.lastFolded d) d.wcount.toNat = 0 → exec (.parityDelta port hd d) s = .next (giveCredit port hd
      (sendTo hd.src.toNat 0 (.parityAck ⟨d.lsn, d.wcount⟩) (takeHeader port hd s)))) ∧
    (deltaTurn (s.lastFolded d) d.wcount.toNat = 2 → exec (.parityDelta port hd d) s = .next (giveCredit port hd
      (onPlain (fun p => { p with early := [d] }) (takeHeader port hd s)))) ∧
    (deltaTurn (s.lastFolded d) d.wcount.toNat = 1 → ∃ v, exec (.parityDelta port hd d) s = .next (giveCredit port hd
        (sendTo hd.src.toNat 0 (.parityAck ⟨d.lsn, d.wcount⟩) v)) ∧
      v.plain.parity = s.plain.parity.filter (fun x => x.slot != d.slot) ++ [(takeHeader port hd s).parityAfter d]) := by
  have hexec := exec_parityDelta_hears hears hdst d
  have hsent := takeHeader_sends port hd s
  generalize takeHeader port hd s = u at hexec hsent ⊢
  have hlast : u.lastFolded d = s.lastFolded d := congrArg (·.lastFolded d) hsent
  have hnone : u.plain.early = [] := (congrArg (·.plain.early) hsent).trans hearly
  have hparity : u.plain.parity = s.plain.parity := congrArg (·.plain.parity) hsent
  rw [← hlast]
  refine ⟨fun hturn => ?_, fun hturn => ?_, fun hturn => ?_⟩
  · rw [hexec, takeDelta_again _ hturn, takeEarly_of_none]
    exact (congrArg (·.plain.early) (sendTo_sends ..)).trans hnone
  · have hkept := takeEarly_ahead (s := onPlain (fun p => { p with early := p.early ++ [d] }) u) hd.src.toNat (u.plain.early.length + 1)
      (by simp [hnone]) hturn
    rw [hexec, takeDelta_ahead _ hturn, hkept]
    simp [onPlain, hnone]
  · obtain ⟨v, hfold, hkept⟩ := foldDelta_effect (s := u) hd.src.toNat (d := d)
    refine ⟨v, ?_, hkept.parity.trans (by simp [hparity])⟩
    rw [hexec, takeDelta_in_turn _ hturn, hfold, takeEarly_of_none]
    exact (congrArg (·.plain.early) (sendTo_sends ..)).trans (hkept.early.trans hnone)

end

theorem tryLeave_of_not_leaving {s : State} (h : s.plain.own ≠ .leaving) : tryLeave s = s := by
  simp [tryLeave, h]

/-! ### Rebuild streams (R308, R311) -/

section
variable {s : State} {r : RebuildFlit}

/-- A stream that no page read waits for has its effect on its way alone. -/
theorem takeStreamFlit_of_pass {t : State} (h : passStream r s = (none, t)) : takeStreamFlit r s = t := by
  simp [takeStreamFlit, h]

theorem takeStreamFlit_of_no_parity (h : s.parity? = none) : takeStreamFlit r s = s :=
  takeStreamFlit_of_pass (by simp [passStream, h])

variable {km : Nat × Nat} {plan : List (Nat × Byte)} (hparity : s.parity? = some km)
  (hplan : s.planFor r.requester r.lost = some plan) (hlast : r.last = true)
include hparity hplan hlast

theorem passStream_last : passStream r s =
    if r.requester = s.plain.member then deliverRebuilt r s else (none, sendTo r.requester 0 (.rebuild r) s) := by
  unfold passStream
  rw [hparity, hplan]
  dsimp only
  rw [if_pos hlast]

theorem takeStreamFlit_of_other (hother : r.requester ≠ s.plain.member) :
    takeStreamFlit r s = sendTo r.requester 0 (.rebuild r) s :=
  takeStreamFlit_of_pass (by rw [passStream_last hparity hplan hlast, if_neg hother])

/-- R311: a stream that no read waits for has rebuilt a slot of this drive's own. -/
theorem takeStreamFlit_of_own (hown : r.requester = s.plain.member) (hrecover : ∀ x ∈ s.plain.recover, x.1 ≠ r.lost)
    (hproxies : s.plain.proxies = []) : takeStreamFlit r s = storeRebuilt r.lost ⟨r.lost, r.data, r.poison, false⟩
      (onPlain (fun p => { p with rebuiltReads := bump64 p.rebuiltReads }) s) := by
  have hnone : s.plain.recover.find? (fun x => x.1 == r.lost) = none := List.find?_eq_none.2 (by simpa using hrecover)
  refine takeStreamFlit_of_pass ?_
  rw [passStream_last hparity hplan hlast, if_pos hown]
  simp [deliverRebuilt, hnone, hproxies]

end

/-- A slot rebuilt is one less to rebuild; it is written, and takes its place among the parity slots if it is one. -/
theorem storeRebuilt_effect {s : State} {km : Nat × Nat} (key : Nat) (x : UnitData) (h : s.parity? = some km) :
    ∃ l, SendsDeltas (onPlain (fun p => { p with rebuildLeft := p.rebuildLeft - 1, parity := l }) s) (storeRebuilt key x s) := by
  unfold storeRebuilt
  rw [h]
  dsimp only
  split
  · exact ⟨s.plain.parity, .refl _⟩
  · split
    · refine ⟨s.plain.parity.filter (fun y => y.slot != keySlot s.members (km.1 + km.2) key) ++
        [⟨keySlot s.members (km.1 + km.2) key, x.data, []⟩], ?_⟩
      split
      next hwrite => exact writeUnit_sendsDeltas hwrite
      · exact .refl _
    · refine ⟨s.plain.parity, ?_⟩
      split
      · exact .refl _
      · split
        next hwrite => exact writeUnit_sendsDeltas hwrite
        · exact .refl _

/-! ### Reads served for another member (R307) -/

/-- A job of one unit that the write buffer holds, served. -/
def servedJob (k : JobKind) (jid lsn : Nat) (x : BufUnit) : Job := ⟨jid, k, [], [⟨lsn, x.data, x.poison, false⟩]⟩

/-- The state with that job opened and served. -/
def openedServed (k : JobKind) (lsn : Nat) (x : BufUnit) (s : State) : State :=
  deliver s.ftl.nextId ⟨lsn, x.data, x.poison, false⟩
    (onFtl (fun t => { t with nextId := t.nextId + 1, jobs := t.jobs ++ [⟨s.ftl.nextId, k, [lsn], []⟩] }) s)

section
variable {s : State} {k : JobKind} {lsn p : Nat} {x : BufUnit}

theorem openJob_of_buffered (hmap : s.mapOf lsn = some (.phys p)) (hbuffered : s.buffered p = some x) :
    openJob k [lsn] s = (s.ftl.nextId, openedServed k lsn x s) := by
  have hask : ∀ t : State, t.mapOf lsn = some (.phys p) → t.buffered p = some x →
      askUnit s.ftl.nextId lsn t = deliver s.ftl.nextId ⟨lsn, x.data, x.poison, false⟩ t := fun t hm hb => by
    simp [askUnit, hm, hb]
  exact congrArg (s.ftl.nextId, ·) (hask _ hmap hbuffered)

variable (hnew : ∀ j ∈ s.ftl.jobs, j.jid < s.ftl.nextId)
include hnew

theorem openedServed_job? : (openedServed k lsn x s).job? s.ftl.nextId = some (servedJob k s.ftl.nextId lsn x) := by
  have hnone : s.ftl.jobs.find? (fun j => j.jid == s.ftl.nextId) = none :=
    List.find?_eq_none.2 fun j hj => by simpa using Nat.ne_of_lt (hnew j hj)
  rw [openedServed, deliver_job?_same]
  simp [State.job?, hnone, servedJob]

theorem closeJob_openedServed_jobs : (closeJob s.ftl.nextId (openedServed k lsn x s)).ftl.jobs = s.ftl.jobs := by
  have hmap : ∀ f : Job → Job, s.ftl.jobs.map (fun j => if j.jid = s.ftl.nextId then f j else j) = s.ftl.jobs := fun f =>
    (List.map_congr_left fun j hj => if_neg (Nat.ne_of_lt (hnew j hj))).trans (List.map_id _)
  have hfilter : s.ftl.jobs.filter (fun j => j.jid != s.ftl.nextId) = s.ftl.jobs :=
    List.filter_eq_self.2 fun j hj => by simpa using Nat.ne_of_lt (hnew j hj)
  simp [closeJob, openedServed, deliver, hmap, hfilter]

end

theorem concat_one (b : Blob) : Blob.concat [b] = b := Blob.append_empty b

/-- A whole unit without poison answers a read of one of its LBAs with its bytes. -/
theorem finishServed_trusted {s : State} {j : Job} {u : UnitData} {n : Ns} {nsid slba : Nat} (member tag : Nat)
    (hns : s.ns? nsid = some n) (hunit : j.unit (s.slotOf n slba) = u) (hlost : u.lost = false) (hpoison : u.poison = [])
    (hwhole : s.deferredLba n.nsid slba = false) : finishServed member tag nsid slba 0 j s =
      sendTo member 0 (.proxyData ⟨tag, u.data.slice (slba % 16 * 4096) 4096, []⟩) (closeJob j.jid s) := by
  have hns' : (closeJob j.jid s).ns? nsid = some n := hns
  have hunit' : j.unit ((closeJob j.jid s).slotOf n slba) = u := hunit
  have hwhole' : (closeJob j.jid s).deferredLba n.nsid slba = false := hwhole
  have hbytes : (lbaData j (closeJob j.jid s) n slba).1 = u.data.slice (slba % 16 * 4096) 4096 := by
    simp [lbaData, hunit']
  have hclean : proxyPoison j (closeJob j.jid s) n [slba] = [] := by
    simp [proxyPoison, hunit', hlost, hpoison, hwhole']
  unfold finishServed
  dsimp only
  rw [hns', spanList_one]
  dsimp only [List.map]
  rw [hbytes, hclean, concat_one]

/-- R307: a read of one LBA that the write buffer holds whole is answered at once with its bytes, and its job is gone. -/
theorem serveProxy_of_buffered {s : State} {nsid slba : Nat} {n : Ns} {p : Nat} {x : BufUnit} (port src tag : Nat)
    (hns : s.ns? nsid = some n) (hrange : slba < n.slots * 16) (hnew : ∀ j ∈ s.ftl.jobs, j.jid < s.ftl.nextId)
    (hmap : s.mapOf (s.slotOf n slba) = some (.phys p)) (hbuffered : s.buffered p = some x) (hpoison : x.poison = [])
    (hwhole : s.deferredLba n.nsid slba = false) : serveProxy port src ⟨tag, nsid, slba, 0⟩ s =
      sendTo src 0 (.proxyData ⟨tag, x.data.slice (slba % 16 * 4096) 4096, []⟩)
        (closeJob s.ftl.nextId (openedServed (.proxy port src tag nsid slba 0) (s.slotOf n slba) x s)) := by
  have hunits : s.unitsOf n slba (0 + 1) = [s.slotOf n slba] := by
    simp [State.unitsOf, State.slotOf, spanList]
  have hfits : (decide (n.lbas < slba + 0 + 1) || decide (512 < 0 + 1)) = false := by
    simp [Ns.lbas]
    omega
  have hopen := openJob_of_buffered (k := .proxy port src tag nsid slba 0) hmap hbuffered
  have hjob := openedServed_job? (k := .proxy port src tag nsid slba 0) (lsn := s.slotOf n slba) (x := x) hnew
  have hunit : (servedJob (.proxy port src tag nsid slba 0) s.ftl.nextId (s.slotOf n slba) x).unit (s.slotOf n slba) =
      ⟨s.slotOf n slba, x.data, x.poison, false⟩ := by
    simp [Job.unit, servedJob]
  have hserved := finishServed_trusted (s := openedServed (.proxy port src tag nsid slba 0) (s.slotOf n slba) x s) src tag
    (n := n) (nsid := nsid) (slba := slba) hns hunit rfl hpoison hwhole
  unfold serveProxy
  dsimp only
  rw [hns]
  dsimp only
  rw [if_neg (by rw [hfits]; decide), hunits, hopen]
  dsimp only
  rw [hjob]
  exact hserved

/-! ### The data of a forwarded Read (R307, R376) -/

theorem maskBytes_plain (d : Blob) (bad : List Nat) (s : State) : (maskBytes d bad s).2.plain = s.plain := by
  unfold maskBytes
  split
  · rfl
  · rfl

section
variable {s : State} {d : ProxyData} {x : Proxy}

theorem endProxy_of_unknown (h : (s.plain.proxies.find? fun x => x.tag == d.tag && x.want.isEmpty) = none) : endProxy d s = s := by
  unfold endProxy
  rw [h]

variable (h : (s.plain.proxies.find? fun x => x.tag == d.tag && x.want.isEmpty) = some x)
include h

theorem endProxy_clean (hpoison : d.poison = []) : endProxy d s = finishData x.hdr (d.data.fit ((x.nlb + 1) * 4096))
    (countDelivered 0 (onPlain (fun p => { p with proxies := p.proxies.filter fun y => y.tag != x.tag }) s)) := by
  have hgood : (List.range (x.nlb + 1)).find? (fun i => d.poison.any fun g => decide (i * 64 ≤ g ∧ g < i * 64 + 64)) = none :=
    List.find?_eq_none.2 (by simp [hpoison])
  unfold endProxy
  rw [h]
  dsimp only
  rw [hgood, hpoison]
  rfl

/-- The first LBA that holds a poisoned granule is the one the Read fails at (R362). -/
theorem endProxy_poisoned {g : Nat} (hpoison : d.poison = [g]) (hrange : g < (x.nlb + 1) * 64) :
    ∃ v o, endProxy d s = finishUnrecovered x.hdr o x.nsid (x.slba + g / 64) v ∧
      v.plain.proxies = s.plain.proxies.filter fun y => y.tag != x.tag := by
  have hbad : (List.range (x.nlb + 1)).find? (fun i => d.poison.any fun g => decide (i * 64 ≤ g ∧ g < i * 64 + 64)) = some (g / 64) := by
    rw [hpoison, List.find?_range_eq_some]
    refine ⟨?_, ?_, fun i hi => ?_⟩
    · simp
      omega
    · simp
      omega
    · simp
      omega
  unfold endProxy
  rw [h]
  dsimp only
  rw [hbad]
  exact ⟨_, _, rfl, congrArg PlainSt.proxies (maskBytes_plain ..)⟩

end

/-! ### O51 -/

/-- Settles O51: each message in order has its effect behind its header: a delta by its turn, a stream by whom it is for, a read by what the
buffer holds, its data by their poison. -/
theorem parityProxiesAndMirrorsAreServed : Obligations.ParityProxiesAndMirrorsAreServed := by
  unfold Obligations.ParityProxiesAndMirrorsAreServed
  intro port hd s u hears hu hdst
  have hsent : Sends s u := hu ▸ takeHeader_sends port hd s
  have hdeltas : u.plain.deltas = s.plain.deltas := congrArg (·.plain.deltas) hsent
  have hslots : u.plain.parity = s.plain.parity := congrArg (·.plain.parity) hsent
  have hexec : ∀ (b : Payload) (k : State → State) {t : State}, k u = t →
      (.next (receiveFor port hd b k s) : Res) = .next (giveCredit port hd t) := fun b k t ht =>
    ht ▸ hu ▸ congrArg Host.Outcome.next (receiveFor_hears b k hears hdst)
  refine ⟨fun a hown => ?_, fun d last hearly hlast => ?_, fun r hnone => ?_, fun r k m plan hparity hplan hlast => ⟨fun hother => ?_,
    fun hown hrecover hproxies => ?_⟩, fun q n p x hns hone hrange hnew hmap hbuffered hpoison hwhole => ?_,
    fun d x hfind hpoison => ?_, fun d x g hfind hpoison hrange => ?_, fun d hnone => ?_, fun wid => ?_, fun num v => ?_⟩
  · refine ⟨_, hexec _ _ (tryLeave_of_not_leaving (by simpa [releaseBuffers, hsent.own] using hown)), ?_,
      congrArg (·.map) hsent.ftl, hsent.host⟩
    rw [← hdeltas]
    rfl
  · subst hlast
    obtain ⟨hagain, hahead, hturn⟩ := parityDelta_effect hears hdst d hearly
    have hbefore : u.parityBefore d =
        (s.plain.parity.find? fun x => x.slot == d.slot).getD ⟨d.slot, (u.slotContent d.slot).data, []⟩ := by
      rw [State.parityBefore, hslots]
    rw [← hu] at hagain hahead hturn
    refine ⟨hagain, hahead, fun h => ?_⟩
    obtain ⟨v, hv, hfolded⟩ := hturn h
    obtain ⟨hmem, hcount, hothers⟩ := parityAfter_mem (s := u) (d := d) (l := s.plain.parity)
    exact ⟨v, u.parityAfter d, hv, hfolded ▸ hmem, rfl, by rw [← hbefore]; rfl, hcount, hfolded ▸ hothers⟩
  · exact hexec _ _ (takeStreamFlit_of_no_parity ((congrArg (·.parity?) hsent).trans hnone))
  · exact hexec _ _ (takeStreamFlit_of_other ((congrArg (·.parity?) hsent).trans hparity)
      ((congrArg (·.planFor r.requester r.lost) hsent).trans hplan) hlast (hsent.member ▸ hother))
  · have hparity' : u.parity? = some (k, m) := (congrArg (·.parity?) hsent).trans hparity
    have hrecover' : u.plain.recover = s.plain.recover := congrArg (·.plain.recover) hsent
    have hstored := takeStreamFlit_of_own hparity' ((congrArg (·.planFor r.requester r.lost) hsent).trans hplan) hlast
      (hsent.member ▸ hown) (hrecover' ▸ hrecover) (hsent.proxies.trans hproxies)
    obtain ⟨l, hkept⟩ := storeRebuilt_effect r.lost ⟨r.lost, r.data, r.poison, false⟩
      (s := onPlain (fun p => { p with rebuiltReads := bump64 p.rebuiltReads }) u) hparity'
    refine ⟨_, hexec _ _ hstored, hkept.rebuiltReads.trans ?_, hkept.rebuildLeft.trans ?_, ?_⟩
    · exact congrArg (bump64 ·.plain.rebuiltReads) hsent
    · exact congrArg (·.plain.rebuildLeft - 1) hsent
    · rw [storeRebuilt_bell]
      exact congrArg (·.count) hsent.bell
  · obtain ⟨tag, nsid, slba, nlb⟩ := q
    cases hone
    have hnew' : ∀ j ∈ u.ftl.jobs, j.jid < u.ftl.nextId := hsent.ftl ▸ hnew
    refine ⟨_, hexec _ _ (serveProxy_of_buffered port hd.src.toNat tag ((congrArg (·.ns? nsid) hsent).trans hns) hrange hnew'
      ((congrArg (fun t => t.mapOf (t.slotOf n slba)) hsent).trans hmap) ((congrArg (·.buffered p) hsent).trans hbuffered) hpoison
      ((congrArg (·.deferredLba n.nsid slba) hsent).trans hwhole)), congrArg (·.map) hsent.ftl, ?_⟩
    exact (closeJob_openedServed_jobs hnew').trans (congrArg (·.jobs) hsent.ftl)
  · refine ⟨_, hexec _ _ (endProxy_clean (hsent.proxies ▸ hfind) hpoison), ?_, hsent.host⟩
    exact congrArg (List.filter _) hsent.proxies
  · obtain ⟨v, o, hend, hleft⟩ := endProxy_poisoned (s := u) (hsent.proxies ▸ hfind) hpoison hrange
    exact ⟨v, o, hexec _ _ hend, hleft.trans (congrArg (List.filter _) hsent.proxies)⟩
  · exact hexec _ _ (endProxy_of_unknown (hsent.proxies ▸ hnone))
  · have hidx : u.idx = s.idx := (congrArg State.idx hsent :)
    exact hexec _ _ (hidx ▸ rfl)
  · exact hexec _ _ rfl

end Sys2Proof.Machine
end

/-! PROOFS of the family 16_integrity_and_recovery, 17_power_reset_firmware and 18_security: firmware updates, Maintenance Unlock and Retire
Resource (O16, O17, O18). -/

section
namespace Sys2Proof.Machine

/-! ### Firmware download and commit -/

section
variable {h : Hdr} {s : State}

theorem exec_firmwareImageDownload (ofst : Nat) (data : Blob) (ok : s.accepts h 0x11 = true) :
    exec (.firmwareImageDownload h ofst data) s = .next (downloadCore h ofst data s) :=
  congrArg Host.Outcome.next (admitAdmin_accepts _ ok)

/-- The three checks of a download, and what a good piece does. -/
theorem downloadCore_spec (h : Hdr) (ofst : Nat) (data : Blob) (s : State) :
    (s.fw.commit.isSome = true → downloadCore h ofst data s = finish h stSequence s) ∧
    (s.fw.commit = none → data.len ≠ 0 → data.len % 4096 = 0 → ofst % 4096 = 0 → ofst + data.len ≤ 67108864 →
      downloadCore h ofst data s = finish h stOk { s with fw := { s.fw with
        staged := (s.fw.staged.fit (max s.fw.staged.len (ofst + data.len))).overlaid ofst data
        pieces := insertAll (spanList (ofst / 4096) (data.len / 4096)) s.fw.pieces } }) ∧
    (s.fw.commit = none → data.len = 0 ∨ data.len % 4096 ≠ 0 ∨ ofst % 4096 ≠ 0 ∨ 67108864 < ofst + data.len →
      downloadCore h ofst data s = finish h stInvalidField s) := by
  unfold downloadCore fwLimit
  refine ⟨fun hc => if_pos hc, fun hc h0 h1 h2 h3 => ?_, fun hc bad => ?_⟩
  · rw [if_neg (by simp [hc]), if_neg (by omega)]
  · rw [if_neg (by simp [hc]), if_pos bad]

/-- A commit while one runs, and one that names another slot than slot 1. -/
theorem admitCommit_spec (fs : Nat) (k : State → State) (ok : s.accepts h 0x10 = true) :
    (s.fw.commit.isSome = true → admitCommit h fs k s = finish h stSequence s) ∧
    (s.fw.commit = none → 1 < fs → admitCommit h fs k s = finish h stFwSlot s) ∧
    (s.fw.commit = none → fs ≤ 1 → admitCommit h fs k s = k s) := by
  unfold admitCommit
  rw [admitAdmin_accepts _ ok]
  refine ⟨fun hc => if_pos hc, fun hc hf => ?_, fun hc hf => ?_⟩
  · rw [if_neg (by simp [hc]), if_pos hf]
  · rw [if_neg (by simp [hc]), if_neg (by omega)]

/-- The three commits are one admission with a core of their own. -/
theorem exec_firmwareCommit (ca fs : Nat) (s : State) {c : Instr}
    (hc : c ∈ [Instr.firmwareCommitReplace h ca fs, .firmwareCommitNoAction h fs, .firmwareCommitRefused h ca fs]) :
    ∃ k, exec c s = .next (admitCommit h fs k s) := by
  simp only [List.mem_cons, List.not_mem_nil, or_false] at hc
  obtain rfl | rfl | rfl := hc
  · exact ⟨replaceCore h ca, rfl⟩
  · exact ⟨finish h stFwSubsystemReset, rfl⟩
  · exact ⟨finish h stInvalidField, rfl⟩

theorem replaceCore_of_staged {i : FwImage} (ca : Nat) (hi : s.stagedFirmware = some i) :
    replaceCore h ca s = { begin' h .admin s with fw := { s.fw with commit := some ⟨some h, ca, i⟩ } } := by
  simp only [replaceCore, hi, begin']
  split <;> rfl

/-- A commit record changes the option store alone. -/
theorem recordFirmware_frame (i : FwImage) (s : State) : recordFirmware i s = { s with nor := (recordFirmware i s).nor } := rfl

theorem endFirmwareCommit_some (ca : Nat) (i : FwImage) (hr : s.fw.recovery = false) :
    ∃ n, endFirmwareCommit ⟨some h, ca, i⟩ s = finish h (if ca = 1 then stFwSubsystemReset else stOk) { s with
      nor := n
      fw := { s.fw with replicas := List.replicate 4 (some i), commit := none, rewrite := [] } } := by
  refine ⟨(recordFirmware i s).nor, ?_⟩
  unfold endFirmwareCommit
  rw [recordFirmware_frame]
  simp only [hr, Bool.not_false, and_true]
  rfl

theorem exec_firmwareCommitDone {c : FwCommit} (hu : s.up = true) (hr : s.fw.recovery = false) (hc : s.fw.commit = some c) :
    exec .firmwareCommitDone s = .next (endFirmwareCommit c s) := by
  change execFirmwareCommitDone s = _
  simp [execFirmwareCommitDone, hc, hu, hr]

end

/-- Settles O16: each row is its admission followed by one check after the other; the commit's end writes a record to the option store. -/
theorem firmwareIsStagedAndCommitted : Obligations.FirmwareIsStagedAndCommitted := by
  refine ⟨fun h ofst data s ok => ?_, fun h ca fs s ok => ⟨fun hb c hc => ?_, fun hn hf c hc => ?_, fun hn hf => ?_⟩,
    fun h ca i s hu hr hc => ?_⟩
  · obtain ⟨busy, good, bad⟩ := downloadCore_spec h ofst data s
    rw [exec_firmwareImageDownload ofst data ok]
    exact ⟨fun hc => congrArg _ (busy hc), fun hc h0 h1 h2 h3 => congrArg _ (good hc h0 h1 h2 h3), fun hc hb => congrArg _ (bad hc hb)⟩
  · obtain ⟨k, hk⟩ := exec_firmwareCommit ca fs s hc
    rw [hk, (admitCommit_spec fs k ok).1 hb]
  · obtain ⟨k, hk⟩ := exec_firmwareCommit ca fs s hc
    rw [hk, (admitCommit_spec fs k ok).2.1 hn hf]
  · have taken (k : State → State) : admitCommit h fs k s = k s := (admitCommit_spec fs k ok).2.2 hn hf
    refine ⟨congrArg _ (taken _), congrArg _ (taken _), fun hs => congrArg _ ((taken _).trans ?_), fun i hi => congrArg _ ((taken _).trans ?_)⟩
    · simp only [replaceCore, hs]
    · exact replaceCore_of_staged ca hi
  · obtain ⟨n, hn⟩ := endFirmwareCommit_some (h := h) ca i hr
    exact ⟨n, (exec_firmwareCommitDone hu hr hc).trans (congrArg _ hn)⟩

/-! ### Maintenance Unlock -/

/-- The nonce and the free value it takes are all that a draw changes. -/
theorem newNonce_eq (s : State) :
    newNonce s = { s with sec := { s.sec with nonce := Config.draw128 s.free }, free := s.free + 1 } := rfl

/-- Too many rejected tokens hold the next one off, until 1,024 bells after the last. -/
theorem tokenFault_heldOff {s : State} (t : Blob) (h8 : 8 ≤ s.sec.rejects)
    (hb : bellsFrom s.sec.lastRejectBell s.bell.count < 1024) : s.tokenFault t = some 6 := by
  unfold State.tokenFault
  rw [if_pos (by simp only [Bool.not_eq_true', Bool.or_eq_false_iff, decide_eq_false_iff_not]; omega)]

section
variable {s : State} {t : Blob} (hf : s.sec.rejects < 8 ∨ 1024 ≤ bellsFrom s.sec.lastRejectBell s.bell.count)
include hf

theorem tokenFault_badForm (hb : ¬(t.take 0 4 = [0x56#8, 0x51#8, 0x4D#8, 0x55#8] ∧ t.le 4 2 = 1 ∧ t.zeroAt 6 2 = true ∧
    t.zeroAt 0x1C 4 = true ∧ t.zeroAt 0xB0 3920 = true)) : s.tokenFault t = some 1 := by
  unfold State.tokenFault
  rw [if_neg (by simpa [imp_iff_not_or] using hf), if_pos (by simpa [imp_iff_not_or, or_assoc] using hb)]

/-- A well-formed token goes on to the serial number, the nonce, the owner's key and the signature. -/
theorem tokenFault_wellFormed (hm : t.take 0 4 = [0x56#8, 0x51#8, 0x4D#8, 0x55#8]) (hv : t.le 4 2 = 1) (h6 : t.zeroAt 6 2 = true)
    (hc : t.zeroAt 0x1C 4 = true) (hz : t.zeroAt 0xB0 3920 = true) :
    s.tokenFault t = if t.take 8 20 ≠ Config.serial then some 2
      else if BitVec.ofNat 128 (t.le 0x20 16) ≠ s.sec.nonce then some 3
      else if s.sec.ownerHash ≠ BitVec.allOnes 256 ∧ keyHash (t.be 0x30 32) (t.be 0x50 32) ≠ s.sec.ownerHash then some 4
      else if ecdsaOk (t.be 0x30 32) (t.be 0x50 32) (t.be 0x70 32) (t.be 0x90 32) (sha256 (t.take 0 0x30)) then none else some 5 := by
  unfold State.tokenFault
  rw [if_neg (by simpa [imp_iff_not_or] using hf), if_neg (by simp [hm, hv, h6, hc, hz])]
  simp only [bne_iff_ne, Bool.and_eq_true, Bool.not_eq_true', ← Bool.not_eq_true, ite_not]

end

/-- Settles O17: the fault is the first check of R401 that fails, and each outcome is one completion after a new nonce. -/
theorem maintenanceUnlockChecksTheToken : Obligations.MaintenanceUnlockChecksTheToken := by
  intro h data s ok
  have hx : exec (.maintenanceUnlock h data) s = .next (unlockCore h data s) := congrArg _ (admitAdmin_accepts _ ok)
  refine ⟨fun hn => ?_, fun r hr => ?_, fun h8 hb => tokenFault_heldOff _ h8 hb, fun hf t ht => ⟨tokenFault_badForm hf, ?_⟩⟩
  · rw [hx, unlockCore, hn]
    rfl
  · rw [hx, unlockCore, hr]
    rfl
  · intro hm hv h6 hc hz
    rw [tokenFault_wellFormed hf hm hv h6 hc hz]
    refine ⟨fun hs => if_pos hs, fun hs => ⟨fun hn => ?_, fun hn => ⟨fun ho hk => ?_, fun hk => ?_⟩⟩⟩
    · rw [if_neg (not_not.mpr hs), if_pos hn]
    · rw [if_neg (not_not.mpr hs), if_neg (not_not.mpr hn), if_pos ⟨ho, hk⟩]
    · rw [if_neg (not_not.mpr hs), if_neg (not_not.mpr hn), if_neg (by tauto)]

/-! ### Retire Resource -/

theorem retireCore_badDescriptor {h : Hdr} {data : Blob} {s : State} {i : Nat}
    (hi : (List.range (retireList data).length).find? (fun i => !(descriptorOk ((retireList data).getD i (Blob.zero 16)))) = some i) :
    retireCore h data s = finishDw h stInvalidField i s := by
  simp only [retireCore, hi]

/-- In a list of good descriptors the search for a bad one ends empty. -/
theorem descriptors_all_ok {l : List Blob} (ok : l.all descriptorOk = true) :
    (List.range l.length).find? (fun i => !(descriptorOk (l.getD i (Blob.zero 16)))) = none := by
  rw [List.find?_eq_none]
  intro i hi
  have hl : i < l.length := List.mem_range.mp hi
  have : descriptorOk l[i] = true := List.all_eq_true.mp ok _ (List.getElem_mem hl)
  simp [List.getD_eq_getElem?_getD, hl, this]

theorem retireCore_good {h : Hdr} {data : Blob} {s : State} (ok : (retireList data).all descriptorOk = true)
    (hne : retireList data ≠ []) (hw : s.retireWaits ((retireList data).map resourceOf) = false)
    (hst : firstStanding s 0 [] ((retireList data).map resourceOf) = none) :
    retireCore h data s = finish h stOk (((retireList data).map resourceOf).foldl (fun s r => retireOne r s) s) := by
  simp only [retireCore, descriptors_all_ok ok, hst, hw]
  simp [hne]

/-- A DRAM row takes no span out of a memory namespace, and belongs to no die. -/
theorem retireOne_dramRow {r : Resource} {s : State} (ht : r.type = 1) (hr : s.isRetired r = false) (hs : s.spanTaken r = none) :
    retireOne r s = logEvent 9 1 r { s with dies := { s.dies with retired := s.dies.retired ++ [r] } } := by
  simp [retireOne, ht, hr, hs]

/-- Settles O18: the checks of the list one after the other, and the one branch of `retireOne` for a DRAM row. -/
theorem retireResourceTakesRowsOut : Obligations.RetireResourceTakesRowsOut := by
  refine ⟨fun h data s ok => ?_, fun r s => retireOne_dramRow⟩
  have hx : exec (.retireResource h data) s = .next (retireCore h data s) := congrArg _ (admitAdmin_accepts _ ok)
  rw [hx]
  exact ⟨fun i hi => congrArg _ (retireCore_badDescriptor hi),
    fun hok hne hw hst => congrArg _ (retireCore_good hok hne hw hst)⟩

end Sys2Proof.Machine
end

/-! PROOFS of the family 18_security: SPDM (O60). -/

section
namespace Sys2Proof.Machine

/-! ### SPDM: a response goes to the requester, and the phase and the transcript with it -/

/-- What stands before in a concatenation is read as it was. -/
theorem Blob.byte_append_left {x : Blob} {i : Nat} (y : Blob) (h : i < x.len) : (x.append y).byte i = x.byte i := by
  have later : ∀ c ∈ y.cells.shiftUp x.len, c.1 ≠ i := by
    intro c hc
    obtain ⟨d, -, rfl⟩ := Cells.mem_shiftUp hc
    show d.1 + x.len ≠ i
    omega
  unfold Blob.byte
  rw [if_pos h, if_pos (show i < (x.append y).len from Nat.lt_add_right _ h)]
  exact Cells.get_append_left later

/-- Byte 1 of a message is its code. -/
theorem spdmMsg_byte1 (code p1 p2 : Nat) (body : Blob) : (spdmMsg code p1 p2 body).byte 1 = BitVec.ofNat 8 code := by
  have code_at_one (x a b : Byte) : (Blob.ofBytes [0x12#8, x, a, b]).byte 1 = x := by
    by_cases hx : x = 0#8 <;> by_cases ha : a = 0#8 <;> by_cases hb : b = 0#8 <;>
      simp [Blob.byte, Blob.ofBytes, cellsOf, Cells.get, hx, ha, hb]
  exact (Blob.byte_append_left body (show 1 < 4 by decide)).trans (code_at_one _ _ _)

theorem spdmMsg_append_byte1 (code p1 p2 : Nat) (body sig : Blob) : ((spdmMsg code p1 p2 body).append sig).byte 1 = BitVec.ofNat 8 code :=
  (Blob.byte_append_left sig (show 1 < 4 + body.len by omega)).trans (spdmMsg_byte1 code p1 p2 body)

section
variable {s : State} {code : Nat} {resp : Blob}

/-- A response that enters a new phase. -/
theorem spdmAnswer_answers (req tr : Blob) (p : SpdmPhase) (hc : resp.byte 1 = BitVec.ofNat 8 code) :
    s.answered (spdmAnswer req resp { s with sec := { s.sec with spdm := p, transcript := tr } }) code p := ⟨resp, rfl, hc, rfl, rfl⟩

/-- A response in the same phase, after free values were taken. -/
theorem spdmAnswer_answers_same (req : Blob) (f : Nat) (hc : resp.byte 1 = BitVec.ofNat 8 code) :
    s.answered (spdmAnswer req resp { s with free := f }) code s.sec.spdm := ⟨resp, rfl, hc, rfl, rfl⟩

theorem spdmError_answers (s : State) (e d : Nat) : s.answered (spdmError e d s) 0x7F s.sec.spdm :=
  ⟨spdmMsg 0x7F e d (Blob.zero 0), rfl, spdmMsg_byte1 .., rfl, rfl⟩

theorem spdmIn_inPhase {p : SpdmPhase} (k : State → State) (hs : s.spdmServed = true) (hp : s.sec.spdm = p) : spdmIn p k s = k s := by
  simp [spdmIn, hs, hp]

/-- Any other phase answers with an ERROR. -/
theorem spdmIn_offPhase {p : SpdmPhase} (k : State → State) (hs : s.spdmServed = true) (hp : s.sec.spdm ≠ p) :
    s.answered (spdmIn p k s) 0x7F s.sec.spdm := by
  have he : spdmIn p k s = spdmError 4 0 s := by simp [spdmIn, hs, hp]
  exact he ▸ spdmError_answers s 4 0

theorem spdmIn_unserved (p : SpdmPhase) (k : State → State) (hs : s.spdmServed = false) : spdmIn p k s = s := by
  simp [spdmIn, hs]

/-- NEGOTIATE_ALGORITHMS ends in the phase that its offers earn. -/
theorem negotiateAlgorithms_answers (a h : List SpdmAlg) (hs : s.spdmServed = true) (hp : s.sec.spdm = .capable) :
    ∃ t, exec (.negotiateAlgorithms a h) s = .next t ∧
      s.answered t 0x63 (if a.contains .ecdsaP256 && h.contains .sha256 then .negotiated else .capable) := by
  refine ⟨_, congrArg Host.Outcome.next (spdmIn_inPhase _ hs hp), ?_⟩
  dsimp only
  by_cases hb : (a.contains .ecdsaP256 && h.contains .sha256) = true
  · rw [if_pos hb, if_pos hb]
    exact ⟨_, rfl, spdmMsg_byte1 .., rfl, rfl⟩
  · rw [if_neg hb, if_neg hb]
    exact hp ▸ ⟨_, rfl, spdmMsg_byte1 .., rfl, rfl⟩

section
variable (hs : s.spdmServed = true) (hp : s.sec.spdm = .negotiated)
include hs hp

theorem getDigests_answers (hr : s.nor.readable 0 = true) : ∃ t, exec .getDigests s = .next t ∧ s.answered t 0x01 .negotiated := by
  refine ⟨_, congrArg Host.Outcome.next (spdmIn_inPhase _ hs hp), ?_⟩
  rw [if_neg (by simp [hr]), ← hp]
  exact spdmAnswer_answers_same _ s.free (spdmMsg_byte1 ..)

/-- Slot 0 holds the chain, up to its end. -/
theorem getCertificate_answers (slot o n : Nat) (hr : s.nor.readable 0 = true) :
    ∃ t, exec (.getCertificate slot o n) s = .next t ∧
      s.answered t (if slot ≠ 0 ∨ Config.certChain.len ≤ o then 0x7F else 0x02) .negotiated := by
  refine ⟨_, congrArg Host.Outcome.next (spdmIn_inPhase _ hs hp), ?_⟩
  rw [if_neg (by simp [hr]), ← hp]
  split
  · exact spdmError_answers s 1 0
  · exact spdmAnswer_answers_same _ s.free (spdmMsg_byte1 ..)

theorem challenge_answers (slot : Nat) (nonce : BitVec 256) (hr : s.nor.readable 0 = true) :
    ∃ t, exec (.challenge slot nonce) s = .next t ∧ s.answered t (if slot ≠ 0 then 0x7F else 0x03) .negotiated := by
  refine ⟨_, congrArg Host.Outcome.next (spdmIn_inPhase _ hs hp), ?_⟩
  rw [if_neg (by simp [hr]), ← hp]
  split
  · exact spdmError_answers s 1 0
  · exact spdmAnswer_answers_same _ (s.free + 1 + 1) (spdmMsg_append_byte1 ..)

theorem getMeasurements_answers {b : Nat} (signed : Bool) (nonce : BitVec 256) (hb : (s.measurements b).isSome = true) :
    ∃ t, exec (.getMeasurements b signed nonce) s = .next t ∧ s.answered t 0x60 .negotiated := by
  obtain ⟨m, hm⟩ := Option.isSome_iff_exists.mp hb
  refine ⟨_, congrArg Host.Outcome.next (spdmIn_inPhase _ hs hp), ?_⟩
  rw [hm, ← hp]
  cases signed
  · exact spdmAnswer_answers_same _ (s.free + 1 + 1) (spdmMsg_byte1 ..)
  · exact spdmAnswer_answers_same _ (s.free + 1 + 1) (spdmMsg_append_byte1 ..)

theorem getMeasurements_refuses {b : Nat} (signed : Bool) (nonce : BitVec 256) (hb : s.measurements b = none) :
    ∃ t, exec (.getMeasurements b signed nonce) s = .next t ∧ s.answered t 0x7F .negotiated := by
  refine ⟨_, congrArg Host.Outcome.next (spdmIn_inPhase _ hs hp), ?_⟩
  rw [hb, ← hp]
  exact spdmError_answers s 1 0

end

/-- Indexes 0 to 8, and FFh for all of them. -/
theorem measurements_isSome (s : State) (b : Nat) : (s.measurements b).isSome = true ↔ b ≤ 8 ∨ b = 0xFF := by
  unfold State.measurements
  split
  · simp; omega
  · split
    · simp; omega
    · split
      · simp; omega
      · simp; omega

end

/-- Settles O60: a request in its phase runs its own core, one out of phase is `spdmError`, and an unserved one is the identity. -/
theorem spdmAnswersInItsPhase : Obligations.SpdmAnswersInItsPhase := by
  refine ⟨fun s hs => ⟨?_, fun hp => ?_, fun a h hp ha hh => ?_, fun a h hp hn => ?_, fun hp hr => ⟨getDigests_answers hs hp hr, fun o n => ?_,
    fun slot o n hslot => ?_, fun nonce => ?_, fun slot nonce hslot => ?_⟩, fun b g n hp hb => ?_, fun b g n hp h8 hff => ?_, fun hp => ?_,
    fun a h hp => ?_, fun c hp hc => ?_, fun code => ?_⟩, fun s hs c hc => ?_⟩
  · refine ⟨_, congrArg Host.Outcome.next (if_neg (by simp [hs])), ?_⟩
    exact spdmAnswer_answers _ (Blob.zero 0) .versioned (by decide)
  · refine ⟨_, congrArg Host.Outcome.next (spdmIn_inPhase _ hs hp), ?_⟩
    exact spdmAnswer_answers _ s.sec.transcript .capable (spdmMsg_byte1 ..)
  · simpa [ha, hh] using negotiateAlgorithms_answers a h hs hp
  · have hb : ¬(SpdmAlg.ecdsaP256 ∈ a ∧ SpdmAlg.sha256 ∈ h) := by tauto
    simpa [hb] using negotiateAlgorithms_answers a h hs hp
  · obtain ⟨t, ht, answers⟩ := getCertificate_answers hs hp 0 o n hr
    refine ⟨t, ht, ?_⟩
    simpa only [ne_eq, not_true, false_or, ← not_lt, ite_not] using answers
  · simpa [hslot] using getCertificate_answers hs hp slot o n hr
  · simpa using challenge_answers hs hp 0 nonce hr
  · simpa [hslot] using challenge_answers hs hp slot nonce hr
  · exact getMeasurements_answers hs hp g n ((measurements_isSome s b).mpr hb)
  · exact getMeasurements_refuses hs hp g n (Option.not_isSome_iff_eq_none.mp (mt (measurements_isSome s b).mp (by omega)))
  · exact ⟨_, rfl, spdmIn_offPhase _ hs hp⟩
  · exact ⟨_, rfl, spdmIn_offPhase _ hs hp⟩
  · obtain rfl | ⟨slot, o, n, rfl⟩ | ⟨slot, n, rfl⟩ | ⟨b, g, n, rfl⟩ := hc <;> exact ⟨_, rfl, spdmIn_offPhase _ hs hp⟩
  · exact ⟨_, congrArg Host.Outcome.next (if_pos hs), spdmError_answers s 7 code⟩
  · obtain rfl | rfl | ⟨a, h, rfl⟩ | rfl | ⟨slot, o, n, rfl⟩ | ⟨slot, n, rfl⟩ | ⟨b, g, n, rfl⟩ | ⟨code, rfl⟩ := hc
    · exact congrArg Host.Outcome.next (if_pos (by simp [hs]))
    · exact congrArg Host.Outcome.next (spdmIn_unserved _ _ hs)
    · exact congrArg Host.Outcome.next (spdmIn_unserved _ _ hs)
    · exact congrArg Host.Outcome.next (spdmIn_unserved _ _ hs)
    · exact congrArg Host.Outcome.next (spdmIn_unserved _ _ hs)
    · exact congrArg Host.Outcome.next (spdmIn_unserved _ _ hs)
    · exact congrArg Host.Outcome.next (spdmIn_unserved _ _ hs)
    · exact congrArg Host.Outcome.next (if_neg (by simp [hs]))

end Sys2Proof.Machine
end

/-! PROOFS of the family 15_option_store: register writes (O58). -/

section
namespace Sys2Proof.Machine

/-! ### Register writes -/

/-- Bit `i` of byte `j` of a number. -/
theorem byteOf_bit (a j : Nat) {i : Nat} (hi : i < 32) :
    (BitVec.ofNat 32 (a / 256 ^ j % 256)).getLsbD i = (decide (i < 8) && a.testBit (8 * j + i)) := by
  have byte : a / 256 ^ j % 256 = a >>> (8 * j) % 2 ^ 8 := by
    rw [Nat.shiftRight_eq_div_pow, pow_mul]
    norm_num
  rw [byte, BitVec.getLsbD_ofNat, Nat.testBit_mod_two_pow, Nat.testBit_shiftRight]
  simp [hi]

/-- Four bytes joined are the low 32 bits. -/
theorem bytes_joined (a : Nat) :
    BitVec.ofNat 32 (a / 256 ^ 0 % 256) ||| BitVec.ofNat 32 (a / 256 ^ 1 % 256) <<< 8 ||| BitVec.ofNat 32 (a / 256 ^ 2 % 256) <<< 16 |||
      BitVec.ofNat 32 (a / 256 ^ 3 % 256) <<< 24 = BitVec.ofNat 32 a := by
  apply BitVec.eq_of_getLsbD_eq
  intro i hi
  have byte (j k : Nat) : (BitVec.ofNat 32 (a / 256 ^ j % 256)).getLsbD (i - k) = (decide (i - k < 8) && a.testBit (8 * j + (i - k))) :=
    byteOf_bit a j (by omega)
  have byte0 := byteOf_bit a 0 hi
  simp only [BitVec.getLsbD_or, BitVec.getLsbD_shiftLeft, byte, byte0, BitVec.getLsbD_ofNat, hi, decide_true, Bool.true_and]
  obtain h | h | h | h : i < 8 ∨ (8 ≤ i ∧ i < 16) ∨ (16 ≤ i ∧ i < 24) ∨ (24 ≤ i ∧ i < 32) := by omega
  · simp [h, show i < 16 by omega, show i < 24 by omega]
  · simp [show ¬i < 8 by omega, h.2, show i < 24 by omega, show i - 8 < 8 by omega, show 8 + (i - 8) = i by omega]
  · simp [show ¬i < 8 by omega, show ¬i < 16 by omega, h.2, show ¬i - 8 < 8 by omega, show i - 16 < 8 by omega,
      show 16 + (i - 16) = i by omega]
  · simp [show ¬i < 8 by omega, show ¬i < 16 by omega, show ¬i < 24 by omega, show ¬i - 8 < 8 by omega, show ¬i - 16 < 8 by omega,
      show i - 24 < 8 by omega, show 24 + (i - 24) = i by omega]

/-- A write of a whole register covers every bit, and gives it the low 32 bits of the value. -/
theorem laneWrite_whole (r v : Nat) : laneWrite r r 4 v = (BitVec.allOnes 32, BitVec.ofNat 32 v) := by
  have lanes : (List.range 4).filter (fun i => decide (r ≤ r + i ∧ r + i < r + 4)) = [0, 1, 2, 3] := by
    simp [List.range, List.range.loop, List.filter]
  simp only [laneWrite, lanes, List.foldl_cons, List.foldl_nil, Nat.add_sub_cancel_left]
  refine Prod.ext rfl ?_
  rw [← bytes_joined v]
  simp only [BitVec.ofNat_eq_ofNat, BitVec.zero_or, Nat.mul_zero, BitVec.shiftLeft_zero, Nat.mul_one, Nat.reduceMul]

/-- A write beside a register covers none of it. -/
theorem laneWrite_beside {r o : Nat} (v : Nat) (h : o + 4 ≤ r ∨ r + 4 ≤ o) : laneWrite r o 4 v = (0, 0) := by
  have lanes : (List.range 4).filter (fun i => decide (o ≤ r + i ∧ r + i < o + 4)) = [] := by
    refine List.filter_eq_nil_iff.mpr fun i hi => ?_
    have : i < 4 := List.mem_range.mp hi
    simp only [decide_eq_true_eq]
    omega
  simp only [laneWrite, lanes, List.foldl_nil]

/-- A write of OPT_STATUS whole clears the bits that it sets. -/
theorem regWrite_status (n : NorSt) (v : BitVec 64) : n.regWrite 0x900000 4 v.toNat =
    { n with errValid := n.errValid && !(v.getLsbD 7), done := n.done && !(v.getLsbD 6), uncorr := n.uncorr && !(v.getLsbD 0) } := by
  unfold NorSt.regWrite
  rw [laneWrite_whole, laneWrite_beside v.toNat (by decide)]
  simp

theorem regWrite_sectorSelect (n : NorSt) (v : BitVec 64) : n.regWrite 0x900008 4 v.toNat = { n with sectorSel := v.toNat % 128 } := by
  unfold NorSt.regWrite
  rw [laneWrite_whole, laneWrite_beside v.toNat (by decide)]
  simp only [BitVec.toNat_ofNat, Nat.mod_mod_of_dvd v.toNat (show 128 ∣ 2 ^ 32 by decide)]
  simp

/-- No other register of the store takes a write. -/
theorem regWrite_readOnly (n : NorSt) {r : Nat} (v : BitVec 64) (h : r = 0x900004 ∨ 0x90000C ≤ r) : n.regWrite r 4 v.toNat = n := by
  unfold NorSt.regWrite
  rw [laneWrite_beside v.toNat (by omega), laneWrite_beside v.toNat (by omega)]
  simp

section
variable {s : State} (hu : s.up = true) (hl : s.host.link = true) (hp : s.host.perst = false)
include hu hl hp

theorem aperWrite_register {o : Nat} (w v : Nat) (h1 : 0x900000 ≤ o) (h2 : o < 0x900014) :
    aperWrite o w v s = onNor (fun n => n.regWrite o w v) s := by
  unfold aperWrite
  rw [if_neg (by simp [hu, hl, hp]), if_neg (by omega), if_pos h2]

theorem aperWrite_cycle {o : Nat} (w v : Nat) (h : o < 0x900000) : aperWrite o w v s = onNor (fun n => n.cycle o w v) s := by
  unfold aperWrite
  rw [if_neg (by simp [hu, hl, hp]), if_pos h]

/-- A register write of BAR2/3 is a write to the aperture. -/
theorem exec_registerWrite_aperture {r : Nat} (v : BitVec 64) (h1 : 0x900000 ≤ r) (h2 : r < 0x900014) :
    exec (.registerWrite 2 r 4 v) s = .next (onNor (fun n => n.regWrite r 4 v.toNat) s) :=
  congrArg Host.Outcome.next ((if_pos rfl).trans (aperWrite_register hu hl hp 4 v.toNat h1 h2))

end

/-- Settles O58: a register write covers its own register whole and none beside it. -/
theorem registerWritesKeepToTheirRegisters : Obligations.RegisterWritesKeepToTheirRegisters := by
  intro s v hu hl hp
  refine ⟨?_, ?_, fun r hr => ?_, fun o w => ?_⟩
  · rw [exec_registerWrite_aperture hu hl hp v (by decide) (by decide), onNor, regWrite_status]
  · rw [exec_registerWrite_aperture hu hl hp v (by decide) (by decide), onNor, regWrite_sectorSelect]
  · rw [exec_registerWrite_aperture hu hl hp v (by omega) (by omega), onNor, regWrite_readOnly s.nor v (by omega)]
  · exact ⟨_, congrArg Host.Outcome.next ((if_neg (by decide)).trans (if_pos ⟨rfl, hu, hl, by simp [hp]⟩)), rfl⟩

end Sys2Proof.Machine
end

/-! PROOFS of the family 15_option_store: the cycles of the option aperture (O57). -/

section
namespace Sys2Proof.Machine

/-! ### Writing to the array leaves the registers of the store alone -/

/-- Of the option store only the array itself and the drive's own account of the journal may differ. -/
def NorSt.ArrayOnly (n m : NorSt) : Prop :=
  m = { n with words := m.words, progs := m.progs, sectors := m.sectors, head := m.head, nextBlock := m.nextBlock, window := m.window }

theorem NorSt.ArrayOnly.refl (n : NorSt) : n.ArrayOnly n := rfl

theorem NorSt.ArrayOnly.trans {n m o : NorSt} (h : n.ArrayOnly m) (k : m.ArrayOnly o) : n.ArrayOnly o := by
  unfold NorSt.ArrayOnly at *
  refine k.trans ?_
  rw [h]

theorem arrayOnly_foldl {α : Type} (f : NorSt → α → NorSt) (hf : ∀ (n : NorSt) (a : α), n.ArrayOnly (f n a)) (l : List α) (n : NorSt) :
    n.ArrayOnly (l.foldl f n) := by
  induction l generalizing n with
  | nil => rfl
  | cons a l ih => exact (hf n a).trans (ih _)

theorem program_arrayOnly (n : NorSt) (w : Nat) (v : BitVec 64) : n.ArrayOnly (n.program w v) := by
  unfold NorSt.program
  split <;> rfl

theorem writeBlock_arrayOnly (n : NorSt) (blk kind seq : Nat) (p : Blob) (fs : List Nat) : n.ArrayOnly (n.writeBlock blk kind seq p fs) :=
  (arrayOnly_foldl _ (fun m _ => program_arrayOnly m _ _) _ n).trans (program_arrayOnly _ _ _)

theorem setSector_arrayOnly (n : NorSt) (k : Nat) (x : Sector) : n.ArrayOnly (n.setSector k x) := rfl

theorem confirm_arrayOnly (n : NorSt) (k e : Nat) : n.ArrayOnly (n.confirm k e) :=
  ((program_arrayOnly _ _ _).trans (program_arrayOnly _ _ _)).trans (setSector_arrayOnly _ _ _)

theorem openSector_arrayOnly (n : NorSt) (k target : Nat) : n.ArrayOnly (n.openSector k target) := by
  have header (m : NorSt) (a b c : Nat) (u v w : BitVec 64) (x : Sector) :
      m.ArrayOnly ((((m.program a u).program b v).program c w).setSector k x) :=
    ((program_arrayOnly _ _ _).trans (program_arrayOnly _ _ _)).trans ((program_arrayOnly _ _ _).trans (setSector_arrayOnly _ _ _))
  unfold NorSt.openSector
  split
  · exact header n ..
  · exact (confirm_arrayOnly n k _).trans (header _ ..)

/-- A standing record copied to the new head. -/
def NorSt.copyRecord (n : NorSt) (r : NorRec) : NorSt :=
  { n.writeBlock (n.head * 1024 + n.nextBlock) r.kind r.seq r.payload r.kept with nextBlock := n.nextBlock + 1 }

theorem copyRecord_arrayOnly (n : NorSt) (r : NorRec) : n.ArrayOnly (n.copyRecord r) :=
  NorSt.ArrayOnly.trans (writeBlock_arrayOnly n (n.head * 1024 + n.nextBlock) r.kind r.seq r.payload r.kept) (by rfl)

theorem rotate_arrayOnly (n : NorSt) : n.ArrayOnly n.rotate := by
  unfold NorSt.rotate
  split
  · rfl
  · next k _ =>
    have opened (w : List Nat) : n.ArrayOnly { n.openSector k 0xFF with head := k, nextBlock := 1, window := w } :=
      (openSector_arrayOnly n k 0xFF).trans (by rfl)
    exact (opened _).trans (arrayOnly_foldl NorSt.copyRecord copyRecord_arrayOnly _ _)

theorem append_arrayOnly (n : NorSt) (kind seq : Nat) (p : Blob) (fs : List Nat) : n.ArrayOnly (n.append kind seq p fs) := by
  have record (m : NorSt) : m.ArrayOnly (if m.nextBlock ≥ 1024 then m
      else { m.writeBlock (m.head * 1024 + m.nextBlock) kind seq p fs with nextBlock := m.nextBlock + 1 }) := by
    split
    · rfl
    · exact (writeBlock_arrayOnly m _ _ _ _ _).trans rfl
  unfold NorSt.append
  split
  · exact (rotate_arrayOnly n).trans (record _)
  · exact record n

/-! ### The cycles of an option sequence -/

/-- A drive in Maintenance state with no host operation under way. -/
def NorSt.ready (n : NorSt) (seq : Nat) : Prop := n.maint = true ∧ n.hostBusy = false ∧ n.seq = seq

section
variable {n : NorSt} (o w v : Nat)

theorem cycle_outsideMaintenance (hm : n.maint = false) : n.cycle o w v = n.fail 2 (sectorAt o) := by
  simp [NorSt.cycle, hm]

theorem cycle_underWay (hm : n.maint = true) (hb : n.hostBusy = true) : n.cycle o w v = n.fail 1 (sectorAt o) := by
  simp [NorSt.cycle, hm, hb]

/-- The first key, or an error. -/
theorem cycle_first (h : n.ready 0) :
    n.cycle o w v = if o = 0xA8 ∧ w = 2 ∧ v = 0x4D5A then { n with seq := 1 } else n.fail 1 (sectorAt o) := by
  obtain ⟨hm, hb, hs⟩ := h
  simp [NorSt.cycle, hm, hb, hs]

/-- The second key, or an error. -/
theorem cycle_second (h : n.ready 1) :
    n.cycle o w v = if o = 0x150 ∧ w = 2 ∧ v = 0x5A4D then { n with seq := 2 } else n.fail 1 (sectorAt o) := by
  obtain ⟨hm, hb, hs⟩ := h
  simp [NorSt.cycle, hm, hb, hs]

/-- The code that a command cycle carries. -/
def NorCode.value : NorCode → Nat
  | .word => 0xA0A0
  | .flag => 0xA1A1
  | .erase => 0x8080

/-- A command cycle was taken: its data cycle is next. -/
def NorSt.commanded (n : NorSt) (c : NorCode) : NorSt := { n with seq := 3, code := some c }

theorem cycle_command (h : n.ready 2) (c : NorCode) : n.cycle 0xA8 2 c.value = n.commanded c := by
  obtain ⟨hm, hb, hs⟩ := h
  cases c <;> simp [NorSt.cycle, hm, hb, hs, NorCode.value, NorSt.commanded]

theorem cycle_reset (h : n.ready 2) : n.cycle 0xA8 2 0xF0F0 = { n with seq := 0 } := by
  obtain ⟨hm, hb, hs⟩ := h
  simp [NorSt.cycle, hm, hb, hs]

theorem cycle_data {c : NorCode} (h : n.ready 3) (hc : n.code = some c) : n.cycle o w v = n.dataCycle c o w v := by
  obtain ⟨hm, hb, hs⟩ := h
  simp [NorSt.cycle, hm, hb, hs, hc]

/-- A command and its data cycle. -/
theorem cycle_cycle (h : n.ready 2) (c : NorCode) :
    (n.cycle 0xA8 2 c.value).cycle o w v = (n.commanded c).dataCycle c o w v := by
  rw [cycle_command h c]
  exact cycle_data o w v ⟨h.1, h.2.1, rfl⟩ rfl

end

/-- An operation was accepted, with the offset of its data cycle. -/
def NorSt.accepted (n : NorSt) (o : Nat) (op : HostNorOp) : NorSt :=
  { n with seq := 0, code := none, target := o, hostBusy := true, hostOp := some op }

/-- An operation on a word, by the kind of the word. -/
def wordOp (w : Nat) (v : BitVec 64) : HostNorOp := if isFlagWord w then .flag w v else .word w v

/-- Only an erase begins with a record. -/
theorem startHost_wordOp (n : NorSt) (o w : Nat) (v : BitVec 64) :
    (n.accepted o (wordOp w v)).startHost = n.accepted o (wordOp w v) := by
  unfold wordOp
  cases isFlagWord w <;> exact ite_self _

section
variable {k w : Nat} (hk : k < 128) (hw : w < 8192)
include hk hw

/-- The sector, the word and the kind of word of an offset in the array. -/
theorem word_offset : sectorAt ((k * 8192 + w) * 8) = k ∧ (k * 8192 + w) * 8 / 8 = k * 8192 + w ∧ (k * 8192 + w) * 8 < 0x800000 := by
  have hlt : (k * 8192 + w) * 8 < 0x800000 := by omega
  refine ⟨?_, by omega, hlt⟩
  unfold sectorAt
  rw [if_pos hlt]
  omega

/-- The data cycle of a word or flag program: the checks of R348 in their order. -/
theorem dataCycle_word (n : NorSt) {c : NorCode} (hc : c = .word ∨ c = .flag) (v : Nat) :
    (n.commanded c).dataCycle c ((k * 8192 + w) * 8) 8 v =
      if hostWritable k = false then n.fail 2 k
      else if (c == .flag) ≠ isFlagWord (k * 8192 + w) then n.fail 3 k
      else if n.refuses (k * 8192 + w) then n.fail 4 k
      else n.accepted ((k * 8192 + w) * 8) (wordOp (k * 8192 + w) (BitVec.ofNat 64 v)) := by
  obtain ⟨hs, hd, hlt⟩ := word_offset hk hw
  have aligned : (k * 8192 + w) * 8 % 8 = 0 := Nat.mul_mod_left ..
  have armed : (n.commanded c).refuses (k * 8192 + w) = n.refuses (k * 8192 + w) := rfl
  obtain rfl | rfl := hc <;>
    · simp only [NorSt.dataCycle, hs, hd, hlt, aligned, armed]
      rw [if_neg (by decide)]
      simp only [Bool.not_eq_true', bne_iff_ne]
      split
      · rfl
      · split
        · rfl
        · split
          · rfl
          · exact startHost_wordOp n _ _ _

end

/-- The data cycle of a sector erase. -/
theorem dataCycle_erase (n : NorSt) {o : Nat} (hk : hostWritable (o / 65536) = true) (ho : o < 0x800000) :
    (n.commanded .erase).dataCycle .erase o 2 0x3030 = (n.accepted o (.erase (o / 65536) none)).startHost := by
  have hs : sectorAt o = o / 65536 := if_pos ho
  simp [NorSt.dataCycle, NorSt.commanded, NorSt.accepted, hs, hk, ho]

theorem hostWritable_iff (k : Nat) : hostWritable k = true ↔ k = 3 ∨ k = 4 ∨ k = 6 := by
  simp [hostWritable, or_assoc]

section
variable {s : State} (hu : s.up = true) (hl : s.host.link = true) (hp : s.host.perst = false)
include hu hl hp

theorem exec_optKey1 (v : BitVec 16) : exec (.optKey1 v) s = .next { s with nor := s.nor.cycle 0xA8 2 v.toNat } :=
  congrArg _ (aperWrite_cycle hu hl hp 2 v.toNat (by decide))

theorem exec_optKey2 (v : BitVec 16) : exec (.optKey2 v) s = .next { s with nor := s.nor.cycle 0x150 2 v.toNat } :=
  congrArg _ (aperWrite_cycle hu hl hp 2 v.toNat (by decide))

theorem exec_optReset : exec .optReset s = .next { s with nor := s.nor.cycle 0xA8 2 0xF0F0 } :=
  congrArg _ (aperWrite_cycle hu hl hp 2 0xF0F0 (by decide))

/-- A command and its data cycle in the array. -/
theorem aperWrite_command (hr : s.nor.ready 2) (c : NorCode) {o : Nat} (w v : Nat) (ho : o < 0x900000) :
    aperWrite o w v (aperWrite 0xA8 2 c.value s) = { s with nor := (s.nor.commanded c).dataCycle c o w v } := by
  rw [aperWrite_cycle hu hl hp 2 c.value (by decide)]
  refine (aperWrite_cycle ?_ ?_ ?_ w v ho).trans ?_
  · exact hu
  · exact hl
  · exact hp
  · exact congrArg (fun m => { s with nor := m }) (cycle_cycle o w v hr c)

end

/-- The data cycle of a program. -/
theorem exec_wordProgram {s : State} (hu : s.up = true) (hl : s.host.link = true) (hp : s.host.perst = false) (hr : s.nor.ready 2)
    {k w : Nat} (hk : k < 128) (hw : w < 8192) (v : BitVec 64) :
    exec (.wordProgram ((k * 8192 + w) * 8) 8 v) s =
      .next { s with nor := (s.nor.commanded .word).dataCycle .word ((k * 8192 + w) * 8) 8 v.toNat } :=
  congrArg _ (aperWrite_command hu hl hp hr .word 8 v.toNat (by omega))

theorem exec_flagProgram {s : State} (hu : s.up = true) (hl : s.host.link = true) (hp : s.host.perst = false) (hr : s.nor.ready 2)
    {k w : Nat} (hk : k < 128) (hw : w < 8192) (v : BitVec 64) :
    exec (.flagProgram ((k * 8192 + w) * 8) 8 v) s =
      .next { s with nor := (s.nor.commanded .flag).dataCycle .flag ((k * 8192 + w) * 8) 8 v.toNat } :=
  congrArg _ (aperWrite_command hu hl hp hr .flag 8 v.toNat (by omega))

theorem exec_sectorErase {s : State} (hu : s.up = true) (hl : s.host.link = true) (hp : s.host.perst = false) (hr : s.nor.ready 2)
    {o : Nat} (ho : o / 65536 = 3 ∨ o / 65536 = 4 ∨ o / 65536 = 6) :
    exec (.sectorErase o 2 0x3030#64) s = .next { s with nor := (s.nor.accepted o (.erase (o / 65536) none)).startHost } := by
  refine congrArg _ ((aperWrite_command hu hl hp hr .erase 2 0x3030 (by omega)).trans ?_)
  exact congrArg (fun m => { s with nor := m }) (dataCycle_erase s.nor ((hostWritable_iff _).mpr ho) (by omega))

/-- While the drive's own operation runs, an erase waits; otherwise its record is appended at once. -/
theorem startHost_erase (n : NorSt) (o k : Nat) :
    (n.fwBusy = true → (n.accepted o (.erase k none)).startHost = n.accepted o (.erase k none)) ∧
    (n.fwBusy = false → ∃ m, { n.accepted o (.erase k none) with nextSeq := n.nextSeq + 1 }.ArrayOnly m ∧
      (n.accepted o (.erase k none)).startHost = { m with hostOp := some (.erase k (some n.nextSeq)) }) :=
  ⟨fun hb => if_pos hb, fun hb => ⟨_, append_arrayOnly _ 2 n.nextSeq _ [1], if_neg (by simp [NorSt.accepted, hb])⟩⟩

/-- Settles O57: each cycle by the state that it finds, and each data cycle by the checks of R348 in order. -/
theorem optionCyclesAreTakenInOrder : Obligations.OptionCyclesAreTakenInOrder := by
  intro s hu hl hp
  refine ⟨fun v => ?_, fun hm hb hs => ?_⟩
  · rw [exec_optKey1 hu hl hp, exec_optKey2 hu hl hp]
    refine ⟨fun hm => ?_, fun hm hb => ?_, fun hm hb hs hv => ?_, fun hm hb hs hv => ?_, fun hm hb hs hv => ?_, fun hm hb hs hv => ?_⟩
    · rw [cycle_outsideMaintenance _ _ _ hm]
      rfl
    · rw [cycle_underWay _ _ _ hm hb]
      rfl
    · rw [cycle_first _ _ _ ⟨hm, hb, hs⟩, if_pos (by simp [hv])]
    · rw [cycle_first _ _ _ ⟨hm, hb, hs⟩, if_neg (by simpa [← BitVec.toNat_inj] using hv)]
      rfl
    · rw [cycle_second _ _ _ ⟨hm, hb, hs⟩, if_pos (by simp [hv])]
    · rw [cycle_second _ _ _ ⟨hm, hb, hs⟩, if_neg (by simpa [← BitVec.toNat_inj] using hv)]
      rfl
  · have hr : s.nor.ready 2 := ⟨hm, hb, hs⟩
    have flagWord (k w : Nat) : isFlagWord (k * 8192 + w) = decide (w % 8 = 0) := by
      simp only [isFlagWord, show (k * 8192 + w) % 8 = w % 8 by omega]
      rfl
    refine ⟨?_, fun k w v hw h3 h6 h5 hf => ⟨fun h8 => ?_, fun h8 => ?_⟩, fun k w v hw hk => ⟨fun hk3 => ⟨fun h8 => ?_, fun h8 => ?_,
      fun h8 hf => ?_⟩, fun n3 n4 n6 => ?_⟩, fun o ho => ⟨fun hf => ?_, fun hf => ?_⟩⟩
    · rw [exec_optReset hu hl hp, cycle_reset hr]
    · rw [exec_wordProgram hu hl hp hr (by omega) hw, dataCycle_word (by omega) hw _ (.inl rfl), wordOp, flagWord]
      rw [if_neg (by simp [(hostWritable_iff k).mpr (by omega)]), if_neg (by simp [h8]), if_neg (Bool.eq_false_iff.mp hf)]
      simp [h8, NorSt.accepted]
    · rw [exec_flagProgram hu hl hp hr (by omega) hw, dataCycle_word (by omega) hw _ (.inr rfl), wordOp, flagWord]
      rw [if_neg (by simp [(hostWritable_iff k).mpr (by omega)]), if_neg (by simp [h8]), if_neg (Bool.eq_false_iff.mp hf)]
      simp [h8, NorSt.accepted]
    · rw [exec_wordProgram hu hl hp hr hk hw, dataCycle_word hk hw _ (.inl rfl), flagWord]
      rw [if_neg (by simp [(hostWritable_iff k).mpr hk3]), if_pos (by simp [h8])]
      exact ⟨_, rfl, rfl, rfl⟩
    · rw [exec_flagProgram hu hl hp hr hk hw, dataCycle_word hk hw _ (.inr rfl), flagWord]
      rw [if_neg (by simp [(hostWritable_iff k).mpr hk3]), if_pos (by simp [h8])]
      exact ⟨_, rfl, rfl, rfl⟩
    · rw [exec_wordProgram hu hl hp hr hk hw, dataCycle_word hk hw _ (.inl rfl), flagWord]
      rw [if_neg (by simp [(hostWritable_iff k).mpr hk3]), if_neg (by simp [h8]), if_pos (by exact hf)]
      exact ⟨_, rfl, rfl, rfl⟩
    · rw [exec_wordProgram hu hl hp hr hk hw, dataCycle_word hk hw _ (.inl rfl),
        if_pos (Bool.eq_false_iff.mpr (mt (hostWritable_iff k).mp (by tauto)))]
      exact ⟨_, rfl, rfl, rfl, rfl, rfl⟩
    · rw [exec_sectorErase hu hl hp hr ho, (startHost_erase s.nor o _).1 hf]
      rfl
    · obtain ⟨m, kept, hm⟩ := (startHost_erase s.nor o (o / 65536)).2 hf
      rw [exec_sectorErase hu hl hp hr ho, hm]
      exact ⟨_, rfl, congrArg NorSt.hostBusy kept, congrArg NorSt.seq kept, congrArg NorSt.target kept, rfl, rfl⟩

end Sys2Proof.Machine
end

/-! PROOFS of the family 17_power_reset_firmware and 19_module_and_connector: the hold-up bank (O55). -/

section
namespace Sys2Proof.Machine

/-! ### What a command's end and an event leave of the supplies -/

/-- The state of the supplies without the time of the last activity, which a completion entry sets. -/
def State.supply (s : State) : PowerSt := { s.power with activeNs := none }

section
variable (s : State)

theorem post_supply (sq cid : Nat) (st : Status) (dw0 : Nat) (d : Blob) : (post sq cid st dw0 d s).supply = s.supply := by
  rw [post_frame]
  rfl

theorem finish_supply (h : Hdr) (st : Status) : (finish h st s).supply = s.supply := post_supply ..

theorem raiseEvent_supply (e : Event) : (raiseEvent e s).supply = s.supply := by
  unfold raiseEvent
  split
  · rfl
  · split
    · exact post_supply ..
    · split
      · rfl
      · rfl

theorem vendorEvent_supply (lid : Nat) : (vendorEvent lid s).supply = s.supply := raiseEvent_supply ..

theorem setCritical_supply (b i : Nat) : (setCritical b i s).supply = s.supply := by
  unfold setCritical
  split
  · rfl
  · exact raiseEvent_supply ..

theorem clearCritical_supply (b : Nat) : (clearCritical b s).supply = s.supply := by
  unfold clearCritical
  split
  · rfl
  · rfl

/-- A bit of Critical Warning that clears reads 0. -/
theorem clearCritical_testBit (b : Nat) : (clearCritical b s).host.critWarn.testBit b = false := by
  unfold clearCritical
  split
  · next h => simp [Nat.testBit_xor, h]
  · next h => exact Bool.eq_false_iff.mpr h

end

/-! ### The hold-up bank -/

/-- A sample of the bank while the drive runs. -/
theorem exec_bankSample {s : State} (deg : Nat) (f : FlushCost) (hu : s.power.down = .up) :
    exec (.temperatureSample .bank deg f) s = .next (bankReading deg
      (onPower (fun p => { p with temps := (p.temps.filter fun x => x.1 != .bank) ++ [(.bank, deg)] }) s)) := by
  change execTemperatureSample .bank deg f s = _
  simp [execTemperatureSample, onPower, hu]

theorem exec_holdupMeasurement {s : State} (mj : Nat) (hu : s.up = true) :
    exec (.holdupMeasurement mj) s = .next (measureBank mj s) :=
  congrArg Host.Outcome.next (if_pos hu)

section
variable (s : State) (deg mj : Nat)

theorem bankReading_hot (h : 70 < deg) : bankReading deg s = setCritical 4 0 (onPower (fun p => { p with bankHot := true, through := true }) s) :=
  if_pos h

theorem bankReading_between (h : 65 ≤ deg) (h' : deg ≤ 70) : bankReading deg s = s := by
  rw [bankReading, if_neg (by omega), if_neg (by omega)]

theorem bankReading_cool (h : deg < 65) : bankReading deg s = onPower (fun p => { p with bankHot := false }) s := by
  rw [bankReading, if_neg (by omega), if_pos h]

theorem measureBank_weak (h : mj < 1500) :
    measureBank mj s = setCritical 4 0 (onPower (fun p => { p with holdupMj := mj, through := true }) s) := if_pos h

theorem measureBank_good_hot (h : 1500 ≤ mj) (hh : s.power.bankHot = true) :
    measureBank mj s = { s with power := { s.power with holdupMj := mj } } := by
  rw [measureBank, if_neg (by omega)]
  exact if_pos hh

theorem measureBank_good_cool (h : 1500 ≤ mj) (hh : s.power.bankHot = false) :
    measureBank mj s = clearCritical 4 (onPower (fun p => { p with holdupMj := mj, through := false }) s) := by
  rw [measureBank, if_neg (by omega)]
  exact if_neg (by simp [onPower, hh])

end

/-- Settles O55: each reading and each measurement is one branch, which sets or clears bit 4 with the bank's two flags. -/
theorem hotBankWritesThrough : Obligations.HotBankWritesThrough := by
  refine ⟨fun s deg f hu => ⟨fun hot => ?_, fun h65 h70 => ?_, fun cool => ?_⟩, fun s mj hu => ⟨fun weak => ?_, fun good hb => ?_, fun good hb => ?_⟩⟩
  · refine ⟨_, (exec_bankSample deg f hu).trans (congrArg _ (bankReading_hot _ deg hot)), ?_, ?_, setCritical_testBit ..⟩
    · exact congrArg PowerSt.through (setCritical_supply _ 4 0)
    · exact congrArg PowerSt.bankHot (setCritical_supply _ 4 0)
  · exact ⟨_, (exec_bankSample deg f hu).trans (congrArg _ (bankReading_between _ deg h65 h70)), rfl, rfl, rfl⟩
  · exact ⟨_, (exec_bankSample deg f hu).trans (congrArg _ (bankReading_cool _ deg cool)), rfl, rfl, rfl⟩
  · refine ⟨_, (exec_holdupMeasurement mj hu).trans (congrArg _ (measureBank_weak s mj weak)), ?_, ?_, setCritical_testBit ..⟩
    · exact congrArg PowerSt.holdupMj (setCritical_supply _ 4 0)
    · exact congrArg PowerSt.through (setCritical_supply _ 4 0)
  · refine ⟨_, (exec_holdupMeasurement mj hu).trans (congrArg _ (measureBank_good_cool s mj good hb)), ?_, ?_, clearCritical_testBit ..⟩
    · exact congrArg PowerSt.holdupMj (clearCritical_supply _ 4)
    · exact congrArg PowerSt.through (clearCritical_supply _ 4)
  · rw [exec_holdupMeasurement mj hu, measureBank_good_hot s mj good hb]

end Sys2Proof.Machine
end

/-! PROOFS of the family 17_power_reset_firmware and 19_module_and_connector: power loss (O52). -/

section
namespace Sys2Proof.Machine

/-! ### A flush and a controller reset leave the supplies alone -/

section
variable {α β : Type}

theorem foldl_supply {f : State → α → State} {l : List α} {s : State} (hf : ∀ s a, (f s a).supply = s.supply) :
    (l.foldl f s).supply = s.supply := foldl_keeps (g := State.supply) hf l s

/-- A fold over a pair of a value and a state. -/
theorem foldl_pair_supply {f : β × State → α → β × State} {l : List α} {p : β × State} (hf : ∀ p a, (f p a).2.supply = p.2.supply) :
    (l.foldl f p).2.supply = p.2.supply := by
  induction l generalizing p with
  | nil => rfl
  | cons a r ih => exact ih.trans (hf p a)

end

section
variable (s : State)

@[simp] theorem onFtl_supply (f : FtlSt → FtlSt) : (onFtl f s).supply = s.supply := rfl
@[simp] theorem onIdx_supply (f : IdxSt → IdxSt) : (onIdx f s).supply = s.supply := rfl
@[simp] theorem onPlain_supply (f : PlainSt → PlainSt) : (onPlain f s).supply = s.supply := rfl
@[simp] theorem programJournal_supply : (programJournal s).supply = s.supply := rfl
@[simp] theorem orphan_supply : (orphan s).supply = s.supply := rfl

theorem Sends.supply {s t : State} (h : Sends s t) : t.supply = s.supply := (congrArg State.supply h :)
theorem Trains.supply {s t : State} (h : Trains s t) : t.supply = s.supply := (congrArg State.supply h :)
theorem memWrite_supply (nsid o : Nat) (d : Blob) : (memWrite nsid o d s).supply = s.supply :=
  (congrArg State.supply (memWrite_loads nsid o d s) :)

theorem onSb_supply (sb : Nat) (f : Sb → Sb) : (onSb sb f s).supply = s.supply := by
  unfold onSb
  split
  · rfl
  · rfl

theorem recordLosses_supply (cause : Nat) (l : List Nat) : (recordLosses cause l s).supply = s.supply :=
  foldl_supply fun _ _ => vendorEvent_supply _ _

theorem markStale_supply (lsn member : Nat) : (markStale lsn member s).supply = s.supply := by
  unfold markStale
  split
  · dsimp only
    split
    · rfl
    · rfl
  · rfl

theorem sendDeltas_supply (recess : Bool) (lsn wc : Nat) (c : Blob) : (sendDeltas recess lsn wc c s).2.supply = s.supply := by
  refine foldl_pair_supply fun p a => ?_
  dsimp only
  split
  · exact markStale_supply ..
  · split
    · rfl
    · exact (sendTo_sends ..).supply

theorem dropPoisoned_supply (us : List BufUnit) : (dropPoisoned us s).2.supply = s.supply := by
  refine foldl_pair_supply fun p a => ?_
  dsimp only
  split
  · rfl
  · split
    · rfl
    · rfl

theorem startGroup_supply (sb g : Nat) (st : Stream) : (startGroup sb g st s).supply = s.supply := by
  refine (foldl_supply fun s u => ?_).trans ((recordLosses_supply _ ..).trans (dropPoisoned_supply s _))
  exact sendDeltas_supply s ..

theorem startAll_supply (sb n : Nat) : (startAll sb n s).supply = s.supply := by
  induction n generalizing s with
  | zero => rfl
  | succ n ih =>
    unfold startAll
    split
    · rfl
    · split
      · exact (ih _).trans (startGroup_supply ..)
      · rfl

theorem commitUnit_supply (u : BufUnit) : (commitUnit u s).supply = s.supply := by
  unfold commitUnit
  extract_lets q t
  split
  · split
    · rfl
    · rfl
  · rfl

theorem finishWrites_supply : (finishWrites s).supply = s.supply := by
  unfold finishWrites
  extract_lets ended
  split
  · exact foldl_supply fun s w => finish_supply s _ stOk
  · rfl

/-- A group program that fails on no channel commits its units. -/
theorem endGroup_good (pid : Nat) {g : Prog} (h : s.ftl.progs.find? (fun p => p.pid == pid) = some g) :
    endGroup pid [] s = finishWrites (releaseBuffers ((s.groupUnits g.sb g.group).foldl (fun s u => commitUnit u s)
      (onFtl (fun t => { t with progs := t.progs.filter fun p => p.pid != pid }) s))) := by
  unfold endGroup
  rw [h]
  dsimp only
  rw [if_pos (by cases State.sb? _ g.sb <;> rfl)]
  rfl

theorem endGroup_supply (pid : Nat) : (endGroup pid [] s).supply = s.supply := by
  cases h : s.ftl.progs.find? fun p => p.pid == pid with
  | none => rw [endGroup, h]
  | some g =>
    rw [endGroup_good s pid h]
    exact (finishWrites_supply _).trans (foldl_supply fun s u => commitUnit_supply s u)

theorem endPrograms_supply : (endPrograms s).supply = s.supply := 
  foldl_supply fun s _ => endGroup_supply s _

theorem flushAll_supply : (flushAll s).supply = s.supply := by
  unfold flushAll
  extract_lets +onlyGivenNames ended programmed
  have hended : ended.supply = s.supply := endPrograms_supply s
  have hprogrammed : programmed.supply = ended.supply :=
    (endPrograms_supply _).trans (foldl_supply fun s o => startAll_supply s _ 768)
  clear_value ended programmed
  exact Eq.trans (b := programmed.supply) rfl (hprogrammed.trans hended)

theorem flushPart_supply : (flushPart s).supply = s.supply := by
  unfold flushPart
  extract_lets ended us committed
  have hcommitted : committed.supply = ended.supply := by
    refine foldl_supply fun s x => ?_
    split
    · exact commitUnit_supply ..
    · rfl
  exact Eq.trans (b := committed.supply) rfl (hcommitted.trans (endPrograms_supply s))

theorem optDone_true_supply : (optDone true s).supply = s.supply := by
  unfold optDone
  split
  · rfl
  · split
    · rfl
    · next op _ _ =>
      cases op with
      | word w v => rfl
      | flag w v => rfl
      | erase k r => cases r <;> rfl

theorem flushNor_supply : (flushNor s).supply = s.supply := by
  unfold flushNor
  extract_lets ended
  have hended : ended.supply = s.supply := by
    dsimp only [ended]
    split
    · exact optDone_true_supply s
    · exact optDone_true_supply s
    · rfl
  exact hended

theorem flushContent_supply (complete : Bool) : (flushContent complete s).supply = s.supply := by
  unfold flushContent
  refine (flushNor_supply _).trans ?_
  split
  · exact flushAll_supply s
  · exact flushPart_supply s

/-! ### The end of the commands -/

theorem closeJobs_supply (p : JobKind → Bool) : (closeJobs p s).supply = s.supply := foldl_supply fun _ _ => rfl

theorem unmapSlot_supply (lsn : Nat) : (unmapSlot lsn s).supply = s.supply := by
  unfold unmapSlot
  split
  · rfl
  · exact sendDeltas_supply ..

theorem dropQRun_supply (id : Nat) : (dropQRun id s).supply = s.supply := by
  unfold dropQRun
  split
  · rfl
  · dsimp only
    split
    · rfl
    · split
      · rfl
      · exact foldl_supply fun s x => unmapSlot_supply s x

theorem giveUpStep_supply (t : TStep) (st : Status) : (giveUpStep t st s).supply = s.supply := by
  have told : (if s.heads t then tellOthers t (.abort t.room t.attempt) s else s).supply = s.supply := by
    split
    · exact (tellOthers_keepsTraining s t _).frame.supply
    · rfl
  refine Eq.trans ?_ told
  unfold giveUpStep endStep
  generalize (if s.heads t then tellOthers t (.abort t.room t.attempt) s else s) = u
  have dropped := (removeStep_stopAttempt t u).changes.frame.supply
  dsimp only
  split
  · exact dropped
  · split
    · exact (finish_supply ..).trans ((memWrite_supply ..).trans dropped)
    · exact (memWrite_supply ..).trans dropped

theorem stopWork_supply (p : Hdr → Bool) : (stopWork p s).supply = s.supply := by
  have queries (s : State) : (stopQueries p s).supply = s.supply := foldl_supply fun s r => dropQRun_supply s _
  have lessons (s : State) : (stopLessons p s).supply = s.supply :=
    foldl_supply fun s r => (dropRun_keepsTraining s r).frame.supply
  have steps (s : State) : (stopSteps p s).supply = s.supply := foldl_supply fun s t => giveUpStep_supply s _ stOk
  have jobs : (stopJobs p s).supply = s.supply := closeJobs_supply s _
  rw [stopWork, onPlain_supply, onIdx_supply, steps, lessons, queries, jobs]

theorem resetActivation_supply : (resetActivation s).supply = s.supply := by
  unfold resetActivation
  dsimp only
  split
  · split
    · rfl
    · rfl
  · rfl

theorem controllerReset_supply : (controllerReset s).supply = s.supply := by
  unfold controllerReset
  extract_lets +onlyGivenNames stopped closed reset
  have hreset : reset.supply = stopped.supply :=
    (resetActivation_supply _).trans ((orphan_supply _).trans ((onFtl_supply closed _).trans (closeJobs_supply stopped _)))
  have hstopped : stopped.supply = s.supply := stopWork_supply s _
  clear_value stopped reset
  exact Eq.trans (b := reset.supply) rfl (hreset.trans hstopped)

/-! ### The option store at the end of a flush -/

end

section
variable (n : NorSt)

theorem NorSt.ArrayOnly.maint {n m : NorSt} (h : n.ArrayOnly m) : m.maint = n.maint := (congrArg NorSt.maint h :)

theorem append_maint (kind seq : Nat) (p : Blob) (fs : List Nat) : (n.append kind seq p fs).maint = n.maint :=
  (append_arrayOnly n kind seq p fs).maint

theorem beginErase_maint (k : Nat) (use : FwNorUse) : (n.beginErase k use).maint = n.maint := append_maint _ ..

theorem copyBlocks_arrayOnly (k : Nat) (l : List NorRec) : n.ArrayOnly (n.copyBlocks k l) :=
  arrayOnly_foldl _ (fun m _ => writeBlock_arrayOnly m ..) _ n

theorem beginSwap_maint (k : Nat) : (n.beginSwap k).maint = n.maint :=
  (beginErase_maint _ ..).trans ((openSector_arrayOnly n 7 k).trans (copyBlocks_arrayOnly _ 7 (n.standing k))).maint

theorem doWrite_maint (w : NorWrite) : (n.doWrite w).maint = n.maint := by
  cases w with
  | block k kind seq p =>
    unfold NorSt.doWrite
    dsimp only
    split
    · exact beginSwap_maint n k
    · refine (writeBlock_arrayOnly _ _ _ _ _ _).maint.trans ?_
      split
      · exact (openSector_arrayOnly n k 0xFF).maint
      · rfl
  | journal kind seq p fs => exact append_maint n ..
  | flag seq f =>
    unfold NorSt.doWrite
    dsimp only
    split
    · exact (program_arrayOnly n _ _).maint
    · rfl

/-- The writes that wait, made one after another while the engine is free. -/
theorem doWrites_maint (l : List NorWrite) : (l.foldl (fun (n : NorSt) w => if n.engineBusy then { n with later := n.later ++ [w] }
    else n.doWrite w) n).maint = n.maint := by
  induction l generalizing n with
  | nil => rfl
  | cons w l ih =>
    refine (ih _).trans ?_
    dsimp only
    split
    · rfl
    · exact doWrite_maint n w

theorem catchUp_maint : n.catchUp.maint = n.maint := by
  unfold NorSt.catchUp
  split
  · rfl
  · dsimp only
    split
    · exact doWrites_maint _ _
    · split
      · exact (beginErase_maint ..).trans (doWrites_maint _ _)
      · exact doWrites_maint _ _

theorem interrupted_maint : n.interrupted.maint = false := rfl

end

section
variable (s : State)

theorem norRecord_maint (kind : Nat) (p : Blob) (fs : List Nat) : (norRecord kind p fs s).2.nor.maint = s.nor.maint := catchUp_maint _

theorem flushContent_maint (complete : Bool) : (flushContent complete s).nor.maint = false := doWrites_maint _ _

/-- The flush mark stands exactly where the flush was completed. -/
theorem flushContent_flushMark (complete : Bool) : (flushContent complete s).ftl.flushMark = complete := by
  have ended (s : State) : (optDone true s).ftl = s.ftl := by
    unfold optDone
    split
    · rfl
    · split
      · rfl
      · next op _ _ =>
        cases op with
        | word w v => rfl
        | flag w v => rfl
        | erase k r => cases r <;> rfl
  have hnor (s : State) : (flushNor s).ftl = s.ftl := by
    unfold flushNor
    extract_lets u
    have hu : u.ftl = s.ftl := by
      dsimp only [u]
      split
      · exact ended s
      · exact ended s
      · rfl
    exact hu
  unfold flushContent
  rw [hnor]
  cases complete
  · rfl
  · rfl

/-! ### A reset of the whole drive -/

theorem cutResident_supply : (cutResident s).supply = s.supply := by
  unfold cutResident
  split
  · rfl
  · dsimp only
    split
    · rfl
    · rfl

theorem cutFirmware_supply : (cutFirmware s).supply = s.supply := by
  unfold cutFirmware
  split
  · rfl
  · rfl

theorem cut_maint : (cutFirmware (cutResident s)).nor.maint = s.nor.maint := by
  have firmware (s : State) : (cutFirmware s).nor = s.nor := by
    unfold cutFirmware
    split
    · rfl
    · rfl
  rw [firmware]
  unfold cutResident
  split
  · rfl
  · dsimp only
    split
    · exact norRecord_maint _ ..
    · rfl

theorem cut_ftl : (cutFirmware (cutResident s)).ftl = s.ftl := by
  have firmware (s : State) : (cutFirmware s).ftl = s.ftl := by
    unfold cutFirmware
    split
    · rfl
    · rfl
  rw [firmware]
  unfold cutResident
  split
  · rfl
  · dsimp only
    split
    · rfl
    · rfl

theorem cut_supply : (cutFirmware (cutResident s)).supply = s.supply := (cutFirmware_supply _).trans (cutResident_supply s)

/-- A reset of the whole drive after a flush leaves it cleared. -/
theorem wholeReset_cleared (cycle : Bool) (h : s.nor.maint = false) : (wholeReset cycle s).cleared :=
  ⟨rfl, rfl, rfl, rfl, rfl, rfl, rfl, rfl, rfl, rfl, rfl, rfl, rfl, rfl, rfl, rfl, rfl, rfl, rfl, rfl, rfl, rfl, rfl, rfl, rfl, rfl,
    (cut_maint s).trans h⟩

/-- What a power loss leaves of a drive that ran. -/
structure LostPower (f : FlushCost) (s t : State) : Prop where
  cleared : t.cleared
  down : t.power.down = .noPower
  powerLosses : t.power.powerLosses = bump32 s.power.powerLosses
  lastFlushUs : t.power.lastFlushUs = f.us
  lastFlushMj : t.power.lastFlushMj = f.mj
  flushMark : t.ftl.flushMark = f.complete
  vinMv : t.power.vinMv = s.power.vinMv
  mated : t.power.mated = s.power.mated
  pwrdis : t.power.pwrdis = s.power.pwrdis

theorem powerLoss_lostPower (f : FlushCost) (hu : s.power.down = .up) : LostPower f s (powerLoss f s) := by
  unfold powerLoss
  rw [hu]
  dsimp only
  have hsupply := (cut_supply _).trans ((flushContent_supply (controllerReset s) f.complete).trans (controllerReset_supply s))
  have hmark := (congrArg FtlSt.flushMark (cut_ftl _)).trans (flushContent_flushMark (controllerReset s) f.complete)
  have hmaint := flushContent_maint (controllerReset s) f.complete
  generalize flushContent f.complete (controllerReset s) = u at hsupply hmark hmaint ⊢
  exact ⟨wholeReset_cleared u true hmaint, rfl, (congrArg (fun p : PowerSt => bump32 p.powerLosses) hsupply :), rfl, rfl, hmark,
    (congrArg PowerSt.vinMv hsupply :), (congrArg PowerSt.mated hsupply :), (congrArg PowerSt.pwrdis hsupply :)⟩

end

/-- Settles O52: every event is `powerLoss` after its own measure is noted, and a drive that ran flushes, resets and goes down. -/
theorem powerLossFlushesAndResets : Obligations.PowerLossFlushesAndResets := by
  refine ⟨fun s f c hu hc => ?_, fun s f => ⟨fun mv h => congrArg Host.Outcome.next (if_neg (not_lt.mpr h)),
      fun mv h => congrArg Host.Outcome.next (if_neg (not_lt.mpr h)), fun ns h => ?_, fun h => ?_⟩,
    fun s => ⟨rfl, rfl⟩⟩
  · have lost (g : PowerSt → PowerSt) (hg : (g s.power).down = .up) : LostPower f (onPower g s) (powerLoss f (onPower g s)) :=
      powerLoss_lostPower _ f hg
    obtain ⟨mv, hmv, rfl⟩ | ⟨ns, hns, hm, rfl⟩ | rfl | ⟨mv, hmv, rfl⟩ := hc
    · have l := lost (fun p => { p with vinMv := mv }) hu
      refine ⟨_, congrArg Host.Outcome.next (if_pos hmv), l.cleared, l.down, l.powerLosses, l.lastFlushUs, l.lastFlushMj, l.flushMark, ?_, nofun, nofun⟩
      rintro v (h | h)
      · cases h
        exact l.vinMv
      · cases h
    · have l := lost (fun p => { p with mated := false }) hu
      refine ⟨_, congrArg Host.Outcome.next (if_pos (by simp [hm, hns])), l.cleared, l.down, l.powerLosses, l.lastFlushUs, l.lastFlushMj, l.flushMark,
        nofun, fun _ _ => l.mated, nofun⟩
    · have l := lost (fun p => { p with pwrdis := true }) hu
      exact ⟨_, rfl, l.cleared, l.down, l.powerLosses, l.lastFlushUs, l.lastFlushMj, l.flushMark, nofun, nofun, fun _ => l.pwrdis⟩
    · have l := lost (fun p => { p with vinMv := mv }) hu
      refine ⟨_, congrArg Host.Outcome.next (if_pos hmv), l.cleared, l.down, l.powerLosses, l.lastFlushUs, l.lastFlushMj, l.flushMark, ?_, nofun, nofun⟩
      rintro v (h | h)
      · cases h
      · cases h
        exact l.vinMv
  · refine congrArg Host.Outcome.next (if_neg ?_)
    obtain h | h := h
    · simp [h]
    · simp [h]
  · change Host.Outcome.next (powerLoss f _) = _
    rw [powerLoss, show (onPower (fun p => { p with pwrdis := true }) s).power.down = .noPower from h]
    rfl

end Sys2Proof.Machine
end

/-! PROOFS of the family 17_power_reset_firmware and 19_module_and_connector: the throttle (O54). -/

section
namespace Sys2Proof.Machine

/-! ### Steps of the three stages -/

theorem stepDown_power (x y z a b c : Nat) : stepDown [x, y, z] [a, b, c] [0, 1, 2] =
    if a < x then some [a + 1, b, c] else if b < y then some [a, b + 1, c] else if c < z then some [a, b, c + 1] else none := by
  by_cases ha : a < x <;> by_cases hb : b < y <;> by_cases hc : c < z <;> simp [stepDown, modifyAt, ha, hb, hc]

/-- NAND sensors alone take stage 3 first. -/
theorem stepDown_nand (x y z a b c : Nat) (hc : c < z) : stepDown [x, y, z] [a, b, c] [2, 0, 1] = some [a, b, c + 1] := by
  simp [stepDown, modifyAt, hc]

theorem stepUp_power (a b c : Nat) :
    stepUp [a, b, c] [0, 1, 2] = if 0 < c then [a, b, c - 1] else if 0 < b then [a, b - 1, c] else [a - 1, b, c] := by
  by_cases hc : 0 < c <;> by_cases hb : 0 < b <;> by_cases ha : 0 < a <;> simp_all [stepUp, modifyAt]

/-- The three floors: that of the array clock, and two that are fixed. -/
theorem floors_eq (s : State) : s.floors = [s.floors.getD 0 0, 8, 5] := rfl

section
variable {s : State}

/-- Above the cap, one step down is taken; where none is left, the envelope is exceeded. -/
theorem powerStep_above {a b c : Nat} (hs : s.power.powerSteps = [a, b, c]) (hm : 10 * s.capW < s.meanDw) :
    powerStep s =
      if a < s.floors.getD 0 0 then { s with power := { s.power with powerSteps := [a + 1, b, c] } }
      else if b < 8 then { s with power := { s.power with powerSteps := [a, b + 1, c] } }
      else if c < 5 then { s with power := { s.power with powerSteps := [a, b, c + 1] } }
      else if s.power.envelopeExceeded then s
      else vendorEvent 0xC0 { s with power := { s.power with envelopeExceeded := true } } := by
  unfold powerStep
  rw [if_pos hm, hs, floors_eq, stepDown_power]
  by_cases ha : a < s.floors.getD 0 0
  · simp only [List.getD_cons_zero, if_pos ha]
    rfl
  by_cases hb : b < 8
  · simp only [List.getD_cons_zero, if_neg ha, if_pos hb]
    rfl
  by_cases hc : c < 5
  · simp only [List.getD_cons_zero, if_neg ha, if_neg hb, if_pos hc]
    rfl
  · simp only [List.getD_cons_zero, if_neg ha, if_neg hb, if_neg hc]
    rfl

/-- At or below the cap, the envelope is not exceeded; after 10 ms below it one step is undone, but not during a sag. -/
theorem powerStep_below (hm : s.meanDw ≤ 10 * s.capW) :
    powerStep s = if 1000 ≤ s.power.belowRun ∧ s.power.supplySag = false then
        { s with power := { s.power with envelopeExceeded := false, powerSteps := stepUp s.power.powerSteps [0, 1, 2] } }
      else { s with power := { s.power with envelopeExceeded := false } } := by
  unfold powerStep
  rw [if_neg (by omega)]
  dsimp only [onPower]
  simp only [Bool.and_eq_true, decide_eq_true_eq, Bool.not_eq_true']

/-- A step that finds one sensor, by what the sensor reads. -/
theorem lightHot_one (x : Sensor) (deg : Nat) :
    lightHot [(x, deg)] = match sensorPoints x with
      | some p => decide (p.1 ≤ deg)
      | none => false := by
  cases x <;> simp [lightHot, anySensor, sensorPoints]

theorem thermalStep_nand {n deg a b c : Nat} (ht : s.power.temps = [(.nand n, deg)]) (hs : s.power.thermalSteps = [a, b, c])
    (hdeg : 70 ≤ deg) (hc : c < 5) : thermalStep s = { s with power := { s.power with thermalSteps := [a, b, c + 1] } } := by
  unfold thermalStep
  rw [ht, hs]
  dsimp only
  rw [if_pos (by simp [lightHot_one, sensorPoints, hdeg]), if_neg (by simp [anySensor, sensorPoints]), floors_eq, stepDown_nand _ _ _ _ _ _ hc]
  rfl

theorem thermalStep_die {n deg a b c : Nat} (ht : s.power.temps = [(.die n, deg)]) (hs : s.power.thermalSteps = [a, b, c])
    (hdeg : 100 ≤ deg) (ha : a < s.floors.getD 0 0) :
    thermalStep s = { s with power := { s.power with thermalSteps := [a + 1, b, c] } } := by
  unfold thermalStep
  rw [ht, hs]
  dsimp only
  rw [if_pos (by simp [lightHot_one, sensorPoints, hdeg]), if_pos (by simp [anySensor, sensorPoints, hdeg]), floors_eq, stepDown_power, if_pos ha]
  rfl

/-- Within 2 °C below its throttle point a sensor holds the stages where they are. -/
theorem thermalStep_held {n deg : Nat} (ht : s.power.temps = [(.die n, deg)]) (h1 : 98 < deg) (h2 : deg < 100) : thermalStep s = s := by
  unfold thermalStep
  rw [ht]
  dsimp only
  rw [if_neg (by simp [lightHot_one, sensorPoints, h2]), if_pos (by simp [anySensor, sensorPoints]; omega)]

/-- With no sensor read and no stage taken there is nothing to undo. -/
theorem thermalStep_idle (ht : s.power.temps = []) (hs : s.power.thermalSteps = [0, 0, 0]) : thermalStep s = s := by
  have hundone : stepUp s.power.thermalSteps [0, 1, 2] = s.power.thermalSteps := by rw [hs]; decide
  unfold thermalStep
  rw [ht]
  change onPower (fun p => { p with thermalSteps := stepUp p.thermalSteps [0, 1, 2] }) s = s
  rw [onPower, hundone]

theorem exec_throttleStep (hu : s.up = true) : exec .throttleStep s = .next (thermalStep (powerStep s)) :=
  congrArg Host.Outcome.next (if_pos hu)

/-- Without heat, a step is that of the power throttle. -/
theorem exec_throttleStep_idle (hu : s.up = true) (ht : s.power.temps = []) (hs : s.power.thermalSteps = [0, 0, 0])
    (kept : (powerStep s).power.temps = s.power.temps ∧ (powerStep s).power.thermalSteps = s.power.thermalSteps) :
    exec .throttleStep s = .next (powerStep s) := by
  rw [exec_throttleStep hu, thermalStep_idle (kept.1.trans ht) (kept.2.trans hs)]

/-- The power throttle leaves the sensors and the thermal stages alone. -/
theorem powerStep_keeps_thermal (s : State) :
    (powerStep s).power.temps = s.power.temps ∧ (powerStep s).power.thermalSteps = s.power.thermalSteps := by
  unfold powerStep
  split
  · split
    · exact ⟨rfl, rfl⟩
    · split
      · exact ⟨rfl, rfl⟩
      · have hv := vendorEvent_supply (onPower (fun p => { p with envelopeExceeded := true }) s) 0xC0
        exact ⟨(congrArg PowerSt.temps hv :), (congrArg PowerSt.thermalSteps hv :)⟩
  · dsimp only
    split
    · exact ⟨rfl, rfl⟩
    · exact ⟨rfl, rfl⟩

/-! ### Samples -/

/-- A power sample while the drive runs, whatever it does to the run of samples below the cap. -/
theorem exec_powerSample (dw : Nat) (hu : s.up = true) : ∃ n, exec (.powerSample dw) s = .next (
    let t := onPower (fun p => { p with
      samples := (dw :: p.samples).take 1000, energyUj := p.energyUj + dw, belowRun := n }) s
    if 1650 < dw then arrayToFloor (onPower (fun p => { p with peakLimits := bump32 p.peakLimits }) t) else t) :=
  ⟨_, congrArg Host.Outcome.next (if_neg (by simp [hu]))⟩

/-- A power sample enters the mean and the energy; a peak takes the array clock to its floor. -/
theorem powerSample_effect (dw : Nat) (hu : s.up = true) : ∃ t, exec (.powerSample dw) s = .next t ∧
    t.power.samples = (dw :: s.power.samples).take 1000 ∧ t.power.energyUj = s.power.energyUj + dw ∧
    t.power.peakLimits = (if 1650 < dw then bump32 s.power.peakLimits else s.power.peakLimits) ∧
    t.power.powerSteps = (if 1650 < dw then modifyAt s.power.powerSteps 0 (fun _ => s.floors.getD 0 0) else s.power.powerSteps) ∧
    t = { s with power := t.power } := by
  obtain ⟨n, hexec⟩ := exec_powerSample dw hu
  refine ⟨_, hexec, ?_⟩
  by_cases hp : 1650 < dw
  · simp only [if_pos hp]
    exact ⟨rfl, rfl, rfl, rfl, rfl⟩
  · simp only [if_neg hp]
    exact ⟨rfl, rfl, rfl, rfl, rfl⟩

/-- A sample of a die's sensor while the drive runs. -/
theorem exec_dieSample (n deg : Nat) (f : FlushCost) (hu : s.power.down = .up) :
    exec (.temperatureSample (.die n) deg f) s = .next (dieReading s.power.temps f
      (onPower (fun p => { p with temps := (p.temps.filter fun x => x.1 != .die n) ++ [(.die n, deg)] }) s)) := by
  change execTemperatureSample (.die n) deg f s = _
  simp [execTemperatureSample, onPower, hu]

/-- A sensor of a die at its critical point is found among any others. -/
theorem critical_die (l : List (Sensor × Nat)) (n : Nat) {deg : Nat} (h : 115 ≤ deg) :
    anySensor (l ++ [(.die n, deg)]) (fun _ t p => decide (p.2.2 ≤ t)) = true := by
  simp [anySensor, sensorPoints, h]

theorem dieReading_critical {old : List (Sensor × Nat)} {f : FlushCost}
    (h : anySensor s.power.temps (fun _ t p => decide (p.2.2 ≤ t)) = true) :
    (dieReading old f s).cleared ∧ (dieReading old f s).power.down = .hot := by
  unfold dieReading
  dsimp only
  rw [if_pos h]
  exact ⟨wholeReset_cleared _ true (flushContent_maint _ _), rfl⟩

theorem setCritical_temps (b i : Nat) (s : State) : (setCritical b i s).power.temps = s.power.temps :=
  (congrArg PowerSt.temps (setCritical_supply s b i) :)

theorem setCritical_down (b i : Nat) (s : State) : (setCritical b i s).power.down = s.power.down :=
  (congrArg PowerSt.down (setCritical_supply s b i) :)

theorem setCritical_thermalSteps (b i : Nat) (s : State) : (setCritical b i s).power.thermalSteps = s.power.thermalSteps :=
  (congrArg PowerSt.thermalSteps (setCritical_supply s b i) :)

theorem dieReading_heavy {old : List (Sensor × Nat)} {f : FlushCost}
    (hc : anySensor s.power.temps (fun _ t p => decide (p.2.2 ≤ t)) = false) (hh : heavyHot s.power.temps = true) :
    (dieReading old f s).host.critWarn.testBit 1 = true ∧ (dieReading old f s).power.thermalSteps = s.floors ∧
      (dieReading old f s).power.temps = s.power.temps ∧ (dieReading old f s).power.down = s.power.down := by
  unfold dieReading
  dsimp only
  rw [if_neg (by simp [hc]), if_pos hh]
  exact ⟨setCritical_testBit .., setCritical_thermalSteps .., setCritical_temps .., setCritical_down ..⟩

/-- An array die that has idled for its bells is gated, once. -/
theorem exec_arrayIdleGate {d : Nat} (hu : s.up = true) (hd : d = 3 ∨ d = 4) (hs : s.dieServes d = true) (hg : d ∉ s.eng.gated) :
    exec (.arrayIdleGate d) s = .next (if s.img.active.idleGate ≠ 0 ∧ s.img.active.idleGate ≤ s.eng.idleBells.getD (d - 3) 0 then
      { s with eng := { s.eng with gated := s.eng.gated ++ [d] } } else s) := by
  change execArrayIdleGate d s = _
  have hdie : (d == 3 || d == 4) = true := by simpa using hd
  simp [execArrayIdleGate, hu, hdie, hs, hg]

end

/-- Settles O54: the power throttle and the thermal throttle each by the one step they take, and a sample by the branch of its reading. -/
theorem throttleFollowsPowerAndHeat : Obligations.ThrottleFollowsPowerAndHeat := by
  refine ⟨fun s dw hu => powerSample_effect dw hu, fun s a b c hu ht hs h0 => ⟨fun hm => ?_, fun hm hb hsag => ?_, fun hm hb => ?_⟩,
    fun s n deg a b c hu hm hb hs => ?_, fun s deg f hu => ⟨fun n h1 h2 ht => ?_, fun n h => ?_⟩, fun s d hu hd hs hg => ?_⟩
  · rw [exec_throttleStep_idle hu ht h0 (powerStep_keeps_thermal s), powerStep_above hs hm]
    refine ⟨fun ha => by rw [if_pos ha], fun ha hb => ?_, fun ha hb hc => ?_, fun ha hb hc he => ?_⟩
    · rw [if_neg (by omega), if_pos hb]
    · rw [if_neg (by omega), if_neg (by omega), if_pos hc]
    · rw [if_neg (by omega), if_neg (by omega), if_neg (by omega), if_neg (by simp [he])]
  · rw [exec_throttleStep_idle hu ht h0 (powerStep_keeps_thermal s), powerStep_below hm, if_pos ⟨hb, hsag⟩, hs, stepUp_power]
    refine ⟨fun hc => by rw [if_pos hc], fun hc hb => ?_, fun hc hb => ?_⟩
    · rw [if_neg (by omega), if_pos hb]
    · rw [if_neg (by omega), if_neg (by omega)]
  · rw [exec_throttleStep_idle hu ht h0 (powerStep_keeps_thermal s), powerStep_below hm, if_neg]
    rintro ⟨h1, h2⟩
    obtain hb | hb := hb
    · omega
    · simp [hb] at h2
  · rw [exec_throttleStep hu, powerStep_below hm, if_neg (by omega)]
    refine ⟨fun ht hdeg hc => congrArg _ ?_, fun ht hdeg ha => congrArg _ ?_, fun ht h1 h2 => congrArg _ ?_⟩
    · exact thermalStep_nand ht hs hdeg hc
    · exact thermalStep_die ht hs hdeg ha
    · exact thermalStep_held ht h1 h2
  · have htemps : (s.power.temps.filter fun x => x.1 != .die n) ++ [(.die n, deg)] = [(Sensor.die n, deg)] := by rw [ht]; rfl
    rw [exec_dieSample n deg f hu, onPower, htemps]
    obtain ⟨hbit, hsteps, hkept, hdown⟩ := dieReading_heavy (s := { s with power := { s.power with temps := [(.die n, deg)] } })
      (old := s.power.temps) (f := f) (by simpa [anySensor, sensorPoints] using h2) (by simpa [heavyHot, anySensor, sensorPoints] using h1)
    exact ⟨_, rfl, hsteps, hbit, hkept, hdown.trans hu⟩
  · have hcritical := dieReading_critical (old := s.power.temps) (f := f)
      (s := onPower (fun p => { p with temps := (p.temps.filter fun x => x.1 != .die n) ++ [(.die n, deg)] }) s) (critical_die _ n h)
    exact ⟨_, exec_dieSample n deg f hu, hcritical.1, hcritical.2⟩
  · rw [exec_arrayIdleGate hu hd hs hg]
    refine ⟨fun h0 h1 => by rw [if_pos ⟨h0, h1⟩], fun h => ?_⟩
    rw [if_neg (by omega)]

end Sys2Proof.Machine
end

/-! PROOFS of the family 15_option_store: the ends of option operations (O59). -/

section
namespace Sys2Proof.Machine

/-! ### Words of the array -/

theorem mem_setKey {α : Type} {k : Nat} {v : α} {l : List (Nat × α)} {x : Nat × α} (h : x ∈ setKey k v l) : x = (k, v) ∨ x ∈ l := by
  induction l with
  | nil => simpa [setKey] using h
  | cons a r ih =>
    obtain ⟨i, w⟩ := a
    unfold setKey at h
    split at h
    · simpa using h
    · split at h
      · obtain h | h := List.mem_cons.mp h
        · exact .inl h
        · exact .inr (List.mem_cons_of_mem _ h)
      · obtain h | h := List.mem_cons.mp h
        · exact .inr (h ▸ List.mem_cons_self)
        · exact (ih h).imp_right (List.mem_cons_of_mem _)

theorem mem_dropKey {α : Type} {k : Nat} {l : List (Nat × α)} {x : Nat × α} (h : x ∈ dropKey k l) : x ∈ l ∧ x.1 ≠ k := by
  simpa [dropKey] using h

theorem word_setWord (n : NorSt) (w x : Nat) (v : BitVec 64) : (n.setWord w v).word x = if x = w then v else n.word x := by
  unfold NorSt.setWord NorSt.word
  split
  next hv =>
    rw [lookup_dropKey]
    split
    · exact hv.symm
    · rfl
  next =>
    rw [lookup_setKey]
    split
    · rfl
    · rfl

theorem word_program_same {n : NorSt} {w : Nat} (v : BitVec 64) (h : n.refuses w = false) : (n.program w v).word w = n.word w &&& v := by
  unfold NorSt.program
  rw [if_neg (by simp [h])]
  exact (word_setWord n w w _).trans (if_pos rfl)

theorem word_program_other (n : NorSt) {w x : Nat} (v : BitVec 64) (h : x ≠ w) : (n.program w v).word x = n.word x := by
  unfold NorSt.program
  split
  · rfl
  · exact (word_setWord n w x _).trans (if_neg h)

/-- A program lists no other word anew. -/
theorem mem_words_program {n : NorSt} {w : Nat} {v : BitVec 64} {x : Nat × BitVec 64} (h : x ∈ (n.program w v).words) :
    x.1 = w ∨ x ∈ n.words := by
  unfold NorSt.program at h
  split at h
  · exact .inr h
  · simp only [NorSt.setWord] at h
    split at h
    · exact .inr (mem_dropKey h).1
    · exact (mem_setKey h).imp_left (congrArg Prod.fst)

theorem sector_congr {n m : NorSt} (h : m.sectors = n.sectors) (k : Nat) : m.sector k = n.sector k := by
  unfold NorSt.sector
  rw [h]

theorem sector_setSector (n : NorSt) (k : Nat) (x : Sector) : (n.setSector k x).sector k = x := by
  unfold NorSt.setSector NorSt.sector
  dsimp only
  split
  next hx =>
    rw [lookup_dropKey, if_pos rfl]
    exact hx.symm
  next =>
    rw [lookup_setKey, if_pos rfl]
    rfl

theorem mem_sectors_setSector {n : NorSt} {k : Nat} {y : Sector} {x : Nat × Sector} (h : x ∈ (n.setSector k y).sectors) :
    x = (k, y) ∨ x ∈ n.sectors := by
  unfold NorSt.setSector at h
  dsimp only at h
  split at h
  · exact .inr (mem_dropKey h).1
  · exact mem_setKey h

/-- In an account sorted by number a sector that is set stands once. -/
theorem mem_setKey_sorted {α : Type} {k : Nat} {v : α} {l : List (Nat × α)} {x : Nat × α} (hl : (l.map Prod.fst).Pairwise (· < ·))
    (h : x ∈ setKey k v l) (hk : x.1 = k) : x.2 = v := by
  induction l with
  | nil =>
    rw [setKey, List.mem_singleton] at h
    rw [h]
  | cons a r ih =>
    obtain ⟨i, w⟩ := a
    rw [List.map_cons, List.pairwise_cons] at hl
    obtain ⟨hi, hr⟩ := hl
    have later : ∀ y ∈ r, i < y.1 := fun y hy => hi y.1 (List.mem_map_of_mem hy)
    unfold setKey at h
    split at h
    next hlt =>
      obtain h | h := List.mem_cons.mp h
      · rw [h]
      · obtain h | h := List.mem_cons.mp h
        · rw [h] at hk
          exact absurd hk (by omega)
        · exact absurd (later x h) (by omega)
    next =>
      split at h
      next heq =>
        obtain h | h := List.mem_cons.mp h
        · rw [h]
        · exact absurd (later x h) (by omega)
      next hne =>
        obtain h | h := List.mem_cons.mp h
        · rw [h] at hk
          exact absurd hk.symm hne
        · exact ih hr h

theorem mem_sectors_setSector_sorted {n : NorSt} {k : Nat} {y : Sector} {x : Nat × Sector}
    (hl : (n.sectors.map Prod.fst).Pairwise (· < ·)) (h : x ∈ (n.setSector k y).sectors) (hk : x.1 = k) : x.2 = y := by
  unfold NorSt.setSector at h
  dsimp only at h
  split at h
  · exact absurd hk (mem_dropKey h).2
  · exact mem_setKey_sorted hl h hk

/-! ### An erase and its header -/

/-- Every word of a sector but the two of its header reads all ones. -/
def NorSt.blank (n : NorSt) (k : Nat) : Prop :=
  ∀ w, w / 8192 = k → w ≠ k * 8192 → w ≠ k * 8192 + 1 → n.word w = BitVec.allOnes 64

section
variable (n : NorSt) (k e : Nat)

theorem word_erase {w : Nat} (h : w / 8192 = k) : (n.erase k).word w = BitVec.allOnes 64 := by
  unfold NorSt.word NorSt.erase lookupNat
  rw [List.find?_eq_none.mpr]
  · rfl
  · intro x hx
    have hx' : x.1 / 8192 ≠ k := by simpa using (List.mem_filter.mp hx).2
    simp only [beq_iff_eq]
    rintro rfl
    exact hx' h

/-- The header is all that a confirmed erase leaves programmed. -/
theorem erase_confirm_blank : ((n.erase k).confirm k e).blank k := by
  intro w hw h0 h1
  change (((n.erase k).program (k * 8192 + 1) _).program (k * 8192) _).word w = _
  rw [word_program_other _ _ h0, word_program_other _ _ h1, word_erase n k hw]

theorem erase_confirm_listed (x : Nat × BitVec 64) (h : x ∈ ((n.erase k).confirm k e).words) (hk : x.1 / 8192 = k) :
    x.1 = k * 8192 ∨ x.1 = k * 8192 + 1 := by
  obtain h | h := mem_words_program h
  · exact .inl h
  · obtain h | h := mem_words_program h
    · exact .inr h
    · have hx : x.1 / 8192 ≠ k := by simpa using (List.mem_filter.mp h).2
      exact absurd hk hx

end

/-- Closing a record leaves a sector blank that holds its header alone: a header is no block. -/
theorem closeRecord_blank {n : NorSt} {k : Nat} (hb : n.blank k)
    (listed : ∀ x ∈ n.words, x.1 / 8192 = k → x.1 = k * 8192 ∨ x.1 = k * 8192 + 1) (q : Nat) : (n.doWrite (.flag q 2)).blank k := by
  intro w hw h0 h1
  unfold NorSt.doWrite
  dsimp only
  split
  next blk hblk =>
    obtain ⟨x, hx, hxb⟩ := Option.map_eq_some_iff.mp hblk
    have hfound := List.find?_some hx
    simp only [Bool.and_eq_true, beq_iff_eq, bne_iff_ne] at hfound
    have elsewhere : x.1 / 8192 ≠ k := fun hk => by
      obtain h | h := listed x (List.mem_of_find?_eq_some hx) hk
      · omega
      · omega
    rw [word_program_other _ _ (by omega)]
    exact hb w hw h0 h1
  next => exact hb w hw h0 h1

theorem closeRecord_arrayOnly (n : NorSt) (q : Nat) : n.ArrayOnly (n.doWrite (.flag q 2)) := by
  unfold NorSt.doWrite
  dsimp only
  split
  · exact program_arrayOnly n ..
  · exact .refl n

theorem program_sectors (n : NorSt) (w : Nat) (v : BitVec 64) : (n.program w v).sectors = n.sectors := by
  unfold NorSt.program
  split
  · rfl
  · rfl

theorem program_window (n : NorSt) (w : Nat) (v : BitVec 64) : (n.program w v).window = n.window := by
  unfold NorSt.program
  split
  · rfl
  · rfl

/-- Closing the record of an erase moves no sector. -/
theorem closeRecord_sectors (n : NorSt) (q : Nat) : (n.doWrite (.flag q 2)).sectors = n.sectors := by
  unfold NorSt.doWrite
  dsimp only
  split
  · exact program_sectors n ..
  · rfl

theorem closeRecord_window (n : NorSt) (q : Nat) : (n.doWrite (.flag q 2)).window = n.window := by
  unfold NorSt.doWrite
  dsimp only
  split
  · exact program_window n ..
  · rfl

/-- A confirmed erase touches no sector's account but its own, and not the window. -/
theorem erase_confirm_sectors (n : NorSt) (k e : Nat) : ((n.erase k).confirm k e).sectors = (n.setSector k ⟨e, .confirmed⟩).sectors := by
  unfold NorSt.confirm NorSt.setSector
  dsimp only
  rw [program_sectors, program_sectors]
  rfl

theorem erase_confirm_window (n : NorSt) (k e : Nat) : ((n.erase k).confirm k e).window = n.window :=
  (program_window ..).trans (program_window ..)

theorem erase_confirm_arrayOnly (n : NorSt) (k e : Nat) : n.ArrayOnly ((n.erase k).confirm k e) :=
  NorSt.ArrayOnly.trans (m := n.erase k) rfl (confirm_arrayOnly _ k e)

namespace NorSt.ArrayOnly
variable {n m : NorSt} (h : n.ArrayOnly m)
include h

theorem later : m.later = n.later := (congrArg NorSt.later h :)
theorem hostOp : m.hostOp = n.hostOp := (congrArg NorSt.hostOp h :)
theorem done : m.done = n.done := (congrArg NorSt.done h :)

end NorSt.ArrayOnly

/-! ### After the end of an operation -/

/-- No journal sector that has left the window waits to be erased. -/
def NorSt.settled (n : NorSt) : Prop := ∀ x ∈ n.sectors, x.2.state = .opened → 16 ≤ x.1 → x.1 ∈ n.window

/-- With nothing that waits and no erase due, there is nothing to catch up with. -/
theorem catchUp_settled {n : NorSt} (hl : n.later = []) (hs : n.settled) : n.catchUp = n := by
  have hn : { n with later := [] } = n := by rw [← hl]
  unfold NorSt.catchUp
  split
  · rfl
  · dsimp only
    rw [hl, List.foldl_nil, hn]
    split
    · rfl
    · rw [List.find?_eq_none.mpr]
      intro x hx
      simp only [Bool.and_eq_true, beq_iff_eq, decide_eq_true_eq, Bool.not_eq_true', List.contains_eq_mem, decide_eq_false_iff_not, not_and,
        not_not, and_imp]
      exact hs x hx

/-- What touches no account of the journal gives nothing to catch up with. -/
theorem catchUp_of_same {n m : NorSt} (hl : n.later = []) (hs : n.settled) (ml : m.later = n.later) (ms : m.sectors = n.sectors)
    (mw : m.window = n.window) : m.catchUp = m :=
  catchUp_settled (ml.trans hl) fun x hx ho h16 => mw ▸ hs x (ms ▸ hx) ho h16

/-- A sector set to a state that is not open leaves nothing to erase. -/
theorem NorSt.settled.setSector {n : NorSt} (h : n.settled) (k : Nat) {y : Sector} (hy : y.state ≠ .opened) : (n.setSector k y).settled := by
  intro x hx ho h16
  obtain rfl | hx := mem_sectors_setSector hx
  · exact absurd ho hy
  · exact h x hx ho h16

/-- The one sector that was due is set to a state that is not open. -/
theorem settled_setSector_due {n : NorSt} {k : Nat} {y : Sector} (hsort : (n.sectors.map Prod.fst).Pairwise (· < ·))
    (hs : ∀ x ∈ n.sectors, x.2.state = .opened → 16 ≤ x.1 → x.1 ∈ n.window ∨ x.1 = k) (hy : y.state ≠ .opened) :
    (n.setSector k y).settled := by
  intro x hx ho h16
  have helse : x.1 ≠ k := fun hk => hy (mem_sectors_setSector_sorted hsort hx hk ▸ ho)
  obtain rfl | hx := mem_sectors_setSector hx
  · exact absurd rfl helse
  · exact (hs x hx ho h16).resolve_right helse

/-! ### The end of a program -/

/-- The host's operation has ended. -/
def NorSt.idled (n : NorSt) : NorSt := { n with hostBusy := false, hostOp := none }

/-- A failure is noted in the error log alone. -/
theorem norFailure_frame (k : Nat) (s : State) (n : NorSt) (free : Nat) : norFailure k { s with nor := n, free := free } =
    { s with nor := n, dies := (norFailure k s).dies, free := free } := rfl

section
variable {s : State} {w : Nat} {v : BitVec 64} (hf : s.nor.fwBusy = false) (hl : s.nor.later = []) (hs : s.nor.settled)
  (hop : s.nor.hostOp = some (.word w v) ∨ (s.nor.hostOp = some (.flag w v) ∧ w / 8 % 1024 ≠ 1023))
include hf hl hs hop

theorem optDone_program_good : optDone true s = { s with nor := { (s.nor.program w v).idled with done := true } } := by
  have hcatch : { (s.nor.program w v).idled with done := true }.catchUp = { (s.nor.program w v).idled with done := true } :=
    catchUp_of_same hl hs (program_arrayOnly s.nor w v).later (program_sectors s.nor w v) (program_window s.nor w v)
  refine Eq.trans ?_ (congrArg (fun m => { s with nor := m }) hcatch)
  obtain hop | ⟨hop, hlast⟩ := hop
  · simp only [optDone, hop, hf]
    rfl
  · simp only [optDone, hop, hf, hlast]
    rfl

theorem optDone_program_bad : optDone false s = { s with
    nor := { (s.nor.program w (v ||| Config.freeWord s.free)).idled with err := 5, errValid := true, errSector := w / 8192 }
    dies := (norFailure (w / 8192) s).dies
    free := s.free + 1 } := by
  have hcatch := catchUp_of_same (m := { (s.nor.program w (v ||| Config.freeWord s.free)).idled with
    err := 5, errValid := true, errSector := w / 8192 }) hl hs (program_arrayOnly s.nor w _).later (program_sectors s.nor w _)
    (program_window s.nor w _)
  have hended : optDone false s = onNor NorSt.catchUp (norFailure (w / 8192)
      (onNor (fun n => { n with err := 5, errValid := true, errSector := w / 8192 }) (onNor NorSt.idled (failedProgram w v s)))) := by
    obtain hop | ⟨hop, hlast⟩ := hop
    · simp only [optDone, hop, hf]
      rfl
    · simp only [optDone, hop, hf, hlast]
      rfl
  have hstore : onNor (fun n => { n with err := 5, errValid := true, errSector := w / 8192 }) (onNor NorSt.idled (failedProgram w v s)) =
      { s with nor := { (s.nor.program w (v ||| Config.freeWord s.free)).idled with err := 5, errValid := true, errSector := w / 8192 },
               free := s.free + 1 } := rfl
  rw [hended, hstore, norFailure_frame]
  exact congrArg (fun m => { s with nor := m, dies := (norFailure (w / 8192) s).dies, free := s.free + 1 }) hcatch

end

/-! ### The end of a host's erase -/

theorem settled_erase_confirm {n : NorSt} (hs : n.settled) (k e q : Nat) :
    (((n.erase k).confirm k e).doWrite (.flag q 2)).settled := by
  intro x hx ho h16
  rw [closeRecord_sectors, erase_confirm_sectors] at hx
  rw [closeRecord_window, erase_confirm_window]
  exact hs.setSector k (by simp) x hx ho h16

section
variable {s : State} {k q : Nat} (hf : s.nor.fwBusy = false) (hl : s.nor.later = []) (hs : s.nor.settled)
  (hop : s.nor.hostOp = some (.erase k (some q)))
include hf hl hs hop

theorem optDone_erase_good : optDone true s = { s with nor :=
    { (((s.nor.erase k).confirm k ((s.nor.sector k).erases + 1)).doWrite (.flag q 2)).idled with done := true } } := by
  have hclosed := (erase_confirm_arrayOnly s.nor k ((s.nor.sector k).erases + 1)).trans (closeRecord_arrayOnly _ q)
  have hcatch : { (((s.nor.erase k).confirm k ((s.nor.sector k).erases + 1)).doWrite (.flag q 2)).idled with done := true }.catchUp = _ :=
    catchUp_of_same (hclosed.later.trans hl) (settled_erase_confirm hs k _ q) rfl rfl rfl
  generalize hm : ((s.nor.erase k).confirm k ((s.nor.sector k).erases + 1)).doWrite (.flag q 2) = m at hcatch ⊢
  have hended : optDone true s = onNor NorSt.catchUp (onNor (fun n => { n with done := true }) (onNor NorSt.idled
      (onNor (fun _ => m) s))) := by
    simp only [optDone, hop, hf, ← hm]
    rfl
  exact hended.trans (congrArg (fun m => { s with nor := m }) hcatch)

/-- A sector whose erase did not verify: its words are in part as they were, and nothing else of the store has changed. -/
theorem optDone_erase_bad : optDone false s = { norFailure k (failedErase k s) with
    nor := { ((failedErase k s).nor.setSector k ⟨(s.nor.sector k).erases, .unconfirmed⟩).idled with
      err := 5, errValid := true, errSector := k } } := by
  have hset : ((failedErase k s).nor.setSector k ⟨(s.nor.sector k).erases, .unconfirmed⟩).settled :=
    NorSt.settled.setSector (n := (failedErase k s).nor) hs k (by simp)
  have hcatch := catchUp_of_same (n := (failedErase k s).nor.setSector k ⟨(s.nor.sector k).erases, .unconfirmed⟩)
    (m := { ((failedErase k s).nor.setSector k ⟨(s.nor.sector k).erases, .unconfirmed⟩).idled with
      err := 5, errValid := true, errSector := k }) hl hset rfl rfl rfl
  refine Eq.trans ?_ (congrArg (fun m => { norFailure k (failedErase k s) with nor := m }) hcatch)
  simp only [optDone, hop, hf]
  rfl

end

/-! ### The end of the drive's own erase -/

/-- The drive's own operation has ended. -/
def NorSt.freed (n : NorSt) : NorSt := { n with fwBusy := false, fwOp := none }

/-- With no operation of the host that waits, the store catches up with its own writes. -/
theorem catchUp_noHost {n : NorSt} (h : n.hostOp = none) : (if n.hostOp.isSome then n.startHost else n.catchUp) = n.catchUp := by
  rw [h]
  rfl

section
variable {s : State} {f : FwNorOp} (hf : s.nor.fwOp = some f) (hl : s.nor.later = []) (hop : s.nor.hostOp = none)
include hf hop

include hl in
theorem norEraseEnd_journal_good (hu : f.use = .journal) (hsort : (s.nor.sectors.map Prod.fst).Pairwise (· < ·))
    (hs : ∀ x ∈ s.nor.sectors, x.2.state = .opened → 16 ≤ x.1 → x.1 ∈ s.nor.window ∨ x.1 = f.sector) :
    norEraseEnd true s = { s with nor := ((s.nor.erase f.sector).confirm f.sector f.erases).freed.doWrite (.flag f.record 2) } := by
  have hclosed := closeRecord_arrayOnly ((s.nor.erase f.sector).confirm f.sector f.erases).freed f.record
  have hconfirmed := erase_confirm_arrayOnly s.nor f.sector f.erases
  have hset := settled_setSector_due hsort hs (y := ⟨f.erases, .confirmed⟩) (by simp)
  have hcatch := catchUp_of_same (n := s.nor.setSector f.sector ⟨f.erases, .confirmed⟩)
    (m := ((s.nor.erase f.sector).confirm f.sector f.erases).freed.doWrite (.flag f.record 2)) hl hset
    (hclosed.later.trans hconfirmed.later) ((closeRecord_sectors ..).trans (erase_confirm_sectors ..))
    ((closeRecord_window ..).trans (erase_confirm_window ..))
  have hhost := hclosed.hostOp.trans (hconfirmed.hostOp.trans hop)
  have hended : norEraseEnd true s = onNor (fun n => if n.hostOp.isSome then n.startHost else n.catchUp)
      { s with nor := ((s.nor.erase f.sector).confirm f.sector f.erases).freed.doWrite (.flag f.record 2) } := by
    simp only [norEraseEnd, hf, hu]
    rfl
  rw [hended]
  exact congrArg (fun m => { s with nor := m }) ((catchUp_noHost hhost).trans hcatch)

include hl in
theorem norEraseEnd_journal_bad (h16 : 16 ≤ f.sector) (hsort : (s.nor.sectors.map Prod.fst).Pairwise (· < ·))
    (hs : ∀ x ∈ s.nor.sectors, x.2.state = .opened → 16 ≤ x.1 → x.1 ∈ s.nor.window ∨ x.1 = f.sector) :
    norEraseEnd false s = { norFailure f.sector (failedErase f.sector s) with
      nor := (failedErase f.sector s).nor.freed.setSector f.sector ⟨f.erases, .failed⟩ } := by
  have hset := settled_setSector_due hsort hs (y := ⟨f.erases, .failed⟩) (by simp)
  have hcatch := catchUp_of_same (n := s.nor.setSector f.sector ⟨f.erases, .failed⟩)
    (m := (failedErase f.sector s).nor.freed.setSector f.sector ⟨f.erases, .failed⟩) hl hset rfl rfl rfl
  have hhost : ((failedErase f.sector s).nor.freed.setSector f.sector ⟨f.erases, .failed⟩).hostOp = none := hop
  have hended : norEraseEnd false s = onNor (fun n => if n.hostOp.isSome then n.startHost else n.catchUp)
      { norFailure f.sector (failedErase f.sector s) with
        nor := (failedErase f.sector s).nor.freed.setSector f.sector ⟨f.erases, .failed⟩ } := by
    simp only [norEraseEnd, hf, if_pos h16]
    rfl
  rw [hended]
  exact congrArg (fun m => { norFailure f.sector (failedErase f.sector s) with nor := m })
    ((catchUp_noHost hhost).trans hcatch)

/-- The target of a swap is followed by its source. -/
theorem norEraseEnd_swapTarget (hu : f.use = .swapTarget) :
    ∃ n : NorSt, norEraseEnd true s = { s with nor := n.beginErase 7 .swapSource } := by
  have hconfirmed := erase_confirm_arrayOnly s.nor f.sector f.erases
  have hclosed := closeRecord_arrayOnly ((s.nor.erase f.sector).confirm f.sector f.erases).freed f.record
  have hopened := openSector_arrayOnly (((s.nor.erase f.sector).confirm f.sector f.erases).freed.doWrite (.flag f.record 2)) f.sector 0xFF
  have hcopied := copyBlocks_arrayOnly ((((s.nor.erase f.sector).confirm f.sector f.erases).freed.doWrite (.flag f.record 2)).openSector
    f.sector 0xFF) f.sector ((((s.nor.erase f.sector).confirm f.sector f.erases).freed.doWrite (.flag f.record 2)).recs 7)
  have hhost := hcopied.hostOp.trans (hopened.hostOp.trans (hclosed.hostOp.trans (hconfirmed.hostOp.trans hop)))
  have hended : norEraseEnd true s = onNor (fun n => if n.hostOp.isSome then n.startHost else n.catchUp) { s with nor :=
      (((((s.nor.erase f.sector).confirm f.sector f.erases).freed.doWrite (.flag f.record 2)).openSector f.sector 0xFF).copyBlocks
        f.sector ((((s.nor.erase f.sector).confirm f.sector f.erases).freed.doWrite (.flag f.record 2)).recs 7)).beginErase 7 .swapSource } := by
    simp only [norEraseEnd, hf, hu]
    rfl
  rw [hended]
  generalize NorSt.copyBlocks _ _ _ = m at hhost ⊢
  have hbegun : (m.beginErase 7 .swapSource).hostOp = m.hostOp := (append_arrayOnly _ ..).hostOp
  exact ⟨m, congrArg (fun m => { s with nor := m }) ((catchUp_noHost (hbegun.trans hhost)).trans (if_pos rfl))⟩

end

/-- Settles O59: each end writes its words, sets its sector and then finds nothing to catch up with. -/
theorem optionOperationsEndInTheArray : Obligations.OptionOperationsEndInTheArray := by
  refine ⟨fun s w v ok hf hl hs hop hr => ?_, fun s k q hf hl hk hs hop => ⟨?_, ?_⟩, fun s f hf hl hop => ⟨fun hu h16 hsort hs => ⟨?_, ?_⟩, fun hu => ?_⟩⟩
  · cases ok
    · refine ⟨_, congrArg Host.Outcome.next (optDone_program_bad hf hl hs hop), rfl, rfl, fun x hx => word_program_other s.nor _ hx,
        program_sectors .., rfl, rfl, rfl, nofun, fun _ => ⟨word_program_same _ hr, ?_, rfl, rfl, rfl, rfl⟩⟩
      exact (program_arrayOnly s.nor w _).done
    · exact ⟨_, congrArg Host.Outcome.next (optDone_program_good hf hl hs hop), rfl, rfl, fun x hx => word_program_other s.nor _ hx,
        program_sectors .., rfl, rfl, rfl, fun _ => ⟨word_program_same _ hr, rfl, rfl⟩, nofun⟩
  · refine ⟨_, congrArg Host.Outcome.next (optDone_erase_good hf hl hs hop), rfl, rfl, rfl, closeRecord_blank (erase_confirm_blank s.nor k _) (erase_confirm_listed s.nor k _) q, ?_, rfl⟩
    exact (sector_congr ((closeRecord_sectors ..).trans (erase_confirm_sectors ..)) k).trans (sector_setSector s.nor k _)
  · exact ⟨_, congrArg Host.Outcome.next (optDone_erase_bad hf hl hs hop), rfl, rfl, rfl,
      congrArg Sector.state (sector_setSector (failedErase k s).nor k _)⟩
  · have hclosed := closeRecord_arrayOnly ((s.nor.erase f.sector).confirm f.sector f.erases).freed f.record
    have hsector : (((s.nor.erase f.sector).confirm f.sector f.erases).freed.doWrite (.flag f.record 2)).sector f.sector =
        (s.nor.setSector f.sector ⟨f.erases, .confirmed⟩).sector f.sector :=
      sector_congr ((closeRecord_sectors ((s.nor.erase f.sector).confirm f.sector f.erases).freed f.record).trans (erase_confirm_sectors s.nor f.sector f.erases)) f.sector
    exact ⟨_, congrArg Host.Outcome.next (norEraseEnd_journal_good hf hl hop hu hsort hs), (congrArg NorSt.fwOp hclosed :),
      (congrArg NorSt.fwBusy hclosed :), hsector.trans (sector_setSector s.nor f.sector _),
      closeRecord_blank (n := ((s.nor.erase f.sector).confirm f.sector f.erases).freed) (erase_confirm_blank s.nor f.sector f.erases)
        (erase_confirm_listed s.nor f.sector f.erases) f.record⟩
  · refine ⟨_, congrArg Host.Outcome.next (norEraseEnd_journal_bad hf hl hop h16 hsort hs), rfl, ?_⟩
    exact sector_setSector (failedErase f.sector s).nor.freed f.sector _
  · obtain ⟨n, hn⟩ := norEraseEnd_swapTarget hf hop hu
    exact ⟨_, _, congrArg Host.Outcome.next hn, rfl, rfl, rfl, rfl⟩

end Sys2Proof.Machine
end

/-! PROOFS of the family 14_flash_management and 16_integrity_and_recovery: reads of one LBA (O20). -/

section
namespace Sys2Proof.Machine

/-! ### A namespace identifier that stands twice

A Read is admitted by the attached entry of its namespace, and its data is gathered by the first entry of that identifier. Of a state in
which a detached namespace stands before an attached one under one identifier, the two are not the same: the unit that was read is then
looked for under the base of the other. -/

/-- A detached namespace 1 with base 4, before an attached one with base 0, whose unit 0 is in the write buffer. -/
def nsListedTwice : State :=
  { State.reset with
    host := { HostSt.reset with en := true, rdy := true, sqs := [⟨1, 1, 64⟩], cqs := [⟨1, 1, 64⟩] }
    ns := { State.reset.ns with list := [⟨1, 4, 4, false⟩, ⟨1, 0, 4, true⟩] }
    ftl := { State.reset.ftl with
      map := [(0, .phys 5)]
      buf := [⟨5, 0, 1, 1, ⟨65536, [(0, 7#8)]⟩, [], none, false, []⟩]
      nextId := 1 } }

/-- A command of I/O queue 1. -/
def ioCommand : Hdr := ⟨1, 1, false, false, false⟩

/-- The status of the newest completion of an outcome. -/
def newestStatus (o : Res) : Option (Nat × Nat) :=
  match o with
  | .next t => t.host.posted.getLast?.map fun c => (c.sct, c.sc)
  | _ => none

/-- The Read of the buffered unit ends with Unrecovered Read Error. -/
theorem nsListedTwice_read : newestStatus (exec (.nvmRead ioCommand 1 0 0) nsListedTwice) = some (2, 0x81) := by decide

/-- Refutes O20: where one identifier is listed twice, the first time detached, a Read of an LBA in the write buffer ends with Unrecovered Read
Error, and not with the unit's bytes (`nsListedTwice`). -/
theorem not_readsComeFromBufferOrFlash : ¬ Obligations.ReadsComeFromBufferOrFlash := by
  intro holds
  obtain ⟨-, -, -, ofAttached⟩ := holds ioCommand 1 0 nsListedTwice (by decide)
  obtain ⟨fromBuffer, -⟩ := ofAttached ⟨1, 0, 4, true⟩ (by decide) (by decide) (by decide) (by decide)
  have success := congrArg newestStatus (fromBuffer 5 ⟨5, 0, 1, 1, ⟨65536, [(0, 7#8)]⟩, [], none, false, []⟩ (by decide) (by decide) rfl (by decide))
  rw [nsListedTwice_read] at success
  exact absurd success (by decide)

end Sys2Proof.Machine
end

/-! PROOFS of the family 14_flash_management: groups, erases and the map journal (O44). -/

section
namespace Sys2Proof.Machine

/-! ### What writing units leaves alone: the namespaces and the count of failed programs -/

/-- The namespaces and the count of failed programs. -/
def State.nsAndFails (s : State) : NsSt × Nat := (s.ns, s.ftl.stats.programFails)

section
variable (s : State)

theorem foldl_nsAndFails {α : Type} {f : State → α → State} {l : List α} {s : State} (hf : ∀ s a, (f s a).nsAndFails = s.nsAndFails) :
    (l.foldl f s).nsAndFails = s.nsAndFails := foldl_keeps (g := State.nsAndFails) hf l s

/-- A fold over a pair of a value and a state. -/
theorem foldl_pair_nsAndFails {α β : Type} {f : β × State → α → β × State} {l : List α} {p : β × State}
    (hf : ∀ p a, (f p a).2.nsAndFails = p.2.nsAndFails) : (l.foldl f p).2.nsAndFails = p.2.nsAndFails := by
  induction l generalizing p with
  | nil => rfl
  | cons a r ih => exact ih.trans (hf p a)

theorem ite_nsAndFails {s t u : State} {c : Prop} [Decidable c] (ht : t.nsAndFails = s.nsAndFails) (hu : u.nsAndFails = s.nsAndFails) :
    (if c then t else u).nsAndFails = s.nsAndFails := by
  split
  · exact ht
  · exact hu

theorem onFtl_nsAndFails {f : FtlSt → FtlSt} (s : State) (hf : (f s.ftl).stats.programFails = s.ftl.stats.programFails) :
    (onFtl f s).nsAndFails = s.nsAndFails := Prod.ext rfl hf

theorem Sends.nsAndFails {s t : State} (h : Sends s t) : t.nsAndFails = s.nsAndFails := (congrArg State.nsAndFails h :)

theorem onSb_nsAndFails (sb : Nat) (f : Sb → Sb) : (onSb sb f s).nsAndFails = s.nsAndFails := by
  unfold onSb
  split
  · rfl
  · rfl

theorem vendorEvent_nsAndFails (lid : Nat) : (vendorEvent lid s).nsAndFails = s.nsAndFails :=
  Prod.ext (vendorEvent_ns ..) (congrArg (·.stats.programFails) (vendorEvent_ftl lid s))

theorem recordLosses_nsAndFails (cause : Nat) (l : List Nat) : (recordLosses cause l s).nsAndFails = s.nsAndFails :=
  foldl_nsAndFails fun _ _ => vendorEvent_nsAndFails _ _

theorem markStale_nsAndFails (lsn member : Nat) : (markStale lsn member s).nsAndFails = s.nsAndFails := by
  unfold markStale
  split
  · exact ite_nsAndFails rfl rfl
  · rfl

theorem sendDeltas_nsAndFails (recess : Bool) (lsn wc : Nat) (c : Blob) : (sendDeltas recess lsn wc c s).2.nsAndFails = s.nsAndFails := by
  refine foldl_pair_nsAndFails fun p a => ?_
  dsimp only
  split
  · exact markStale_nsAndFails ..
  · exact ite_nsAndFails rfl (sendTo_sends ..).nsAndFails

theorem dropPoisoned_nsAndFails (us : List BufUnit) : (dropPoisoned us s).2.nsAndFails = s.nsAndFails := by
  refine foldl_pair_nsAndFails fun p a => ?_
  dsimp only
  split
  · rfl
  · split
    · rfl
    · rfl

theorem startGroup_nsAndFails (sb g : Nat) (st : Stream) : (startGroup sb g st s).nsAndFails = s.nsAndFails := by
  unfold startGroup
  extract_lets us
  have hdropped := dropPoisoned_nsAndFails s (us.filter fun u => !u.poison.isEmpty)
  generalize dropPoisoned (us.filter fun u => !u.poison.isEmpty) s = a at hdropped ⊢
  obtain ⟨lost, t⟩ := a
  refine Eq.trans (onFtl_nsAndFails _ rfl) (Eq.trans (foldl_nsAndFails fun s u => ?_) ((recordLosses_nsAndFails t 1 lost).trans hdropped))
  exact sendDeltas_nsAndFails s ..

theorem startAll_nsAndFails (sb n : Nat) : (startAll sb n s).nsAndFails = s.nsAndFails := by
  induction n generalizing s with
  | zero => rfl
  | succ n ih =>
    unfold startAll
    split
    · rfl
    · exact ite_nsAndFails ((ih _).trans (startGroup_nsAndFails ..)) rfl

theorem closeSb_nsAndFails (o : OpenSb) : (closeSb o s).nsAndFails = s.nsAndFails := (onSb_nsAndFails _ ..).trans (startAll_nsAndFails s ..)

end

theorem openStream_nsAndFails (st : Stream) {s t : State} (h : openStream st s = some t) : t.nsAndFails = s.nsAndFails := by
  simp only [openStream, Option.ite_none_left_eq_some] at h
  obtain ⟨-, h⟩ := h
  split at h
  · cases h
  · cases h
    refine foldl_nsAndFails fun s ch => ?_
    exact ite_nsAndFails rfl rfl

theorem allocHost_nsAndFails {n p : Nat} {s t : State} (h : allocHost n s = some (p, t)) : t.nsAndFails = s.nsAndFails := by
  induction n generalizing s with
  | zero => cases h
  | succ n ih =>
    unfold allocHost at h
    split at h
    · split at h
      next ho => exact (ih h).trans (openStream_nsAndFails _ ho)
      · cases h
    · split at h
      · cases h
        rfl
      · exact (ih h).trans (closeSb_nsAndFails ..)

theorem allocOn_nsAndFails {st : Stream} {ch n p : Nat} {s t : State} (h : allocOn st ch n s = some (p, t)) :
    t.nsAndFails = s.nsAndFails := by
  induction n generalizing s with
  | zero => cases h
  | succ n ih =>
    unfold allocOn at h
    dsimp only at h
    split at h
    · cases h
      rfl
    · split at h
      · split at h
        next ho => exact (ih h).trans (openStream_nsAndFails _ ho)
        · cases h
      · split at h
        · exact (ih h).trans (closeSb_nsAndFails ..)
        · cases h

theorem allocSlot_nsAndFails {st : Stream} {ch p : Nat} {s t : State} (h : allocSlot st ch s = some (p, t)) :
    t.nsAndFails = s.nsAndFails := by
  unfold allocSlot at h
  split at h
  · exact allocHost_nsAndFails h
  · exact allocOn_nsAndFails h

/-- A unit placed stands last in the write buffer. -/
theorem placeUnit_placed {st : Stream} {ch lsn kind wc p : Nat} {d : Blob} {poison : List Nat} {source : Option Nat} {s t : State}
    (h : placeUnit st ch lsn kind wc d poison source s = some (p, t)) :
    t.nsAndFails = s.nsAndFails ∧ (⟨p, lsn, kind, wc, d, poison, source, false, []⟩ : BufUnit) ∈ t.ftl.buf := by
  unfold placeUnit at h
  split at h
  · cases h
  next ha =>
    cases h
    exact ⟨(allocSlot_nsAndFails ha :), List.mem_append_right _ (List.mem_singleton.mpr rfl)⟩

section
variable (s : State)

theorem issueRead_nsAndFails (job lsn p : Nat) : (issueRead job lsn p s).nsAndFails = s.nsAndFails := by
  unfold issueRead
  extract_lets sb ch waited counted stage
  split
  · rfl
  · have hwaited : waited.nsAndFails = s.nsAndFails := by
      unfold waited
      split
      · exact ite_nsAndFails rfl rfl
      · rfl
    have hcounted : counted.nsAndFails = waited.nsAndFails := by
      unfold counted
      split
      · exact ite_nsAndFails rfl rfl
      · rfl
    exact hcounted.trans hwaited

theorem openSlotJob_nsAndFails (k : JobKind) (lsn p : Nat) : (openSlotJob k lsn p s).2.nsAndFails = s.nsAndFails := by
  unfold openSlotJob
  dsimp only
  split
  · rfl
  · exact issueRead_nsAndFails ..

theorem finishCopy_nsAndFails (p : Nat) (st : Stream) (j : Job) : (finishCopy p st j s).nsAndFails = s.nsAndFails := by
  unfold finishCopy
  dsimp only
  split
  · refine ite_nsAndFails rfl (ite_nsAndFails rfl ?_)
    split
    next hp => exact ((placeUnit_placed hp).1 :)
    · rfl
  · rfl

theorem startCopies_nsAndFails (l : List (Nat × Nat)) : (startCopies l s).nsAndFails = s.nsAndFails := by
  refine foldl_nsAndFails fun s x => ite_nsAndFails rfl ?_
  have hopen := openSlotJob_nsAndFails s (.copy x.2 (s.copyStream x.2)) x.1 x.2
  dsimp only
  split
  · exact ite_nsAndFails ((finishCopy_nsAndFails ..).trans hopen) hopen
  · exact hopen

theorem retireColumn_nsAndFails (event sb ch p : Nat) : (retireColumn event sb ch p s).nsAndFails = s.nsAndFails := by
  unfold retireColumn
  dsimp only
  split
  · rfl
  · split
    · split
      · rfl
      · rfl
    · rfl

end

/-! ### A group starts -/

section
variable {s : State}

/-- A drive alone sends no parity delta. -/
theorem sendDeltas_standalone (recess : Bool) (lsn wc : Nat) (c : Blob) (h : s.plain.own = .standalone) :
    sendDeltas recess lsn wc c s = ([], s) := by
  have hnone : s.parityTargets lsn = [] := by
    unfold State.parityTargets
    split
    · rw [if_pos (by simp [h])]
    · rfl
  unfold sendDeltas
  rw [hnone]
  rfl

/-- Without a parity delta, a unit of a group that starts awaits no acknowledgement. -/
theorem deltas_standalone (l : List BufUnit) (h : s.plain.own = .standalone) :
    ∃ b, l.foldl (fun s u =>
      let (acks, s) := sendDeltas false u.lsn u.wcount (xorBlob (s.oldContent u.lsn u.wcount) u.data) s
      onFtl (fun t => { t with buf := t.buf.map fun x => if x.pslot = u.pslot then { x with acks := acks } else x }) s) s =
      { s with ftl := { s.ftl with buf := b } } := by
  induction l generalizing s with
  | nil => exact ⟨s.ftl.buf, rfl⟩
  | cons u r ih =>
    rw [List.foldl_cons]
    dsimp only
    rw [sendDeltas_standalone _ _ _ _ h]
    obtain ⟨b, hb⟩ := ih (s := onFtl (fun t => { t with buf := t.buf.map fun x => if x.pslot = u.pslot then { x with acks := [] } else x }) s) h
    exact ⟨b, hb⟩

/-- A group without a poisoned unit starts: of flash translation, its program is listed and the buffer copies await no one. -/
theorem startGroup_standalone (sb g : Nat) (st : Stream) (h : s.plain.own = .standalone) (hp : ∀ u ∈ s.groupUnits sb g, u.poison = []) :
    ∃ b x, startGroup sb g st s = { s with ftl := { s.ftl with
      buf := b
      progs := s.ftl.progs ++ [⟨sb * 768 + g, sb, g, st⟩]
      opens := s.ftl.opens.map (fun o => if o.sb = sb then { o with started := g + 1 } else o)
      stats := x } } := by
  unfold startGroup
  extract_lets us
  have hgood : us.filter (fun u => !u.poison.isEmpty) = [] := by
    rw [List.filter_eq_nil_iff]
    intro u hu
    simp [hp u hu]
  have hdropped : dropPoisoned [] s = ([], s) := rfl
  have hlosses : recordLosses 1 [] s = s := rfl
  obtain ⟨b, hb⟩ := deltas_standalone (us.filter fun u => u.poison.isEmpty && u.source.isNone) h
  rw [hgood, hdropped]
  dsimp only
  rw [hlosses, hb]
  exact ⟨b, _, rfl⟩

end

/-! ### A group program ends -/

section
variable {s : State}

/-- A page of flash as a unit of the buffer leaves it. -/
def FSlot.holds (f : FSlot) (u : BufUnit) : Prop := f.lsn = u.lsn ∧ f.data = u.data ∧ f.wcount = u.wcount ∧ f.kind = u.kind

/-- A unit that is no copy goes to flash; its journal records become ready, and the map stays. -/
theorem commitUnit_new {u : BufUnit} (h : u.source = none) : ∃ f b x, f.holds u ∧
    commitUnit u s = { s with ftl := { s.ftl with flash := setKey u.pslot f s.ftl.flash, buf := b, staging := x } } := by
  unfold commitUnit
  rw [h]
  exact ⟨_, _, _, ⟨rfl, rfl, rfl, rfl⟩, rfl⟩

/-- Units committed one after another, each at a slot of its own. -/
theorem commitUnits_new (us : List BufUnit) (hnew : ∀ u ∈ us, u.source = none) (hown : (us.map (·.pslot)).Nodup) :
    ∃ fl b x, us.foldl (fun s u => commitUnit u s) s = { s with ftl := { s.ftl with flash := fl, buf := b, staging := x } } ∧
      (∀ u ∈ us, ∃ f, lookupNat fl u.pslot = some f ∧ f.holds u) ∧
      ∀ p, (∀ u ∈ us, u.pslot ≠ p) → lookupNat fl p = lookupNat s.ftl.flash p := by
  induction us generalizing s with
  | nil => exact ⟨_, _, _, rfl, nofun, fun _ _ => rfl⟩
  | cons u r ih =>
    rw [List.map_cons, List.nodup_cons] at hown
    obtain ⟨hu, hown⟩ := hown
    obtain ⟨f, b, x, hf, hcommit⟩ := commitUnit_new (s := s) (hnew u List.mem_cons_self)
    obtain ⟨fl, b', x', hrest, hheld, hkept⟩ := ih (s := commitUnit u s) (fun v hv => hnew v (List.mem_cons_of_mem _ hv)) hown
    have hothers : ∀ v ∈ r, v.pslot ≠ u.pslot := fun v hv he => hu (List.mem_map.mpr ⟨v, hv, he⟩)
    refine ⟨fl, b', x', ?_, fun v hv => ?_, fun p hp => ?_⟩
    · rw [List.foldl_cons, hrest, hcommit]
    · obtain rfl | hv := List.mem_cons.mp hv
      · refine ⟨f, ?_, hf⟩
        rw [hkept _ hothers, hcommit]
        exact (lookup_setKey ..).trans (if_pos rfl)
      · exact hheld v hv
    · rw [hkept p fun v hv => hp v (List.mem_cons_of_mem _ hv), hcommit]
      exact (lookup_setKey ..).trans (if_neg (hp u List.mem_cons_self).symm)

/-- With no Write that waits there is none to complete. -/
theorem finishWrites_none (h : s.ftl.writes = []) : finishWrites s = s := by
  unfold finishWrites
  dsimp only
  rw [if_neg (by simp [h])]

/-- A failed program leaves its notes, and is counted. -/
theorem failColumn_noted (sb g ch : Nat) : ReadNoted s (failColumn sb g ch s) ∧
    (failColumn sb g ch s).ftl.stats.programFails = bump32 s.ftl.stats.programFails := by
  unfold failColumn
  dsimp only
  split
  · refine ⟨((onFtlStats_noted s _).trans (copyCols_noted _ _)).trans (retireColumn_noted ..), ?_⟩
    exact (congrArg Prod.snd (retireColumn_nsAndFails _ 7 sb ch _)).trans rfl
  · exact ⟨((onFtlStats_noted s _).trans (onCol_noted _ sb ch _)).trans (logEvent_noted ..), rfl⟩

/-- A unit of a failed group is placed again from its buffer copy, or stays where it is: it is not lost. -/
theorem redoUnit_kept (st : Stream) {u : BufUnit} (hnew : u.source = none) (hmap : s.mapOf u.lsn = some (.phys u.pslot)) :
    (redoUnit st u s).nsAndFails = s.nsAndFails ∧ ∃ v ∈ (redoUnit st u s).ftl.buf, v.lsn = u.lsn ∧ v.data = u.data ∧ v.wcount = u.wcount ∧
      (redoUnit st u s).mapOf u.lsn = some (.phys v.pslot) := by
  have hstill : (onFtl (fun t => { t with buf := t.buf.filter fun x => x.pslot != u.pslot }) s).mapOf u.lsn = some (.phys u.pslot) := hmap
  unfold redoUnit
  rw [hnew]
  dsimp only
  rw [hstill, if_pos (by simp)]
  split
  next hplaced =>
    obtain ⟨hbeside, hlast⟩ := placeUnit_placed hplaced
    exact ⟨hbeside, _, hlast, rfl, rfl, rfl, (lookup_setKey ..).trans (if_pos rfl)⟩
  · exact ⟨rfl, u, List.mem_append_right _ (List.mem_singleton.mpr rfl), rfl, rfl, rfl, hmap⟩

/-- A group of one unit whose program failed on one channel. -/
theorem endGroup_failed {g : Prog} {u : BufUnit} {ch : Nat} {y : Sb} (hg : s.ftl.progs.find? (fun p => p.pid == g.pid) = some g)
    (hu : s.groupUnits g.sb g.group = [u]) (hp : u.poison = []) (hy : s.sb? g.sb = some y) (hch : ch ∈ y.data) :
    endGroup g.pid [ch] s = redoUnit g.stream u (failColumn g.sb g.group ch
      (onFtl (fun t => { t with progs := t.progs.filter fun p => p.pid != g.pid }) s)) := by
  have hbad : [ch].filter (fun c => y.data.contains c || y.par.contains c) = [ch] := by simp [hch]
  have hus : (onFtl (fun t => { t with progs := t.progs.filter fun p => p.pid != g.pid }) s).groupUnits g.sb g.group = [u] := hu
  have hsb : (onFtl (fun t => { t with progs := t.progs.filter fun p => p.pid != g.pid }) s).sb? g.sb = some y := hy
  unfold endGroup
  rw [hg]
  dsimp only
  rw [hsb]
  dsimp only
  simp only [hbad, hus, List.isEmpty_cons, Bool.false_eq_true, if_false, List.foldl_cons, List.foldl_nil, List.filter_cons, hp,
    List.isEmpty_nil, Bool.not_true, List.filter_nil, if_true]
  rfl

theorem endGroup_unknown {pid : Nat} (l : List Nat) (h : s.ftl.progs.find? (fun p => p.pid == pid) = none) : endGroup pid l s = s := by
  rw [endGroup, h]

end

/-! ### An erase ends -/

section
variable (s : State) (sb ch : Nat)

theorem col_onCol (f : Column → Column) : (onCol sb ch f s).col sb ch = f (s.col sb ch) := by
  unfold onCol onFtl
  rw [State.col]
  dsimp only
  rw [lookup_setKey, if_pos rfl]
  rfl

/-- A superblock that goes back to the free pool is taken off the list, and nothing else changes. -/
theorem freeSb_sbs : ∃ x, freeSb sb s = { s with ftl := { s.ftl with sbs := x } } := by
  unfold freeSb
  split
  · split
    · exact ⟨_, rfl⟩
    · exact ⟨_, rfl⟩
  · exact ⟨_, rfl⟩

/-- A retired column has been retired, with the erase that it was under. -/
theorem retireColumn_col (event p : Nat) :
    (retireColumn event sb ch p s).col sb ch = if (s.col sb ch).retired then s.col sb ch
      else { s.col sb ch with retired := true, closed := true } := by
  unfold retireColumn
  split
  · rfl
  · dsimp only
    have hretired := col_onCol s sb ch (fun c => { c with retired := true, closed := true })
    split
    · split
      · exact hretired
      · exact hretired
    · exact hretired

theorem retireColumn_eraseFails (event p : Nat) :
    (retireColumn event sb ch p s).ftl.stats.eraseFails = s.ftl.stats.eraseFails := by
  unfold retireColumn
  dsimp only
  split
  · rfl
  · split
    · split
      · rfl
      · rfl
    · rfl

/-- The pages of a column are gone; those of others stay. -/
theorem lookup_erased (l : List (Nat × FSlot)) (p : Nat) :
    lookupNat (l.filter fun x => !(sbOf x.1 == sb && chOf x.1 == ch)) p = if sbOf p = sb ∧ chOf p = ch then none else lookupNat l p := by
  unfold lookupNat
  rw [List.find?_filter]
  split
  next hp =>
    rw [List.find?_eq_none.mpr]
    · rfl
    · intro x _ hx
      simp only [Bool.not_eq_true', beq_iff_eq, Bool.and_eq_false_iff, beq_eq_false_iff_ne, decide_eq_true_eq] at hx
      obtain ⟨hout, rfl⟩ := hx
      obtain h | h := hout
      · exact h hp.1
      · exact h hp.2
  next hp =>
    congr 2
    funext x
    by_cases hx : x.1 = p
    · subst hx
      simp [not_and_or.mp hp]
    · simp [hx]

/-- An erase that ended well: the column is empty and counted, its pages are gone, and the map stays. -/
theorem endErase_good {e : Erasing} (h : (s.col sb ch).erasing = some e) :
    (endErase sb ch true s).col sb ch = ⟨(s.col sb ch).erases + 1, (s.col sb ch).retired, false, 0, none, true⟩ ∧
    (endErase sb ch true s).ftl.flash = s.ftl.flash.filter (fun x => !(sbOf x.1 == sb && chOf x.1 == ch)) ∧
    (endErase sb ch true s).ftl.map = s.ftl.map := by
  unfold endErase
  rw [h]
  dsimp only
  rw [if_pos rfl]
  set erased : State := norFlag e.record 2 _ with herased
  obtain ⟨x, hfree⟩ := freeSb_sbs erased sb
  rw [hfree]
  exact ⟨col_onCol s sb ch fun c => { c with erases := c.erases + 1, erasing := none, erased := true, reads := 0, closed := false },
    rfl, rfl⟩

/-- An erase that failed: the column is retired, the failure is counted, and no page changes. -/
theorem endErase_bad {e : Erasing} (h : (s.col sb ch).erasing = some e) :
    ((endErase sb ch false s).col sb ch).erasing = none ∧ ((endErase sb ch false s).col sb ch).retired = true ∧
    (endErase sb ch false s).ftl.stats.eraseFails = bump32 s.ftl.stats.eraseFails ∧
    (endErase sb ch false s).ftl.flash = s.ftl.flash := by
  unfold endErase
  rw [h]
  dsimp only
  rw [if_neg Bool.false_ne_true]
  set ended : State := onFtlStats _ _ with hended
  have hcol : ended.col sb ch = { s.col sb ch with erasing := none } := col_onCol s sb ch fun c => { c with erasing := none }
  have hretired := retireColumn_col ended sb ch 8 (pslotOf sb 0 ch)
  have hfails := retireColumn_eraseFails ended sb ch 8 (pslotOf sb 0 ch)
  have hflash := (retireColumn_noted ended 8 sb ch (pslotOf sb 0 ch)).flash
  obtain ⟨x, hfree⟩ := freeSb_sbs (retireColumn 8 sb ch (pslotOf sb 0 ch) ended) sb
  rw [hcol] at hretired
  rw [hfree]
  refine ⟨?_, ?_, hfails, hflash⟩
  · refine (congrArg Column.erasing hretired :).trans ?_
    split
    · rfl
    · rfl
  · refine (congrArg Column.retired hretired :).trans ?_
    split
    next hr => exact hr
    · rfl

end

/-! ### The checks of O44, one for each part of the statement -/

section
variable {s : State}

theorem startNextGroup_idle {st : Stream} (hthrough : s.writeThrough = false)
    (h : ∀ o ∈ s.ftl.opens, o.stream = st → s.groupFull o = false) : startNextGroup st s = s := by
  have hnone : s.ftl.opens.find? (fun o => o.stream == st && s.groupFull o) = none :=
    List.find?_eq_none.mpr fun o ho hfull => by
      simp only [Bool.and_eq_true, beq_iff_eq] at hfull
      simp [h o ho hfull.1] at hfull
  unfold startNextGroup
  rw [hnone]
  dsimp only
  rw [hthrough, if_neg Bool.false_ne_true]

theorem startNextGroup_full {st : Stream} {o : OpenSb}
    (h : s.ftl.opens.find? (fun o => o.stream == st && s.groupFull o) = some o) :
    startNextGroup st s = startGroup o.sb o.started st s := by
  rw [startNextGroup, h]

/-- A group of new units that is programmed puts them into flash. -/
theorem endGroup_flash {g : Prog} (hg : s.ftl.progs.find? (fun p => p.pid == g.pid) = some g) (hw : s.ftl.writes = [])
    (hnew : ∀ u ∈ s.groupUnits g.sb g.group, u.source = none) (hown : ((s.groupUnits g.sb g.group).map (·.pslot)).Nodup) :
    ∃ fl b x, endGroup g.pid [] s = { s with ftl := { s.ftl with
        progs := s.ftl.progs.filter (fun p => p.pid != g.pid), flash := fl, buf := b, staging := x } } ∧
      (∀ u ∈ s.groupUnits g.sb g.group, ∃ f, lookupNat fl u.pslot = some f ∧ f.holds u) ∧
      ∀ p, (∀ u ∈ s.groupUnits g.sb g.group, u.pslot ≠ p) → lookupNat fl p = lookupNat s.ftl.flash p := by
  obtain ⟨fl, b, x, hcommitted, hheld, hkept⟩ := commitUnits_new
    (s := onFtl (fun t => { t with progs := t.progs.filter fun p => p.pid != g.pid }) s) _ hnew hown
  refine ⟨fl, b.filter fun u => !(u.committed && u.acks.isEmpty), x, ?_, hheld, hkept⟩
  rw [endGroup_good s g.pid hg, hcommitted]
  exact finishWrites_none hw

/-- The one unit of a group that failed stays in the buffer, and the map names its place. -/
theorem endGroup_kept {g : Prog} {u : BufUnit} {ch : Nat} {y : Sb} (hg : s.ftl.progs.find? (fun p => p.pid == g.pid) = some g)
    (hu : s.groupUnits g.sb g.group = [u]) (hnew : u.source = none) (hp : u.poison = [])
    (hmap : s.mapOf u.lsn = some (.phys u.pslot)) (hy : s.sb? g.sb = some y) (hch : ch ∈ y.data) :
    (endGroup g.pid [ch] s).ftl.stats.programFails = bump32 s.ftl.stats.programFails ∧
    ∃ v ∈ (endGroup g.pid [ch] s).ftl.buf, v.lsn = u.lsn ∧ v.data = u.data ∧ v.wcount = u.wcount ∧
      (endGroup g.pid [ch] s).mapOf u.lsn = some (.phys v.pslot) := by
  rw [endGroup_failed hg hu hp hy hch]
  obtain ⟨hnoted, hfails⟩ := failColumn_noted (s := onFtl (fun t => { t with progs := t.progs.filter fun p => p.pid != g.pid }) s)
    g.sb g.group ch
  obtain ⟨hbeside, hkept⟩ := redoUnit_kept g.stream hnew ((congrArg (lookupNat · u.lsn) hnoted.map).trans hmap)
  exact ⟨(congrArg Prod.snd hbeside).trans hfails, hkept⟩

theorem refreshDue_idle {sb ch : Nat} {y : Sb} (hy : s.sb? sb = some y)
    (h : y.stream ≠ .index ∨ (s.col sb ch).reads < s.host.policy.readRefresh) : refreshDue sb ch s = s := by
  unfold refreshDue
  dsimp only
  rw [hy]
  exact if_pos (by simpa using h)

theorem refreshDue_listed {sb ch : Nat} {y : Sb} (hy : s.sb? sb = some y) (hi : y.stream = .index)
    (hlow : s.host.policy.readRefresh ≤ (s.col sb ch).reads) (hhigh : (s.col sb ch).reads < 2 * s.host.policy.readRefresh)
    (hnew : colKey sb ch ∉ s.ftl.refreshCols) :
    refreshDue sb ch s = { s with ftl := { s.ftl with refreshCols := s.ftl.refreshCols ++ [colKey sb ch] } } := by
  unfold refreshDue
  dsimp only
  rw [hy]
  dsimp only
  rw [if_neg (by simp [hi, hlow]), if_neg hhigh.not_ge, if_neg (by simpa using hnew)]
  rfl

/-- A counter that has doubled refreshes the column within the class, and the class refresh is counted. -/
theorem refreshDue_doubled {sb ch : Nat} {y : Sb} (hy : s.sb? sb = some y) (hi : y.stream = .index)
    (hhigh : 2 * s.host.policy.readRefresh ≤ (s.col sb ch).reads) :
    (refreshDue sb ch s).bell = { s.bell with classRefreshes := bump32 s.bell.classRefreshes } ∧ (refreshDue sb ch s).ns = s.ns := by
  unfold refreshDue
  dsimp only
  rw [hy]
  dsimp only
  rw [if_neg (by simp [hi]; omega), if_pos hhigh]
  exact ⟨startCopies_bell .., (congrArg Prod.fst (startCopies_nsAndFails ..) :)⟩

theorem writeCheckpoint_ftl : writeCheckpoint s = { s with
    nor := (writeCheckpoint s).nor
    ftl := { s.ftl with ckptGen := s.ftl.ckptGen + 1, ckptAge := 0, ring := [] } } := rfl

/-- The start of a group's program. -/
theorem groupProgramStart_checked (st : Stream) (hup : s.up = true) (hthrough : s.power.through = false) :
    ((∀ o ∈ s.ftl.opens, o.stream = st → s.groupFull o = false) → exec (.groupProgramStart st) s = .next s) ∧
    (∀ o, (s.ftl.opens.find? fun o => o.stream == st && s.groupFull o) = some o → s.plain.own = .standalone →
      (∀ u ∈ s.groupUnits o.sb o.started, u.poison = []) →
      ∃ t, exec (.groupProgramStart st) s = .next t ∧ t.ftl.progs = s.ftl.progs ++ [⟨o.sb * 768 + o.started, o.sb, o.started, st⟩] ∧
        t.ftl.map = s.ftl.map ∧ t.ftl.flash = s.ftl.flash ∧
        t.ftl.opens = s.ftl.opens.map (fun y => if y.sb = o.sb then { y with started := o.started + 1 } else y) ∧
        t = { s with ftl := t.ftl }) := by
  have hexec : exec (.groupProgramStart st) s = .next (startNextGroup st s) := congrArg Host.Outcome.next (if_pos hup)
  refine ⟨fun hidle => ?_, fun o ho hown hp => ?_⟩
  · rw [hexec, startNextGroup_idle hthrough hidle]
  · obtain ⟨b, x, hstarted⟩ := startGroup_standalone o.sb o.started st hown hp
    rw [hexec, startNextGroup_full ho, hstarted]
    exact ⟨_, rfl, rfl, rfl, rfl, rfl, rfl⟩

end

/-- Settles O44, clause by clause: each operation's own lemma says what it does at its limit, and that it does nothing elsewhere. -/
theorem groupsErasesAndJournalEnd : Obligations.GroupsErasesAndJournalEnd := by
  unfold Obligations.GroupsErasesAndJournalEnd
  refine ⟨fun s st hup hthrough => groupProgramStart_checked st hup hthrough, fun s g hg hw => ⟨fun hnew hown => ?_,
    fun u ch y hu hnew hp hmap hy hch => ?_⟩, fun s pid l hpid => congrArg Host.Outcome.next (endGroup_unknown l hpid),
    fun s sb ch => ⟨fun ok hidle => ?_, fun e _ he => ⟨?_, ?_⟩⟩, fun s sb ch y hup hy _ => ⟨fun hidle => ?_, fun hi hlow hhigh hnew => ?_,
    fun hi hhigh => ?_⟩, fun s hup => ⟨fun hfull => ?_, fun hfew hthrough => ?_, fun hrecess hold => ?_, fun hclass => ?_⟩⟩
  · obtain ⟨fl, b, x, hend, hheld, hkept⟩ := endGroup_flash hg hw hnew hown
    exact ⟨_, congrArg Host.Outcome.next hend, rfl, rfl, rfl, hheld, hkept⟩
  · obtain ⟨hfails, v, hv, hlsn, hdata, hcount, hnamed⟩ := endGroup_kept hg hu hnew hp hmap hy hch
    exact ⟨_, v, rfl, hv, hlsn, hdata, hcount, hnamed, hfails⟩
  · refine congrArg Host.Outcome.next ?_
    rw [endErase, hidle]
  · obtain ⟨hcol, hflash, hmap⟩ := endErase_good s sb ch he
    refine ⟨_, rfl, hcol, fun p hsb hch => ?_, fun p hother => ?_, hmap⟩
    · rw [hflash, lookup_erased, if_pos ⟨hsb, hch⟩]
    · rw [hflash, lookup_erased, if_neg (not_and_or.mpr hother)]
  · exact ⟨_, rfl, endErase_bad s sb ch he⟩
  · exact congrArg Host.Outcome.next ((if_pos hup).trans (refreshDue_idle hy hidle))
  · exact congrArg Host.Outcome.next ((if_pos hup).trans (refreshDue_listed hy hi hlow hhigh hnew))
  · obtain ⟨hbell, hns⟩ := refreshDue_doubled hy hi hhigh
    refine ⟨_, congrArg Host.Outcome.next (if_pos hup), ?_, ?_, hns⟩
    · rw [hbell]
    · rw [hbell]
  · refine congrArg Host.Outcome.next (if_pos ?_)
    simp [hup, hfull]
  · refine congrArg Host.Outcome.next (if_neg ?_)
    have hwrites : s.writeThrough = false := hthrough
    simp [hwrites, hfew]
  · exact ⟨_, congrArg Host.Outcome.next (if_pos (by simp [hup, hrecess, hold])), writeCheckpoint_ftl⟩
  · exact congrArg Host.Outcome.next (if_neg (by simp [hclass]))

end Sys2Proof.Machine
end

/-! PROOFS of the family 04_host_interface: Abort (O9), events and their requests (O10), Get Features (O12), management commands (O13), and
log pages with Identify (O14). -/

section
namespace Sys2Proof.Machine

/-! ### O9 and O10: Abort, and events with their requests -/

section
variable {s : State} {h : Hdr}

theorem exec_abort (ok : s.accepts h 0x08 = true) (asq acid : Nat) : exec (.abort h asq acid) s = .next
    (if 4 ≤ s.host.aborts.length then finish h stAbortLimit s
      else onHost (fun t => { t with aborts := t.aborts ++ [h.cid] }) (begin' h .admin s)) :=
  congrArg Host.Outcome.next (admitAdmin_accepts _ ok)

/-- Going into execution changes the list of commands in execution alone. -/
theorem begin'_frame (h : Hdr) (k : OutKind) (s : State) :
    begin' h k s = { s with host := { s.host with outs := (begin' h k s).host.outs } } := by
  unfold begin'
  split
  · rfl
  · rfl

theorem begin'_aborts (k : OutKind) : (begin' h k s).host.aborts = s.host.aborts := (congrArg (·.host.aborts) (begin'_frame h k s) :)

theorem begin'_aers (k : OutKind) : (begin' h k s).host.aers = s.host.aers := (congrArg (·.host.aers) (begin'_frame h k s) :)

theorem exec_asynchronousEventRequest (ok : s.accepts h 0x0C = true) : exec (.asynchronousEventRequest h) s = .next
    (if 8 ≤ s.host.aers.length then finish h stAerLimit s
      else match s.host.waiting.find? fun e => !(s.host.masked.contains e.lid) with
        | some e => finishDw h stOk (e.kind + 256 * e.info + 65536 * e.lid) (onHost (fun t => { t with
            waiting := t.waiting.erase e
            masked := e.lid :: t.masked }) s)
        | none => onHost (fun t => { t with aers := t.aers ++ [h.cid] }) (begin' h .admin s)) := by
  refine (congrArg Host.Outcome.next (admitAdmin_accepts _ ok)).trans ?_
  rfl

/-- A request is outstanding where the log page of every event that waits is still to be read. -/
theorem eventRequest_outstanding (ok : s.accepts h 0x0C = true) (hfew : s.host.aers.length < 8)
    (hmasked : ∀ e ∈ s.host.waiting, e.lid ∈ s.host.masked) : exec (.asynchronousEventRequest h) s = .next { begin' h .admin s with
      host := { (begin' h .admin s).host with aers := s.host.aers ++ [h.cid] } } := by
  have hnone : (s.host.waiting.find? fun e => !(s.host.masked.contains e.lid)) = none :=
    List.find?_eq_none.mpr fun e he => by simpa using hmasked e he
  rw [exec_asynchronousEventRequest ok, if_neg (by omega), hnone, ← begin'_aers (h := h) .admin]
  rfl

/-- A request is answered by the event in front whose log page may report. -/
theorem eventRequest_answered (ok : s.accepts h 0x0C = true) {e : Event} {w : List Event} (hfew : s.host.aers.length < 8)
    (hwaiting : s.host.waiting = e :: w) (hopen : e.lid ∉ s.host.masked) :
    exec (.asynchronousEventRequest h) s = .next (finishDw h stOk (e.kind + 256 * e.info + 65536 * e.lid)
      { s with host := { s.host with waiting := w, masked := e.lid :: s.host.masked } }) := by
  have hfront : (s.host.waiting.find? fun e => !(s.host.masked.contains e.lid)) = some e := by
    rw [hwaiting, List.find?_cons_of_pos (by simpa using hopen)]
  rw [exec_asynchronousEventRequest ok, if_neg (by omega), hfront]
  simp only [onHost, hwaiting, List.erase_cons_head]

end

section
variable {e : Event} {s : State}

theorem raiseEvent_masked (h : e.lid ∈ s.host.masked) : raiseEvent e s = s := if_pos (by simpa using h)

theorem raiseEvent_waits (h : e.lid ∉ s.host.masked) (haers : s.host.aers = []) (hnew : e ∉ s.host.waiting) :
    raiseEvent e s = { s with host := { s.host with waiting := s.host.waiting ++ [e] } } := by
  rw [raiseEvent, if_neg (by simpa using h), haers]
  exact if_neg (by simpa using hnew)

theorem raiseEvent_posted {cid : Nat} {r : List Nat} (h : e.lid ∉ s.host.masked) (haers : s.host.aers = cid :: r) :
    raiseEvent e s = post 0 cid stOk (e.kind + 256 * e.info + 65536 * e.lid) (Blob.zero 0)
      { s with host := { s.host with aers := r, masked := e.lid :: s.host.masked } } := by
  rw [raiseEvent, if_neg (by simpa using h), haers]

end

/-- Settles O9: the limit of four is the one branch of `exec_abort`. -/
theorem abortLeavesTheCommandRunning : Obligations.AbortLeavesTheCommandRunning := by
  intro h asq acid s ok
  rw [exec_abort ok]
  refine ⟨fun hfew => ?_, fun hfull => by rw [if_pos hfull]⟩
  rw [if_neg (by omega), ← begin'_aborts (h := h) .admin]
  rfl

/-- Settles O10: the three answers to a request, and the three fates of an event. -/
theorem eventsMeetRequests : Obligations.EventsMeetRequests :=
  ⟨fun h s ok => ⟨fun hfull => by rw [exec_asynchronousEventRequest ok, if_pos hfull], eventRequest_outstanding ok,
      fun _ _ => eventRequest_answered ok⟩,
    fun _ _ => ⟨raiseEvent_masked, raiseEvent_waits, fun _ _ => raiseEvent_posted⟩⟩

/-! ### O12: Get Features -/

section
variable {s : State} {h : Hdr} (ok : s.accepts h 0x0A = true)
include ok

theorem exec_getFeatures (fid sel : Nat) : exec (.getFeatures h fid sel) s = .next
    (match featureValue fid (sel == 0) s with
      | none => finish h stInvalidField s
      | some v =>
        if sel = 3 then finishDw h stOk (if fid = 0xC3 then 0 else 4) s
        else if 3 < sel then finish h stInvalidField s
        else post h.sq h.cid stOk v.1 v.2 s) := by
  refine (congrArg Host.Outcome.next (admitAdmin_accepts _ ok)).trans ?_
  rfl

/-- A value asked for by SEL 0, 1 or 2 goes into completion dword 0 and the data (R105). -/
theorem getFeatures_value {fid sel : Nat} {v : Nat × Blob} (hsel : sel < 3) (hv : featureValue fid (sel == 0) s = some v) :
    exec (.getFeatures h fid sel) s = .next (post h.sq h.cid stOk v.1 v.2 s) := by
  rw [exec_getFeatures ok, hv]
  exact congrArg _ ((if_neg (by omega)).trans (if_neg (by omega)))

theorem getFeatures_dword {fid sel n : Nat} (hsel : sel < 3) (hv : featureValue fid (sel == 0) s = some (n, Blob.zero 0)) :
    exec (.getFeatures h fid sel) s = .next (finishDw h stOk n s) := getFeatures_value ok hsel hv

theorem getFeatures_data {fid sel : Nat} {d : Blob} (hsel : sel < 3) (hv : featureValue fid (sel == 0) s = some (0, d)) :
    exec (.getFeatures h fid sel) s = .next (finishData h d s) := getFeatures_value ok hsel hv

/-- SEL 3 tells of a feature of the drive whether it is changeable, which all are but Plain Membership (R105). -/
theorem getFeatures_capability {fid : Nat} {v : Nat × Blob} (hv : featureValue fid false s = some v) :
    exec (.getFeatures h fid 3) s = .next (finishDw h stOk (if fid = 0xC3 then 0 else 4) s) := by
  rw [exec_getFeatures ok, show ((3 : Nat) == 0) = false from rfl, hv]
  exact congrArg _ (if_pos rfl)

theorem getFeatures_unknown {fid : Nat} (sel : Nat) (hv : featureValue fid (sel == 0) s = none) :
    exec (.getFeatures h fid sel) s = .next (finish h stInvalidField s) := by
  rw [exec_getFeatures ok, hv]

end

/-- The features of the drive (R95, R105, R386); any other identifier has no value. -/
theorem featureValue_eq_none {fid : Nat} (now : Bool) (s : State) (hf : fid ∉ [0x01, 0x02, 0x07, 0xC0, 0xC1, 0xC2, 0xC3, 0xC4]) :
    featureValue fid now s = none := by
  unfold featureValue
  split
  iterate 8 exact absurd (by decide) hf
  rfl

/-- Settles O12: each clause reads `featureValue` at its identifier. -/
theorem getFeaturesReadsTheFeature : Obligations.GetFeaturesReadsTheFeature := by
  intro h s ok
  have now : 0 < 3 := by decide
  refine ⟨getFeatures_dword ok now rfl, getFeatures_dword ok now rfl, getFeatures_dword ok now rfl, getFeatures_dword ok now rfl,
    getFeatures_dword ok now rfl, getFeatures_data ok now rfl, getFeatures_data ok now rfl, getFeatures_data ok now rfl,
    ?_, ?_, getFeatures_capability ok rfl, fun fid sel hf => getFeatures_unknown ok sel (featureValue_eq_none _ s hf)⟩
  · rintro sel (rfl | rfl)
    · have default : 1 < 3 := by decide
      exact ⟨getFeatures_dword ok default rfl, getFeatures_dword ok default rfl, getFeatures_data ok default rfl,
        getFeatures_data ok default rfl⟩
    · have saved : 2 < 3 := by decide
      exact ⟨getFeatures_dword ok saved rfl, getFeatures_dword ok saved rfl, getFeatures_data ok saved rfl, getFeatures_data ok saved rfl⟩
  · intro fid hfid
    simp only [List.mem_cons, List.not_mem_nil, or_false] at hfid
    rcases hfid with rfl | rfl | rfl | rfl | rfl | rfl | rfl <;> exact getFeatures_capability ok rfl

/-! ### O13: management commands -/

section
variable {s : State} {h : Hdr}

theorem exec_nvmeMiSendReceive (ok : s.accepts h 0x1D = true) (m : MiCmd) : exec (.nvmeMiSendReceive h m) s =
    .next (post h.sq h.cid (miCore m s).1 0 (miCore m s).2.1 (miCore m s).2.2) :=
  congrArg Host.Outcome.next (admitAdmin_accepts _ ok)

theorem setPower_taken {ps : Nat} (hps : ps ≤ 2) : setPower ps s = (stOk, { s with host := { s.host with powerState := ps } }) :=
  if_pos hps

theorem setEnvelope_taken {w : Nat} (hw : s.envelopeOk w = true) :
    setEnvelope w s = (stOk, { s with host := { s.host with envelopeNext := some w } }) := if_pos hw

/-- An admin command that the endpoint may not carry is refused, whatever it would do (R104, R109, log 79). -/
theorem nvmeMiSendReceive_refuses (ok : s.accepts h 0x1D = true) {op : Nat} (hop : (adminOpcode op && !miRefused op) = false) :
    exec (.nvmeMiSendReceive h (.admin op)) s = .next (finish h stInvalidOpcode s) := by
  rw [exec_nvmeMiSendReceive ok]
  simp only [miCore, hop, Bool.false_eq_true, if_false]
  rfl

theorem nvmeMiSendReceive_setPower (ok : s.accepts h 0x1D = true) {ps : Nat} (hps : ps ≤ 2) :
    exec (.nvmeMiSendReceive h (.setPower ps)) s = .next (finish h stOk { s with host := { s.host with powerState := ps } }) := by
  rw [exec_nvmeMiSendReceive ok]
  simp only [miCore, setPower_taken hps]
  rfl

theorem nvmeMiSendReceive_setEnvelope (ok : s.accepts h 0x1D = true) {w : Nat} (hw : s.envelopeOk w = true) :
    exec (.nvmeMiSendReceive h (.setEnvelope w)) s = .next (finish h stOk { s with host := { s.host with envelopeNext := some w } }) := by
  rw [exec_nvmeMiSendReceive ok]
  simp only [miCore, setEnvelope_taken hw]
  rfl

theorem exec_nvmeMiCommand_without_aux (m : MiCmd) (hm : s.power.mgmt = false) : exec (.nvmeMiCommand m) s = .next s :=
  congrArg Host.Outcome.next (if_pos (by simp [hm]))

/-- The answer to a command over SMBus that the endpoint takes up (R109). -/
theorem exec_nvmeMiCommand_served (m : MiCmd) (hm : s.power.mgmt = true) {st : Status} {d : Blob} {t : State}
    (hr : (if s.up && !s.fw.recovery then miCore m s
      else if m == .status then (stOk, miStatus s, s) else (stInternal, Blob.zero 0, s)) = (st, d, t)) :
    exec (.nvmeMiCommand m) s = .next (respond ((Blob.concat [fld 1 st.1, fld 1 st.2]).append d) t) := by
  change Host.Outcome.next _ = _
  rw [if_neg (by simp [hm]), hr]

/-- The poll is answered by a drive that runs and by one that does not (R109). -/
theorem nvmeMiCommand_status (hm : s.power.mgmt = true) : exec (.nvmeMiCommand .status) s = .next { s with host := { s.host with
    responses := s.host.responses ++ [(Blob.concat [fld 1 0, fld 1 0]).append (miStatus s)] } } := by
  rw [exec_nvmeMiCommand_served .status hm (st := stOk) (d := miStatus s) (t := s) (by split <;> rfl)]
  rfl

theorem nvmeMiCommand_setPower (hm : s.power.mgmt = true) (hup : s.up = true) (hrec : s.fw.recovery = false) {ps : Nat} (hps : ps ≤ 2) :
    exec (.nvmeMiCommand (.setPower ps)) s = .next { s with host := { s.host with
      powerState := ps
      responses := s.host.responses ++ [(Blob.concat [fld 1 0, fld 1 0]).append (Blob.zero 0)] } } := by
  have hr : (s.up && !s.fw.recovery) = true := by simp [hup, hrec]
  rw [exec_nvmeMiCommand_served (.setPower ps) hm ((if_pos hr).trans (congrArg (fun r => (r.1, Blob.zero 0, r.2)) (setPower_taken hps)))]
  rfl

theorem fruData_len (s : State) : s.fruData.len = 256 := rfl

theorem exec_fruRead (hm : s.power.mgmt = true) (ofst len : Nat) : exec (.fruRead ofst len) s = .next { s with host := { s.host with
    responses := s.host.responses ++ [s.fruData.slice ofst (min len (256 - ofst))] } } :=
  congrArg Host.Outcome.next (if_pos hm)

theorem exec_fruRead_without_aux (hm : s.power.mgmt = false) (ofst len : Nat) : exec (.fruRead ofst len) s = .next s :=
  congrArg Host.Outcome.next (if_neg (by simp [hm]))

end

/-- A byte string cut out reads as it did in its place. -/
theorem byte_slice {b : Blob} {a n i : Nat} (hi : i < n) (hb : a + i < b.len) : (b.slice a n).byte i = b.byte (a + i) := by
  unfold Blob.byte
  rw [if_pos hb]
  refine (if_pos hi).trans ?_
  rw [Blob.slice, Cells.get_slice hi, Nat.add_comm]

/-- Settles O13: the endpoint's answers by `miCore`, and the FRU bytes cut out of the 256. -/
theorem managementCommandsAndOpcodes : Obligations.ManagementCommandsAndOpcodes := by
  refine ⟨fun h s ok => ⟨exec_nvmeMiSendReceive ok _, exec_nvmeMiSendReceive ok _, fun _ => nvmeMiSendReceive_setPower ok,
      fun _ => nvmeMiSendReceive_setEnvelope ok, fun op hop => nvmeMiSendReceive_refuses ok ?_,
      fun op hop => nvmeMiSendReceive_refuses ok (by simp [hop])⟩,
    fun m s => exec_nvmeMiCommand_without_aux m, fun s => nvmeMiCommand_status, fun _ s hm hup hrec => nvmeMiCommand_setPower hm hup hrec,
    fun h op s hf hq => congrArg Host.Outcome.next (if_pos (by simp [hf, hq])),
    fun ofst len s => ⟨fruData_len s, fun hm => ⟨_, _, exec_fruRead hm ofst len, rfl, fun i hi => ?_, rfl⟩,
      fun hm => exec_fruRead_without_aux hm ofst len⟩⟩
  · have hrefused : miRefused op = true := by simpa [miRefused] using hop
    simp [hrefused]
  · have hi : i < min len (256 - ofst) := hi
    exact byte_slice hi (by rw [fruData_len]; omega)

/-! ### O14: log pages and Identify -/

section
variable {s : State} {h : Hdr}

theorem exec_getLogPage (ok : s.accepts h 0x02 = true) (lid numd lpo : Nat) (rae : Bool) :
    exec (.getLogPage h lid numd lpo rae) s = .next (logCore h lid numd lpo rae s) :=
  congrArg Host.Outcome.next (admitAdmin_accepts _ ok)

theorem logCore_page {lid numd lpo : Nat} {p : Blob} (rae : Bool) (hp : s.logPage lid = some p) (hn : numd < 524288) :
    logCore h lid numd lpo rae s =
      finishData h (p.slice (4 * lpo) (4 * (numd + 1))) { (if rae then s else rearm lid s) with free := s.free + p.len } := by
  rw [logCore, hp]
  exact if_neg (by omega)

theorem logCore_unknown {lid : Nat} (numd lpo : Nat) (rae : Bool) (hp : s.logPage lid = none) :
    logCore h lid numd lpo rae s = finish h stLogPage s := by
  rw [logCore, hp]

theorem exec_identify (ok : s.accepts h 0x06 = true) (cns nsid : Nat) : exec (.identify h cns nsid) s = .next (identifyCore h cns nsid s) :=
  congrArg Host.Outcome.next (admitAdmin_accepts _ ok)

end

/-- The log pages of the drive are those that page 00h lists (R430, log 92). -/
theorem logPage_isSome_iff (s : State) (lid : Nat) : (s.logPage lid).isSome = true ↔ lid ∈ logIds := by
  constructor
  · intro hsome
    unfold State.logPage at hsome
    split at hsome
    iterate 15 decide
    exact absurd hsome Bool.false_ne_true
  · intro hlid
    simp only [logIds, List.mem_cons, List.not_mem_nil, or_false] at hlid
    rcases hlid with rfl | rfl | rfl | rfl | rfl | rfl | rfl | rfl | rfl | rfl | rfl | rfl | rfl | rfl | rfl <;> rfl

/-- Settles O14: the page or structure as the state gives it goes into one completion. -/
theorem logPagesAndIdentify : Obligations.LogPagesAndIdentify := by
  refine ⟨fun h lid numd lpo s ok => ⟨fun p hp hn => ?_, fun rae hp => by rw [exec_getLogPage ok, logCore_unknown numd lpo rae hp],
    logPage_isSome_iff s lid⟩, fun h cns nsid s ok => ⟨fun d hd => ?_, fun st hst => ?_⟩⟩
  · exact ⟨by rw [exec_getLogPage ok, logCore_page true hp hn, if_pos rfl],
      by rw [exec_getLogPage ok, logCore_page false hp hn, if_neg Bool.false_ne_true]; rfl⟩
  · rw [exec_identify ok, identifyCore, hd]
  · rw [exec_identify ok, identifyCore, hst]

end Sys2Proof.Machine
end

/-! PROOFS of the families 04_host_interface and 05_tier_map: Memory Write (O24), Memory Read (O25) and Memory Copy (O26). -/

section
namespace Sys2Proof.Machine

/-! ### A memory namespace written: the other stays, and everything but the two -/

section
variable (nsid : Nat) (r : Ram) (s : State)

theorem setRam_ramsOnly : setRam nsid r s =
    { s with mem := { s.mem with sram := (setRam nsid r s).mem.sram, dram := (setRam nsid r s).mem.dram } } := by
  unfold setRam
  split
  · rfl
  · rfl

/-- The number of the other memory namespace is 147 less that of the one. -/
theorem ram_setRam_sibling (hn : nsid = 73 ∨ nsid = 74) : (setRam nsid r s).ram (147 - nsid) = s.ram (147 - nsid) := by
  rcases hn with rfl | rfl
  · rfl
  · rfl

end

section
variable (nsid ofst : Nat) (d : Blob) (s : State)

theorem memWrite_ramsOnly : memWrite nsid ofst d s =
    { s with mem := { s.mem with sram := (memWrite nsid ofst d s).mem.sram, dram := (memWrite nsid ofst d s).mem.dram } } :=
  setRam_ramsOnly nsid _ s

theorem memWrite_get (a : Nat) : ((memWrite nsid ofst d s).ram nsid).cells.get a =
    if ofst ≤ a ∧ a < ofst + d.len then d.cells.get (a - ofst) else (s.ram nsid).cells.get a := by
  rw [memWrite, ram_setRam_same, Ram.get_write]

theorem memWrite_poison : ((memWrite nsid ofst d s).ram nsid).poison =
    (s.ram nsid).poison.filter fun g => !(Ram.covers ofst d.len g) := by
  rw [memWrite, ram_setRam_same]
  rfl

theorem memWrite_sibling (hn : nsid = 73 ∨ nsid = 74) : (memWrite nsid ofst d s).ram (147 - nsid) = s.ram (147 - nsid) :=
  ram_setRam_sibling nsid _ s hn

end

theorem isMemNs_iff (nsid : Nat) : isMemNs nsid = true ↔ nsid = 73 ∨ nsid = 74 := by simp [isMemNs]

theorem memFits_iff (nsid ofst len : Nat) : memFits nsid ofst len = true ↔ ofst + len ≤ memLen nsid := by simp [memFits]

/-! ### The destination of a Memory Write or a Memory Copy (R120, R126) -/

section
variable {nsid ofst len : Nat} {s : State}

theorem destinationStatus_outside (h : s.inRange none nsid ofst len = false) :
    destinationStatus nsid ofst len s = some stInvalidField := if_pos (by simp [h])

theorem destinationStatus_lost (h : s.inRange none nsid ofst len = true) (hl : s.spanLost nsid ofst len = true) :
    destinationStatus nsid ofst len s = some stAccess := (if_neg (by simp [h])).trans (if_pos hl)

theorem destinationStatus_sound (h : s.inRange none nsid ofst len = true) (hl : s.spanLost nsid ofst len = false) :
    destinationStatus nsid ofst len s = none := (if_neg (by simp [h])).trans (if_neg (by simp [hl]))

end

/-! ### O24: Memory Write -/

section
variable {h : Hdr} {nsid ofst : Nat} {data : Blob} {s : State}

theorem exec_memoryWrite (ok : s.acceptsIo h false = true) :
    exec (.memoryWrite h nsid ofst data) s = .next (memoryWriteCore h nsid ofst data s) :=
  congrArg Host.Outcome.next (admitIo_accepts _ _ ok)

theorem memoryWriteCore_other (hn : nsid ≠ 73) (hn' : nsid ≠ 74) : memoryWriteCore h nsid ofst data s = finish h stInvalidNs s :=
  if_pos (by simp [isMemNs, hn, hn'])

variable (hn : nsid = 73 ∨ nsid = 74)
include hn

theorem memoryWriteCore_long (hl : 2097152 < data.len) : memoryWriteCore h nsid ofst data s = finish h stInvalidField s := by
  rw [memoryWriteCore, if_neg (by simp [(isMemNs_iff nsid).mpr hn])]
  exact if_pos hl

theorem memoryWriteCore_beyond (hl : data.len ≤ 2097152) (hf : memLen nsid < ofst + data.len) :
    memoryWriteCore h nsid ofst data s = finish h stLbaRange s := by
  have hfits : memFits nsid ofst data.len = false := by simp [memFits, hf]
  rw [memoryWriteCore, if_neg (by simp [(isMemNs_iff nsid).mpr hn]), if_neg (show ¬mdtsBytes < data.len from not_lt.mpr hl)]
  exact if_pos (by simp [hfits])

/-- A Memory Write of some bytes within its namespace hangs on its destination alone. -/
theorem memoryWriteCore_within (hl : data.len ≤ 2097152) (hf : ofst + data.len ≤ memLen nsid) (h0 : data.len ≠ 0) :
    memoryWriteCore h nsid ofst data s = match destinationStatus nsid ofst data.len s with
      | some st => finish h st s
      | none => finish h stOk (memWrite nsid ofst data s) := by
  rw [memoryWriteCore, if_neg (by simp [(isMemNs_iff nsid).mpr hn]), if_neg (show ¬mdtsBytes < data.len from not_lt.mpr hl),
    if_neg (by simp [(memFits_iff nsid ofst data.len).mpr hf]), if_neg h0] <;> rfl

end

/-- Settles O24: a write that passes its checks is `memWrite`, whose effect on each byte and mark is known. -/
theorem memoryWriteStoresItsBytes : Obligations.MemoryWriteStoresItsBytes := by
  intro h nsid ofst data s ok
  rw [exec_memoryWrite ok]
  refine ⟨fun hn hn' => by rw [memoryWriteCore_other hn hn'], fun hn => ⟨fun hl => by rw [memoryWriteCore_long hn hl],
    fun hl hf => by rw [memoryWriteCore_beyond hn hl hf], fun hl hf h0 hr => ?_, fun hl hf h0 hr hlost => ?_, fun hl hf h0 hr hlost => ?_⟩⟩
  · rw [memoryWriteCore_within hn hl hf h0, destinationStatus_outside hr]
  · rw [memoryWriteCore_within hn hl hf h0, destinationStatus_lost hr hlost]
  · refine ⟨memWrite nsid ofst data s, ?_, memWrite_get nsid ofst data s, memWrite_sibling nsid ofst data s hn,
      memWrite_poison nsid ofst data s, memWrite_ramsOnly nsid ofst data s⟩
    rw [memoryWriteCore_within hn hl hf h0, destinationStatus_sound hr hlost]

/-! ### O25: Memory Read -/

theorem le_of_mem_cellsOf {l : List Byte} {o : Nat} {y : Host.Cell} (hy : y ∈ cellsOf o l) : o ≤ y.1 := by
  induction l generalizing o with
  | nil => exact absurd hy List.not_mem_nil
  | cons x r ih =>
    unfold cellsOf at hy
    split at hy
    · exact Nat.le_of_succ_le (ih hy)
    · obtain rfl | hy := List.mem_cons.mp hy
      · exact Nat.le_refl o
      · exact Nat.le_of_succ_le (ih hy)

/-- The sparse form of a list of bytes reads as the list does. -/
theorem get_cellsOf (l : List Byte) (o i : Nat) (hi : i < l.length) : (cellsOf o l).get (o + i) = l[i] := by
  induction l generalizing o i with
  | nil => exact absurd hi (Nat.not_lt_zero i)
  | cons x r ih =>
    cases i with
    | zero =>
      have later : (cellsOf (o + 1) r).get o = 0 := Cells.get_absent fun y hy heq => by
        have := le_of_mem_cellsOf hy
        omega
      by_cases hx : x = 0#8
      · simp [cellsOf, hx, later]
      · simp [cellsOf, hx, Cells.get_cons]
    | succ i =>
      have next := ih (o + 1) i (Nat.lt_of_succ_lt_succ hi)
      rw [show o + 1 + i = o + (i + 1) by omega] at next
      by_cases hx : x = 0#8
      · simp [cellsOf, hx, next]
      · simp [cellsOf, hx, Cells.get_cons, next]

theorem byte_ofBytes (l : List Byte) (i : Nat) (hi : i < l.length) : (Blob.ofBytes l).byte i = l[i] := by
  have hget := get_cellsOf l 0 i hi
  rw [Nat.zero_add] at hget
  exact (if_pos hi).trans hget

/-! #### Delivered bytes -/

section
variable (d : Blob) (bad : List Nat) (s : State)

/-- Masking takes free values and nothing else. -/
theorem maskBytes_frame : (maskBytes d bad s).2 = { s with free := (maskBytes d bad s).2.free } := by
  unfold maskBytes
  split
  · rfl
  · rfl

theorem maskBytes_len : (maskBytes d bad s).1.len = d.len := by
  unfold maskBytes
  split
  · rfl
  · simp [Blob.ofBytes]

/-- A byte of a sound granule is delivered as it is. -/
theorem maskBytes_sound {i : Nat} (hi : i < d.len) (hb : i ∉ bad) : (maskBytes d bad s).1.byte i = d.byte i := by
  unfold maskBytes
  split
  · rfl
  · refine (byte_ofBytes _ i (by simpa using hi)).trans ?_
    simp [hb]

end

section
variable {h : Hdr} {nsid ofst len : Nat} {s : State}

theorem exec_memoryRead (ok : s.acceptsIo h false = true) : exec (.memoryRead h nsid ofst len) s = .next (memoryReadCore h nsid ofst len s) :=
  congrArg Host.Outcome.next (admitIo_accepts _ _ ok)

theorem memoryReadCore_other (hn : nsid ≠ 73) (hn' : nsid ≠ 74) : memoryReadCore h nsid ofst len s = finish h stInvalidNs s :=
  if_pos (by simp [isMemNs, hn, hn'])

theorem memRead_byte {i : Nat} (hi : i < len) : (memRead nsid ofst len s).byte i = (s.ram nsid).cells.get (ofst + i) := by
  refine (if_pos hi).trans ?_
  exact (Cells.get_slice hi).trans (by rw [Nat.add_comm])

variable (hn : nsid = 73 ∨ nsid = 74)
include hn

theorem memoryReadCore_long (hl : 2097152 < len) : memoryReadCore h nsid ofst len s = finish h stInvalidField s := by
  rw [memoryReadCore, if_neg (by simp [(isMemNs_iff nsid).mpr hn])]
  exact if_pos hl

theorem memoryReadCore_beyond (hl : len ≤ 2097152) (hf : memLen nsid < ofst + len) :
    memoryReadCore h nsid ofst len s = finish h stLbaRange s := by
  have hfits : memFits nsid ofst len = false := by simp [memFits, hf]
  rw [memoryReadCore, if_neg (by simp [(isMemNs_iff nsid).mpr hn]), if_neg (show ¬mdtsBytes < len from not_lt.mpr hl)]
  exact if_pos (by simp [hfits])

variable (hl : len ≤ 2097152) (hf : ofst + len ≤ memLen nsid) (h0 : len ≠ 0) (hlost : s.spanLost nsid ofst len = false)
include hl hf h0 hlost

theorem memoryReadCore_sound (hbad : (s.ram nsid).badBytes ofst len = []) :
    memoryReadCore h nsid ofst len s = finishData h (memRead nsid ofst len s) s := by
  rw [memoryReadCore, if_neg (by simp [(isMemNs_iff nsid).mpr hn]), if_neg (show ¬mdtsBytes < len from not_lt.mpr hl),
    if_neg (by simp [(memFits_iff nsid ofst len).mpr hf]), if_neg h0]
  dsimp only
  rw [if_neg (by simp [hlost]), hbad]

/-- Poisoned bytes are masked, their granules are counted, and the error names the first of them. -/
theorem memoryReadCore_poisoned {b : Nat} {r : List Nat} (hbad : (s.ram nsid).badBytes ofst len = b :: r) :
    ∃ k, memoryReadCore h nsid ofst len s = finishUnrecovered h (maskBytes (memRead nsid ofst len s) (b :: r) s).1 nsid (ofst + b)
      (countDelivered k (maskBytes (memRead nsid ofst len s) (b :: r) s).2) := by
  rw [memoryReadCore, if_neg (by simp [(isMemNs_iff nsid).mpr hn]), if_neg (show ¬mdtsBytes < len from not_lt.mpr hl),
    if_neg (by simp [(memFits_iff nsid ofst len).mpr hf]), if_neg h0]
  dsimp only
  rw [if_neg (by simp [hlost]), hbad]
  exact ⟨_, rfl⟩

end

/-- Settles O25: a sound span is read out, and of a poisoned one the bytes outside the mask. -/
theorem memoryReadReturnsTheBytes : Obligations.MemoryReadReturnsTheBytes := by
  intro h nsid ofst len s ok
  rw [exec_memoryRead ok]
  refine ⟨fun hn hn' => by rw [memoryReadCore_other hn hn'], fun hn => ⟨fun hl => by rw [memoryReadCore_long hn hl],
    fun hl hf => by rw [memoryReadCore_beyond hn hl hf], fun hl hf h0 hlost hbad => ?_, fun b r hl hf hlost hbad => ?_⟩⟩
  · rw [memoryReadCore_sound hn hl hf h0 hlost hbad]
    rfl
  · have h0 : len ≠ 0 := by
      rintro rfl
      exact absurd hbad (List.cons_ne_nil b r).symm
    obtain ⟨k, hread⟩ := memoryReadCore_poisoned (h := h) hn hl hf h0 hlost hbad
    have hframe := maskBytes_frame (memRead nsid ofst len s) (b :: r) s
    rw [hread, hbad]
    exact ⟨_, _, rfl, maskBytes_len _ _ s, fun i hi hsound => (maskBytes_sound _ _ s hi hsound).trans (memRead_byte hi),
      (congrArg State.mem hframe :), (congrArg State.host hframe :), (congrArg State.ftl hframe :)⟩

/-! ### O26: Memory Copy -/

section
variable {h : Hdr} {nsid ofst len : Nat} {s : State}

theorem exec_memoryCopy (ok : s.acceptsIo h false = true) (src : CopySource) :
    exec (.memoryCopy h nsid ofst len src) s = .next (memoryCopyCore h nsid ofst len src s) :=
  congrArg Host.Outcome.next (admitIo_accepts _ _ ok)

section
variable {ns o : Nat} (hn : nsid = 73 ∨ nsid = 74) (hs : ns = 73 ∨ ns = 74) (h0 : len ≠ 0) (hd : ofst + len ≤ memLen nsid)
  (ho : o + len ≤ memLen ns)
include hn hs h0 hd ho

/-- A copy between memory namespaces within both of them may still be refused for its destination. -/
theorem memoryCopyCore_refused {st : Status} (hst : destinationStatus nsid ofst len s = some st) :
    memoryCopyCore h nsid ofst len (.mem ns o) s = finish h st s := by
  rw [memoryCopyCore, if_neg (by simp [(isMemNs_iff nsid).mpr hn])]
  dsimp only
  rw [if_neg (by simp [(isMemNs_iff ns).mpr hs]), if_neg (by simp [(memFits_iff nsid ofst len).mpr hd, (memFits_iff ns o len).mpr ho]),
    if_neg h0, hst]

theorem memoryCopyCore_sound (hst : destinationStatus nsid ofst len s = none) (hlost : s.spanLost ns o len = false)
    (hbad : (s.ram ns).badBytes o len = []) :
    memoryCopyCore h nsid ofst len (.mem ns o) s = finish h stOk (memWrite nsid ofst (memRead ns o len s) s) := by
  rw [memoryCopyCore, if_neg (by simp [(isMemNs_iff nsid).mpr hn])]
  dsimp only
  rw [if_neg (by simp [(isMemNs_iff ns).mpr hs]), if_neg (by simp [(memFits_iff nsid ofst len).mpr hd, (memFits_iff ns o len).mpr ho]),
    if_neg h0, hst, if_neg (by simp [hlost]), hbad]

end

/-- What a memory namespace reads after a piece of another array of bytes has been written to it. -/
theorem memWrite_get_slice (c : Cells) (o a : Nat) (t : State) : ((memWrite nsid ofst ⟨len, c.slice o len⟩ t).ram nsid).cells.get a =
    if ofst ≤ a ∧ a < ofst + len then c.get (o + (a - ofst)) else (t.ram nsid).cells.get a := by
  rw [memWrite_get]
  by_cases ha : ofst ≤ a ∧ a < ofst + len
  · rw [if_pos ha, if_pos ha, Cells.get_slice (by omega), Nat.add_comm]
  · rw [if_neg ha, if_neg ha]

variable {src lba p : Nat} {n : Ns} {u : BufUnit} {j : Job}

/-- A copy of one LBA whose unit has come whole and without poison writes its bytes (R94, R362). -/
theorem finishCopyNvm_trusted {v : UnitData} (hns : s.ns? src = some n) (hunit : j.unit (s.slotOf n lba) = v) (hlost : v.lost = false)
    (hpoison : v.poison = []) (hwhole : s.deferredLba n.nsid lba = false) : ∃ k, finishCopyNvm h nsid ofst src lba 1 j s =
      finish h stOk (countDelivered k (memWrite nsid ofst (v.data.slice (lba % 16 * 4096) 4096) (closeJob j.jid s))) := by
  have hns' : (closeJob j.jid s).ns? src = some n := hns
  have hdata : lbaData j (closeJob j.jid s) n lba = (v.data.slice (lba % 16 * 4096) 4096, true) := by
    have hunit' : j.unit ((closeJob j.jid s).slotOf n lba) = v := hunit
    have hwhole' : (closeJob j.jid s).deferredLba n.nsid lba = false := hwhole
    simp [lbaData, hunit', hlost, hpoison, hwhole']
  unfold finishCopyNvm
  dsimp only
  rw [hns', spanList_one]
  dsimp only [List.map]
  rw [hdata]
  dsimp only [List.zipIdx]
  rw [List.flatMap_singleton, if_pos rfl, concat_one, writeMarked_clean]
  exact ⟨_, rfl⟩

/-- A copy of one LBA that the write buffer holds whole is made at once. -/
theorem memoryCopyCore_buffered (hn : nsid = 73 ∨ nsid = 74) (hatt : s.attached? src = some n) (hns : s.ns? src = some n)
    (hlba : lba < n.slots * 16) (hd : ofst + 4096 ≤ memLen nsid) (hst : destinationStatus nsid ofst 4096 s = none)
    (hnew : ∀ j ∈ s.ftl.jobs, j.jid < s.ftl.nextId) (hmap : s.mapOf (s.slotOf n lba) = some (.phys p)) (hbuf : s.buffered p = some u)
    (hpoison : u.poison = []) (hwhole : s.deferredLba n.nsid lba = false) : ∃ k, memoryCopyCore h nsid ofst 4096 (.nvm src lba 1) s =
      finish h stOk (countDelivered k (memWrite nsid ofst (u.data.slice (lba % 16 * 4096) 4096) (closeJob s.ftl.nextId
        (openedServed (.memCopy h nsid ofst src lba 1) (s.slotOf n lba) u (begin' h .reading s))))) := by
  have hunits : s.unitsOf n lba 1 = [s.slotOf n lba] := by simp [State.unitsOf, State.slotOf, spanList]
  have hfits : (!(memFits nsid ofst 4096) || decide (n.lbas < lba + 1)) = false := by
    simp [(memFits_iff nsid ofst 4096).mpr hd, Ns.lbas]
    omega
  rw [memoryCopyCore, if_neg (by simp [(isMemNs_iff nsid).mpr hn])]
  dsimp only
  rw [hatt]
  dsimp only
  rw [if_neg (by decide), if_neg (by rw [hfits]; decide), if_neg (by decide), hst, hunits]
  dsimp only
  have hframe := begin'_frame h .reading s
  have hslot : (begin' h .reading s).slotOf n lba = s.slotOf n lba := congrArg (·.slotOf n lba) hframe
  have hnext : (begin' h .reading s).ftl.nextId = s.ftl.nextId := congrArg (·.ftl.nextId) hframe
  have hnew' : ∀ j ∈ (begin' h .reading s).ftl.jobs, j.jid < (begin' h .reading s).ftl.nextId := by rwa [begin'_ftl]
  have hmap' : (begin' h .reading s).mapOf (s.slotOf n lba) = some (.phys p) := (congrArg (·.mapOf (s.slotOf n lba)) hframe).trans hmap
  have hbuf' : (begin' h .reading s).buffered p = some u := (congrArg (·.buffered p) hframe).trans hbuf
  have hns' : (begin' h .reading s).ns? src = some n := (congrArg (·.ns? src) hframe).trans hns
  have hwhole' : (begin' h .reading s).deferredLba n.nsid lba = false := (congrArg (·.deferredLba n.nsid lba) hframe).trans hwhole
  generalize begin' h .reading s = b at hslot hnext hnew' hmap' hbuf' hns' hwhole' ⊢
  rw [openJob_of_buffered hmap' hbuf']
  dsimp only
  rw [openedServed_job? hnew']
  dsimp only
  rw [if_pos (by rfl), ← hnext, ← hslot]
  refine finishCopyNvm_trusted (v := ⟨b.slotOf n lba, u.data, u.poison, false⟩) hns' ?_ rfl hpoison hwhole'
  change (servedJob _ _ _ _).unit (b.slotOf n lba) = _
  simp [Job.unit, servedJob]

end

/-- Settles O26: both copies are `memWrite` of what the source reads. -/
theorem memoryCopyMovesTheBytes : Obligations.MemoryCopyMovesTheBytes := by
  intro h nsid ofst s ok hn
  refine ⟨fun ns o len hs h0 hd ho hr => ?_, fun ns o len hs h0 hd ho hr hlost hslost hbad => ?_,
    fun src n lba p u hatt hns hlba hd hr hlost hnew hmap hbuf hpoison hwhole => ?_⟩
  · rw [exec_memoryCopy ok, memoryCopyCore_refused hn hs h0 hd ho (destinationStatus_outside hr)]
  · refine ⟨memWrite nsid ofst (memRead ns o len s) s, ?_, fun a => memWrite_get_slice _ o a s, memWrite_sibling nsid ofst _ s hn,
      memWrite_ramsOnly nsid ofst _ s⟩
    rw [exec_memoryCopy ok, memoryCopyCore_sound hn hs h0 hd ho (destinationStatus_sound hr hlost) hslost hbad]
  · obtain ⟨k, hcopy⟩ := memoryCopyCore_buffered (h := h) hn hatt hns hlba hd (destinationStatus_sound hr hlost) hnew hmap hbuf hpoison hwhole
    have hframe := begin'_frame h .reading s
    generalize begin' h .reading s = b at hcopy hframe
    have hram (m : Nat) : (closeJob s.ftl.nextId (openedServed (.memCopy h nsid ofst src lba 1) (s.slotOf n lba) u b)).ram m = s.ram m :=
      congrArg (·.ram m) hframe
    refine ⟨_, (exec_memoryCopy ok _).trans (congrArg _ hcopy), fun a => ?_, ?_, ?_, ?_⟩
    · rw [← hram nsid]
      exact memWrite_get_slice u.data.cells (lba % 16 * 4096) a _
    · exact (memWrite_sibling nsid ofst _ _ hn).trans (hram _)
    · refine (congrArg (·.ftl.map) (memWrite_frame nsid ofst _ _)).trans ?_
      exact (congrArg (·.ftl.map) hframe :)
    · refine (congrArg (·.bell) (memWrite_frame nsid ofst _ _)).trans ?_
      exact (congrArg (·.bell) hframe :)

end Sys2Proof.Machine
end

/-! PROOFS of the family 14_flash_management: Dataset Management and Flush (O22). -/

section
namespace Sys2Proof.Machine

/-! ### What a deallocation leaves alone -/

/-- From one state to another, units have been unmapped, deferred ranges dropped or mended, and cached copies marked stale: nothing has
changed but the map with its journal and write counts, the deferred ranges, what recess has to do for parity, the option store and the
cached segments (R103, R124, R306, R325). -/
def Deallocates (s t : State) : Prop :=
  t = { s with
    ftl := { s.ftl with
      map := t.ftl.map, wcounts := t.ftl.wcounts, staging := t.ftl.staging, flushMark := t.ftl.flushMark, defers := t.ftl.defers }
    plain := { s.plain with deltas := t.plain.deltas, stale := t.plain.stale }
    nor := t.nor
    mem := { s.mem with segs := t.mem.segs, stats := t.mem.stats } }

namespace Deallocates
variable {s t u : State}

theorem refl (s : State) : Deallocates s s := rfl

theorem trans (h : Deallocates s t) (k : Deallocates t u) : Deallocates s u := by
  unfold Deallocates at h k ⊢
  rw [k, h]

theorem foldl {α : Type} {f : State → α → State} (hf : ∀ s a, Deallocates s (f s a)) (l : List α) (s : State) :
    Deallocates s (l.foldl f s) := by
  induction l generalizing s with
  | nil => exact refl s
  | cons a r ih => exact (hf s a).trans (ih _)

theorem host (h : Deallocates s t) : t.host = s.host := (congrArg State.host h :)
theorem bell (h : Deallocates s t) : t.bell = s.bell := (congrArg State.bell h :)
theorem img (h : Deallocates s t) : t.img = s.img := (congrArg State.img h :)
theorem idx (h : Deallocates s t) : t.idx = s.idx := (congrArg State.idx h :)
theorem power (h : Deallocates s t) : t.power = s.power := (congrArg State.power h :)
theorem sec (h : Deallocates s t) : t.sec = s.sec := (congrArg State.sec h :)
theorem ns (h : Deallocates s t) : t.ns = s.ns := (congrArg State.ns h :)
theorem sram (h : Deallocates s t) : t.mem.sram = s.mem.sram := (congrArg (·.mem.sram) h :)
theorem dram (h : Deallocates s t) : t.mem.dram = s.mem.dram := (congrArg (·.mem.dram) h :)
theorem buf (h : Deallocates s t) : t.ftl.buf = s.ftl.buf := (congrArg (·.ftl.buf) h :)
theorem flash (h : Deallocates s t) : t.ftl.flash = s.ftl.flash := (congrArg (·.ftl.flash) h :)

end Deallocates

/-- From one state to another, only deltas have been queued and parity slots marked stale (R306). -/
def QueuesDeltas (s t : State) : Prop := t = { s with plain := { s.plain with deltas := t.plain.deltas, stale := t.plain.stale } }

namespace QueuesDeltas
variable {s t u : State}

theorem refl (s : State) : QueuesDeltas s s := rfl

theorem trans (h : QueuesDeltas s t) (k : QueuesDeltas t u) : QueuesDeltas s u := by
  unfold QueuesDeltas at h k ⊢
  rw [k, h]

/-- A fold over a pair of a value and a state. -/
theorem foldl_pair {α β : Type} {f : β × State → α → β × State} (hf : ∀ b a, QueuesDeltas b.2 (f b a).2) (l : List α)
    (b : β × State) : QueuesDeltas b.2 (l.foldl f b).2 := by
  induction l generalizing b with
  | nil => exact refl b.2
  | cons a r ih => exact (hf b a).trans (ih _)

theorem deallocates (h : QueuesDeltas s t) : Deallocates s t := by
  unfold QueuesDeltas at h
  unfold Deallocates
  rw [h]

end QueuesDeltas

section
variable (s : State)

theorem markStale_queuesDeltas (lsn member : Nat) : QueuesDeltas s (markStale lsn member s) := by
  unfold markStale
  split
  · dsimp only
    split
    · exact .refl s
    · rfl
  · exact .refl s

/-- Deltas that wait for recess are queued and not sent (R306). -/
theorem sendDeltas_recess (lsn wc : Nat) (c : Blob) : QueuesDeltas s (sendDeltas true lsn wc c s).2 := by
  refine .foldl_pair (fun b a => ?_) (s.parityTargets lsn) (([] : List Nat), s)
  dsimp only
  split
  · exact markStale_queuesDeltas b.2 lsn a.2.1
  · rfl

/-- A slot unmapped: its map entry goes, and its delta waits for recess (R306, R325). -/
theorem unmapSlot_of_mapped {lsn : Nat} {e : MapEnt} (h : s.mapOf lsn = some e) :
    QueuesDeltas (setMap lsn none (bumpCount lsn s).1 true (bumpCount lsn s).2) (unmapSlot lsn s) := by
  unfold unmapSlot
  rw [h]
  exact sendDeltas_recess ..

theorem unmapSlot_of_unmapped {lsn : Nat} (h : s.mapOf lsn = none) : unmapSlot lsn s = s := by
  rw [unmapSlot, h]

theorem unmapSlot_deallocates (lsn : Nat) : Deallocates s (unmapSlot lsn s) := by
  cases h : s.mapOf lsn with
  | none => rw [unmapSlot_of_unmapped s h]; exact .refl s
  | some e => exact .trans (t := setMap lsn none (bumpCount lsn s).1 true (bumpCount lsn s).2) rfl (unmapSlot_of_mapped s h).deallocates

theorem unmapSlot_nor (lsn : Nat) : (unmapSlot lsn s).nor = s.nor := by
  cases h : s.mapOf lsn with
  | none => rw [unmapSlot_of_unmapped s h]
  | some e => exact (congrArg State.nor (unmapSlot_of_mapped s h) :)

/-- A slot unmapped, and no other (R325). -/
theorem unmapSlot_mapOf (lsn l : Nat) : (unmapSlot lsn s).mapOf l = if l = lsn then none else s.mapOf l := by
  cases h : s.mapOf lsn with
  | none =>
    rw [unmapSlot_of_unmapped s h]
    split
    next hl => rw [hl, h]
    · rfl
  | some e =>
    refine (congrArg (fun t => t.mapOf l) (unmapSlot_of_mapped s h) :).trans ?_
    exact lookup_dropKey lsn s.ftl.map l

/-- Records appended to the journal one after another touch the option store alone. -/
theorem norRecords_onlyNor {α : Type} (kind : Nat) (p : α → Blob) (l : List α) :
    ∃ n, l.foldl (fun s a => (norRecord kind (p a) [] s).2) s = { s with nor := n } ∧ n.maint = s.nor.maint := by
  induction l generalizing s with
  | nil => exact ⟨s.nor, rfl, rfl⟩
  | cons a r ih =>
    obtain ⟨n, hfold, hmaint⟩ := ih (norRecord kind (p a) [] s).2
    exact ⟨n, hfold, hmaint.trans (norRecord_maint s ..)⟩

theorem norFlags_onlyNor {α : Type} (f : Nat) (seq : α → Nat) (l : List α) :
    ∃ n, l.foldl (fun s a => norFlag (seq a) f s) s = { s with nor := n } := by
  induction l generalizing s with
  | nil => exact ⟨s.nor, rfl⟩
  | cons a r ih => exact ih _

/-- LBAs mended change the deferred ranges and their records alone (R103). -/
theorem mend_frame (nsid slba k : Nat) : ∃ n l, mend nsid slba k s = { s with nor := n, ftl := { s.ftl with defers := l } } := by
  unfold mend
  extract_lets touched l gone
  obtain ⟨n, h, -⟩ := norRecords_onlyNor (onFtl (fun t => { t with defers := l.filter fun d => d.mended.length != d.count }) s) 6
    (fun d => fld 6 d.record) gone
  exact ⟨n, _, h⟩

theorem dropDefers_frame (nsid : Nat) :
    ∃ n l, dropDefers nsid s = { s with nor := n, ftl := { s.ftl with defers := l } } ∧ n.maint = s.nor.maint := by
  unfold dropDefers
  obtain ⟨n, h, hmaint⟩ := norRecords_onlyNor (onFtl (fun t => { t with defers := t.defers.filter fun d => d.nsid != nsid }) s) 6
    (fun d => fld 6 d.record) (s.ftl.defers.filter fun d => d.nsid == nsid)
  exact ⟨n, _, h, hmaint⟩

theorem mend_deallocates (nsid slba k : Nat) : Deallocates s (mend nsid slba k s) := by
  obtain ⟨n, l, h⟩ := mend_frame s nsid slba k
  rw [h]
  rfl

theorem dropDefers_deallocates (nsid : Nat) : Deallocates s (dropDefers nsid s) := by
  obtain ⟨n, l, h, -⟩ := dropDefers_frame s nsid
  rw [h]
  rfl

theorem markStaleSegs_deallocates (nsid slba k : Nat) : Deallocates s (markStaleSegs nsid slba k s) := rfl

theorem mend_mapOf (nsid slba k l : Nat) : (mend nsid slba k s).mapOf l = s.mapOf l := by
  obtain ⟨n, d, h⟩ := mend_frame s nsid slba k
  rw [h]
  rfl

end

/-! ### O22: Dataset Management and Flush -/

section
variable {h : Hdr} {nsid : Nat} {s : State}

/-- A range of the sixteen LBAs of one unit covers that unit whole, and no other (R325). -/
theorem wholeUnits_one (unit : Nat) : wholeUnits ⟨unit * 16, 16⟩ = [unit] := by
  have hfirst : ceilDiv (unit * 16) 16 = unit := by
    unfold ceilDiv
    omega
  have hcount : (unit * 16 + 16) / 16 - unit = 0 + 1 := by omega
  rw [wholeUnits, hfirst, hcount, spanList_one]

theorem exec_deallocate (ok : s.acceptsIo h false = true) (ad : Bool) (l : List LbaRange) :
    exec (.datasetManagementDeallocate h nsid ad l) s = .next (deallocateCore h nsid ad l s) :=
  congrArg Host.Outcome.next (admitIo_accepts _ _ ok)

section
variable {n : Ns} {unit : Nat} (hatt : s.attached? nsid = some n) (hunit : unit < n.slots)
include hatt hunit

/-- A range within its namespace is deallocated where AD is set and the endurance group is not read-only (R107). -/
theorem deallocateCore_unit (ad : Bool) : deallocateCore h nsid ad [⟨unit * 16, 16⟩] s =
    if !ad then finish h stOk s
    else if s.readOnly then finish h stCapacity s
    else finish h stOk (markStaleSegs nsid (unit * 16) 16 (mend nsid (unit * 16) 16 (unmapSlot (s.lsnOf (n.base + unit)) s))) := by
  have hrange : ([⟨unit * 16, 16⟩] : List LbaRange).any (fun r => decide (0 < r.len ∧ n.lbas < r.slba + r.len)) = false := by
    simp [Ns.lbas]
    omega
  have hunits : ([⟨unit * 16, 16⟩] : List LbaRange).flatMap (fun r => if r.len = 0 then [] else wholeUnits r) = [unit] := by
    rw [List.flatMap_singleton, if_neg (Nat.succ_ne_zero 15), wholeUnits_one]
  rw [deallocateCore, hatt]
  dsimp only
  rw [hrange, hunits]
  rfl

/-- The unit is unmapped and no other is; memory's bytes, the buffer and flash stay (R325). -/
theorem deallocate_effect (ok : s.acceptsIo h false = true) (hro : s.readOnly = false) :
    ∃ t, exec (.datasetManagementDeallocate h nsid true [⟨unit * 16, 16⟩]) s = .next (finish h stOk t) ∧
      t.mapOf (s.lsnOf (n.base + unit)) = none ∧ (∀ l, l ≠ s.lsnOf (n.base + unit) → t.mapOf l = s.mapOf l) ∧
      t.mem.sram = s.mem.sram ∧ t.mem.dram = s.mem.dram ∧ t.host = s.host ∧ t.bell = s.bell ∧ t.ftl.buf = s.ftl.buf ∧
      t.ftl.flash = s.ftl.flash := by
  have hmap (l : Nat) : (markStaleSegs nsid (unit * 16) 16 (mend nsid (unit * 16) 16 (unmapSlot (s.lsnOf (n.base + unit)) s))).mapOf l =
      if l = s.lsnOf (n.base + unit) then none else s.mapOf l := (mend_mapOf ..).trans (unmapSlot_mapOf ..)
  have hframe := ((unmapSlot_deallocates s (s.lsnOf (n.base + unit))).trans (mend_deallocates _ nsid (unit * 16) 16)).trans
    (markStaleSegs_deallocates _ nsid (unit * 16) 16)
  refine ⟨_, ?_, (hmap _).trans (if_pos rfl), fun l hl => (hmap l).trans (if_neg hl), hframe.sram, hframe.dram, hframe.host, hframe.bell,
    hframe.buf, hframe.flash⟩
  rw [exec_deallocate ok, deallocateCore_unit hatt hunit, if_neg (by decide), if_neg (by simp [hro])]

end

theorem exec_flush (ok : s.acceptsIo h false = true) : exec (.flush h nsid) s = .next (flushCore h nsid s) :=
  congrArg Host.Outcome.next (admitIo_accepts _ _ ok)

/-- A report made leaves no range to be reported to the namespace, and changes only the ranges and the option store (R102). -/
theorem reportLosses_effect : ∃ t, reportLosses h nsid s = finish h stDeferred t ∧ t.reportDue nsid = false ∧ t.host = s.host ∧
    t.mem = s.mem ∧ t.ftl.map = s.ftl.map := by
  unfold reportLosses
  extract_lets due
  obtain ⟨n, hn⟩ := norFlags_onlyNor (onFtl (fun t => { t with
    defers := t.defers.map fun d => if due.contains d then { d with reported := true } else d }) s) 1 Defer.record due
  refine ⟨_, rfl, ?_, (congrArg State.host hn :), (congrArg State.mem hn :),
    (congrArg (·.ftl.map) hn :)⟩
  refine (congrArg (·.reportDue nsid) hn :).trans ?_
  refine List.any_eq_false.mpr fun x hx => ?_
  obtain ⟨d, hd, rfl⟩ := List.mem_map.mp hx
  by_cases hdue : due.contains d
  · rw [if_pos hdue]
    exact Bool.false_ne_true
  · rw [if_neg hdue]
    intro hreport
    exact hdue (List.contains_iff_mem.mpr (List.mem_filter.mpr ⟨hd, hreport⟩))

end

/-- Settles O22: of a deallocation the map is known slot by slot; a Flush completes or reports. -/
theorem deallocateUnmapsAndFlushReports : Obligations.DeallocateUnmapsAndFlushReports := by
  refine ⟨fun h nsid unit n s ok hatt hunit => ⟨?_, deallocate_effect hatt hunit ok, fun hro => ?_⟩, fun h nsid s ok => ⟨fun hall hnone => ?_,
    fun hnamed => ?_⟩⟩
  · rw [exec_deallocate ok, deallocateCore_unit hatt hunit, if_pos (by decide)]
  · rw [exec_deallocate ok, deallocateCore_unit hatt hunit, if_neg (by decide), if_pos hro]
  · rw [exec_flush ok, flushCore, if_pos ⟨hall, by simp [hnone]⟩]
  · have hvalid : ¬(nsid ≠ 0xFFFFFFFF ∧ (s.attached? nsid).isNone = true) := by
      rintro ⟨hall, hnone⟩
      rcases hnamed with hsome | hnamed
      · rw [Option.isNone_iff_eq_none.mp hnone] at hsome
        exact Bool.false_ne_true hsome
      · exact hall hnamed
    rw [exec_flush ok, flushCore, if_neg hvalid]
    refine ⟨fun hnone => by rw [if_neg (by simp [hnone])], fun hdue => ?_⟩
    obtain ⟨t, hreport, hkept⟩ := reportLosses_effect (h := h) (nsid := nsid) (s := s)
    exact ⟨t, by rw [if_pos hdue, hreport], hkept⟩

end Sys2Proof.Machine
end

/-! PROOFS of the family 14_flash_management: a write of one whole unit (O21). -/

section
namespace Sys2Proof.Machine

/-! ### O21: the bytes of a unit written whole -/

theorem byte_fit {b : Blob} {n i : Nat} (hi : i < n) (hb : i < b.len) : (b.fit n).byte i = b.byte i := by
  unfold Blob.byte
  rw [if_pos hb, Blob.fit, if_pos hi]
  exact Cells.get_below hi

theorem byte_zero (n i : Nat) : (Blob.zero n).byte i = 0 := ite_self _

theorem slice_len (b : Blob) (a n : Nat) : (b.slice a n).len = n := rfl

/-- Bytes placed over a string: the data within its span, and beside it the bytes as they were. -/
theorem byte_overlaid {b d : Blob} {a i : Nat} (hi : i < b.len) : (b.overlaid a d).byte i =
    if a ≤ i ∧ i < a + d.len then d.byte (i - a) else b.byte i := by
  have hdata (h : a ≤ i ∧ i < a + d.len) : i - a < d.len := by omega
  unfold Blob.byte
  rw [Blob.overlaid, if_pos hi, if_pos hi]
  dsimp only
  rw [Cells.get_below hi, Cells.get_blit]
  split
  next h => rw [if_pos (hdata h)]
  · rfl

/-- The first `k` LBAs of a unit's new content, one after another. -/
def lbasOver (d : Blob) (k : Nat) (b : Blob) : Blob :=
  (List.range k).foldl (fun b i => b.overlaid (i * 4096) (d.slice (i * 4096) 4096)) b

theorem lbasOver_succ (d : Blob) (k : Nat) (b : Blob) :
    lbasOver d (k + 1) b = (lbasOver d k b).overlaid (k * 4096) (d.slice (k * 4096) 4096) := by
  rw [lbasOver, List.range_succ, List.foldl_append]
  rfl

theorem lbasOver_len (d : Blob) (k : Nat) (b : Blob) : (lbasOver d k b).len = b.len := by
  induction k with
  | zero => rfl
  | succ k ih => exact (congrArg Blob.len (lbasOver_succ d k b)).trans ih

/-- The LBAs written read as the data. -/
theorem byte_lbasOver {d b : Blob} {k i : Nat} (hi : i < k * 4096) (hb : i < b.len) (hd : i < d.len) :
    (lbasOver d k b).byte i = d.byte i := by
  induction k with
  | zero => omega
  | succ k ih =>
    rw [lbasOver_succ, byte_overlaid (by rwa [lbasOver_len]), slice_len]
    split
    next h =>
      obtain ⟨hlow, hhigh⟩ := h
      rw [byte_slice (by omega) (by omega), Nat.add_sub_cancel' hlow]
    next h =>
      exact ih (Nat.lt_of_not_le fun hle => h ⟨hle, by omega⟩)

/-- The new content of a unit that the command covers whole is the command's data, and nothing of it is poisoned. -/
theorem mergeUnit_whole (j : Job) (lsn unit : Nat) {d : Blob} (hd : d.len = 65536) :
    mergeUnit j lsn (unit * 16) (unit * 16) d = (lbasOver d 16 ((Blob.zero unitBytes).fit unitBytes), []) := by
  have hcovered : ((List.range 16).filter fun i => decide (unit * 16 ≤ unit * 16 + i ∧ unit * 16 + i < unit * 16 + d.len / 4096)) =
      List.range 16 := List.filter_eq_self.mpr fun i hi => by
    have := List.mem_range.mp hi
    simp [hd]
    omega
  have hlen : (List.range 16).length = 16 := rfl
  unfold mergeUnit
  dsimp only
  rw [hcovered, if_pos hlen, if_pos (.inl hlen)]
  simp only [Nat.add_sub_cancel_left]
  rfl

/-! ### O21: the slot of a unit written -/

/-- A fold of which every step answers finds something in a list that is not empty. -/
theorem foldl_isSome_of_ne_nil {α β : Type} {f : Option β → α → Option β} (hf : ∀ a x, (f a x).isSome = true) {l : List α} (hl : l ≠ [])
    (b : Option β) : (l.foldl f b).isSome = true := by
  rw [← List.dropLast_append_getLast hl, List.foldl_append]
  exact hf _ _

/-- The host stream's open superblock with room on a channel gives its slot (R317). -/
theorem allocHost_of_open {s : State} {o : OpenSb} (fuel : Nat) (hopen : (s.ftl.opens.find? fun o => o.stream == .host) = some o)
    (hroom : ∃ ch ∈ s.live o.sb, o.row ch < sbRows) : ∃ ch, allocHost (fuel + 1) s = some (takeSlot o ch s) := by
  obtain ⟨c, hlive, hrow⟩ := hroom
  unfold allocHost
  rw [hopen]
  dsimp only
  split
  next ch _ => exact ⟨ch, rfl⟩
  next hnone =>
    refine absurd hnone (Option.isSome_iff_ne_none.mp (foldl_isSome_of_ne_nil (fun a x => ?_) (List.ne_nil_of_mem
      (List.mem_filter.mpr ⟨hlive, decide_eq_true hrow⟩)) none))
    cases a with
    | none => rfl
    | some b =>
      dsimp only
      split
      · rfl
      · rfl

/-- A unit written to the host stream takes a slot, stands in the buffer and is named by its map entry (R318). -/
theorem writeUnit_placed {s : State} {o : OpenSb} (lsn : Nat) (b : Blob) (hopen : (s.ftl.opens.find? fun o => o.stream == .host) = some o)
    (hroom : ∃ ch ∈ s.live o.sb, o.row ch < sbRows) : ∃ p u t, writeUnit .host 0 lsn 1 b [] s = some (p, t) ∧
      t = { s with ftl := t.ftl } ∧ (∀ l, t.mapOf l = if l = lsn then some (.phys p) else s.mapOf l) ∧
      u ∈ t.ftl.buf ∧ u.pslot = p ∧ u.lsn = lsn ∧ u.committed = false ∧ u.data = b := by
  obtain ⟨ch, hslot⟩ := allocHost_of_open (s := (bumpCount lsn s).2) 2 hopen hroom
  unfold writeUnit placeUnit allocSlot
  dsimp only
  rw [if_pos (by decide), hslot]
  exact ⟨_, _, _, rfl, rfl, lookup_setKey lsn _ s.ftl.map, List.mem_append_right _ (List.mem_singleton_self _), rfl, rfl, rfl, rfl⟩


/-! ### O21: the Write and the Write Zeroes -/

section
variable {h : Hdr} {nsid unit : Nat} {n : Ns} {s : State}

/-- A job opened with nothing to read is found under its number, with nothing awaited. -/
theorem openJob_none_job? (k : JobKind) (hnew : ∀ j ∈ s.ftl.jobs, j.jid < s.ftl.nextId) :
    (openJob k [] s).2.job? s.ftl.nextId = some ⟨s.ftl.nextId, k, [], []⟩ := by
  have hnone : s.ftl.jobs.find? (fun j => j.jid == s.ftl.nextId) = none :=
    List.find?_eq_none.mpr fun j hj => by simpa using Nat.ne_of_lt (hnew j hj)
  refine (List.find?_append ..).trans ?_
  rw [hnone]
  exact List.find?_cons_of_pos (p := fun j : Job => j.jid == s.ftl.nextId) (beq_self_eq_true s.ftl.nextId)

/-- A write of one whole unit reads nothing first. -/
theorem partialUnits_whole : s.partialUnits n (unit * 16) 16 = [] := by
  unfold State.partialUnits
  rw [if_pos (by omega), if_pos (by omega)]
  rfl

section
variable (hns : s.ns? nsid = some n) {o : OpenSb} (hopen : (s.ftl.opens.find? fun o => o.stream == .host) = some o)
  (hroom : ∃ ch ∈ s.live o.sb, o.row ch < sbRows) (hthrough : s.power.through = false)
include hns hopen hroom hthrough

/-- A unit written whole, placed: slot, buffer, map and completion (R318). -/
theorem placeWrite_unit (c : Instr) (j : Job) {d : Blob} (hd : d.len = 65536) :
    ∃ t p u, placeWrite h nsid (unit * 16) d 0 c j s = finish h stOk t ∧ t.mapOf (s.lsnOf (n.base + unit)) = some (.phys p) ∧
      (∀ l, l ≠ s.lsnOf (n.base + unit) → t.mapOf l = s.mapOf l) ∧ u ∈ t.ftl.buf ∧ u.pslot = p ∧ u.lsn = s.lsnOf (n.base + unit) ∧
      u.committed = false ∧ (∀ i, i < 65536 → u.data.byte i = d.byte i) ∧
      t.mem.sram = s.mem.sram ∧ t.mem.dram = s.mem.dram ∧ t.bell = s.bell ∧ t.ns = s.ns ∧ t.idx = s.idx := by
  obtain ⟨p, u, t, hwrite, ht, hmap, hmem, hp, hlsn, hcommit, hdata⟩ := writeUnit_placed (s := closeJob j.jid s)
    (s.lsnOf (n.base + unit)) (lbasOver d 16 ((Blob.zero unitBytes).fit unitBytes)) hopen hroom
  have hlbas : d.len / 4096 = 16 := by omega
  have hspan : spanList (unit * 16 / 16) ((unit * 16 + 16 - 1) / 16 + 1 - unit * 16 / 16) = [unit] := by
    rw [show unit * 16 / 16 = unit by omega, show (unit * 16 + 16 - 1) / 16 + 1 - unit = 0 + 1 by omega, spanList_one]
  have hplaced : placeUnits j n (unit * 16) d [unit] (closeJob j.jid s) =
      some ([p], onFtlStats (fun x => { x with hostUnits := bump64 x.hostUnits }) t) := by
    unfold placeUnits
    dsimp only
    rw [mergeUnit_whole j _ unit hd, show (closeJob j.jid s).lsnOf (n.base + unit) = s.lsnOf (n.base + unit) from rfl]
    dsimp only
    rw [hwrite]
    rfl
  have hframe := (mend_deallocates (onFtlStats (fun x => { x with hostUnits := bump64 x.hostUnits }) t) nsid (unit * 16) 16).trans
    (markStaleSegs_deallocates _ nsid (unit * 16) 16)
  have hmapOf (l : Nat) : (markStaleSegs nsid (unit * 16) 16 (mend nsid (unit * 16) 16
      (onFtlStats (fun x => { x with hostUnits := bump64 x.hostUnits }) t))).mapOf l =
      if l = s.lsnOf (n.base + unit) then some (.phys p) else s.mapOf l := (mend_mapOf ..).trans (hmap l)
  refine ⟨_, p, u, ?_, (hmapOf _).trans (if_pos rfl), fun l hl => (hmapOf l).trans (if_neg hl), (congrArg (u ∈ ·) hframe.buf).mpr hmem,
    hp, hlsn, hcommit, fun i hi => ?_, hframe.sram.trans (congrArg (·.mem.sram) ht :), hframe.dram.trans (congrArg (·.mem.dram) ht :),
    hframe.bell.trans (congrArg State.bell ht :), hframe.ns.trans (congrArg State.ns ht :), hframe.idx.trans (congrArg State.idx ht :)⟩
  · have hnow : (markStaleSegs nsid (unit * 16) 16 (mend nsid (unit * 16) 16
        (onFtlStats (fun x => { x with hostUnits := bump64 x.hostUnits }) t))).writeThrough = false :=
      (congrArg PowerSt.through (hframe.power.trans (congrArg State.power ht :))).trans hthrough
    unfold placeWrite
    dsimp only
    rw [show (closeJob j.jid s).ns? nsid = some n from hns]
    dsimp only
    rw [hlbas, hspan, hplaced]
    dsimp only
    rw [if_neg (Nat.lt_irrefl 0), hnow]
    rfl
  · rw [hdata]
    exact byte_lbasOver (by omega) hi (by omega)

/-- The data of one whole unit, with room in the buffer, are placed at once. -/
theorem writeData_unit (c : Instr) (hnsid : n.nsid = nsid) (hnbuf : 0 < s.bufferRoom) (hnew : ∀ j ∈ s.ftl.jobs, j.jid < s.ftl.nextId)
    {d : Blob} (hd : d.len = 65536) :
    ∃ t p u, writeData h n (unit * 16) d 0 c s = finish h stOk t ∧ t.mapOf (s.lsnOf (n.base + unit)) = some (.phys p) ∧
      (∀ l, l ≠ s.lsnOf (n.base + unit) → t.mapOf l = s.mapOf l) ∧ u ∈ t.ftl.buf ∧ u.pslot = p ∧ u.lsn = s.lsnOf (n.base + unit) ∧
      u.committed = false ∧ (∀ i, i < 65536 → u.data.byte i = d.byte i) ∧
      t.mem.sram = s.mem.sram ∧ t.mem.dram = s.mem.dram ∧ t.bell = s.bell ∧ t.ns = s.ns ∧ t.idx = s.idx := by
  have hlbas : d.len / 4096 = 16 := by omega
  have hunits : (unit * 16 + 16 - 1) / 16 + 1 - unit * 16 / 16 = 1 := by omega
  have hwrite : writeData h n (unit * 16) d 0 c s = placeWrite h n.nsid (unit * 16) d 0 c
      ⟨s.ftl.nextId, .write h n.nsid (unit * 16) d 0, [], []⟩
      (openJob (.write h n.nsid (unit * 16) d 0) [] { s with host := { s.host with outs := (begin' h .writing s).host.outs } }).2 := by
    unfold writeData
    dsimp only
    rw [hlbas, hunits, if_neg (by omega), partialUnits_whole, begin'_frame h .writing s]
    have hjob := openJob_none_job? (s := { s with host := { s.host with outs := (begin' h .writing s).host.outs } })
      (.write h n.nsid (unit * 16) d 0) hnew
    change (match State.job? _ s.ftl.nextId with
      | some j => _
      | none => _) = _
    rw [hjob]
    rfl
  rw [hwrite, hnsid]
  exact placeWrite_unit (s := (openJob (.write h nsid (unit * 16) d 0) []
    { s with host := { s.host with outs := (begin' h .writing s).host.outs } }).2) hns hopen hroom hthrough c _ hd

end

section
variable (ok : s.acceptsIo h false = true) (hatt : s.attached? nsid = some n)
include ok hatt

/-- A Write of one unit: its refusals in their order, and its data. -/
theorem exec_nvmWrite_unit (data : Blob) : exec (.nvmWrite h nsid (unit * 16) 15 data) s = .next
    (if n.slots ≤ unit then finish h stLbaRange s
      else if s.reportDue nsid then reportLosses h nsid s
      else if s.readOnly then finish h stCapacity s
      else writeData h n (unit * 16) (data.fit 65536) 0 (.nvmWrite h nsid (unit * 16) 15 data) s) := by
  have hrange : n.lbas < unit * 16 + 15 + 1 ↔ n.slots ≤ unit := by
    unfold Ns.lbas
    omega
  refine (congrArg Host.Outcome.next (admitIo_accepts _ _ ok)).trans ?_
  rw [writeCore, hatt]
  dsimp only
  rw [if_neg (by decide), if_congr hrange rfl rfl]

/-- A Write Zeroes of one unit: its refusals in their order, and its zeroes as data where the buffer has room. -/
theorem exec_writeZeroes_unit (hroom : s.readOnly = false → unit < n.slots → 0 < s.bufferRoom) :
    exec (.writeZeroes h nsid (unit * 16) 15) s = .next
    (if n.slots ≤ unit then finish h stLbaRange s
      else if s.readOnly then finish h stCapacity s
      else writeData h n (unit * 16) (Blob.zero 65536) 0 (.writeZeroes h nsid (unit * 16) 15) s) := by
  have hrange : n.lbas < unit * 16 + 15 + 1 ↔ n.slots ≤ unit := by
    unfold Ns.lbas
    omega
  refine (congrArg Host.Outcome.next (admitIo_accepts _ _ ok)).trans ?_
  rw [writeZeroesCore, hatt]
  dsimp only
  rw [if_congr hrange rfl rfl]
  refine congrArg Host.Outcome.next ?_
  split
  · rfl
  next hin =>
    split
    · rfl
    next hrw =>
      have hone := hroom (by simpa using hrw) (by omega)
      rw [if_neg (by omega), if_pos (by omega)]

end

end

/-- Settles O21: the unit's slot, buffer copy and map entry by `writeUnit_placed`, its bytes by `byte_lbasOver`. -/
theorem writesTakeASlotAndSetTheMap : Obligations.WritesTakeASlotAndSetTheMap := by
  refine fun h nsid unit data n s ok hatt hnsid => ⟨fun hro hdue hin => ⟨?_, ?_⟩, fun hout => ⟨?_, ?_⟩,
    fun hlen hin hrw hdue hthrough hbuf hnew hns ⟨o, hopen, hroom⟩ => ⟨?_, ?_⟩⟩
  · rw [exec_nvmWrite_unit ok hatt, if_neg (by omega), if_neg (by simp [hdue]), if_pos hro]
  · rw [exec_writeZeroes_unit ok hatt fun hrw => absurd (hro.symm.trans hrw) (by decide), if_neg (by omega), if_pos hro]
  · rw [exec_nvmWrite_unit ok hatt, if_pos hout]
  · rw [exec_writeZeroes_unit ok hatt fun _ hin => absurd hout (by omega), if_pos hout]
  · rw [exec_nvmWrite_unit ok hatt, if_neg (by omega), if_neg (by simp [hdue]), if_neg (by simp [hrw])]
    obtain ⟨t, p, u, hwrite, hnamed, hothers, hmem, hp, hlsn, hcommit, hdata, hkept⟩ := writeData_unit (h := h) (unit := unit) hns hopen
      hroom hthrough (.nvmWrite h nsid (unit * 16) 15 data) hnsid hbuf hnew (d := data.fit 65536) rfl
    exact ⟨t, p, u, congrArg Host.Outcome.next hwrite, hnamed, hothers, hmem, hp, hlsn, hcommit,
      fun i hi => (hdata i hi).trans (byte_fit hi (by omega)), hkept⟩
  · rw [exec_writeZeroes_unit ok hatt fun _ _ => hbuf, if_neg (by omega), if_neg (by simp [hrw])]
    obtain ⟨t, p, u, hwrite, hnamed, hothers, hmem, hp, hlsn, hcommit, hdata, hkept⟩ := writeData_unit (h := h) (unit := unit) hns hopen
      hroom hthrough (.writeZeroes h nsid (unit * 16) 15) hnsid hbuf hnew (d := Blob.zero 65536) rfl
    exact ⟨t, p, u, congrArg Host.Outcome.next hwrite, hnamed, hothers, hmem, hp, hlsn, hcommit,
      fun i hi => (hdata i hi).trans (byte_zero 65536 i), hkept⟩

end Sys2Proof.Machine
end

/-! PROOFS of the family 04_host_interface: namespaces (O15). -/

section
namespace Sys2Proof.Machine

/-! ### O15: creation, deletion and attachment of namespaces -/

section
variable {h : Hdr} {nsid nsze : Nat} {s : State}

theorem exec_create (ok : s.accepts h 0x0D = true) (ncap : Nat) :
    exec (.namespaceManagement h (.create nsze ncap 0 0)) s = .next (createNs h nsze ncap 0 0 s) :=
  congrArg Host.Outcome.next (admitAdmin_accepts _ ok)

theorem exec_delete (ok : s.accepts h 0x0D = true) :
    exec (.namespaceManagement h (.delete nsid)) s = .next (deleteNs h nsid s) :=
  congrArg Host.Outcome.next (admitAdmin_accepts _ ok)

theorem exec_namespaceAttachment (ok : s.accepts h 0x15 = true) (a : Bool) :
    exec (.namespaceAttachment h nsid a) s = .next (attachNs h nsid a s) :=
  congrArg Host.Outcome.next (admitAdmin_accepts _ ok)

/-- A creation of a whole number of units takes the lowest free NSID, the slots of its size and a key pair, as far as there are any. -/
theorem createNs_units (hpos : 0 < nsze) (hunits : nsze % 16 = 0)
    (hfree : (spanList 1 64).find? (fun i => (s.ns? i).isNone) = some nsid) : createNs h nsze nsze 0 0 s =
      if s.freeSlots < nsze / 16 then finish h stNsCapacity s
      else match gapFor (s.slotLimit (nsze / 16)) (nsze / 16) 0 s.usedSpans with
        | none => finish h stNsCapacity s
        | some base => finishDw h stOk nsid (sendTable { s with
            ns := ⟨s.ns.list ++ [⟨nsid, base, nsze / 16, false⟩]⟩
            sec := { s.sec with nsKeys := setKey nsid s.free s.sec.nsKeys }
            free := s.free + 1 }) := by
  rw [createNs, if_neg (by omega), if_neg (by decide), if_neg (by decide), hfree]
  rfl

/-- A namespace's units unmapped, with its deferred ranges and its cached segments. -/
theorem unmapNs_deallocates (n : Ns) (s : State) :
    Deallocates s (markStaleSegs n.nsid 0 n.lbas (dropDefers n.nsid (unmapNs n s))) :=
  ((Deallocates.foldl (fun s l => unmapSlot_deallocates s l) (s.mappedOf n) s).trans (dropDefers_deallocates _ n.nsid)).trans
    (markStaleSegs_deallocates _ n.nsid 0 n.lbas)

/-- A namespace deleted goes out of the list, and its key with it (R404). -/
theorem deleteNs_effect {n : Ns} (hns : s.ns? nsid = some n) (hkeep : ¬(65 ≤ nsid ∧ nsid ≤ 74)) (hall : nsid ≠ 0xFFFFFFFF) :
    ∃ t, deleteNs h nsid s = finish h stOk (sendTable t) ∧ t.ns.list = s.ns.list.filter (fun x => x.nsid != nsid) ∧
      t.sec.nsKeys = dropKey nsid s.sec.nsKeys ∧ t.host = s.host ∧ t.bell = s.bell ∧ t.img = s.img ∧ t.idx = s.idx ∧ t.power = s.power := by
  have hnamed : n.nsid = nsid := by simpa using List.find?_some hns
  have hframe := unmapNs_deallocates n s
  refine ⟨dropNs n s, ?_, ?_, ?_, hframe.host, hframe.bell, hframe.img, hframe.idx, hframe.power⟩
  · rw [deleteNs, if_neg hkeep, if_neg hall, hns]
  · rw [← hnamed]
    exact congrArg (fun u => u.list.filter fun x => x.nsid != n.nsid) hframe.ns
  · rw [← hnamed]
    exact congrArg (fun u => dropKey n.nsid u.nsKeys) hframe.sec

end

/-- Settles O15: creation by `createNs_units`, deletion by `deleteNs_effect`, attachment by its branches. -/
theorem namespacesAreManaged : Obligations.NamespacesAreManaged := by
  refine ⟨fun h nsze nsid base s ok hpos hunits hfree hroom hgap => ?_, fun h nsze s ok hpos hunits hany hfull => ?_,
    fun h nsze ncap s ok hbad => ?_, fun h nsid s ok hlow hhigh => ?_, fun h nsid n s ok hns hkeep hall => ?_,
    fun h nsid s ok => ⟨fun hlow hhigh a => ?_, fun hkeep hnone a => ?_, fun n hkeep hns => ⟨?_, ?_⟩⟩⟩
  · rw [exec_create ok, createNs_units hpos hunits hfree, if_neg (by omega), hgap]
  · obtain ⟨nsid, hfree⟩ := Option.isSome_iff_exists.mp (List.find?_isSome.mpr (List.any_eq_true.mp hany))
    rw [exec_create ok, createNs_units hpos hunits hfree, if_pos hfull]
  · rw [exec_create ok, createNs, if_pos hbad]
  · rw [exec_delete ok, deleteNs, if_pos ⟨hlow, hhigh⟩]
  · obtain ⟨t, hdelete, hkept⟩ := deleteNs_effect (h := h) hns hkeep hall
    exact ⟨t, (exec_delete ok).trans (congrArg Host.Outcome.next hdelete), hkept⟩
  · rw [exec_namespaceAttachment ok, attachNs, if_pos ⟨hlow, hhigh⟩]
  · rw [exec_namespaceAttachment ok, attachNs, if_neg hkeep, hnone]
  · rw [exec_namespaceAttachment ok, attachNs, if_neg hkeep, hns]
    cases hattached : n.attached
    · simp [hattached]
    · simp [hattached]
  · rw [exec_namespaceAttachment ok, attachNs, if_neg hkeep, hns]
    cases hattached : n.attached
    · simp [hattached, onNs]
    · simp [hattached, onNs]

end Sys2Proof.Machine
end

/-! PROOFS of the family 11_classrooms_and_lessons: activation of lessons and the admission of their runs (O29). -/

section
namespace Sys2Proof.Machine

/-! ### O29: lessons activated and run -/

theorem slotIndex_slot {r : Room} {slot : Nat} (hslot : slot < r.slots) : slotIndex r (0x40 + slot) = some slot := by
  rw [slotIndex, if_pos ⟨by omega, by omega⟩, Nat.add_sub_cancel_left]

section
variable {h : Hdr} {room slot : Nat} {r : Room} {s : State}

theorem admitRoom_of_room (c : Instr) (k : Room → State → State) (ok : s.acceptsRoom h room = true) (hroom : s.room? room = some r) :
    admitRoom h c room k s = k r s := by
  obtain ⟨q, hq, hadmit⟩ := admitRoom_accepts c k ok
  rw [hadmit, Option.some.inj (hq.symm.trans hroom)]

theorem begin'_host_congr {t : State} {k : OutKind} (hhost : t.host = s.host) : (begin' h k t).host = (begin' h k s).host := by
  unfold begin'
  rw [hhost]
  split
  · exact hhost
  · rfl

/-- A run that becomes ready on its engines is otherwise as it was, and nothing but the runs changes. -/
theorem makeReady_fold (id : Nat) (es : List Engine) {run : Run} (hrun : run ∈ s.sched.runs) :
    ∃ l u, es.foldl (fun s e => makeReady id e s) s = { s with sched := { s.sched with runs := u } } ∧ { run with ready := l } ∈ u := by
  induction es generalizing s run with
  | nil => exact ⟨run.ready, s.sched.runs, rfl, hrun⟩
  | cons e es ih =>
    have hready : ∃ l, { run with ready := l } ∈ (makeReady id e s).sched.runs := by
      by_cases hid : run.id = id
      · by_cases hany : run.ready.any (fun x => x.1 == e)
        · exact ⟨run.ready, List.mem_map.mpr ⟨run, hrun, (if_pos hid).trans (if_pos hany)⟩⟩
        · exact ⟨_, List.mem_map.mpr ⟨run, hrun, (if_pos hid).trans (if_neg hany)⟩⟩
      · exact ⟨run.ready, List.mem_map.mpr ⟨run, hrun, if_neg hid⟩⟩
    obtain ⟨l, hl⟩ := hready
    obtain ⟨l', u, hfold, hmem⟩ := ih hl
    exact ⟨l', u, hfold, hmem⟩

/-- The run that an Execute Program puts on the list (R245). -/
def newRun (h : Hdr) (r : Room) (l : Lesson) (w : List Window) (die : Nat) (es : List Engine) (s : State) : Run :=
  ⟨s.sched.nextRun, h, r.room, l.slot, l.pri, s.pos, die, es, l.localInit, [], none, [], w, 0, [], false, [], false, false⟩

/-- The state with a run on its list, counted. -/
def withRun (run : Run) (s : State) : State :=
  onRoomStats run.room (fun x => { x with runs := bump64 x.runs }) (onSched (fun c => { c with
    runs := c.runs ++ [run]
    nextRun := run.id + 1
    runsStarted := bump64 c.runsStarted }) s)

/-- A run of a lesson without working segments that finds its engines is placed under the next number. -/
theorem startRun_of_mapRun {l : Lesson} {die : Nat} {es : List Engine} (w : List Window) (hmap : s.mapRun r l = some (die, es))
    (hsegs : ∀ d ∈ l.segs, d.kind ≠ .working) : startRun h r l w false s = some (s.sched.nextRun,
      wakeDies es (es.foldl (fun t e => makeReady s.sched.nextRun e t) (withRun (newRun h r l w die es s) s))) := by
  have hnone : l.segs.filter (fun d => d.kind == .working) = [] :=
    List.filter_eq_nil_iff.mpr fun d hd => by simpa using hsegs d hd
  rw [startRun, hmap]
  dsimp only
  rw [hnone]
  rfl

/-- An Execute Program of a lesson that is active and finds its engines: its run is on the list, and it settles (R245). -/
theorem execute_admitted {l : Lesson} {b : Blob} {w : List Window} {die : Nat} {es : List Engine} {p : ParamRef}
    (ok : s.acceptsRoom h room = true) (hroom : s.room? room = some r) (hslot : slot < r.slots) (hlesson : s.lesson? r.room slot = some l)
    (hsound : l.quarantined = false) (hactive : l.active = true) (hparam : paramBlock p s = .ok b) (hwindows : parseWindows b = some w)
    (hlimit : w.length ≤ s.windowLimit r.room) (hmap : s.mapRun r l = some (die, es)) (hsegs : ∀ d ∈ l.segs, d.kind ≠ .working) :
    ∃ t run, exec (.executeLesson h room (0x40 + slot) p) s = .next (settle s.sched.nextRun t) ∧ run ∈ t.sched.runs ∧
      run.id = s.sched.nextRun ∧ run.hdr = h ∧ run.room = r.room ∧ run.slot = l.slot ∧ run.pri = l.pri ∧ run.die = die ∧
      run.engines = es ∧ run.sems = l.localInit ∧ run.windows = w ∧ run.done = 0 ∧ t.sched.nextRun = s.sched.nextRun + 1 ∧
      t.host = (begin' h .program s).host ∧ t.bell = s.bell ∧ t.mem.sram = s.mem.sram ∧ t.mem.dram = s.mem.dram := by
  have hnew : newRun h r l w die es s ∈ (withRun (newRun h r l w die es s) s).sched.runs :=
    List.mem_append_right _ (List.mem_singleton_self _)
  obtain ⟨ready, u, hfold, hready⟩ := makeReady_fold s.sched.nextRun es hnew
  have hexec : exec (.executeLesson h room (0x40 + slot) p) s = .next (settle s.sched.nextRun (begin' h .program
      (countWindows r.room w.length (wakeDies es { withRun (newRun h r l w die es s) s with
        sched := { (withRun (newRun h r l w die es s) s).sched with runs := u } })))) := by
    refine congrArg Host.Outcome.next ((admitRoom_of_room _ _ ok hroom).trans ?_)
    rw [executeCore, slotIndex_slot hslot]
    dsimp only
    rw [hlesson]
    dsimp only
    rw [if_neg (by simp [hsound]), if_neg (by simp [hactive]), hparam]
    dsimp only
    rw [hwindows]
    dsimp only
    rw [if_neg (by omega), startRun_of_mapRun w hmap hsegs]
    dsimp only
    rw [hfold]
  refine ⟨_, _, hexec, (congrArg (fun c => _ ∈ c.runs) (begin'_sched ..)).mpr hready, rfl, rfl, rfl, rfl, rfl, rfl, rfl, rfl, rfl, rfl,
    ?_, ?_, ?_, ?_, ?_⟩
  · exact congrArg SchedSt.nextRun (begin'_sched ..)
  · exact begin'_host_congr rfl
  · exact begin'_bell ..
  · exact (congrArg MemSt.sram (begin'_mem ..) :)
  · exact (congrArg MemSt.dram (begin'_mem ..) :)

end

/-- Settles O29: the activation marks the lesson, and `execute_admitted` gives the run. -/
theorem lessonsAreActivatedAndRun : Obligations.LessonsAreActivatedAndRun := by
  refine ⟨fun h room slot a r s ok hroom hslot => ⟨fun hnone => ?_, fun hsome => ?_⟩, fun h room slot p r s ok hroom hslot =>
    ⟨fun hnone => ?_, fun l hlesson => ⟨fun hquarantined => ?_, fun hsound hidle => ?_,
      fun b w die es hsound hactive hparam hwindows hlimit hmap hsegs =>
        execute_admitted ok hroom hslot hlesson hsound hactive hparam hwindows hlimit hmap hsegs⟩⟩⟩
  · refine congrArg Host.Outcome.next ((admitRoom_of_room _ _ ok hroom).trans ?_)
    rw [activationCore, slotIndex_slot hslot]
    exact if_pos (by simp [hnone])
  · refine congrArg Host.Outcome.next ((admitRoom_of_room _ _ ok hroom).trans ?_)
    rw [activationCore, slotIndex_slot hslot]
    exact if_neg (by simpa [Option.isSome_iff_ne_none] using hsome)
  · refine congrArg Host.Outcome.next ((admitRoom_of_room _ _ ok hroom).trans ?_)
    rw [executeCore, slotIndex_slot hslot]
    dsimp only
    rw [hnone]
  · refine congrArg Host.Outcome.next ((admitRoom_of_room _ _ ok hroom).trans ?_)
    rw [executeCore, slotIndex_slot hslot]
    dsimp only
    rw [hlesson]
    exact if_pos hquarantined
  · refine congrArg Host.Outcome.next ((admitRoom_of_room _ _ ok hroom).trans ?_)
    rw [executeCore, slotIndex_slot hslot]
    dsimp only
    rw [hlesson]
    exact (if_neg (by simp [hsound])).trans (if_pos (by simp [hidle]))

end Sys2Proof.Machine
end

/-! PROOFS of the family 17_power_reset_firmware: supplies and the return of power (O53). -/

section
namespace Sys2Proof.Machine

/-! ### What a report to the host leaves alone -/

/-- From one host interface to another, entries and events have been posted and Critical Warning has changed: nothing has begun, no queue
has been made, and the vectors signalled stay signalled. -/
structure Raises (a b : HostSt) : Prop where
  frame : b = { a with
    outs := b.outs, sqs := b.sqs, posted := b.posted, msix := b.msix, deletes := b.deletes, waiting := b.waiting, aers := b.aers
    masked := b.masked, critWarn := b.critWarn }
  outs : b.outs ⊆ a.outs
  sqs : b.sqs ⊆ a.sqs
  msix : a.msix <+: b.msix

namespace Raises
variable {a b c : HostSt}

theorem refl (a : HostSt) : Raises a a := ⟨rfl, List.Subset.refl _, List.Subset.refl _, List.prefix_refl _⟩

theorem trans (h : Raises a b) (k : Raises b c) : Raises a c := by
  obtain ⟨hframe, houts, hsqs, hmsix⟩ := h
  obtain ⟨kframe, kouts, ksqs, kmsix⟩ := k
  refine ⟨?_, List.Subset.trans kouts houts, List.Subset.trans ksqs hsqs, hmsix.trans kmsix⟩
  rw [kframe, hframe]

theorem link (h : Raises a b) : b.link = a.link := (congrArg HostSt.link h.frame :)
theorem perst (h : Raises a b) : b.perst = a.perst := (congrArg HostSt.perst h.frame :)
theorem en (h : Raises a b) : b.en = a.en := (congrArg HostSt.en h.frame :)
theorem held (h : Raises a b) : b.held = a.held := (congrArg HostSt.held h.frame :)

end Raises

/-- From one state to another, the host has been told something, and nothing else has happened. -/
structure Reports (s t : State) : Prop where
  frame : t = { s with host := t.host, power := { s.power with activeNs := t.power.activeNs } }
  host : Raises s.host t.host

namespace Reports
variable {s t u : State}

theorem refl (s : State) : Reports s s := ⟨rfl, .refl _⟩

theorem trans (h : Reports s t) (k : Reports t u) : Reports s u := by
  obtain ⟨hframe, hhost⟩ := h
  obtain ⟨kframe, khost⟩ := k
  refine ⟨?_, hhost.trans khost⟩
  rw [kframe, hframe]

theorem foldl {α : Type} {f : State → α → State} (hf : ∀ s a, Reports s (f s a)) (l : List α) (s : State) : Reports s (l.foldl f s) := by
  induction l generalizing s with
  | nil => exact refl s
  | cons a r ih => exact (hf s a).trans (ih _)

end Reports

section
variable (s : State)

theorem post1_reports (sq cid : Nat) (st : Status) (dw0 : Nat) (d : Blob) : Reports s (post1 sq cid st dw0 d s) :=
  ⟨rfl, rfl, List.filter_subset_self _, List.Subset.refl _, List.prefix_append ..⟩

theorem finishDelete_reports (d : SqDelete) : Reports s (finishDelete s d) := by
  unfold finishDelete
  split
  · exact .refl s
  · exact .trans (t := { s with host := { s.host with
      deletes := s.host.deletes.filter fun e => e.qid != d.qid
      sqs := s.host.sqs.filter fun q => q.id != d.qid } }) ⟨rfl, rfl, List.Subset.refl _, List.filter_subset_self _, List.prefix_refl _⟩
      (post1_reports ..)

theorem post_reports (sq cid : Nat) (st : Status) (dw0 : Nat) (d : Blob) : Reports s (post sq cid st dw0 d s) :=
  (post1_reports s sq cid st dw0 d).trans (.foldl finishDelete_reports _ _)

theorem finish_reports (h : Hdr) (st : Status) : Reports s (finish h st s) := post_reports ..

theorem raiseEvent_reports (e : Event) : Reports s (raiseEvent e s) := by
  unfold raiseEvent
  split
  · exact .refl s
  · split
    next r _ =>
      exact .trans (t := { s with host := { s.host with aers := r, masked := e.lid :: s.host.masked } })
        ⟨rfl, rfl, List.Subset.refl _, List.Subset.refl _, List.prefix_refl _⟩ (post_reports ..)
    · split
      · exact .refl s
      · exact ⟨rfl, rfl, List.Subset.refl _, List.Subset.refl _, List.prefix_refl _⟩

theorem vendorEvent_reports (lid : Nat) : Reports s (vendorEvent lid s) := raiseEvent_reports ..

theorem setCritical_reports (b i : Nat) : Reports s (setCritical b i s) := by
  unfold setCritical
  split
  · exact .refl s
  · exact .trans (t := { s with host := { s.host with critWarn := s.host.critWarn ||| 2 ^ b } })
      ⟨rfl, rfl, List.Subset.refl _, List.Subset.refl _, List.prefix_refl _⟩ (raiseEvent_reports ..)

theorem clearCritical_reports (b : Nat) : Reports s (clearCritical b s) := by
  unfold clearCritical
  split
  · exact ⟨rfl, rfl, List.Subset.refl _, List.Subset.refl _, List.prefix_refl _⟩
  · exact .refl s

end

/-! ### A start-up -/

/-- From one state to another, steps of a start-up have been taken (R389): what the drive runs, its links and its supplies stay, the bell
counts on, nothing of the host has begun, and Maintenance state is not entered. -/
structure Starts (s t : State) : Prop where
  frame : t = { s with
    host := t.host
    bell := { t.bell with count := s.bell.count, tick := s.bell.tick, mode := s.bell.mode }
    img := t.img, nor := t.nor, fw := t.fw, sec := t.sec, ftl := t.ftl, mem := t.mem, idx := t.idx, free := t.free
    dies := { t.dies with dies := s.dies.dies }
    power := { t.power with down := s.power.down, vinMv := s.power.vinMv, holdupMj := s.power.holdupMj, mgmt := s.power.mgmt }
    plain := { t.plain with own := s.plain.own } }
  link : t.host.link = s.host.link
  perst : t.host.perst = s.host.perst
  en : t.host.en = s.host.en
  held : t.host.held = s.host.held
  outs : t.host.outs ⊆ s.host.outs
  sqs : t.host.sqs ⊆ s.host.sqs
  maint : s.nor.maint = false → t.nor.maint = false

namespace Starts
variable {s t u : State}

/-- A step that leaves the host interface and Maintenance state alone. -/
theorem of_frame (h : t = { s with
    bell := { t.bell with count := s.bell.count, tick := s.bell.tick, mode := s.bell.mode }
    img := t.img, nor := t.nor, fw := t.fw, sec := t.sec, ftl := t.ftl, mem := t.mem, idx := t.idx, free := t.free
    dies := { t.dies with dies := s.dies.dies }
    power := { t.power with down := s.power.down, vinMv := s.power.vinMv, holdupMj := s.power.holdupMj, mgmt := s.power.mgmt }
    plain := { t.plain with own := s.plain.own } }) (hmaint : s.nor.maint = false → t.nor.maint = false) : Starts s t := by
  have hhost : t.host = s.host := (congrArg State.host h :)
  have hsubset {α : Type} (f : HostSt → List α) : f t.host ⊆ f s.host := by rw [hhost]; exact List.Subset.refl _
  refine ⟨?_, congrArg HostSt.link hhost, congrArg HostSt.perst hhost, congrArg HostSt.en hhost, congrArg HostSt.held hhost,
    hsubset HostSt.outs, hsubset HostSt.sqs, hmaint⟩
  rw [hhost]
  exact h

theorem refl (s : State) : Starts s s := of_frame rfl id

theorem trans (h : Starts s t) (k : Starts t u) : Starts s u := by
  refine ⟨?_, k.link.trans h.link, k.perst.trans h.perst, k.en.trans h.en, k.held.trans h.held,
    List.Subset.trans k.outs h.outs, List.Subset.trans k.sqs h.sqs, fun hm => k.maint (h.maint hm)⟩
  have hframe := h.frame
  have kframe := k.frame
  rw [kframe, hframe]

theorem foldl {α : Type} {f : State → α → State} (hf : ∀ s a, Starts s (f s a)) (l : List α) (s : State) : Starts s (l.foldl f s) := by
  induction l generalizing s with
  | nil => exact refl s
  | cons a r ih => exact (hf s a).trans (ih _)

theorem of_reports (h : Reports s t) : Starts s t := by
  have hnor : t.nor = s.nor := (congrArg State.nor h.frame :)
  refine ⟨?_, h.host.link, h.host.perst, h.host.en, h.host.held, h.host.outs, h.host.sqs, fun hm => by rw [hnor]; exact hm⟩
  have hframe := h.frame
  rw [hframe]

theorem of_deallocates (h : Deallocates s t) (hmaint : t.nor.maint = s.nor.maint) : Starts s t := by
  refine of_frame ?_ fun hm => hmaint.trans hm
  unfold Deallocates at h
  rw [h]

/-- A bank's energy noted before or after. -/
theorem onHoldup (h : Starts s t) (e : Nat) :
    Starts (onPower (fun p => { p with holdupMj := e }) s) (onPower (fun p => { p with holdupMj := e }) t) := by
  refine ⟨?_, h.link, h.perst, h.en, h.held, h.outs, h.sqs, h.maint⟩
  conv_lhs => rw [h.frame]
  rfl

theorem power (h : Starts s t) : t.power.down = s.power.down := (congrArg (·.power.down) h.frame :)
theorem dies (h : Starts s t) : t.dies.dies = s.dies.dies := (congrArg (·.dies.dies) h.frame :)

end Starts

section
variable (s : State)

theorem setCritical_starts (b i : Nat) : Starts s (setCritical b i s) := .of_reports (setCritical_reports ..)

theorem degradeReliability_starts : Starts s (degradeReliability s) := setCritical_starts ..

theorem onFtl_starts (f : FtlSt → FtlSt) : Starts s (onFtl f s) := .of_frame rfl id

theorem onIdx_starts (f : IdxSt → IdxSt) : Starts s (onIdx f s) := .of_frame rfl id

theorem norRecord_starts (kind : Nat) (p : Blob) (fs : List Nat) : Starts s (norRecord kind p fs s).2 :=
  .of_frame rfl (norRecord_maint s kind p fs).trans

theorem norFlag_maint (seq f : Nat) : (norFlag seq f s).nor.maint = s.nor.maint := catchUp_maint _

theorem norFlag_starts (seq f : Nat) : Starts s (norFlag seq f s) := .of_frame rfl (norFlag_maint s seq f).trans

theorem onPower_starts {f : PowerSt → PowerSt} (h : f s.power = { f s.power with
    down := s.power.down, vinMv := s.power.vinMv, holdupMj := s.power.holdupMj, mgmt := s.power.mgmt }) : Starts s (onPower f s) :=
  .of_frame (congrArg (fun p => { s with power := p }) h) id

theorem unmapSlot_starts (lsn : Nat) : Starts s (unmapSlot lsn s) :=
  .of_deallocates (unmapSlot_deallocates s lsn) (congrArg NorSt.maint (unmapSlot_nor s lsn))

theorem dropDefers_starts (nsid : Nat) : Starts s (dropDefers nsid s) := by
  obtain ⟨n, l, hframe, hmaint⟩ := dropDefers_frame s nsid
  rw [hframe]
  exact .of_frame rfl hmaint.trans

/-! #### The option area and the firmware (R389 steps 3 and 4) -/

/-- Maintenance state has ended once the option area has been read (R349). -/
theorem startOptions_maint : (startOptions s).nor.maint = false := by
  unfold startOptions
  extract_lets read noted
  have hnoted : noted.nor.maint = false := by
    unfold noted
    split
    · rfl
    · rfl
  split
  · exact hnoted
  · exact (setCritical_starts _ 2 0).maint hnoted

theorem startOptions_starts : Starts s (startOptions s) := by
  unfold startOptions
  extract_lets read noted
  have hnoted : Starts s noted := by
    unfold noted
    split
    · exact .of_frame rfl fun _ => rfl
    · exact .of_frame rfl fun _ => rfl
  clear_value noted
  split
  · exact hnoted
  · exact (hnoted.trans (onPower_starts noted rfl)).trans (degradeReliability_starts _)

theorem startFirmware_starts : Starts s (startFirmware s) := by
  unfold startFirmware
  extract_lets hit run
  split
  · exact .of_frame rfl id
  · split
    · exact .trans (t := run _ s) (.of_frame rfl id) (norRecord_starts ..)
    · exact .of_frame rfl id

/-- The bank's energy is noted; what follows from it is write-through and its warning (R385). -/
theorem measureBank_starts (mj : Nat) : Starts (onPower (fun p => { p with holdupMj := mj }) s) (measureBank mj s) := by
  unfold measureBank
  extract_lets noted
  split
  · exact (onPower_starts noted rfl).trans (setCritical_starts ..)
  · split
    · exact .refl _
    · exact (onPower_starts noted rfl).trans (.of_reports (clearCritical_reports ..))

/-! #### Flash translation and the indexes (R389 steps 5 and 7) -/

theorem freeSb_starts (sb : Nat) : Starts s (freeSb sb s) := by
  unfold freeSb
  split
  · split
    · exact onFtl_starts ..
    · exact .refl s
  · exact .refl s

theorem eraseHalf_starts : Starts s (eraseHalf s) := by
  refine .foldl (fun s x => ?_) _ s
  extract_lets sb ch noted n recorded
  have hnoted : Starts s noted := by
    unfold noted
    split
    · exact norFlag_starts ..
    · exact .refl s
  have hrecorded : Starts s recorded := hnoted.trans (norRecord_starts ..)
  clear_value recorded
  exact hrecorded.trans (((onFtl_starts recorded _).trans (onFtl_starts _ _)).trans (freeSb_starts ..))

theorem recordLosses_starts (cause : Nat) (l : List Nat) : Starts s (recordLosses cause l s) := by
  refine .foldl (fun s x => ?_) _ s
  unfold recordRange
  exact (norRecord_starts s ..).trans ((onFtl_starts _ _).trans (.of_reports (vendorEvent_reports ..)))

theorem findFlush_starts : Starts s (findFlush s) := by
  unfold findFlush
  split
  · exact .refl s
  · extract_lets lost mapped recorded half priv raised
    have hmapped : Starts s mapped := .foldl (fun s l => onFtl_starts s _) _ s
    have hraised : Starts recorded raised := .foldl (fun s sb => .foldl (fun s ch => onFtl_starts s _) _ s) _ recorded
    have hrecorded : Starts s recorded := hmapped.trans (recordLosses_starts mapped 3 lost)
    clear_value raised recorded
    exact (hrecorded.trans hraised).trans (onPower_starts raised rfl)

theorem releaseSlots_starts (l : List Nat) : Starts s (releaseSlots l s) := .foldl (fun s x => unmapSlot_starts s x) _ s

theorem staleCentroids_starts (num : Nat) : Starts s (staleCentroids num s) := .of_frame rfl id

theorem publishOne_starts (p : Publish) : Starts s (publishOne p s) := by
  unfold publishOne
  dsimp only
  generalize (applyChange p.change (s.idx.queue.filter (· != p)) s.idx.live) = changed
  have hlive : Starts s (onIdx (fun x => { x with live := changed.1, queue := changed.2 }) s) := onIdx_starts ..
  generalize onIdx (fun x => { x with live := changed.1, queue := changed.2 }) s = live at hlive ⊢
  split
  · split
    · exact (hlive.trans (onIdx_starts ..)).trans (staleCentroids_starts ..)
    · exact hlive
  · split
    · exact (hlive.trans (staleCentroids_starts ..)).trans (releaseSlots_starts ..)
    · exact hlive
  · split
    · exact (hlive.trans (staleCentroids_starts ..)).trans (releaseSlots_starts ..)
    · exact hlive
  · split
    · exact hlive.trans (releaseSlots_starts ..)
    · exact hlive
  · exact hlive

theorem publishDue_starts (n : Nat) : Starts s (publishDue n s) := by
  induction n generalizing s with
  | zero => exact .refl s
  | succ n ih =>
    unfold publishDue
    split
    · exact (publishOne_starts s _).trans (ih _)
    · exact .refl s

theorem startIndexes_starts : Starts s (startIndexes s) := by
  unfold startIndexes
  extract_lets old published gone
  have hpublished : Starts s published := (onIdx_starts s _).trans (publishDue_starts _ _)
  exact hpublished.trans ((onIdx_starts _ _).trans (releaseSlots_starts _ _))

/-! #### The image and a sanitize cut short (R389 step 8, R406) -/

theorem putImage_starts (i : Image) (b : Blob) (source : Nat) : Starts s (putImage i b source s) :=
  ⟨rfl, rfl, rfl, rfl, rfl, List.Subset.refl _, List.Subset.refl _, id⟩

theorem startImage_starts : Starts s (startImage s) := by
  unfold startImage
  extract_lets recorded noted bad failed
  have hnoted : Starts s noted := by
    unfold noted noteReplicas
    split
    · exact .of_frame rfl id
    · exact .of_frame rfl id
  have hfailed : Starts s failed := hnoted.trans (.of_frame rfl id)
  split
  · exact .trans (t := recorded) (.of_frame rfl id) (putImage_starts ..)
  · split
    · exact hfailed.trans (putImage_starts ..)
    · split
      · exact hfailed.trans (putImage_starts ..)
      · exact hfailed.trans (putImage_starts ..)

theorem newKey_starts (nsid : Nat) : Starts s (newKey nsid s) := .of_frame rfl id

theorem onMem_starts (f : MemSt → MemSt) : Starts s (onMem f s) := .of_frame rfl id

theorem writeCheckpoint_starts : Starts s (writeCheckpoint s) := (onFtl_starts s _).trans (norRecord_starts ..)

theorem cryptoErase_starts : Starts s (cryptoErase s) := by
  unfold cryptoErase
  extract_lets src keyed dropped emptied unindexed
  have hsec : Starts s { s with sec := { s.sec with nsKeys := [], idxKeys := [] } } := .of_frame rfl id
  have hkeyed : Starts { s with sec := { s.sec with nsKeys := [], idxKeys := [] } } keyed :=
    .foldl (fun s (n : Ns) => (dropDefers_starts s n.nsid).trans (newKey_starts _ n.nsid)) _ _
  have hdropped : Starts keyed dropped := .foldl (fun s d => norRecord_starts s ..) _ keyed
  have hunindexed : Starts dropped unindexed := (onFtl_starts ..).trans (onIdx_starts ..)
  exact ((hsec.trans hkeyed).trans (hdropped.trans hunindexed)).trans ((onMem_starts ..).trans (writeCheckpoint_starts ..))

theorem restartSanitize_starts : Starts s (restartSanitize s) := by
  unfold restartSanitize
  split
  next act bell q _ =>
    exact .trans (t := { s with sec := { s.sec with sanitize := some ⟨act == 2, BitVec.ofNat 48 bell, q⟩ } }) (.of_frame rfl id)
      (cryptoErase_starts _)
  · exact .refl s

/-! #### The whole start-up -/

/-- The bank measured, with the energy given or with that last measured. -/
def bankMeasured (mj : Option Nat) (s : State) : State :=
  match mj with
  | some e => measureBank e s
  | none => measureBank s.power.holdupMj s

/-- The dies that fail their self-test, or failed before, marked failed (R373). -/
def failDies (failed : List Nat) (s : State) : State :=
  ((List.range 5).filter fun d => (s.die d).state == .failed || failed.contains d).foldl (fun s d => dieFailed d s) s

/-- A start-up warns of spare rows used (R373). -/
def noteSpares (s : State) : State :=
  if (List.range 5).any fun d => (s.die d).degradedSpares then degradeReliability s else s

/-- A start-up finds the drive exhausted, or not (R334). -/
def noteExhausted (s : State) : State :=
  if s.nor.exhaustedMark then setCritical 3 0 (onFtl (fun t => { t with exhausted := true }) s)
  else onFtl (fun t => { t with exhausted := false }) s

/-- What a start-up warns of. -/
def noteWear (s : State) : State := noteExhausted (noteSpares s)

/-- Flash translation, indexes and image of a drive that runs. -/
def startContent (s : State) : State :=
  if !s.up then s
  else
    let s := startIndexes (findFlush (eraseHalf s))
    if s.fw.recovery then putImage s.romImage (Blob.zero 0) 0 s
    else restartSanitize (startImage s)

/-- The drive's rails up, its options and its firmware read. -/
def startControl (s : State) : State := startFirmware (startOptions (onPower (fun p => { p with down := .up }) s))

theorem coldStart_eq (failed : List Nat) (mj : Option Nat) :
    coldStart failed mj s = startContent (noteWear (failDies failed (bankMeasured mj (startControl s)))) := by
  unfold coldStart
  extract_lets control measured again tested worn noted
  have hcontrol : control = startControl s := rfl
  clear_value control
  have hmeasured : measured = bankMeasured mj control := rfl
  have htested : tested = failDies failed measured := rfl
  have hnoted : noted = noteWear tested := rfl
  clear_value noted tested measured
  rw [← hcontrol, ← hmeasured, ← htested, ← hnoted]
  rfl

theorem startControl_starts : Starts (onPower (fun p => { p with down := .up }) s) (startControl s) :=
  (startOptions_starts (onPower (fun p => { p with down := .up }) s)).trans (startFirmware_starts (startOptions _))

theorem startControl_maint : (startControl s).nor.maint = false := by
  unfold startControl
  generalize hread : startOptions (onPower (fun p => { p with down := .up }) s) = u
  have hu : u.nor.maint = false := hread ▸ startOptions_maint _
  exact (startFirmware_starts u).maint hu

theorem noteSpares_starts : Starts s (noteSpares s) := by
  unfold noteSpares
  split
  · exact degradeReliability_starts s
  · exact .refl s

theorem noteExhausted_starts : Starts s (noteExhausted s) := by
  unfold noteExhausted
  split
  · exact (onFtl_starts s (fun t => { t with exhausted := true })).trans (setCritical_starts (onFtl _ s) 3 0)
  · exact onFtl_starts s (fun t => { t with exhausted := false })

theorem noteWear_starts : Starts s (noteWear s) := (noteSpares_starts s).trans (noteExhausted_starts _)

theorem startContent_starts : Starts s (startContent s) := by
  unfold startContent
  split
  · exact .refl s
  · extract_lets indexed
    have hindexed : Starts s indexed := ((eraseHalf_starts s).trans (findFlush_starts _)).trans (startIndexes_starts _)
    split
    · exact hindexed.trans (putImage_starts ..)
    · exact hindexed.trans ((startImage_starts _).trans (restartSanitize_starts _))

end

section
variable {s : State}

theorem Starts.die {s t : State} (h : Starts s t) (d : Nat) : t.die d = s.die d := congrArg (fun l => l.getD d Die.reset) h.dies

theorem bankMeasured_none {e : Nat} (h : s.power.holdupMj = e) : bankMeasured none s = measureBank e s := by
  rw [← h]
  rfl

/-- What the bank's measurement is, in terms of the drive as it was before the start. -/
theorem bankMeasured_starts (mj : Option Nat) :
    Starts (onPower (fun p => { p with down := .up, holdupMj := mj.getD p.holdupMj }) s) (bankMeasured mj (startControl s)) := by
  have hcontrol := startControl_starts s
  have hheld : (startControl s).power.holdupMj = s.power.holdupMj := (congrArg (·.power.holdupMj) hcontrol.frame :)
  have hmeasured (e : Nat) : Starts (onPower (fun p => { p with down := .up, holdupMj := e }) s) (measureBank e (startControl s)) := by
    exact (hcontrol.onHoldup e).trans (measureBank_starts _ e)
  cases mj with
  | some e => exact hmeasured e
  | none =>
    rw [bankMeasured_none hheld]
    exact hmeasured s.power.holdupMj

theorem bankMeasured_maint (mj : Option Nat) (h : s.nor.maint = false) : (bankMeasured mj s).nor.maint = false := by
  cases mj with
  | some e => exact (measureBank_starts s e).maint h
  | none => exact (measureBank_starts s s.power.holdupMj).maint h

/-- The dies that a start-up of sound dies marks failed are those that fail their self-test. -/
theorem failDies_of_sound {failed : List Nat} (hsound : ∀ d, d < 5 → (s.die d).state ≠ .failed) :
    failDies failed s = ((List.range 5).filter failed.contains).foldl (fun s d => dieFailed d s) s := by
  have hagain : ((List.range 5).filter fun d => (s.die d).state == .failed || failed.contains d) = (List.range 5).filter failed.contains :=
    List.filter_congr fun d hd => by simp [hsound d (List.mem_range.mp hd)]
  rw [failDies, hagain]

variable (hsound : ∀ d, d < 5 → (s.die d).state ≠ .failed) (mj : Option Nat)
include hsound

theorem bankMeasured_sound {d : Nat} (hd : d < 5) : ((bankMeasured mj (startControl s)).die d).state ≠ .failed := by
  rw [(bankMeasured_starts mj).die]
  exact hsound d hd

/-- A drive of sound dies that passes its self-tests starts: its rails are up, and its bank has the energy measured. -/
theorem coldStart_starts : Starts (onPower (fun p => { p with down := .up, holdupMj := mj.getD p.holdupMj }) s) (coldStart [] mj s) := by
  have hnone : failDies [] (bankMeasured mj (startControl s)) = bankMeasured mj (startControl s) :=
    failDies_of_sound fun d hd => bankMeasured_sound hsound mj hd
  rw [coldStart_eq, hnone]
  exact (bankMeasured_starts mj).trans ((noteWear_starts _).trans (startContent_starts _))

theorem coldStart_maint : (coldStart [] mj s).nor.maint = false := by
  have hnone : failDies [] (bankMeasured mj (startControl s)) = bankMeasured mj (startControl s) :=
    failDies_of_sound fun d hd => bankMeasured_sound hsound mj hd
  rw [coldStart_eq, hnone]
  exact ((noteWear_starts _).trans (startContent_starts _)).maint (bankMeasured_maint mj (startControl_maint s))

/-- A drive whose hub alone fails its self-test is held down. -/
theorem coldStart_hub : (coldStart [0] mj s).power.down = .hubFailed ∧ (coldStart [0] mj s).power.mgmt = false := by
  have hhub : failDies [0] (bankMeasured mj (startControl s)) = dieFailed 0 (bankMeasured mj (startControl s)) :=
    failDies_of_sound fun d hd => bankMeasured_sound hsound mj hd
  rw [coldStart_eq, hhub]
  generalize bankMeasured mj (startControl s) = u
  have hfailed : (dieFailed 0 u).power.down = .hubFailed ∧ (dieFailed 0 u).power.mgmt = false := ⟨rfl, rfl⟩
  have hall := (noteWear_starts (dieFailed 0 u)).trans (startContent_starts _)
  exact ⟨hall.power.trans hfailed.1, (congrArg (·.power.mgmt) hall.frame :).trans hfailed.2⟩

end

/-! ### O53: supply warnings and the return of power -/

section
variable {s : State} {mv : Nat}

/-- A sag is told to the host by vector 0 and an event, and takes the array clock to its floor (R379). -/
theorem sagWarning_effect (hup : s.up = true) (hmv : mv < 10800) : ∃ t, exec (.sagWarning mv) s = .next t ∧
    t.power.supplySag = true ∧ t.power.vinMv = mv ∧ t.power.sagEvents = bump32 s.power.sagEvents ∧
    (∃ l, t.host.msix = s.host.msix ++ 0 :: l) ∧ t.power.powerSteps = modifyAt s.power.powerSteps 0 (fun _ => s.floors.getD 0 0) ∧
    t = { s with host := t.host, power := t.power } := by
  have hexec : exec (.sagWarning mv) s = .next (arrayToFloor (vendorEvent 0xC0 { s with
      host := { s.host with msix := s.host.msix ++ [0] }
      power := { s.power with vinMv := mv, supplySag := true, sagEvents := bump32 s.power.sagEvents } })) :=
    congrArg Host.Outcome.next (if_pos (by simp [hup, hmv]))
  obtain ⟨hframe, hhost⟩ := vendorEvent_reports { s with
    host := { s.host with msix := s.host.msix ++ [0] }
    power := { s.power with vinMv := mv, supplySag := true, sagEvents := bump32 s.power.sagEvents } } 0xC0
  obtain ⟨l, hl⟩ := hhost.msix
  generalize vendorEvent 0xC0 _ = u at hexec hframe hl
  refine ⟨_, hexec, (congrArg (·.power.supplySag) hframe :), (congrArg (·.power.vinMv) hframe :), (congrArg (·.power.sagEvents) hframe :),
    ⟨l, ?_⟩, ?_, ?_⟩
  · exact hl.symm.trans (List.append_assoc ..)
  · have hfloors : u.floors = s.floors := (congrArg State.floors hframe :)
    have hsteps : u.power.powerSteps = s.power.powerSteps := (congrArg (·.power.powerSteps) hframe :)
    refine (congrArg (fun l => modifyAt l 0 fun _ => u.floors.getD 0 0) hsteps).trans ?_
    rw [hfloors]
  · have hrest : u = { s with host := u.host, power := u.power } := by rw [hframe]
    exact congrArg (fun v : State => { v with power := (arrayToFloor u).power }) hrest

section
variable (hdown : s.power.down = .noPower) (hmated : s.power.mated = true) (hdis : s.power.pwrdis = false) (hlow : 11200 < mv)
  (hhigh : mv ≤ 14500)
include hdown hmated hdis hlow hhigh

theorem exec_powerOn (mj : Nat) (failed : List Nat) : exec (.powerOn mv mj failed) s = .next (coldStart failed (some mj) { s with
    host := { s.host with perst := true }
    power := { s.power with vinMv := mv } }) :=
  congrArg Host.Outcome.next (if_pos (by simp [hdown, hmated, hdis, hlow, hhigh]))

end

end

/-- Settles O53: the sag by `sagWarning_effect`, the start-up by `coldStart_starts` and `coldStart_hub`. -/
theorem suppliesWarnAndReturn : Obligations.SuppliesWarnAndReturn := by
  refine ⟨fun s mv hup => ⟨sagWarning_effect hup, fun hmv => ?_, fun hsag hmv => ?_, fun hno => ?_⟩,
    fun s mv => ⟨fun hmv hold => ?_, fun hmv hup hnew => ?_, fun hmv => ?_, fun hmv => ?_, fun hmv => ?_, fun strap hmv => ?_,
      fun strap hmv => ?_⟩,
    fun s mv mj failed hdown hmated hdis hlow hhigh hsound => ⟨fun hnone => ?_, fun hhub => ?_⟩, fun s mv mj failed hno => ?_⟩
  · exact congrArg Host.Outcome.next (if_neg (by simp [hmv]))
  · exact congrArg Host.Outcome.next (if_pos (by simp [hup, hsag, hmv]))
  · refine congrArg Host.Outcome.next (if_neg ?_)
    rcases hno with hno | hno
    · simp [hno]
    · simp [hno]
  · refine congrArg Host.Outcome.next ((if_pos hmv).trans (if_neg ?_))
    rcases hold with hold | hold
    · simp [hold]
    · simp [hold]
  · exact congrArg Host.Outcome.next ((if_pos hmv).trans (if_pos (by simp [hup, hnew])))
  · exact congrArg Host.Outcome.next (if_neg (by omega))
  · exact congrArg Host.Outcome.next (if_pos hmv)
  · exact congrArg Host.Outcome.next (if_neg (by omega))
  · exact congrArg Host.Outcome.next (if_pos hmv)
  · exact congrArg Host.Outcome.next (if_neg (by omega))
  · subst hnone
    have hstart := coldStart_starts (s := { s with host := { s.host with perst := true }, power := { s.power with vinMv := mv } })
      hsound (some mj)
    have hexec := exec_powerOn hdown hmated hdis hlow hhigh mj []
    generalize coldStart [] (some mj) { s with host := { s.host with perst := true }, power := { s.power with vinMv := mv } } = t
      at hstart hexec
    refine ⟨t, hexec, ?_, (congrArg (·.power.vinMv) hstart.frame :),
      (congrArg (·.power.holdupMj) hstart.frame :), hstart.perst, hstart.link, (congrArg (·.bell.tick) hstart.frame :)⟩
    exact beq_iff_eq.mpr hstart.power
  · subst hhub
    obtain ⟨hheld, hmgmt⟩ := coldStart_hub
      (s := { s with host := { s.host with perst := true }, power := { s.power with vinMv := mv } }) hsound (some mj)
    have hexec := exec_powerOn hdown hmated hdis hlow hhigh mj [0]
    generalize coldStart [0] (some mj) { s with host := { s.host with perst := true }, power := { s.power with vinMv := mv } } = t
      at hheld hmgmt hexec
    exact ⟨t, hexec, hheld, hmgmt⟩
  · refine congrArg Host.Outcome.next (if_neg ?_)
    rcases hno with hno | hno | hno | hno | hno
    · simp [hno]
    · simp [hno]
    · simp [hno]
    · simp [hno]
    · simp [hno]

end Sys2Proof.Machine
end

/-! PROOFS of the family 17_power_reset_firmware: resets, enable, link and shutdown (O56). -/

section
namespace Sys2Proof.Machine

/-! ### What the end of the commands and a flush leave alone -/

/-- From one state to another, work has ended and content has been programmed: bell, image, namespaces and dies stay, and the host has only
been told. -/
structure Rests (s t : State) : Prop where
  host : Raises s.host t.host
  bell : t.bell = s.bell
  img : t.img = s.img
  ns : t.ns = s.ns
  dies : t.dies.dies = s.dies.dies

namespace Rests
variable {s t u : State}

theorem refl (s : State) : Rests s s := ⟨.refl _, rfl, rfl, rfl, rfl⟩

theorem trans (h : Rests s t) (k : Rests t u) : Rests s u :=
  ⟨h.host.trans k.host, k.bell.trans h.bell, k.img.trans h.img, k.ns.trans h.ns, k.dies.trans h.dies⟩

theorem foldl {α : Type} {f : State → α → State} (hf : ∀ s a, Rests s (f s a)) (l : List α) (s : State) : Rests s (l.foldl f s) := by
  induction l generalizing s with
  | nil => exact refl s
  | cons a r ih => exact (hf s a).trans (ih _)

/-- A fold over a pair of a value and a state. -/
theorem foldl_pair {α β : Type} {f : β × State → α → β × State} (hf : ∀ p a, Rests p.2 (f p a).2) (l : List α) (p : β × State) :
    Rests p.2 (l.foldl f p).2 := by
  induction l generalizing p with
  | nil => exact refl p.2
  | cons a r ih => exact (hf p a).trans (ih _)

/-- A step that leaves the host interface alone. -/
theorem of_host (hhost : t.host = s.host) (hbell : t.bell = s.bell) (himg : t.img = s.img) (hns : t.ns = s.ns)
    (hdies : t.dies.dies = s.dies.dies) : Rests s t := by
  refine ⟨?_, hbell, himg, hns, hdies⟩
  rw [hhost]
  exact .refl _

theorem of_reports (h : Reports s t) : Rests s t := by
  obtain ⟨hframe, hhost⟩ := h
  exact ⟨hhost, (congrArg State.bell hframe :), (congrArg State.img hframe :), (congrArg State.ns hframe :),
    (congrArg (·.dies.dies) hframe :)⟩

theorem of_sends (h : Sends s t) : Rests s t :=
  of_host (congrArg State.host h :) (congrArg State.bell h :) (congrArg State.img h :) (congrArg State.ns h :)
    (congrArg (·.dies.dies) h :)

theorem of_trains (h : Trains s t) : Rests s t :=
  of_host (congrArg State.host h :) (congrArg State.bell h :) (congrArg State.img h :) (congrArg State.ns h :)
    (congrArg (·.dies.dies) h :)

theorem of_deallocates (h : Deallocates s t) : Rests s t :=
  of_host (congrArg State.host h :) (congrArg State.bell h :) (congrArg State.img h :) (congrArg State.ns h :)
    (congrArg (·.dies.dies) h :)

end Rests

section
variable (s : State)

theorem onFtl_rests (f : FtlSt → FtlSt) : Rests s (onFtl f s) := .of_host rfl rfl rfl rfl rfl

theorem onIdx_rests (f : IdxSt → IdxSt) : Rests s (onIdx f s) := .of_host rfl rfl rfl rfl rfl

theorem onPlain_rests (f : PlainSt → PlainSt) : Rests s (onPlain f s) := .of_host rfl rfl rfl rfl rfl

theorem onNor_rests (f : NorSt → NorSt) : Rests s (onNor f s) := .of_host rfl rfl rfl rfl rfl

theorem free_rests (n : Nat) : Rests s { s with free := n } := .of_host rfl rfl rfl rfl rfl

theorem programJournal_rests : Rests s (programJournal s) := onFtl_rests ..

/-! #### Groups programmed (R318) -/

theorem onCol_rests (sb ch : Nat) (f : Column → Column) : Rests s (onCol sb ch f s) := onFtl_rests ..

theorem norRecord_rests (kind : Nat) (p : Blob) (fs : List Nat) : Rests s (norRecord kind p fs s).2 := .of_host rfl rfl rfl rfl rfl

theorem recordLosses_rests (cause : Nat) (l : List Nat) : Rests s (recordLosses cause l s) := by
  refine .foldl (fun s x => ?_) _ s
  unfold recordRange
  exact (norRecord_rests s ..).trans ((onFtl_rests _ _).trans (.of_reports (vendorEvent_reports ..)))

theorem sendDeltas_rests (recess : Bool) (lsn wc : Nat) (c : Blob) : Rests s (sendDeltas recess lsn wc c s).2 := by
  refine .foldl_pair (fun p a => ?_) (s.parityTargets lsn) (([] : List Nat), s)
  dsimp only
  split
  · exact .of_deallocates (markStale_queuesDeltas p.2 lsn a.2.1).deallocates
  · have hnoted : ∀ l, Rests p.2 { p.2 with plain := { p.2.plain with deltas := l } } := fun _ => .of_host rfl rfl rfl rfl rfl
    split
    · exact hnoted _
    · exact (hnoted _).trans (.of_sends (sendTo_sends ..))

theorem dropPoisoned_rests (us : List BufUnit) : Rests s (dropPoisoned us s).2 := by
  refine .foldl_pair (fun p a => ?_) us (([] : List Nat), s)
  dsimp only
  split
  · exact .of_host rfl rfl rfl rfl rfl
  · split
    · exact .of_host rfl rfl rfl rfl rfl
    · exact .of_host rfl rfl rfl rfl rfl

theorem startGroup_rests (sb g : Nat) (st : Stream) : Rests s (startGroup sb g st s) := by
  unfold startGroup
  extract_lets us
  have hdropped := dropPoisoned_rests s (us.filter fun u => !u.poison.isEmpty)
  generalize dropPoisoned (us.filter fun u => !u.poison.isEmpty) s = a at hdropped ⊢
  obtain ⟨lost, t⟩ := a
  refine (hdropped.trans (recordLosses_rests t 1 lost)).trans (.trans (.foldl (fun s u => ?_) _ _) (onFtl_rests _ _))
  exact (sendDeltas_rests s ..).trans (onFtl_rests _ _)

theorem startAll_rests (sb n : Nat) : Rests s (startAll sb n s) := by
  induction n generalizing s with
  | zero => exact .refl s
  | succ n ih =>
    unfold startAll
    split
    · exact .refl s
    · split
      · exact .trans (t := padGroup _ s) (.of_host rfl rfl rfl rfl rfl) ((startGroup_rests ..).trans (ih _))
      · exact .refl s

theorem commitUnit_rests (u : BufUnit) : Rests s (commitUnit u s) := by
  unfold commitUnit
  extract_lets q t
  split
  · split
    · exact .of_host rfl rfl rfl rfl rfl
    · exact .of_host rfl rfl rfl rfl rfl
  · exact .of_host rfl rfl rfl rfl rfl

theorem finishWrites_rests : Rests s (finishWrites s) := by
  unfold finishWrites
  extract_lets ended
  split
  · have hended (u : State) (l : List WriteWait) : Rests u (l.foldl (fun s w => finish w.hdr stOk s) u) :=
      .foldl (fun s w => .of_reports (finish_reports s w.hdr stOk)) l u
    exact ((onFtl_rests s _).trans (programJournal_rests _)).trans (hended ..)
  · exact .refl s

theorem endGroup_rests (pid : Nat) : Rests s (endGroup pid [] s) := by
  cases h : s.ftl.progs.find? fun p => p.pid == pid with
  | none => rw [endGroup, h]; exact .refl s
  | some g =>
    rw [endGroup_good s pid h]
    exact ((onFtl_rests s _).trans (.foldl (fun s u => commitUnit_rests s u) _ _)).trans ((onFtl_rests _ _).trans (finishWrites_rests _))

theorem endPrograms_rests : Rests s (endPrograms s) := .foldl (fun s _ => endGroup_rests s _) _ s

/-! #### The flush (R382) -/

theorem flushAll_rests : Rests s (flushAll s) := by
  unfold flushAll
  extract_lets +onlyGivenNames ended programmed
  have hended : Rests s ended := endPrograms_rests s
  have hprogrammed : Rests ended programmed := .trans (.foldl (fun s (o : OpenSb) => startAll_rests s o.sb 768) _ _) (endPrograms_rests _)
  clear_value ended programmed
  exact (hended.trans hprogrammed).trans (((onFtl_rests programmed _).trans (programJournal_rests _)).trans (onFtl_rests _ _))

theorem flushPart_rests : Rests s (flushPart s) := by
  unfold flushPart
  extract_lets ended us committed
  have hended : Rests s ended := endPrograms_rests s
  have hcommitted : Rests ended committed := by
    refine .foldl (fun s x => ?_) _ ended
    split
    · exact commitUnit_rests ..
    · exact onCol_rests ..
  clear_value ended committed
  exact (hended.trans hcommitted).trans (((onIdx_rests committed _).trans (free_rests _ _)).trans (onFtl_rests _ _))

theorem optDone_true_rests : Rests s (optDone true s) := by
  unfold optDone
  split
  · exact .refl s
  next op _ =>
    split
    · exact .refl s
    · extract_lets k done ended full said
      have hdone : Rests s done := by
        simp only [done, ↓reduceIte]
        cases op with
        | word w v => exact onNor_rests ..
        | flag w v => exact onNor_rests ..
        | erase k r =>
          cases r with
          | none => exact onNor_rests ..
          | some q => exact (onNor_rests s _).trans (onNor_rests ..)
      have hended : Rests done ended := onNor_rests done _
      have hsaid : Rests ended said := by
        simp only [said, ↓reduceIte]
        exact onNor_rests ended _
      clear_value full said ended done
      exact ((hdone.trans hended).trans hsaid).trans (onNor_rests ..)

theorem flushNor_rests : Rests s (flushNor s) := by
  unfold flushNor
  extract_lets ended
  have hended : Rests s ended := by
    unfold ended
    split
    · exact optDone_true_rests s
    · exact optDone_true_rests s
    · exact .refl s
  clear_value ended
  exact hended.trans (onNor_rests _ _)

theorem flushContent_rests (complete : Bool) : Rests s (flushContent complete s) := by
  unfold flushContent
  refine .trans ?_ (flushNor_rests _)
  split
  · exact flushAll_rests s
  · exact flushPart_rests s

/-! #### The end of the commands (R100, R101) -/

theorem closeJobs_rests (p : JobKind → Bool) : Rests s (closeJobs p s) := .foldl (fun s _ => onFtl_rests s _) _ s

theorem dropQRun_rests (id : Nat) : Rests s (dropQRun id s) := by
  unfold dropQRun
  split
  · exact .refl s
  · extract_lets dropped
    have hdropped : Rests s dropped := .of_host rfl rfl rfl rfl rfl
    split
    · exact hdropped
    · split
      · exact hdropped
      · exact hdropped.trans (.foldl (fun s x => .of_deallocates (unmapSlot_deallocates s x)) _ _)

theorem giveUpStep_rests (t : TStep) (st : Status) : Rests s (giveUpStep t st s) := by
  have told : Rests s (if s.heads t then tellOthers t (.abort t.room t.attempt) s else s) := by
    split
    · exact .of_trains (tellOthers_keepsTraining s t _).frame
    · exact .refl s
  refine told.trans ?_
  unfold giveUpStep endStep
  generalize (if s.heads t then tellOthers t (.abort t.room t.attempt) s else s) = u
  have dropped : Rests u (removeStep t.room (stopAttempt t u)) := .of_trains (removeStep_stopAttempt t u).changes.frame
  have written (v : State) (n o : Nat) (d : Blob) : Rests v (memWrite n o d v) := by
    rw [memWrite_frame]
    exact .of_host rfl rfl rfl rfl rfl
  dsimp only
  split
  · exact dropped
  · split
    · exact (dropped.trans (written ..)).trans (.of_reports (finish_reports ..))
    · exact dropped.trans (written ..)

theorem stopWork_rests (p : Hdr → Bool) : Rests s (stopWork p s) := by
  have queries (s : State) : Rests s (stopQueries p s) :=
    .trans (.foldl (fun s (r : QRun) => dropQRun_rests s r.id) _ s) (.of_host rfl rfl rfl rfl rfl)
  have lessons (s : State) : Rests s (stopLessons p s) := .foldl (fun s r => .of_trains (dropRun_keepsTraining s r).frame) _ s
  have steps (s : State) : Rests s (stopSteps p s) := .foldl (fun s t => giveUpStep_rests s _ stOk) _ s
  have jobs : Rests s (stopJobs p s) := by
    unfold stopJobs
    exact closeJobs_rests s _
  unfold stopWork
  exact (((jobs.trans (queries _)).trans ((lessons _).trans (steps _))).trans (onIdx_rests _ _)).trans (onPlain_rests _ _)

end

/-! ### O56: the Controller Level Reset (R101, R388) -/

/-- What a Controller Level Reset ends, and what it leaves of a drive. -/
structure Restarted (s t : State) : Prop where
  en : t.host.en = false
  rdy : t.host.rdy = false
  sqs : t.host.sqs = []
  cqs : t.host.cqs = []
  outs : t.host.outs = []
  held : t.host.held = []
  aers : t.host.aers = []
  powerState : t.host.powerState = 0
  arb : t.host.arb = (0, 0, 0, 0)
  envelopeW : t.host.envelopeW = s.host.envelopeW
  policy : t.host.policy = s.host.policy
  queryDef : t.host.queryDef = s.host.queryDef
  count : t.bell.count = s.bell.count
  tick : t.bell.tick = s.bell.tick
  active : t.img.active = s.img.active
  ns : t.ns = s.ns
  maint : t.nor.maint = false
  staged : t.fw.staged = Blob.zero 0

section
variable (s : State)

/-- The commands without a command, and what a reset leaves of an Activate, change of the image what is under way alone. -/
theorem resetActivation_frame : resetActivation s = { s with img := { s.img with
    activation := (resetActivation s).img.activation, commit := (resetActivation s).img.commit, staged := (resetActivation s).img.staged } } := by
  unfold resetActivation
  dsimp only
  split
  · split
    · rfl
    · rfl
  · rfl

end

/-- From one state to another, every command has ended: the host has only been told, and the bell, the active image, the namespaces and the
dies stay. -/
structure EndsCommands (s t : State) : Prop where
  host : Raises s.host t.host
  count : t.bell.count = s.bell.count
  tick : t.bell.tick = s.bell.tick
  active : t.img.active = s.img.active
  ns : t.ns = s.ns
  dies : t.dies.dies = s.dies.dies

theorem Rests.endsCommands {s t : State} (h : Rests s t) : EndsCommands s (resetActivation (orphan t)) := by
  rw [resetActivation_frame]
  exact ⟨h.host, (congrArg BellSt.count h.bell :), (congrArg BellSt.tick h.bell :), (congrArg ImgSt.active h.img :), h.ns, h.dies⟩

section
variable (s : State)

theorem controllerReset_restarted :
    Restarted s (controllerReset s) ∧ (controllerReset s).host.link = s.host.link ∧ (controllerReset s).dies.dies = s.dies.dies := by
  unfold controllerReset
  extract_lets +onlyGivenNames stopped closed reset
  have hclosed : Rests s closed := (stopWork_rests s _).trans (closeJobs_rests stopped _)
  clear_value closed
  have hreset : EndsCommands s reset := (hclosed.trans (onFtl_rests closed _)).endsCommands
  clear_value reset
  have hhost := hreset.host.frame
  exact ⟨⟨rfl, rfl, rfl, rfl, rfl, rfl, rfl, rfl, rfl, (congrArg HostSt.envelopeW hhost :), (congrArg HostSt.policy hhost :),
    (congrArg HostSt.queryDef hhost :), hreset.count, hreset.tick, hreset.active, hreset.ns, rfl, rfl⟩, hreset.host.link, hreset.dies⟩

end

/-- The registers, the link and PERST# of the host interface after a reset by a cause (R84, R101). -/
def hostAfter (k : ClrCause) (a : HostSt) : HostSt :=
  match k with
  | .ccEn => a
  | .flr | .hotReset => { a with regs := [] }
  | .linkDown => { a with regs := [], link := false }
  | .perst => { a with regs := [], link := false, perst := true }

theorem hostAfter_frame (k : ClrCause) (a : HostSt) : hostAfter k a =
    { a with regs := (hostAfter k a).regs, link := (hostAfter k a).link, perst := (hostAfter k a).perst } := by
  cases k with
  | ccEn | flr | hotReset | linkDown | perst => rfl

theorem Restarted.hostAfter {s t : State} (h : Restarted s t) (k : ClrCause) : Restarted s (onHost (hostAfter k) t) := by
  unfold onHost
  rw [hostAfter_frame]
  exact ⟨h.en, h.rdy, h.sqs, h.cqs, h.outs, h.held, h.aers, h.powerState, h.arb, h.envelopeW, h.policy, h.queryDef, h.count, h.tick,
    h.active, h.ns, h.maint, h.staged⟩

section
variable {s : State} (hup : s.up = true)
include hup

theorem exec_controllerLevelReset {k : ClrCause} (hk : k = .ccEn → s.host.en = true) :
    exec (.controllerLevelReset k) s = .next (onHost (hostAfter k) (controllerReset s)) := by
  refine congrArg Host.Outcome.next ((if_neg (by simp [hup])).trans ?_)
  generalize controllerReset s = u
  cases k with
  | ccEn => exact if_pos (hk rfl)
  | flr | hotReset | linkDown | perst => rfl

theorem exec_surpriseLinkDown (hlink : s.host.link = true) :
    exec .surpriseLinkDown s = .next (onHost (hostAfter .linkDown) (controllerReset s)) :=
  congrArg Host.Outcome.next (if_pos (by simp [hup, hlink]))

/-- Each cause of a Controller Level Reset restarts the controller, and has its own effect on the link. -/
theorem reset_restarts {c : Instr} (hc : (c = .controllerLevelReset .ccEn ∧ s.host.en = true) ∨
      (∃ k, k ≠ .ccEn ∧ c = .controllerLevelReset k) ∨ (c = .surpriseLinkDown ∧ s.host.link = true)) :
    ∃ t, exec c s = .next t ∧ Restarted s t ∧
      (c = .surpriseLinkDown ∨ c = .controllerLevelReset .linkDown ∨ c = .controllerLevelReset .perst → t.host.link = false) ∧
      (c = .controllerLevelReset .ccEn ∨ c = .controllerLevelReset .flr ∨ c = .controllerLevelReset .hotReset →
        t.host.link = s.host.link) ∧
      (c = .controllerLevelReset .perst → t.host.perst = true) := by
  obtain ⟨hrestarted, hlink, -⟩ := controllerReset_restarted s
  have byCause (k : ClrCause) (hk : k = .ccEn → s.host.en = true) := exec_controllerLevelReset hup hk
  have byLink (h : s.host.link = true) := exec_surpriseLinkDown hup h
  generalize controllerReset s = u at hrestarted hlink byCause byLink
  obtain ⟨rfl, hen⟩ | ⟨k, hk, rfl⟩ | ⟨rfl, hup'⟩ := hc
  · exact ⟨_, byCause .ccEn fun _ => hen, hrestarted.hostAfter _, by simp, fun _ => hlink, by simp⟩
  · refine ⟨_, byCause k fun h => absurd h hk, hrestarted.hostAfter _, ?_⟩
    cases k with
    | ccEn => exact absurd rfl hk
    | flr | hotReset => exact ⟨by simp, fun _ => hlink, by simp⟩
    | linkDown => exact ⟨fun _ => rfl, by simp, by simp⟩
    | perst => exact ⟨fun _ => rfl, by simp, fun _ => rfl⟩
  · exact ⟨_, byLink hup', hrestarted.hostAfter _, fun _ => rfl, by simp, by simp⟩

end

/-! ### O56: the NVM Subsystem Reset (R388) -/

/-- A die that has not failed starts without having failed. -/
theorem coldDie_sound (cycle : Bool) {d : Die} (h : d.state ≠ .failed) : (coldDie cycle d).state ≠ .failed := by
  have hstart : (if d.degradedSpares then DieState.degraded else .running) ≠ .failed := by
    split
    · decide
    · decide
  unfold coldDie
  dsimp only
  split
  · exact hstart
  · rw [if_neg (by simpa using h)]
    exact hstart

section
variable {s : State}

theorem cut_dies : (cutFirmware (cutResident s)).dies = s.dies := by
  have firmware (s : State) : (cutFirmware s).dies = s.dies := by
    unfold cutFirmware
    split
    · rfl
    · rfl
  rw [firmware]
  unfold cutResident
  split
  · rfl
  · dsimp only
    split
    · rfl
    · rfl

theorem wholeReset_sound (cycle : Bool) {d : Nat} (h : (s.die d).state ≠ .failed) : ((wholeReset cycle s).die d).state ≠ .failed := by
  have hdies : (wholeReset cycle s).dies.dies = s.dies.dies.map (coldDie cycle) := congrArg (fun x : DieSt => x.dies.map (coldDie cycle)) cut_dies
  unfold State.die at h ⊢
  rw [hdies, List.getD_eq_getElem?_getD, List.getElem?_map]
  rw [List.getD_eq_getElem?_getD] at h
  cases hd : s.dies.dies[d]? with
  | none => exact DieState.noConfusion
  | some x =>
    rw [hd] at h
    exact coldDie_sound cycle h

/-- A restart of a cleared drive of sound dies leaves it cleared and running. -/
theorem restart_cleared (hsound : ∀ d, d < 5 → (s.die d).state ≠ .failed) (hcleared : s.cleared) :
    (coldStart [] none s).up = true ∧ (coldStart [] none s).host.link = false ∧ (coldStart [] none s).host.en = false ∧
      (coldStart [] none s).host.sqs = [] ∧ (coldStart [] none s).host.outs = [] ∧ (coldStart [] none s).host.held = [] ∧
      (coldStart [] none s).bell.count = 0 ∧ (coldStart [] none s).bell.tick = 0 ∧ (coldStart [] none s).bell.mode = .freeRunning ∧
      (coldStart [] none s).sched.lessons = [] ∧ (coldStart [] none s).sched.runs = [] ∧ (coldStart [] none s).plain.own = .standalone ∧
      (coldStart [] none s).nor.maint = false := by
  have hstart := coldStart_starts hsound none
  have hmaint := coldStart_maint hsound none
  generalize coldStart [] none s = t at hstart hmaint ⊢
  obtain ⟨hlink, hen, -, hsqs, -, houts, hheld, -, hcount, htick, hmode, -, -, -, -, hlessons, hruns, -, -, -, -, -, -, hown, -⟩ := hcleared
  refine ⟨beq_iff_eq.mpr hstart.power, hstart.link.trans hlink, hstart.en.trans hen, ?_, ?_, hstart.held.trans hheld,
    (congrArg (·.bell.count) hstart.frame :).trans hcount, (congrArg (·.bell.tick) hstart.frame :).trans htick,
    (congrArg (·.bell.mode) hstart.frame :).trans hmode, (congrArg (·.sched.lessons) hstart.frame :).trans hlessons,
    (congrArg (·.sched.runs) hstart.frame :).trans hruns, (congrArg (·.plain.own) hstart.frame :).trans hown, hmaint⟩
  · exact List.subset_nil.mp (hsqs ▸ hstart.sqs)
  · exact List.subset_nil.mp (houts ▸ hstart.outs)

end

section
variable {s : State}

/-- The content programmed and every die reset leave the drive cleared, and its dies as sound as they were. -/
theorem subsystemReset_cleared (complete : Bool) : (wholeReset false (flushContent complete (controllerReset s))).cleared ∧
    ∀ d, (s.die d).state ≠ .failed → ((wholeReset false (flushContent complete (controllerReset s))).die d).state ≠ .failed := by
  obtain ⟨-, -, hdies⟩ := controllerReset_restarted s
  generalize controllerReset s = u at hdies ⊢
  have hflushed : (flushContent complete u).dies.dies = s.dies.dies := (flushContent_rests u complete).dies.trans hdies
  have hmaint := flushContent_maint u complete
  generalize flushContent complete u = v at hflushed hmaint ⊢
  refine ⟨wholeReset_cleared v false hmaint, fun d hd => wholeReset_sound false ?_⟩
  unfold State.die at hd ⊢
  rw [hflushed]
  exact hd

theorem exec_nvmSubsystemReset {mi : Bool} {v : BitVec 32} (f : FlushCost) (hup : s.up = true)
    (hkey : (if mi then s.power.mgmt else s.host.link && v == 0x4E564D65#32) = true) : exec (.nvmSubsystemReset mi v f) s =
      .next (coldStart [] none (wholeReset false (flushContent f.complete (controllerReset s)))) := by
  refine congrArg Host.Outcome.next (if_pos ?_)
  rw [hup]
  exact hkey

/-- An NVM Subsystem Reset that is not asked for properly does nothing. -/
theorem exec_nvmSubsystemReset_refused {mi : Bool} {v : BitVec 32} (f : FlushCost)
    (h : s.up = false ∨ (if mi then s.power.mgmt else s.host.link && v == 0x4E564D65#32) = false) :
    exec (.nvmSubsystemReset mi v f) s = .next s := by
  refine congrArg Host.Outcome.next (if_neg ?_)
  rcases h with h | h
  · rw [h]
    exact Bool.false_ne_true
  · exact fun hboth => Bool.false_ne_true (h.symm.trans (Bool.and_eq_true_iff.mp hboth).2)

/-! ### O56: the shutdown (R87, R390) -/

section
variable (hserving : s.serving = true)
include hserving

theorem exec_shutdownNormal (hshst : s.host.shst = 0) :
    exec .shutdownNormal s = .next (tryShutdown { s with host := { s.host with shst := 1 } }) :=
  congrArg Host.Outcome.next (if_pos (by simp [hserving, hshst]))

theorem exec_shutdownAbrupt (f : FlushCost) : exec (.shutdownAbrupt f) s =
    .next (onHost (fun t => { t with shst := 2 }) (if f.complete then flushAll s else endPrograms s)) :=
  congrArg Host.Outcome.next (if_pos hserving)

end

/-- A shutdown without a command outstanding ends with content programmed and the flush mark (R390). -/
theorem tryShutdown_idle (hshst : s.host.shst = 1) (hheld : s.host.held = []) (houts : s.host.outs = []) :
    tryShutdown s = onHost (fun t => { t with shst := 2 }) (flushAll s) := if_pos (by simp [hshst, hheld, houts])

/-- A shutdown waits for a command outstanding on an I/O queue. -/
theorem tryShutdown_busy {o : Out} (ho : o ∈ s.host.outs) (hsq : o.sq ≠ 0) : tryShutdown s = s := by
  refine if_neg fun hdone => ?_
  have hadmin := List.all_eq_true.mp (Bool.and_eq_true_iff.mp hdone).2 o ho
  exact hsq (by simpa using (Bool.and_eq_true_iff.mp hadmin).1)

theorem flushAll_flushMark : (flushAll s).ftl.flushMark = true := rfl

end

/-- Settles O56: the resets by `controllerReset_restarted` and `restart_cleared`, the shutdowns by what a flush leaves. -/
theorem resetsAndShutdownsLeaveWhatTheyKeep : Obligations.ResetsAndShutdownsLeaveWhatTheyKeep := by
  refine ⟨fun s mi v f => ⟨fun hup hkey hsound => ?_, exec_nvmSubsystemReset_refused f⟩, fun s => ⟨fun hup hlink hperst => ?_, fun h => ?_⟩,
    fun s c hup hc => ?_, fun s => ⟨fun hen => ?_, fun hlink => ?_⟩, fun s g w => rfl,
    fun s hserving => ⟨fun hshst hheld houts => ?_, fun o hshst ho hsq => ?_, fun hshst => ?_, fun f => ?_⟩,
    fun s hidle => ⟨?_, fun f => ?_⟩⟩
  · obtain ⟨hcleared, hdies⟩ := subsystemReset_cleared (s := s) f.complete
    exact ⟨_, exec_nvmSubsystemReset f hup hkey, restart_cleared (fun d hd => hdies d (hsound d hd)) hcleared⟩
  · exact congrArg Host.Outcome.next (if_pos (by simp [hup, hlink, hperst]))
  · refine congrArg Host.Outcome.next (if_neg ?_)
    rcases h with h | h | h
    · simp [h]
    · simp [h]
    · simp [h]
  · obtain ⟨t, hexec, hr, hlink⟩ := reset_restarts hup hc
    exact ⟨t, hexec, hr.en, hr.rdy, hr.sqs, hr.cqs, hr.outs, hr.held, hr.aers, hr.powerState, hr.arb, hr.envelopeW, hr.policy, hr.queryDef,
      hr.count, hr.tick, hr.active, hr.ns, hr.maint, hr.staged, hlink⟩
  · refine congrArg Host.Outcome.next ?_
    cases hup : s.up with
    | false => exact if_pos (by simp)
    | true => exact (if_neg (by simp)).trans (if_neg (by simp [hen]))
  · exact congrArg Host.Outcome.next (if_neg (by simp [hlink]))
  · refine ⟨_, (exec_shutdownNormal hserving hshst).trans (congrArg Host.Outcome.next (tryShutdown_idle rfl hheld houts)), rfl, flushAll_flushMark,
      congrArg BellSt.tick (flushAll_rests _).bell⟩
  · exact (exec_shutdownNormal hserving hshst).trans (congrArg Host.Outcome.next (tryShutdown_busy ho hsq))
  · exact congrArg Host.Outcome.next (if_neg (by simp [hshst]))
  · refine ⟨_, exec_shutdownAbrupt hserving f, rfl, fun hcomplete => ?_⟩
    rw [if_pos hcomplete]
    exact flushAll_flushMark
  · exact congrArg Host.Outcome.next (if_neg (by simp [hidle]))
  · exact congrArg Host.Outcome.next (if_neg (by simp [hidle]))

end Sys2Proof.Machine
end
